-- ==== Sys2Proof/Word.lean ====
section
/-! DEFINITION. The word types of the device and their plainest arithmetic (01 R23). -/

namespace Sys2Proof

/-- A 64-bit register, counter or payload word. -/
abbrev Word := BitVec 64

/-- One byte of device memory. -/
abbrev Byte := BitVec 8

/-- A 32-bit value: an FP32 pattern, a peg, an accumulator word. -/
abbrev W32 := BitVec 32

/-- Bits `[hi:lo]` of a value, as a natural number (the manual's field notation). -/
def field {w : Nat} (x : BitVec w) (hi lo : Nat) : Nat :=
  (x.toNat >>> lo) % 2 ^ (hi + 1 - lo)

/-- Bit `i` of a value. -/
def bit {w : Nat} (x : BitVec w) (i : Nat) : Bool := x.getLsbD i

/-- 1 for true, 0 for false. -/
def b2n (b : Bool) : Nat := if b then 1 else 0

/-- A counter of `w` bits that saturates at its largest value (01 R23). -/
def satAdd {w : Nat} (c : BitVec w) (k : Nat) : BitVec w :=
  BitVec.ofNat w (min (c.toNat + k) (2 ^ w - 1))

/-- The signed value of the low `w` bits of a natural number. -/
def signed (w x : Nat) : Int :=
  let y := x % 2 ^ w
  if y < 2 ^ (w - 1) then (y : Int) else (y : Int) - (2 ^ w : Nat)

/-- The natural number below `2 ^ w` congruent to an integer. -/
def wrapNat (w : Nat) (i : Int) : Nat := (i % ((2 ^ w : Nat) : Int)).toNat

end Sys2Proof
end

