-- ==== Sys2Proof/Config.lean ====
section
/-! DEFINITION. What the manual leaves to the implementation or to chance: free values. None has a body, so no proof can see one.
Log entries 4, 15, 16 and 17 list them. -/

namespace Sys2Proof

/-- Physical upsets of one tick (log entry 4): locations that become uncorrectable, and corrected errors and
conflicts that only count. -/
structure Upset where
  /-- Store or scratch words (address div 8) that become uncorrectable (07 R154). -/
  words : List Nat
  /-- HBM lines (address div 64) that become uncorrectable (07 R161). -/
  lines : List Nat
  /-- Logical thalli in which a store or scratch word was corrected (07 R154). -/
  storeCorr : List Nat
  /-- (thallus, engine) pairs in which an accumulator word was corrected (04 R94). -/
  accCorr : List (Nat × Nat)
  /-- Logical thalli in which a bank refused a request (07 T7-4). -/
  conflicts : List Nat
  /-- HBM stacks with a corrected error (07 R161). -/
  hbmCorr : List Nat
  /-- HBM stacks with a retried parity error (07 R161). -/
  hbmRetry : List Nat
deriving DecidableEq, Repr, Inhabited

/-- The physical upsets of tick `k`. FREE VALUE. -/
opaque Config.upsets : Nat → Upset

/-- The firmware's FP64 log10 routine (05 R117: "the firmware's log10 routine"). FREE VALUE per operand. -/
opaque Config.log10Fw : BitVec 64 → BitVec 64

/-- Draw `k` of the free-running shadow generator of engine `e` (05 R114). FREE VALUE. -/
opaque Config.shadowDraw : Nat → Nat → Bool

/-- Which core of the mask converts block `b` of an UPD (06 R141: the division is not stated). FREE VALUE. -/
opaque Config.updCore : Nat → Nat → Nat

/-- Entry address and g1 of the optimiser routine (06 R141, 08 R168: the firmware image's own). FREE VALUE. -/
opaque Config.updEntry : Nat
opaque Config.updArg : Nat

/-- Word `i` of an activation slot after a failed load (04 R389: "unspecified values"). FREE VALUE. -/
opaque Config.actGarbage : Nat → Nat → BitVec 32

/-- The value of the nonce number `k` (16 R342). FREE VALUE. -/
opaque Config.nonce : Nat → BitVec 256

/-- AES-256 key unwrap of the vault array under the key-wrapping key (16 R332, R333), 0 where it fails. FREE VALUE. -/
opaque Config.unwrapKey : BitVec 256 → Nat → Nat

/-- An RSASSA-PSS signature of a digest under the key in the RSA engine (16 R333); the salt is random. FREE VALUE. -/
opaque Config.sign : Nat → BitVec 256 → Nat → BitVec 3072

/-- The flash image after a reset or a loss of power while it was programmed (16 R330: "unspecified"). FREE VALUE. -/
opaque Config.flashAfterCut : Nat → List Byte

/-- Which of reasons 1, 2, 7 and 8 a boot finds after a cut in programming (16 R330). FREE VALUE. -/
opaque Config.cutReason : Nat → Nat

/-- Whether the flash answers when firmware reads its image (16 R331). FREE VALUE. -/
opaque Config.flashAnswers : Nat → Bool

/-- What the host link trained to: speed, width and FLIT mode as PCI.LINK holds them (14 T14-5). FREE VALUE. -/
opaque Config.hostLink : Nat → BitVec 9

/-- The servo's adjustment after a kept sample (13 R277: "drives the follower's servo"; the law is not stated). FREE VALUE. -/
opaque Config.servoAdj : Nat → Int → BitVec 32

/-- The estimated core-rail power of an activity vector under a calibration (15 R317: the estimator is not stated). FREE VALUE. -/
opaque Config.powerEstimate : List Nat → Nat → Nat

/-- The gate of field 0 to 3, or of the link bridges (4), at a voltage step under a ceiling of the load in units of 10 mW (15 R317: how
a ceiling becomes tokens is not stated). FREE VALUE. -/
opaque Config.gateTokens : Nat → Nat → Nat → Nat

/-- The load that the shaper predicts when the voltage step changes from one to another at a load, in units of 10 mW (15 R313: the
prediction is not stated). FREE VALUE. -/
opaque Config.stepLoad : Nat → Nat → Nat → Nat

/-- The device's load at idle, in units of 10 mW (15 R320, R321: its value is not stated). FREE VALUE. -/
opaque Config.idleLoad : Nat

/-- The fused load of a link retrain, in W (15 R317: its value is not stated). FREE VALUE. -/
opaque Config.retrainLoad : Nat

/-- Whether REFCLK has returned when PERST_N rises after its loss (19 R382: no command tells it). FREE VALUE. -/
opaque Config.refclkBack : Nat → Bool

/-- The ballast, in W, that so many idle fronds can add at a voltage step (15 R318, R319: not stated). FREE VALUE. -/
opaque Config.ballastMax : Nat → Nat → Nat

/-- The octets whose digest is measurement 3 or 4 (16 T16-5 gives what they cover, not their order and widths). FREE VALUE. -/
opaque Config.measured : Nat → List Nat → List Byte

/-- Body `k` of kind `kind` that an outside standard lays out: 1 configuration space, 2 SPDM DIGESTS (14 R282, 16 R334). FREE VALUE. -/
opaque Config.standardBody : Nat → Nat → List Byte

/-- A PLDM answer to a command of a type, over the values that it reports (16 R338 gives the sensors, PLDM their layout). FREE VALUE. -/
opaque Config.pldmBody : Nat → Nat → List Nat → List Byte

/-- What a signed SPDM answer signs, by its kind and its parts: the transcript that the standard lays out. FREE VALUE. -/
opaque Config.transcript : Nat → List Nat → BitVec 256

/-- The boundary register's bits for the levels of the low-speed signals (16 R339: its order and length are not given). FREE VALUE. -/
opaque Config.boundaryBits : List Bool → Nat

/-- What the scan chains shift out (16 T16-6: their layout is not given). FREE VALUE. -/
opaque Config.scanOut : Nat → Nat → Nat

/-- DBG.NONCE while no nonce is readable (16 R342). FREE VALUE. -/
opaque Config.noNonce : Nat → BitVec 256

/-- A register of the puppeteer core when it halts: 0 to 63 general, 64 pc, 65 status (16 T16-9). FREE VALUE. -/
opaque Config.pupReg : Nat → Nat → Word

/-- Whether a frond that holds one pass has read its last step when another is dispatched (03 R62: a matter of time). FREE VALUE. -/
opaque Config.streamed : Nat → Nat → Bool

/-- Whether a frond fault strikes the capture of the earlier of the two passes in a frond, or the pass that streams (03 R62, 04 R93). FREE
VALUE. -/
opaque Config.faultsEarlier : Nat → Bool

/-- How much of a tile, row or element, a pass wrote before a device fault ended it (04 R94, R389: "part of"). FREE VALUE. -/
opaque Config.part : Nat → Nat

/-- What a reader that no rule stops finds in place of a byte of an uncorrectable location (07 R154, R161: "returns no data"): by draw
and address. FREE VALUE. -/
opaque Config.noData : Nat → Nat → Byte

/-- Whether a byte of a DMA copy whose ranges overlap takes the old value of its source byte (07 R158). FREE VALUE. -/
opaque Config.dmaOld : Nat → Nat → Bool

/-! ## Values of marionette instructions that 08 does not state (log entry 20) -/

/-- A 64-bit or element shift by the element width or more: operation (0 left, 1 logical right, 2 arithmetic right), width,
value, count. FREE VALUE. -/
opaque Config.shiftOver : Nat → Nat → Nat → Nat → Nat

/-- MULH where an operand has its top bit set (08 T8-3 does not say signed or unsigned). FREE VALUE. -/
opaque Config.mulhHigh : Word → Word → Word

/-- The bits above a narrow result in a 64-bit general register: width and result. FREE VALUE. -/
opaque Config.high : Nat → Nat → Nat

/-- The comparison of VCMP: the instruction word and the two elements (08 T8-3 names no relation). FREE VALUE. -/
opaque Config.vcmp : Word → Nat → Nat → Bool

/-- The lane that VMOVG and VMOVV name: the instruction word and g[gx]. FREE VALUE. -/
opaque Config.lane : Word → Word → Nat

/-- The source predicates of PAND, POR, PNOT and PCNT: the instruction word, and which source. FREE VALUE. -/
opaque Config.predSrc : Word → Nat → Nat

/-- An element of VPERM whose index is beyond the last lane. FREE VALUE. -/
opaque Config.permOver : Nat → Nat → Nat

end Sys2Proof
end

