-- ==== Sys2Proof/Syntax.lean ====
section
/-! DEFINITION. The commands of the block: one constructor of `Instr` per row of spec/opcode_table.json, and the operand
structures they carry. Conventions (log entry 7): `n` logical thallus, `m` engine, `f` frond or field, `s` stream, `c` core,
`l` link, `k` a position in a list that the device keeps; `w`, `w0`, … the words of the instruction as it was fetched. -/

namespace Sys2Proof

/-- A pass word, four 64-bit words, word 0 first (04 R73). -/
structure PassWord where
  w0 : Word
  w1 : Word
  w2 : Word
  w3 : Word
deriving DecidableEq, Repr, Inhabited

/-- Who makes a register access (18 R367: the rules bind the host, peers and the debug port). -/
inductive Who where
  /-- The host or a peer, with its requester ID. -/
  | host (id : BitVec 16)
  /-- The debug port (requester ID 0). -/
  | debug
deriving DecidableEq, Repr, Inhabited

/-- The kind of an announcement (09 R201). -/
inductive AnnKind where
  | present | none | poisoned | excluded
deriving DecidableEq, Repr, Inhabited

/-- What a seal starts (09 R203), or the failed seal of a digest mismatch (09 R195). -/
inductive Attempt where
  | direct | ring | failed
deriving DecidableEq, Repr, Inhabited

/-- The summary of a bucket or of a shard's part of it (09 T9-6); `bitmapCrc` and later fields only in FINAL. -/
structure Summary where
  nNan : Nat
  nInf : Nat
  count : Nat
  nPresent : Nat
  nDropped : Nat
  /-- Lowest fabric identifier that contributed a non-finite value. -/
  nfDev : Option Nat
  ringUsed : Bool
  escalated : Bool
  warm : Bool
  empty : Bool
  ovf : Bool
  failed : Bool
  eUsed : Int
  step : Nat
  bucket : Nat
  bitmapCrc : Nat
  firstDrop : Option Nat
deriving DecidableEq, Repr, Inhabited

/-- Payload of a reduction message (09 T9-4, R207). -/
inductive RedBody where
  | announce (kind : AnnKind) (count : Nat) (digest : Nat)
  | seal (total : Nat) (att : Attempt) (part parts members : Nat) (bits : List Bool)
  | grant (shard window : Nat)
  | data (offset shard window : Nat) (vals : List W32)
  | dataEnd (shard window sent : Nat)
  | ring (offset : Nat) (vals : List W32)
  | esc
  | result (offset : Nat) (vals : List W32)
  | shardSum (shard : Nat) (sum : Summary)
  | final (sum : Summary)
  | record (first : Nat) (down : Bool) (blocks : List (List Word))
deriving DecidableEq, Repr, Inhabited

/-- Body of a ScavenLink transaction (13 T13-5). -/
inductive TxnBody where
  | write (addr : Nat) (bytes : List Byte)
  | writeFin (rpeg rthl : Nat)
  | red (tag : Word) (body : RedBody)
  | commit (w0 w1 : Word)
  | ack (tids : List Nat)
  | nack (tid : Nat) (reason : Nat)
deriving DecidableEq, Repr, Inhabited

/-- A ScavenLink transaction (13 T13-4). `tid` is `first-hop link * 256 + slot`. -/
structure Txn where
  dst : Nat
  src : Nat
  tid : Nat
  body : TxnBody
deriving DecidableEq, Repr, Inhabited

/-- One 16-byte slot of a flit (13 R262): the header of a transaction, one of its payload slots, or unused (log entry 18). -/
inductive Slot where
  | empty
  | head (t : Txn)
  | body
deriving DecidableEq, Repr, Inhabited

/-- A flit header (13 T13-2) with its payload slots. -/
structure Flit where
  seq : Nat
  ackSeq : Nat
  ackValid : Bool
  nak : Bool
  crVc : Nat
  crSlots : Nat
  crVc2 : Nat
  crSlots2 : Nat
  lanes : BitVec 8
  first : Nat
  slots : List Slot
deriving DecidableEq, Repr, Inhabited

/-- How a flit arrived (13 R262): the positions, among its 256 bytes on the wire, of the bytes received in error, and whether the
CRC-32C held after correction. -/
structure Fec where
  errs : List Nat
  crcOk : Bool
deriving DecidableEq, Repr, Inhabited

/-- What a time flit carries beside the common header (13 R276, R277): the sender's best root, and the stamps of the
exchange in 1/64 ns: a request, or a reply with the stamps that the neighbour took. -/
structure TimeInfo where
  root : Nat
  ppsLocked : Bool
  prio : Nat
  hops : Nat
  /-- Correction of the stamp that is taken here, by lane deskew and calibrated asymmetry, 1/64 ns. -/
  corr : Int
  /-- For a reply: t2 and t3 of the neighbour, 1/64 ns. -/
  reply : Option (Int × Int)
  /-- A request: the receiver must reply. -/
  request : Bool
deriving DecidableEq, Repr, Inhabited

/-- What a link-control flit tells (13 R266). -/
inductive LinkCtl where
  | willing (w : Bool)
  | disable
deriving DecidableEq, Repr, Inhabited

/-- What scrubbing finds in a line (07 R162). -/
inductive ScrubResult where
  | clean | corrected | uncorrectable
deriving DecidableEq, Repr, Inhabited

/-- A kind of health-map entry (17 T17-3). -/
structure HmapEntry where
  kind : Nat
  unit : Nat
  sub : Nat
  row : Nat
  origin : Nat
  reason : Nat
  excluded : Bool
  step : Nat
  time : Nat
deriving DecidableEq, Repr, Inhabited

/-- A failure that a start-up self-test group finds (17 T17-2). Units are physical. -/
inductive TestFail where
  /-- One or more failed physical rows of a frond (row 32 is the spare). -/
  | rows (thallus eng frond : Nat) (rows : List Nat)
  /-- A failed column, feeder or drain path of a frond. -/
  | frondOther (thallus eng frond : Nat)
  /-- Engine logic, core, sequencer, DMA, peg file, or a memory beyond repair (`mem`). -/
  | thallus (thallus : Nat) (mem : Bool)
  /-- Failing columns of a memory of a thallus: store bank 0 to 63, or 64 + `m` for engine `m`'s accumulator memory (17 R351). -/
  | columns (thallus bank count : Nat)
  /-- Reduction unit, statistics merger or stitch bridge port. -/
  | fieldUnit (field : Nat)
  /-- An HBM stack: PHY training, or lanes beyond the spares. -/
  | stack (stack : Nat)
  /-- Failing rows of an HBM stack (17 T17-2). -/
  | stackRows (stack count : Nat)
  /-- Lanes of a link that fail loopback. -/
  | lanes (link : Nat) (lanes : BitVec 8)
  /-- A link's own logic. -/
  | link (link : Nat)
deriving DecidableEq, Repr, Inhabited

/-- A failure that an in-operation slice finds in its engine (17 R362). -/
inductive SliceFail where
  | row (frond row : Nat)
  | spare (frond : Nat)
  | frondOther (frond : Nat)
  | engine
deriving DecidableEq, Repr, Inhabited

/-- The transports of the SPDM responder (16 R334). -/
inductive Transport where
  | doe | mctp
deriving DecidableEq, Repr, Inhabited

/-- The result of a PTM dialog (14 R298). -/
structure PtmResult where
  local_ : Word
  master : Word
  delay : Nat
deriving DecidableEq, Repr, Inhabited

/-- What the shaper measures at an update (15 R317): per-field activity, and the demand in W without gates. -/
structure Measure where
  activity : List Nat
  demand : Nat
deriving DecidableEq, Repr, Inhabited

/-- A PCI Express configuration request (14 R282, R296): the register it names, and a write's value. -/
inductive CfgReq where
  | read (offset : Nat)
  /-- A write of the command register's Bus Master Enable. -/
  | busMaster (on : Bool)
  /-- A write of the PTM enable. -/
  | ptm (on : Bool)
  /-- A write of the Resizable BAR size, as the log2 of bytes. -/
  | bar2Size (log2 : Nat)
  /-- A write of MSI-X Enable and Function Mask. -/
  | msixCtl (enable mask : Bool)
  /-- Any other write. -/
  | other (offset : Nat) (value : W32)
deriving DecidableEq, Repr, Inhabited

/-- One constructor per row of spec/opcode_table.json. -/
inductive Instr where
  -- Streams (06)
  | stepStart
  | issue (n s : Nat) (w0 : Word) (pw : PassWord)
  | pegwait (n s : Nat) (w : Word)
  | pegwaitTimeout (n s : Nat)
  | pegPostEv (n p : Nat) (amount : W32) (agent : Nat)
  | pegpost (n s : Nat) (w : Word)
  | pegpostFenceDone (n s : Nat)
  | dma (n s : Nat) (w0 w1 : Word)
  | bopen (n s : Nat) (w : Word)
  | bcontrib (n s : Nat) (w0 w1 w2 : Word)
  | markEndOfForward (n s : Nat) (w0 w1 : Word)
  | endOfForwardLossCheck (n : Nat)
  | forwardBarrierOpen
  | markEnd (n s : Nat) (w0 w1 : Word)
  | markTrace (n s : Nat) (w0 w1 : Word)
  | epoch (n s : Nat) (w : Word)
  | upd (n s : Nat) (w0 w1 : Word)
  | updComplete (n k : Nat)
  | mrun (n s : Nat) (w0 w1 : Word)
  | mrunComplete (n k : Nat)
  | lset (n s : Nat) (w0 w1 : Word)
  | brung (n s : Nat) (w0 w1 w2 : Word)
  | jump (n s : Nat) (w : Word)
  | streamResume (n s : Nat) (who : Who)
  | streamResumeSkip (n s : Nat) (who : Who)
  -- Engines and output path (03, 04, 05)
  | passDispatch (n m : Nat)
  | passDrainComplete (n m f : Nat)
  | outputPathTile (n m : Nat)
  | passComplete (n m : Nat)
  | shadowCompare (n m : Nat)
  | statsRecordMerge (n m : Nat)
  | frondFault (n m f : Nat)
  | drainParityError (n m f : Nat)
  | accMemUncorrectable (n m k : Nat)
  | engPreemptSet (n m : Nat)
  | engPreemptClear (n m : Nat)
  | actLoadStart (n m : Nat) (data : Word) (who : Who)
  | actLoadDone (n m : Nat)
  -- Governor (05) and record exchange (09 R217)
  | governorRun
  | recordUp (tag : Word) (first : Nat) (blocks : List (List Word))
  | recordDown (tag : Word) (first : Nat) (blocks : List (List Word))
  -- DMA and scrub (07)
  | dmaDescriptorStart (n ch : Nat)
  | dmaComplete (n ch : Nat)
  | hbmScrubLine (addr : Nat) (r : ScrubResult)
  -- Marionette cores (08)
  | add (n c : Nat) (w : Word)
  | sub (n c : Nat) (w : Word)
  | mul (n c : Nat) (w : Word)
  | mulh (n c : Nat) (w : Word)
  | div (n c : Nat) (w : Word)
  | divu (n c : Nat) (w : Word)
  | rem (n c : Nat) (w : Word)
  | and (n c : Nat) (w : Word)
  | or (n c : Nat) (w : Word)
  | xor (n c : Nat) (w : Word)
  | shl (n c : Nat) (w : Word)
  | shr (n c : Nat) (w : Word)
  | sra (n c : Nat) (w : Word)
  | slt (n c : Nat) (w : Word)
  | sltu (n c : Nat) (w : Word)
  | addi (n c : Nat) (w : Word)
  | andi (n c : Nat) (w : Word)
  | ori (n c : Nat) (w : Word)
  | lui (n c : Nat) (w : Word)
  | fadd (n c : Nat) (w : Word)
  | fsub (n c : Nat) (w : Word)
  | fmul (n c : Nat) (w : Word)
  | fdiv (n c : Nat) (w : Word)
  | fsqrt (n c : Nat) (w : Word)
  | fmin (n c : Nat) (w : Word)
  | fmax (n c : Nat) (w : Word)
  | beq (n c : Nat) (w : Word)
  | bne (n c : Nat) (w : Word)
  | blt (n c : Nat) (w : Word)
  | bge (n c : Nat) (w : Word)
  | bltu (n c : Nat) (w : Word)
  | bgeu (n c : Nat) (w : Word)
  | jal (n c : Nat) (w : Word)
  | jalr (n c : Nat) (w : Word)
  | ld (n c : Nat) (w : Word)
  | st (n c : Nat) (w : Word)
  | vld (n c : Nat) (w : Word)
  | vst (n c : Nat) (w : Word)
  | pld (n c : Nat) (w : Word)
  | pst (n c : Nat) (w : Word)
  | vadd (n c : Nat) (w : Word)
  | vsub (n c : Nat) (w : Word)
  | vmul (n c : Nat) (w : Word)
  | vdiv (n c : Nat) (w : Word)
  | vsqrt (n c : Nat) (w : Word)
  | vmin (n c : Nat) (w : Word)
  | vmax (n c : Nat) (w : Word)
  | vabs (n c : Nat) (w : Word)
  | vand (n c : Nat) (w : Word)
  | vor (n c : Nat) (w : Word)
  | vxor (n c : Nat) (w : Word)
  | vshl (n c : Nat) (w : Word)
  | vshr (n c : Nat) (w : Word)
  | vcmp (n c : Nat) (w : Word)
  | vsel (n c : Nat) (w : Word)
  | vperm (n c : Nat) (w : Word)
  | vbcast (n c : Nat) (w : Word)
  | vmovg (n c : Nat) (w : Word)
  | vmovv (n c : Nat) (w : Word)
  | vreduce (n c : Nat) (w : Word)
  | pand (n c : Nat) (w : Word)
  | por (n c : Nat) (w : Word)
  | pnot (n c : Nat) (w : Word)
  | pcnt (n c : Nat) (w : Word)
  | vcvt (n c : Nat) (w : Word)
  | vgather (n c : Nat) (w : Word)
  | vscatter (n c : Nat) (w : Word)
  | vscaddUnordered (n c : Nat) (w : Word)
  | vscaddOrdered (n c : Nat) (w : Word)
  | osync (n c : Nat) (w : Word)
  | osyncBarrierComplete (n k : Nat)
  | vsegred (n c : Nat) (w : Word)
  | visect (n c : Nat) (w : Word)
  | vmerge (n c : Nat) (w : Word)
  | mpegpost (n c : Nat) (w : Word)
  | mpegwait (n c : Nat) (w : Word)
  | mpegwaitTimeout (n c : Nat)
  | mdma (n c : Nat) (w : Word)
  | fence (n c : Nat) (w : Word)
  | stop (n c : Nat) (w : Word)
  | coreRunEnd (n c : Nat)
  | timerd (n c : Nat) (w : Word)
  | mcsr (n c : Nat) (w : Word)
  -- Reduction (09)
  | tagWaitDiag (n s : Nat)
  | announce (tag : Word) (kind : AnnKind) (count digest : Nat)
  | sealDeadline (b : Nat)
  | seal (tag : Word) (total : Nat) (att : Attempt) (part parts members : Nat) (bits : List Bool)
  | grant (tag : Word) (shard window : Nat)
  | data (tag : Word) (offset shard window : Nat) (vals : List W32)
  | dataEnd (tag : Word) (shard window sent : Nat)
  | ring (tag : Word) (offset : Nat) (vals : List W32)
  | esc (tag : Word)
  | result (tag : Word) (offset : Nat) (vals : List W32)
  | shardSum (tag : Word) (shard : Nat) (sum : Summary)
  | final (tag : Word) (sum : Summary)
  | collectiveTimeout (b : Option Nat)
  -- Commit (10)
  | deviceReady
  | report (src : Nat) (w0 w1 : Word)
  | decideCommit (src : Nat) (w0 w1 : Word)
  | decideAbort (src : Nat) (w0 w1 : Word)
  | deviceQuiet
  | done (src : Nat) (w0 w1 : Word)
  | release (src : Nat) (w0 w1 : Word)
  | rootDecisionTimeout
  | decisionWaitExpired
  | doneWaitExpired
  | releaseWaitExpired
  | stepTimeout
  -- Snapshots (11)
  | snapPeriodElapsed
  | snapRequest
  | snapFillDone
  | snapHeaderWrite
  | mirrorAckTimeout
  | drainFlushComplete
  | snapPush (data : Word) (who : Who)
  -- Links (13)
  | dataFlit (l : Nat) (fl : Flit) (fec : Fec)
  | idleFlit (l : Nat) (fl : Flit) (fec : Fec)
  | timeFlit (l : Nat) (fl : Flit) (fec : Fec) (info : TimeInfo)
  | linkControlFlit (l : Nat) (fl : Flit) (fec : Fec) (ctl : LinkCtl)
  | ackTimeout (l : Nat)
  | replayExhausted (l : Nat)
  | laneFail (l lane : Nat)
  | linkTrainRetry (l : Nat)
  | linkTrained (l : Nat) (lanes : BitVec 8) (peerDev peerLink : Nat)
  | linkRetrain (l : Nat) (data : Word) (who : Who)
  | linkEnableWrite (l : Nat) (data : Word) (who : Who)
  | write (l : Option Nat) (t : Txn)
  | writeFin (l : Option Nat) (t : Txn)
  | ack (l : Option Nat) (t : Txn)
  | nack (l : Option Nat) (t : Txn)
  | transactionTimeout (tid : Nat)
  | transactionForward (l : Nat) (t : Txn)
  | routeTableLoad (data : Word) (who : Who)
  | routeTableLoaded
  -- Time (13, 01)
  | timeFlitSend (l : Nat) (corr : Int)
  | rootAnnounceTimeout (l : Nat)
  | timeSet (v : Word) (who : Who)
  | timeNowRead
  | ppsInEdge
  | ppsInTimeout
  | ppsOutRise
  | ppsOutFall
  | trateIntervalEnd (f tokens : Nat)
  | trateClear (f : Nat)
  -- Host interface (14)
  | bar2Write (req : BitVec 16) (offset : Nat) (bytes : List Byte)
  | bar2Read (req : BitVec 16) (offset len : Nat)
  | hostReadTimeout
  | registerWrite (who : Who) (offset size : Nat) (value : Word)
  | jobLoad (req : BitVec 16) (page : Nat)
  | jobUnload (req : BitVec 16)
  | logWrite (k : Nat)
  | logConsWrite (v : Word)
  | logIrqTimer
  | timePublish
  | ptmDialog (r : Option PtmResult)
  | outboundError (addr : Word) (drain : Bool)
  | functionLevelReset
  | d3hotEntry
  | d0Entry
  -- Power (15, 19)
  | pwrTargetWrite (value : Word) (who : Who)
  | fieldOffWrite (value : Word) (who : Who)
  | fieldIdleSleep (f : Nat)
  | hbmIdleSelfRefresh (f : Nat)
  | wakeOnAccess (addr : Nat)
  | fieldWakeComplete (f : Nat)
  | smbusWake (addr : BitVec 7)
  | smbusStretchTimeout
  | vstepChange (up : Bool)
  | avsTransitionDone (mv : Option Nat)
  | avsRetry (mv : Option Nat)
  | shaperUpdate (x : Measure)
  | shaperCalibrate (coreW : Nat)
  | thermalSample (temps : List Int)
  | perstAssert
  | resetRampDone
  | perstDeassert
  | pwrOkRise
  | pwrOkFall
  | refclkLoss
  -- Boot, firmware, attestation (16)
  | bootRom (flashOk : Bool)
  | recovGo
  | fwProgram (value : Word) (who : Who)
  | fwProgramDone (flashOk : Bool)
  | fwAdvanceSvn (value : Word) (who : Who)
  | getVersion (t : Transport)
  | getCapabilities (t : Transport)
  | negotiateAlgorithms (t : Transport) (offered : List Nat)
  | getDigests (t : Transport)
  | getCertificate (t : Transport) (slot offset len : Nat)
  | challenge (t : Transport) (slot : Nat) (nonce : BitVec 256)
  | getMeasurements (t : Transport) (index : Nat) (signed : Bool) (nonce : BitVec 256)
  | keyExchange (t : Transport) (slot : Nat) (exchange : Nat)
  | finish (t : Transport) (session : Nat) (verifies : Bool)
  | heartbeat (t : Transport) (session : Nat)
  | keyUpdate (t : Transport) (session : Nat) (op : Nat)
  | endSession (t : Transport) (session : Nat)
  | vendorDefinedIdeKm (t : Transport) (session : Option Nat) (keySlot : Nat) (key : BitVec 256) (go : Bool)
  | pldmRequest (type cmd : Nat)
  -- Debug port (16)
  | idcode
  | samplePreload (preload : Nat)
  | extest (drive : Nat)
  | clamp
  | highz
  /-- The bits shifted in: the command in [3:0], the address in [47:4] (16 R340). -/
  | dbgAccessRead (scan : Nat)
  | dbgAccessWrite (addr : Nat) (value : Word)
  | dbgStatus
  | scanSel (shift : Nat)
  | bypass (code : BitVec 8)
  | tapReset
  | dbgUnlock (value : Word) (clearOk : Bool)
  | dbgRelock
  | dbgNonceRefresh
  | dbgHalt
  | dbgResume
  | dbgStep
  -- Self-test (17)
  | selftestGroup (field phase : Nat) (last : Bool) (fails : List TestFail)
  | sliceDue
  | sliceEnd (fails : List SliceFail)
  | hmapRetest (who : Who)
  -- Rows that stand last in the table
  | registerRead (who : Who) (offset size : Nat)
  | configurationRequest (r : CfgReq)
  | l1Exit
  | pcieRefclkLoss
  | hbmSelfRefreshExit (f : Nat)
  | doeDiscovery (index : Nat)
deriving DecidableEq, Repr, Inhabited

end Sys2Proof
end

