-- ==== Sys2Proof/Machine/State.lean ====
section
/-! DEFINITION. The state of the device as plain data, its reasons to stop, and the state after reset. Field by field in
INVENTORY.md under "State", with the rule of spec/ that names each. -/

namespace Sys2Proof.Machine

open Sys2Proof

/-- A timeout or interval: the nanoseconds of the timebase that are left, or `none` where it is not armed (01 R24). -/
abbrev Timer := Option Nat

/-- Sparse storage: strictly rising keys, no entry equal to 0, which is what an unlisted key reads as. -/
abbrev Sparse (w : Nat) := List (Nat × BitVec w)

/-! ## Part, flash and pins -/

/-- One copy of the health map in the board's flash (17 R356). -/
structure FlashMap where
  seq : Nat := 0
  good : Bool := true
  entries : List HmapEntry := []
deriving DecidableEq, Repr, Inhabited

/-- Fuses and one-time-programmable storage (00 T0-3..4, 16 R327 and R332), and the board's flash. -/
structure Part where
  variant : BitVec 8 := 0x01
  stepping : BitVec 8 := 0xA0
  fp64 : Bool := true
  dist : Bool := true
  mirror : Bool := true
  /-- Physical thalli that fuses disable (00 R3). -/
  fusedThalli : List Nat := [36, 37, 74, 75, 112, 113, 150, 151]
  fusedStacks : List Nat := []
  fusedLinks : List Nat := []
  /-- Fused power-up load of each field core, W, at most 75 (15 R308). -/
  fieldLoad : List Nat := [75, 75, 75, 75]
  keyHash : List (BitVec 256) := [0, 0, 0, 0]
  revoked : BitVec 4 := 0
  minSvn : Nat := 0
  ownerHash : Option (BitVec 256) := none
  vendorHash : BitVec 256 := 0
  dbgMax : Nat := 3
  serial : BitVec 128 := 0
  wrapKey : BitVec 256 := 0
  vaultArray : Nat := 0
  /-- The certificate chain of the identity key (16 R332): the intermediate certificate, and the device certificate before and after the
  serial that its subject carries. -/
  certIssuer : List Byte := []
  certHead : List Byte := []
  certTail : List Byte := []
  romDigest : BitVec 256 := 0
  image : List Byte := []
  /-- Programming of the image was cut by a reset or a loss of power: the next boot enters recovery (16 R330). -/
  flashCut : Bool := false
  mapA : FlashMap := {}
  mapB : FlashMap := {}
deriving DecidableEq, Repr, Inhabited

/-- Pins and straps (19 T19-5), at their default levels. -/
structure Pins where
  perstN : Bool := false
  pwrOk : Bool := false
  compatMode : Bool := false
  fwRecovN : Bool := true
  smbAddr : BitVec 3 := 0
  testEn : Bool := false
  ppsOut : Bool := false
  thermtripN : Bool := true
  thermAlertN : Bool := true
  refclkOk : Bool := true
  pcieRefclkOk : Bool := true
  smbSclHeld : Bool := false
deriving DecidableEq, Repr, Inhabited

/-- Where the device stands between reset and operation (15 R321). -/
inductive RstPhase where
  | held | ramping | booting | selftest | running
deriving DecidableEq, Repr, Inhabited

/-- Capability registers, set once per device reset (00 R2), and the numbering of 00 R3. -/
structure Caps where
  compat : Bool := false
  /-- Enabled thalli of fields 0 to 3. -/
  thlField : List Nat := [0, 0, 0, 0]
  stackEn : BitVec 12 := 0
  linkEn : BitVec 32 := 0
  /-- Physical index of each logical thallus, ascending within fields. -/
  thlPhys : List Nat := []
deriving DecidableEq, Repr, Inhabited

/-! ## Timebase -/

/-- A root candidate (13 R276). -/
structure RootInfo where
  dev : Nat := 0
  ppsLocked : Bool := false
  prio : Nat := 255
  hops : Nat := 0
deriving DecidableEq, Repr, Inhabited

/-- The timebase island (13 T13-7, T13-9). -/
structure TimeSt where
  now : Word := 0
  frac : W32 := 0
  fracLatch : W32 := 0
  adj : W32 := 0
  prio : BitVec 8 := 128
  ppsInEn : Bool := false
  ppsWidth : BitVec 8 := 100
  setReg : Word := 0
  role : BitVec 2 := 0
  locked : Bool := false
  ppsInLocked : Bool := false
  rootDev : BitVec 14 := 0
  hops : BitVec 6 := 0
  upLink : BitVec 5 := 0
  lastO : W32 := 0
  cntStep : Word := 0
  cntRootChange : Word := 0
  cntSampleDrop : Word := 0
  /-- Last announcement heard on each link, with its 4 ms timer: (link, root, timer). -/
  anns : List (Nat × RootInfo × Timer) := []
  /-- The last kept offsets, newest first, at most 64 (13 R278), in 1/64 ns. -/
  samples : List Int := []
  /-- The last kept delays, newest first, at most 16 (13 R277), in 1/64 ns. -/
  delays : List Int := []
  ppsRun : Nat := 0
  ppsTimer : Timer := none
  ppsOutTimer : Timer := none
  /-- PPS_OUT has risen for the whole second that the count stands at (13 R279). -/
  ppsDone : Bool := false
deriving DecidableEq, Repr, Inhabited

/-- DEV.TRATE[f] (01 T1-4). -/
structure Trate where
  rate : BitVec 16 := 0
  rateMin : BitVec 16 := 0xFFFF
  rateMax : BitVec 16 := 0
  /-- ns of the current interval and of the last one in which the field core was on (01 R387). -/
  onNs : Nat := 0
  lastOn : Nat := 0
  /-- The timebase has just passed the end of an interval. -/
  due : Bool := false
deriving DecidableEq, Repr, Inhabited

/-! ## Memory -/

/-- Device memory (07 T7-1): HBM, stores and scratch by device address, and what is uncorrectable (07 R391). -/
structure Mem where
  bytes : Sparse 8 := []
  /-- Uncorrectable 64-bit words of store or scratch: address div 8. -/
  badWords : List Nat := []
  /-- Uncorrectable HBM lines: address div 64. -/
  badLines : List Nat := []
deriving DecidableEq, Repr, Inhabited

/-- One HBM stack's controller (07 T7-4, T7-7, R162). -/
structure HbmStack where
  cntCorr : Word := 0
  cntRetry : Word := 0
  cntUncorr : Word := 0
  lastAddr : BitVec 44 := 0
  lastPch : BitVec 6 := 0
  byScrub : Bool := false
  poison : List Nat := []
deriving DecidableEq, Repr, Inhabited

/-! ## Engines -/

/-- A frond's registers (03 T3-9, T3-10); `latency_extra` follows from `spareInUse`. -/
structure Frond where
  spareInUse : Bool := false
  failedRow : BitVec 5 := 0
  spareBad : Bool := false
  pendingRepair : Bool := false
  faultCount : BitVec 16 := 0
  nancmp : Word := 0
  isat : Word := 0
deriving DecidableEq, Repr, Inhabited

/-- Where an accepted pass stands (04 T4-7). -/
inductive PassStage where
  | queued
  /-- Streaming, capturing or draining in a frond. -/
  | inFrond (f : Nat)
  /-- Abandoned by a fault of frond `f`, waiting for its one re-issue (04 R93). -/
  | reissue (f : Nat)
  /-- Its tile is in accumulator memory. -/
  | drained
  /-- Its tile has left the output path. -/
  | output
  /-- Abandoned by a device fault (04 R94, R389): it never completes. -/
  | abandoned
deriving DecidableEq, Repr, Inhabited

/-- Where the shadow of a pass stands (05 R115). -/
inductive ShadowStage where
  | none | waiting | inFrond (f : Nat) | done
deriving DecidableEq, Repr, Inhabited

/-- A tile record that the output path hands to the statistics merger (05 R99), with the re-conversion log entry (05 R113). -/
structure TileRec where
  layer : Nat := 0
  dir : Nat := 0
  tapped : Bool := false
  nElem : Nat := 0
  nZero : Nat := 0
  nUnder : Nat := 0
  nOver : Nat := 0
  nNan : Nat := 0
  nInf : Nat := 0
  amaxX : W32 := 0
  eSig : Nat := 0
  eErr : Nat := 0
  nClip : Nat := 0
  nReconv : Nat := 0
  nShadow : Nat := 0
  shdSig : Nat := 0
  shdErr : Nat := 0
  log : Option (Word × Word) := none
deriving DecidableEq, Repr, Inhabited

/-- An accepted pass: the pass word and descriptor copy that the engine keeps (04 R75, R76). -/
structure Pass where
  pw : PassWord := ⟨0, 0, 0, 0⟩
  desc : List Word := []
  issueAddr : Nat := 0
  stream : Nat := 0
  stage : PassStage := .queued
  reissued : Bool := false
  /-- The read of its output descriptor failed (04 R389). -/
  descBad : Bool := false
  shadow : ShadowStage := .none
  stats : Option TileRec := none
  /-- Dispatch numbers of the pass and of its shadow within the engine (model's own). -/
  disp : Nat := 0
  shDisp : Nat := 0
  /-- The frond of its last dispatch. -/
  frond : Nat := 0
  /-- A debug step of the stream awaits this pass (16 R345). -/
  stepped : Bool := false
deriving DecidableEq, Repr, Inhabited

/-- An engine (04). `passes` holds the accepted passes in issue order; the pass queue is those still `queued`. -/
structure Engine where
  preempt : Bool := false
  sliceHold : Bool := false
  stopped : Bool := false
  loadBusy : Bool := false
  actBase : BitVec 38 := 0
  actSlot : BitVec 4 := 0
  /-- Slots that a failed load left unspecified (04 R389). -/
  loadFailed : List Nat := []
  /-- The overlap hold of the queue head has been counted (04 R80). -/
  ovlpHold : Bool := false
  faulted : Bool := false
  withdrawn : BitVec 8 := 0
  /-- A device fault: dispatch nothing further in the step (04 R94). -/
  dead : Bool := false
  /-- Cause 0x15 has been raised in this step (04 R95). -/
  raised15 : Bool := false
  passes : List Pass := []
  cntPasses : Word := 0
  cntReissue : Word := 0
  cntHoldOvlp : Word := 0
  cntOutElem : Word := 0
  cntEccCorr : Word := 0
  /-- Accumulator memory by word address (04 R78). -/
  acc : Sparse 32 := []
  /-- Activation tables: word `i` of the table at `(slot * 2 + derivative) * 1024 + i` (04 R86). -/
  act : Sparse 32 := []
  shdCount : Nat := 0
  dispCount : Nat := 0
  /-- `dispCount` at the start of the current 100 ns window (01 R17). -/
  gateBase : Nat := 0
  frond : List Frond := List.replicate 8 {}
deriving DecidableEq, Repr, Inhabited

/-! ## Streams, DMA, cores -/

/-- THL[n].STRM[s].STAT.state (06 T6-1), in the order of its codes. -/
inductive StrmState where
  | idle | running | pegWait | held | halted | barrier | draining | done
deriving DecidableEq, Repr, Inhabited

/-- Why a stream is held (06 T6-1, state 3). -/
inductive HoldWhy where
  | none | bound | fence | marker | epoch | tag
deriving DecidableEq, Repr, Inhabited

/-- What the debug port does with a target (16 T16-11 TSTAT). -/
structure DbgTgt where
  /-- 0 running, 1 halting, 2 halted, 3 stepping. -/
  mode : BitVec 2 := 0
  reason : BitVec 4 := 0
  bpIndex : BitVec 4 := 0
  /-- The next ISSUE is not tested against the pass breakpoints (16 R345), nor the next instruction against addresses. -/
  skipBp : Bool := false
  /-- A step's instruction or pass is under way and is awaited (16 R345): the engine of the pass. -/
  stepEngine : Option Nat := Option.none
deriving DecidableEq, Repr, Inhabited

/-- A stream sequencer (06 T6-6). -/
structure Stream where
  state : StrmState := .idle
  pc : Nat := 0
  prog : BitVec 41 := 0
  progPend : Option (BitVec 41) := none
  treg : List (BitVec 8) := List.replicate 8 0
  tval : BitVec 8 := 0
  /-- CTRL.skip as last written (18 R367). -/
  skip : Bool := false
  cause : BitVec 8 := 0
  waitPeg : BitVec 6 := 0
  waitTarget : W32 := 0
  waitTimer : Timer := none
  why : HoldWhy := .none
  /-- First word of the instruction that is waited in, held at or halted at. -/
  instr : Word := 0
  /-- The end-of-forward marker has completed (06 R133). -/
  marked : Bool := false
  /-- The marker that is being fenced carries END (06 R133: a marker executed for END). -/
  markThenEnd : Bool := false
  lossAddr : Nat := 0
  lossN : Nat := 0
  /-- Loss values that the marker read, in order (11 R246). -/
  lossVals : List W32 := []
  tagTimer : Timer := none
  tagDiag : Bool := false
  /-- A DMA descriptor of the stream has ended failed, so 06 R125 is not met again in the step (07 R158). -/
  dmaLost : Bool := false
  /-- A halt whose class is recorded only at the step timeout (10 R225), and the payload of its record. -/
  haltDue : Bool := false
  haltPay : Word × Word × Word × Word := (0, 0, 0, 0)
  cntInstr : Word := 0
  cntWaitNs : Word := 0
  cntHoldNs : Word := 0
  dbg : DbgTgt := {}
deriving DecidableEq, Repr, Inhabited

/-- A descriptor on a DMA channel (07 R156..R158). -/
structure DmaEntry where
  addr : Nat := 0
  /-- The core that queued it (channel 3). -/
  core : Option Nat := none
  started : Bool := false
  failed : Bool := false
  desc : List Word := []
  /-- Local writes prepared from the source: (address, bytes) by line. -/
  writes : List (Nat × List Byte) := []
  /-- Remote writes not yet sent (10 R229, or the bound of 256 per link). -/
  unsent : List (Nat × List Byte) := []
  sentAny : Bool := false
  /-- The destination is on another device (07 R158). -/
  remote : Bool := false
  finSent : Bool := false
  finDone : Bool := false
deriving DecidableEq, Repr, Inhabited

/-- An ordered contribution held by its owner (08 R181). -/
structure Contrib where
  q : Nat
  c : Nat
  i : Nat
  addr : Nat
  val : W32
  isInt : Bool
deriving DecidableEq, Repr, Inhabited

/-- A marionette run or an UPD in progress (08 R168..R170, R182; 06 R141). -/
structure Run where
  mask : BitVec 8 := 0
  peg : Nat := 0
  stream : Nat := 0
  isUpd : Bool := false
  /-- Cores waiting at the barrier in OSYNC. -/
  atBarrier : BitVec 8 := 0
  /-- Cores that have executed STOP (arrived at every later barrier). -/
  stopped : BitVec 8 := 0
  ended : BitVec 8 := 0
  contribs : List Contrib := []
deriving DecidableEq, Repr, Inhabited

/-- MAR[n].CORE[c].STAT.state (08 T8-7), in the order of its codes. -/
inductive CoreState where
  | idle | running | pegWait | barrier | held | faulted | stopping
deriving DecidableEq, Repr, Inhabited

/-- A marionette core (08 T8-1, T8-6). -/
structure Core where
  state : CoreState := .idle
  cause : BitVec 8 := 0
  waitPeg : BitVec 6 := 0
  waitTarget : W32 := 0
  waitTimer : Timer := none
  pc : Nat := 0
  g : List Word := List.replicate 32 0
  v : List (BitVec 1024) := List.replicate 32 0
  p : List (BitVec 128) := List.replicate 8 0
  oseq : W32 := 0
  /-- CSTAT bits ovf, unf, nan_in, inf_in, bad_scale (08 T8-8). -/
  cstat : BitVec 5 := 0
  ordCount : BitVec 10 := 0
  cntInstr : Word := 0
  /-- `cntInstr` at the start of the current 100 ns window (01 R17). -/
  gateBase : Word := 0
  cntOrd : Word := 0
  /-- The instruction waited in or held at. -/
  instr : Word := 0
  /-- A channel 3 descriptor of the core has ended failed in the run (08 R172). -/
  dmaLost : Bool := false
  dbg : DbgTgt := {}
deriving DecidableEq, Repr, Inhabited

/-- A logical thallus (01 T1-1). -/
structure Thallus where
  odtBase : BitVec 10 := 0
  odtPend : Option (BitVec 10) := none
  peg : List W32 := List.replicate 64 0
  /-- Pegs whose first saturation of the step has been logged (06 R127). -/
  pegSat : BitVec 64 := 0
  epochOpen : Bool := false
  cntEccCorr : Word := 0
  cntConflict : Word := 0
  cntRdBytes : Word := 0
  cntWrBytes : Word := 0
  cntRefused : Word := 0
  /-- DMA descriptors started in the current 100 ns window (01 R17). -/
  gateUsed : Nat := 0
  strm : List Stream := List.replicate 3 {}
  dma : List (List DmaEntry) := List.replicate 4 []
  runs : List Run := []
  core : List Core := List.replicate 8 {}
  eng : List Engine := List.replicate 4 {}
deriving DecidableEq, Repr, Inhabited

/-! ## Governor and record exchange -/

/-- A governor event logged and counted at commit (05 R121). -/
structure GovEv where
  cause : Nat
  layer : Nat
  dir : Nat
  before : Nat
  after : Nat
  w3 : Word
deriving DecidableEq, Repr, Inhabited

/-- The governor and the record exchange (05 T5-9, 09 R217). A block is 16 words. -/
structure Gov where
  scope : Bool := false
  enable : Bool := false
  shdSeed : W32 := 0
  ltabBase : BitVec 32 := 0
  nLayersM1 : BitVec 12 := 0
  lcntBase : BitVec 37 := 0
  busy : Bool := false
  exchWait : Bool := false
  lastStep : W32 := 0
  cntWiden : Word := 0
  cntNarrow : Word := 0
  cntReconv : Word := 0
  cntRlogLost : Word := 0
  cntDormWarn : Word := 0
  cntFallback : Word := 0
  cntShadow : Word := 0
  cntCfgRetry : Word := 0
  /-- Config part in use of each layer: 24 words (05 R103). -/
  cfgUse : List (Nat × List Word) := []
  /-- Config parts that this commit's governor run has read: in use from the flip (05 R103). -/
  cfgNext : List (Nat × List Word) := []
  /-- Re-conversion log entries in use: (layer, direction, count). -/
  rlogUsed : List (Nat × Nat × Nat) := []
  done : Bool := false
  events : List GovEv := []
  exchStarted : Bool := false
  exchDone : Bool := false
  exchTimer : Timer := none
  /-- Blocks of each child's up-record: (child, block index, block). -/
  up : List (Nat × Nat × List Word) := []
  upSent : Bool := false
  /-- Blocks of the reduced record. -/
  down : List (Nat × List Word) := []
  /-- Local step statistics as they stood before the exchange (05 R106). -/
  localBlocks : List (Nat × List Word) := []
  localSaved : Bool := false
deriving DecidableEq, Repr, Inhabited

/-! ## Reduction -/

/-- An exact accumulator (09 T9-5). -/
structure Acc where
  a : BitVec 320 := 0
  nan : Bool := false
  pinf : Bool := false
  ninf : Bool := false
deriving DecidableEq, Repr, Inhabited

/-- A seal as a member or the root holds it (09 R203). -/
structure Seal where
  att : Attempt := .direct
  total : Nat := 0
  bits : List Bool := []
deriving DecidableEq, Repr, Inhabited

/-- An open window of an owner (09 R209). -/
structure Window where
  shard : Nat := 0
  idx : Nat := 0
  accs : List Acc := []
  /-- DATA messages received, one member index per message. -/
  got : List Nat := []
  /-- DATA_END of each member: (member, messages sent). -/
  ends : List (Nat × Nat) := []
  nf : Option Nat := none
deriving DecidableEq, Repr, Inhabited

/-- What an owner keeps of a shard (09 R209, R213). -/
structure ShardSt where
  shard : Nat := 0
  /-- Windows opened so far. -/
  opened : Nat := 0
  /-- Results of closed windows or runs: (element offset, values). -/
  res : List (Nat × List W32) := []
  sum : Summary := default
  done : Bool := false
deriving DecidableEq, Repr, Inhabited

/-- A bucket that the reduction unit is handling in the step. -/
structure Bkt where
  id : Nat := 0
  tag : Option Nat := none
  /-- (thallus, cpeg) of every thallus that opened it. -/
  openers : List (Nat × Nat) := []
  nContrib : Nat := 0
  nLast : Nat := 0
  count : Nat := 0
  closed : Bool := false
  announced : Option AnnKind := none
  completed : Bool := false
  /-- Closed by its collective timeout (10 R237). -/
  timedOut : Bool := false
  timer : Timer := none
  -- as seal root
  anns : List (Nat × AnnKind × Nat) := []
  /-- Sender and digest of an announcement that differs (09 R195). -/
  mismatch : Option (Nat × Nat) := none
  sealTimer : Timer := none
  rootSeal : Option Seal := none
  sums : List (Nat × Summary) := []
  finalSent : Bool := false
  escSent : Bool := false
  -- as member
  parts : List (Nat × List Bool) := []
  mSeal : Option Seal := none
  rerun : Bool := false
  /-- Messages that wait for this device's seal or for its escalation (09 R207, R214). -/
  waiting : List (Word × RedBody) := []
  entryEsc : Bool := false
  entryWarm : Bool := false
  /-- Elements of this device's share in place. -/
  placed : Nat := 0
  finalSum : Option Summary := none
  lateLogged : Bool := false
  -- as owner
  wins : List Window := []
  shards : List ShardSt := []
deriving DecidableEq, Repr, Inhabited

/-- The reduction units (09 T9-9). -/
structure Rdx where
  sealTmo : BitVec 16 := 2000
  logBitmap : Bool := false
  tagwaitBwd : BitVec 16 := 1000
  tagwaitUpd : BitVec 16 := 1000
  cfgPend : Option Word := none
  btabBase : BitVec 32 := 0
  nBucketsM1 : BitVec 12 := 0
  gtabBase : BitVec 38 := 0
  nGroupsM1 : BitVec 8 := 0
  clistBase : BitVec 32 := 0
  clistCount : Nat := 0
  /-- The bucket that holds each of the 256 tags. -/
  tags : List (Option Nat) := List.replicate 256 none
  bkts : List Bkt := []
  /-- Outbound messages of the new step held by 10 R229. -/
  held : List (Nat × Word × RedBody) := []
  logged68 : Bool := false
  cntBuckets : Word := 0
  cntEsc : Word := 0
  cntLate : Word := 0
  cntDropped : Word := 0
  cntStale : Word := 0
  cntNonfinite : Word := 0
  cntTagwait : Word := 0
  cntRelax : Word := 0
  cntTxBytes : Word := 0
  cntRxBytes : Word := 0
deriving DecidableEq, Repr, Inhabited

/-! ## Commit -/

/-- CMT.STAT.state (10 T10-2), in the order of its codes. -/
inductive CmtState where
  | idle | running | gathering | reported | aborting | settling | stopped
deriving DecidableEq, Repr, Inhabited

/-- A recorded class with its cause and device (10 R225). -/
structure ClassRec where
  cls : Nat := 0
  cause : Nat := 0
  dev : Nat := 0
deriving DecidableEq, Repr, Inhabited

/-- The yo-yo token (10 T10-1). -/
structure Token where
  w0 : Word := 0
  w1 : Word := 0
deriving DecidableEq, Repr, Inhabited

/-- The commit unit (10 T10-8..12). -/
structure Cmt where
  nJob : BitVec 15 := 0
  dropMax : BitVec 14 := 0
  retryMax : BitVec 8 := 2
  skipMax : BitVec 8 := 4
  haltHold : Bool := false
  collTmo : BitVec 20 := 5000
  stepTmo : BitVec 20 := 120000
  maxHops : BitVec 8 := 0
  tmoPend : Option Word := none
  parent : BitVec 14 := 0
  root : Bool := false
  nChildren : BitVec 7 := 0
  childBase : BitVec 38 := 0
  state : CmtState := .idle
  /-- Worst class recorded in the step. -/
  worstRec : ClassRec := {}
  lastOutcome : BitVec 2 := 0
  lastCommitted : Bool := false
  epoch : Bool := false
  poisoned : Bool := false
  excluded : Bool := false
  retryRun : BitVec 8 := 0
  skipRun : BitVec 8 := 0
  step : W32 := 0
  cntCommit : Word := 0
  cntRetry : Word := 0
  cntSkip : Word := 0
  cntRestart : Word := 0
  cntDropped : Word := 0
  cntLate : Word := 0
  cntTmoRaised : Word := 0
deriving DecidableEq, Repr, Inhabited

/-- The commit unit's working state within a step (10 R223..R231). -/
structure CmtRun where
  jobTag : BitVec 16 := 0
  /-- The children in the commit tree, as read at job load (10 R221; log entry 74). -/
  kids : List Nat := []
  startDue : Bool := false
  /-- Ready REPORTs held, by child. -/
  reports : List (Nat × Token) := []
  dones : List (Nat × Token) := []
  reported : Bool := false
  /-- The DECIDE acted on in the step being settled. -/
  decide : Option Token := none
  /-- The device was dropped, and was poisoned, in the step being settled (10 T10-1). -/
  settDropped : Bool := false
  settPoisoned : Bool := false
  /-- Not-ready REPORTs of the new step that wait for the RELEASE (10 R225, R229). -/
  heldReports : List Token := []
  /-- The device has become quiet in the step being settled (10 R227). -/
  quiet : Bool := false
  /-- A DECIDE of the next step that has overtaken the RELEASE (13 R270). -/
  lateDecide : Option Token := none
  doneSent : Bool := false
  /-- Class recorded after a commit flip that goes into DONE (class 3), or belongs to the next step. -/
  doneRec : ClassRec := {}
  /-- Worst class from the step's start, for DONE after an abort. -/
  worst : ClassRec := {}
  /-- A class has been recorded and is acted on when the step of work ends. -/
  act : Bool := false
  /-- The commit-path part of the next step is running before RELEASE. -/
  early : Bool := false
  decisionTimer : Timer := none
  rootTimer : Timer := none
  doneTimer : Timer := none
  releaseTimer : Timer := none
  stepTimer : Timer := none
  barrierOpen : Bool := false
deriving DecidableEq, Repr, Inhabited

/-- An epoch window (06 T6-6, T6-10). -/
structure Win where
  en : Bool := false
  spanOff : BitVec 16 := 0
  sizeM1 : BitVec 16 := 0
  copy0 : BitVec 23 := 0
  copy1 : BitVec 23 := 0
deriving DecidableEq, Repr, Inhabited

/-! ## Snapshots -/

/-- The snapshot registers (11 T11-7..11). -/
structure SnapReg where
  periodS : BitVec 16 := 3600
  mirrorEn : Bool := false
  drainEn : Bool := false
  mirGbps : BitVec 8 := 32
  drainGbps : BitVec 8 := 16
  mirTmo : BitVec 16 := 10000
  slot0 : BitVec 32 := 0
  slot1 : BitVec 32 := 0
  map : BitVec 32 := 0
  partner : BitVec 14 := 0
  pslot0 : BitVec 32 := 0
  pslot1 : BitVec 32 := 0
  drainAddr : BitVec 52 := 0
  rbmpBase : BitVec 38 := 0
  rbmpStride : BitVec 12 := 0
  phase : BitVec 2 := 0
  /-- A request is pending (11 R240). -/
  pend : Bool := false
  /-- The pending copy of CMT.SNAP.CTRL (18 R369). -/
  ctrlPend : Option Bool := none
  latestValid : Bool := false
  latestSlot : Bool := false
  targetSlot : Bool := false
  mirror : BitVec 2 := 0
  drain : BitVec 2 := 0
  replay : BitVec 2 := 0
  disarmed : Bool := false
  latestStep : W32 := 0
  lossCrc : W32 := 0
  lossStep : W32 := 0
  pushDev : BitVec 14 := 0
  pushSlot : Bool := false
  pushState : BitVec 2 := 0
  pushAddr : BitVec 32 := 0
deriving DecidableEq, Repr, Inhabited

/-- The snapshot engine's working state and counters (11). -/
structure SnapRun where
  cntSnap : Word := 0
  cntAbandon : Word := 0
  cntHeld : Word := 0
  cntFillLines : Word := 0
  cntTapBytes : Word := 0
  cntMirrorBytes : Word := 0
  cntDrainBytes : Word := 0
  seq : W32 := 0
  periodTimer : Timer := none
  /-- Step 1 of 11 R245 has ended. -/
  fillDone : Bool := false
  /-- A forward barrier has opened since the commit (11 R247). -/
  barrier : Bool := false
  linesFilled : Nat := 0
  commitTime : Word := 0
  commitStep : W32 := 0
  /-- Write the header without waiting, with verify_valid 0 (11 R247). -/
  noWait : Bool := false
  /-- 0 none, 1 zero header sent, 2 body sent, 3 header sent. -/
  mirStage : Nat := 0
  /-- 0 none, 1 flushing read outstanding. -/
  drainStage : Nat := 0
  pushStage : Nat := 0
  /-- A mirror write has ended without acknowledgement: the rest of its limit (11 R250). -/
  mirLost : Timer := none
  pushHdr : List Byte := []
  /-- Step and loss digest of the first forward barrier after the commit (11 R247). -/
  hdrLossStep : W32 := 0
  hdrLossCrc : W32 := 0
  /-- What the replay check compares with: (step, verify_valid, loss_crc). -/
  verify : Option (W32 × Bool × W32) := none
deriving DecidableEq, Repr, Inhabited

/-! ## Links -/

/-- Who waits for the end of a transaction (13 R271). -/
inductive TxOwner where
  | step
  | dma (n ch : Nat)
  | mirror
  | push
  /-- A write of an abandoned mirror or push: nobody waits for it. -/
  | dropped
deriving DecidableEq, Repr, Inhabited

/-- An outstanding transaction of this device (13 R271). -/
structure OutTxn where
  txn : Txn
  timer : Timer := none
  /-- Time since it was sent, ns (11 R250). -/
  age : Nat := 0
  owner : TxOwner := .step
deriving DecidableEq, Repr, Inhabited

/-- LNK[l].STAT.state (13 T13-8), in the order of its codes. -/
inductive LinkState where
  | disabled | training | up | down | ready
deriving DecidableEq, Repr, Inhabited

/-- A link island: registers (13 T13-7, T13-8). -/
structure Link where
  enable : Bool := false
  state : LinkState := .disabled
  width : BitVec 2 := 0
  laneOk : BitVec 8 := 0
  peerDev : BitVec 14 := 0
  peerLink : BitVec 5 := 0
  peerValid : Bool := false
  epReplays : BitVec 5 := 0
  willing : Bool := false
  peerWilling : Bool := false
  trainTimer : Timer := none
  cntTxFlits : Word := 0
  cntRxFlits : Word := 0
  cntFecCorr : Word := 0
  cntFecUncorr : Word := 0
  cntReplay : Word := 0
  cntExhaust : Word := 0
  cntDegrade : Word := 0
  cntTxBytes : Word := 0
  cntRxBytes : Word := 0
  -- transmitter (13 R263, R264, R267)
  txSeq : Nat := 0
  /-- Data flits sent and not acknowledged, oldest first (at most 256), and when each was sent last, by `clk`. -/
  replayBuf : List Flit := []
  sentAt : List Nat := []
  /-- ns of the timebase that the link has seen. -/
  clk : Nat := 0
  /-- Transactions that have started in the current 100 ns window (01 R17). -/
  gateUsed : Nat := 0
  /-- Transactions waiting to start on this hop. -/
  txq : List Txn := []
  /-- Slots of transactions that have started and are not yet in a flit. -/
  txSlots : List Slot := []
  /-- Transactions that have started, with the sequence number of the flit that holds their last slot. -/
  sent : List (Txn × Option Nat) := []
  /-- Source served last on channel 2 (13 R267). -/
  rrSrc : Nat := 0
  /-- A replay is under way (13 R263). -/
  rpTimer : Timer := none
  /-- Flits that this end still owes the peer for acknowledgements and credits: at most 2, one per pair of channels. -/
  owe : Nat := 0
  /-- Sequence number that began the episode, where one is under way. -/
  epSeq : Option Nat := none
  epTimer : Timer := none
  ackTimer : Timer := none
  /-- Slots outstanding per virtual channel, and the last cumulative count returned (13 R267). -/
  crOut : List Nat := [0, 0, 0, 0]
  crLast : List Nat := [0, 0, 0, 0]
  -- receiver
  rxNext : Nat := 0
  rxAny : Bool := false
  /-- The transaction being assembled and its slots still missing. -/
  asm : Option (Txn × Nat) := none
  /-- Bytes corrected on each lane in the current millisecond (13 R265), and lanes that failed start-up self-test (17 R353). -/
  laneCorr : List Nat := List.replicate 8 0
  laneBad : BitVec 8 := 0
  /-- Whole transactions received and not yet taken. -/
  rxq : List Txn := []
  crFreed : List Nat := [0, 0, 0, 0]
  -- time exchange (13 R276, R277)
  timeTimer : Timer := none
  t1 : Option Int := none
  reqArrival : Option Int := none
  /-- A replay or a lane change within the last 1 ms (13 R277). -/
  disturbed : Timer := none
deriving DecidableEq, Repr, Inhabited

/-- The LNK block (13 T13-7). -/
structure Lnk where
  devId : BitVec 14 := 0
  devValid : Bool := false
  rtBase : BitVec 38 := 0
  rtMaxHops : BitVec 8 := 0
  rtLoaded : Bool := false
  rtBusy : Bool := false
  /-- Routing table in force: entries that are not 0. -/
  rt : Sparse 32 := []
  ackTmo : BitVec 16 := 1000
  degradeThr : W32 := 100000
  cntLost : Word := 0
  cntUnroutable : Word := 0
  cntLateAck : Word := 0
  txns : List OutTxn := []
  /-- Transactions whose issuer is held at the bound of 256 per link (01 R27, R28), oldest first. -/
  waiting : List OutTxn := []
  evt94 : Timer := none
  evt95 : Timer := none
  link : List Link := List.replicate 32 {}
deriving DecidableEq, Repr, Inhabited

/-! ## Host interface -/

/-- A watch window (14 T14-8, R292). -/
structure WatchWin where
  en : Bool := false
  stepMode : Bool := false
  allThalli : Bool := false
  thallus : BitVec 8 := 0
  peg : BitVec 6 := 0
  amount : W32 := 1
  trig : BitVec 41 := 0
  /-- The amount held for a step start, with its tag, and the number of matches that it sums. -/
  pend : Option (W32 × W32) := none
  pendN : Nat := 0
deriving DecidableEq, Repr, Inhabited

/-- A memory request of the host port that waits in the bridge (01 R21, 14 R285). -/
inductive HeldKind where
  /-- Through BAR2: a read of so many bytes, a write. -/
  | read (len : Nat)
  | write (bytes : List Byte)
  /-- Through BAR0: the access size, and a write's value. -/
  | regRead (size : Nat)
  | regWrite (size : Nat) (value : Word)
deriving DecidableEq, Repr, Inhabited

/-- A request that waits: its requester, its offset in the BAR, or its device address once it has entered the address path, with the
windows and the epoch pointer of that moment where it is held (14 R283, 06 R136). -/
structure HeldReq where
  req : BitVec 16
  addr : Nat
  entered : Bool
  kind : HeldKind
  timer : Timer
  view : Option (List Win × Bool) := none
deriving DecidableEq, Repr, Inhabited

/-- The host interface registers (14 T14-5..8). -/
structure Pci where
  bar2Base : BitVec 14 := 0
  jobPage : BitVec 32 := 0
  jobState : BitVec 3 := 0
  jobCause : BitVec 8 := 0
  jobIndex : W32 := 0
  /-- The refusal concerned a register list entry (14 R289). -/
  jobFlag : Bool := false
  /-- The load under way: its requester and its page (14 R289). -/
  loading : Option (BitVec 16 × Nat) := none
  logBase : BitVec 52 := 0
  logEn : Bool := false
  logSize : BitVec 5 := 12
  irqCount : BitVec 8 := 16
  irqUs : BitVec 16 := 100
  logVec : BitVec 11 := 0
  urgentVec : BitVec 11 := 1
  logProdAddr : BitVec 61 := 0
  logCons : W32 := 0
  logProd : W32 := 0
  pubAddr : BitVec 58 := 0
  pubPeriod : BitVec 16 := 0
  ptmPeriod : BitVec 16 := 0
  ptmLocal : Word := 0
  ptmMaster : Word := 0
  ptmDelay : W32 := 0
  rdTmo : BitVec 16 := 1000
  speed : BitVec 3 := 0
  width : BitVec 5 := 0
  flit : Bool := false
  cntRdTmo : Word := 0
  cntPoisoned : Word := 0
  cntLogLost : Word := 0
  cntPtmFail : Word := 0
  cntWwPosts : Word := 0
  cntWwStale : Word := 0
  cntInBytes : Word := 0
  cntOutBytes : Word := 0
  ww : List WatchWin := List.replicate 16 {}
deriving DecidableEq, Repr, Inhabited

/-- The host port beside the registers of T14-5: configuration space, MSI-X and what waits. -/
structure PciPort where
  bar2Log2 : Nat := 40
  busMaster : Bool := false
  ptmEn : Bool := false
  inD3 : Bool := false
  linkUp : Bool := false
  /-- MSI-X Enable and Function Mask. -/
  msixOn : Bool := false
  msixMask : Bool := false
  /-- MSI-X table entries that software has written: (entry, 128 bits); an unwritten entry is masked and zero. -/
  msix : List (Nat × BitVec 128) := []
  /-- Vectors whose pending bit is set. -/
  pba : List Nat := []
  pubSeq : Word := 0
  pubTimer : Timer := none
  ptmTimer : Timer := none
  /-- Requests that wait, in arrival order. -/
  held : List HeldReq := []
deriving DecidableEq, Repr, Inhabited

/-- An event record before it is written (14 T14-3). -/
structure LogRec where
  cause : BitVec 8
  source : BitVec 4
  cls : BitVec 2
  jobTag : BitVec 16
  w0 : Word
  w1 : Word
  w2 : Word
  w3 : Word
deriving DecidableEq, Repr, Inhabited

/-- The log unit (14 R294, R295). -/
structure Log where
  buf : List LogRec := []
  /-- Sequence number of the next record to be written. -/
  nextSeq : W32 := 1
  /-- Records lost since the last record written. -/
  lost : Nat := 0
  unsignalled : Nat := 0
  irqTimer : Timer := none
deriving DecidableEq, Repr, Inhabited

/-! ## Power -/

/-- The power registers (15 T15-7..10). -/
structure Pwr where
  target : BitVec 3 := 3
  fieldOff : BitVec 4 := 0
  autoSleep : Bool := true
  idleMs : BitVec 16 := 1000
  state : BitVec 3 := 0
  fieldOn : BitVec 4 := 0
  hbmActive : BitVec 4 := 0
  ceiling : Bool := false
  floorActive : Bool := false
  floorUnmet : Bool := false
  therm : BitVec 2 := 0
  avsFault : Bool := false
  slew : BitVec 10 := 100
  floorW : BitVec 11 := 0
  limitW : BitVec 12 := 2200
  shapePend : Option Word := none
  vmax : BitVec 3 := 4
  vmin : BitVec 3 := 0
  vPend : Option Word := none
  cur : BitVec 3 := 0
  vtarget : BitVec 3 := 0
  warnC : BitVec 7 := 100
  tjMax : BitVec 8 := 0
  estW : BitVec 12 := 0
  coreW : BitVec 12 := 0
  ballastW : BitVec 12 := 0
  smbAddr : BitVec 7 := 0
  arpEn : Bool := false
  wakeEn : Bool := true
deriving DecidableEq, Repr, Inhabited

/-- A load change that cannot be gated (15 R317): a field power-up, an HBM self-refresh exit, a self-test slice, a link retrain, a
group of start-up self-test. -/
inductive Admit where
  | field (f : Nat) | hbm (f : Nat) | slice | link (l : Nat) | group (f phase : Nat)
deriving DecidableEq, Repr, Inhabited

/-- Limits of the load that the shaper has set last, in units of 10 mW (15 R316 to R318, R320). -/
structure Limits where
  /-- Ceiling of the gated demand. -/
  ceil : Nat := 0
  /-- Minimum of the slew limit, which ballast always reaches; and that of the floor. -/
  slewMin : Nat := 0
  floorMin : Nat := 0
  /-- The floor in force, and the load at which the core rail reaches limit_w. -/
  floor : Nat := 0
  cap : Nat := 0
deriving DecidableEq, Repr, Inhabited

/-- The shaper's and the domains' working state, and the power counters (15). -/
structure PwrRun where
  res : List Word := List.replicate 5 0
  fieldRes : List Word := List.replicate 4 0
  cntWakeAccess : Word := 0
  cntWakeSmb : Word := 0
  cntVstep : Word := 0
  cntAvsErr : Word := 0
  cntBallastNs : Word := 0
  cntGateNs : Word := 0
  cntThermNs : Word := 0
  /-- Last load, in units of 10 mW (15 R317). -/
  load : Nat := 0
  /-- Ballast in it, in units of 10 mW. -/
  ballast : Nat := 0
  /-- Limits of the last update, held while the puppeteer core is halted (16 R346). -/
  lim : Limits := {}
  /-- The timebase has passed a whole multiple of 10 µs: an update is due (15 R317). -/
  shapeDue : Bool := false
  /-- The step has been lowered for the core-rail limit or for heat (15 R314). -/
  lowered : Bool := false
  /-- Hottest sensor of each sample of the last 1 ms, newest first: (age in ns, °C) (15 T15-7). -/
  temps : List (Nat × Nat) := []
  /-- Hottest junction of each field at the last sample, °C (16 R338). -/
  fieldC : List Nat := []
  calib : Nat := 0
  /-- Throttle gates: tokens per 100 ns window, of fields 0 to 3 and of the link bridges (01 R17; reset value: log entry 73). -/
  gates : List Nat := [240, 240, 240, 240, 240]
  /-- Ungated load steps waiting for admission: priority (0 first), what, and its fused load in W (15 R317). -/
  loadSteps : List (Nat × Admit × Nat) := []
  /-- Until the load step admitted last has settled. -/
  settleTimer : Timer := none
  /-- Addresses of requests held at a clamp whose wake is still to be asked for (15 R308). -/
  wants : List Nat := []
  /-- Peg posts of watch windows held at the clamp of an off field: (thallus, peg, amount) (15 R307). -/
  posts : List (Nat × Nat × Nat) := []
  /-- The device domain is leaving retention (15 R306). -/
  leaving : Bool := false
  /-- Field cores that wait to be quiet before they go off, and a pending entry into PS4 (15 R307). -/
  offPend : BitVec 4 := 0
  sleepPend : Bool := false
  avsTimer : Timer := none
  avsRetryTimer : Timer := none
  vGap : Timer := none
  /-- Time for which the estimate must stay more than 10 % below the limit (15 R314). -/
  lowTimer : Timer := none
  /-- Clamps engaged per field core. -/
  clamped : BitVec 4 := 0xF
  waking : BitVec 4 := 0
  hbmWaking : BitVec 4 := 0
  smbTimer : Timer := none
  smbNackNext : Bool := false
  compatRamp : Bool := false
  floorLogged : Bool := false
  /-- ns since the last request to each field core (15 R309). -/
  idle : List Timer := List.replicate 4 none
  hbmIdle : List Timer := List.replicate 4 none
  tripped : Bool := false
deriving DecidableEq, Repr, Inhabited

/-! ## Boot, security, debug -/

/-- An SPDM session (16 R334). -/
structure Session where
  id : Nat
  open_ : Bool := false
  keyGen : Nat := 0
deriving DecidableEq, Repr, Inhabited

/-- One transport of the SPDM responder (16 R334..R337). -/
structure Spdm where
  version : Bool := false
  caps : Bool := false
  algs : Bool := false
  /-- The negotiated algorithms include a key exchange and an AEAD. -/
  keyEx : Bool := false
  sessions : List Session := []
  nextId : Nat := 1
  refusedLogged : Bool := false
  /-- The request that the transport holds while firmware does not run (16 R336, R346). -/
  held : Option Instr := none
deriving DecidableEq, Repr, Inhabited

/-- A command to firmware by a register, as firmware takes it up (14 T14-6, 16 T16-12, 17 T17-5). -/
inductive FwCmd where
  | load (req : BitVec 16) (page : Nat)
  | unload (req : BitVec 16)
  | program
  | advance
  | retest
deriving DecidableEq, Repr, Inhabited

/-- The SEC block and what stands behind it (16 T16-11, T16-12). -/
structure Sec where
  stage : BitVec 4 := 0
  reason : BitVec 4 := 0
  fromRecovery : Bool := false
  strap : Bool := false
  fwRelease : W32 := 0
  svn : BitVec 7 := 0
  keyIdx : BitVec 2 := 0
  fwAddr : BitVec 32 := 0
  fwState : BitVec 3 := 0
  fwReason : BitVec 4 := 0
  /-- The image has still to be copied into the staging region: its memory sleeps (16 R330, 15 R308). -/
  copying : Bool := false
  vaultLoaded : Bool := false
  vaultCleared : Bool := false
  cntSpdm : Word := 0
  cntSign : Word := 0
  cntRecovDiscard : Word := 0
  staging : Sparse 8 := []
  /-- The flash answered in this start. -/
  flashOk : Bool := true
  runImage : List Byte := []
  /-- Identity key in the vault registers, RSA and AES engine registers, wrapping-key latches (16 R343). -/
  keyRegs : Nat := 0
  engineRegs : Nat := 0
  wrapLatch : BitVec 256 := 0
  sessionKeys : List (Nat × Nat) := []
  ideKeys : List (Nat × BitVec 256) := []
  ideSecure : Bool := false
  /-- Measurements 1 to 5 (16 T16-5). -/
  meas : List (BitVec 256) := List.replicate 5 0
  doe : Spdm := {}
  mctp : Spdm := {}
deriving DecidableEq, Repr, Inhabited

/-- A pass breakpoint (16 T16-11). -/
structure Pbp where
  layer : BitVec 12 := 0
  dir : Bool := false
  dirAny : Bool := false
  thallus : BitVec 8 := 0
  thallusAny : Bool := false
  en : Bool := false
deriving DecidableEq, Repr, Inhabited

/-- What drives the low-speed output pins (16 T16-6). -/
inductive PinDrive where
  | normal | boundary | highz
deriving DecidableEq, Repr, Inhabited

/-- The DBG block and the TAP (16 T16-11, T16-6). -/
structure Dbg where
  level : BitVec 2 := 0
  failures : BitVec 5 := 0
  unlockLevel : BitVec 2 := 0
  unlockKey : Bool := false
  nonceIdx : Nat := 0
  nonceReady : Bool := true
  nonceTimer : Timer := none
  freezeTmo : Bool := false
  tgtKind : BitVec 2 := 0
  tgtThl : BitVec 8 := 0
  tgtIdx : BitVec 3 := 0
  bp : List Word := List.replicate 16 0
  pbp : List Pbp := List.replicate 4 {}
  buf : Sparse 8 := []
  /-- The puppeteer core as a debug target, with the window's view of it. -/
  pup : DbgTgt := {}
  pupRegs : List Word := List.replicate 64 0
  pupPc : Word := 0
  pupStatus : Word := 0
  /-- TAP instruction register (16 T16-6). -/
  ir : BitVec 8 := 0x01
  lastStatus : BitVec 4 := 0
  lastRead : Word := 0
  boundary : Nat := 0
  pinDrive : PinDrive := .normal
  haltLogged : Bool := false
deriving DecidableEq, Repr, Inhabited

/-! ## Self-test and register access -/

/-- The BIST block (17 T17-5). -/
structure Bist where
  periodMin : BitVec 16 := 1440
  stagger : Bool := true
  cfgPend : Option Word := none
  sliceBusy : Bool := false
  sliceWait : Bool := false
  nextThl : BitVec 8 := 0
  nextEng : BitVec 2 := 0
  startMs : BitVec 16 := 0
  hmapState : BitVec 2 := 0
  hmapFull : Bool := false
  unusable : Bool := false
  cntSlices : Word := 0
  cntSliceFail : Word := 0
  cntSliceSkip : Word := 0
  cntSliceNs : Word := 0
  hmap : List HmapEntry := []
  /-- Failures found so far in this start, each with the time of its detection. -/
  found : List (TestFail × Word) := []
  /-- Soft repair latches: (physical thallus, bank, failing columns replaced) (17 R351). -/
  repairs : List (Nat × Nat × Nat) := []
  /-- The next group that start-up self-test awaits: (field, phase), and whether the shaper has admitted it (17 R352). -/
  nextField : Nat := 0
  nextPhase : Nat := 1
  groupOn : Bool := false
  startNs : Nat := 0
  /-- ns since slices began to count, and the number of the next slice (17 R360). -/
  since : Nat := 0
  sliceK : Nat := 0
  /-- Engine that the slice in progress holds. -/
  target : Option (Nat × Nat) := none
deriving DecidableEq, Repr, Inhabited

/-- DEV.REG (18 T18-7). -/
structure RegBlk where
  cntIgnored : Word := 0
  offset : BitVec 23 := 0
  dbg : Bool := false
  cause : BitVec 8 := 0
deriving DecidableEq, Repr, Inhabited

/-! ## What the device sends -/

/-- Status of a completion that answers a host request (14 R282..R286). -/
inductive Compl where
  | ok | unsupported | abort | poisoned | retry
deriving DecidableEq, Repr, Inhabited

/-- SPDM errors that 16 names. -/
inductive SpdmErr where
  | unspecified | busy | sessionLimit | unsupportedRequest | unexpectedRequest | invalidRequest
deriving DecidableEq, Repr, Inhabited

/-- Capabilities of the SPDM responder (16 T16-4). -/
inductive SpdmCap where
  | cert | chal | measSig | keyEx | encrypt | mac | hbeat | keyUpd
deriving DecidableEq, Repr, Inhabited

/-- Responses of the SPDM responder; bodies that 16 leaves to the SPDM standard are free values. -/
inductive SpdmResp where
  | version (v : Nat)
  | capabilities (caps : List SpdmCap) (ctExponent : Nat)
  /-- The algorithms chosen, by their place in 16 T16-4: 0 RSASSA-PSS 3072, 1 SHA-256, 2 ffdhe3072, 3 AES-256-GCM. -/
  | algorithms (algs : List Nat)
  | digests (body : List Byte)
  | certificate (body : List Byte)
  | challengeAuth (sig : BitVec 3072)
  | measurements (blocks : List (Nat × BitVec 256)) (sig : Option (BitVec 3072))
  | keyExchange (session : Nat) (sig : BitVec 3072)
  | finish (session : Nat)
  | heartbeat (session : Nat)
  | keyUpdate (session : Nat)
  | endSession (session : Nat)
  | ideKm (keySlot : Nat)
  | error (e : SpdmErr)
deriving DecidableEq, Repr, Inhabited

/-- What leaves the device, in order (model's own record of its output ports: log entry 10). -/
inductive Out where
  /-- A transaction other than ACK and NACK handed to a link, or a message of the device to itself. -/
  | txn (t : Txn)
  | flit (l : Nat) (fl : Flit)
  | idleFlit (l : Nat) (fl : Flit)
  /-- A time flit with its header, the sender's best root, whether it carries a request, and the stamps t2 and t3 of a reply. -/
  | timeFlit (l : Nat) (fl : Flit) (root : RootInfo) (request : Bool) (reply : Option (Int × Int))
  | linkCtl (l : Nat) (fl : Flit) (c : LinkCtl)
  /-- A write to host memory; `relaxed` is the Relaxed Ordering attribute (14 R296). -/
  | hostWrite (addr : Nat) (bytes : List Byte) (relaxed : Bool)
  | flushRead (addr : Nat)
  | compl (c : Compl) (data : List Byte)
  | msix (vec : Nat)
  | cfg (c : Compl) (value : W32)
  | spdm (t : Transport) (r : SpdmResp)
  | pldm (body : List Byte)
  | doe (protocols : List Nat)
  | tdo (bits : Nat)
  /-- The output pins as the TAP drives them: from the boundary register, or not at all (16 T16-6). -/
  | pins (drive : Option Nat)
  | smbAck (ack : Bool)
  /-- AVSBus voltage write of a step, and VoutTransRate write in mV/µs (15 R311). -/
  | avsWrite (vstep : Nat)
  | avsRate (rate : Nat)
deriving DecidableEq, Repr, Inhabited

/-! ## The whole state -/

/-- The state of the device. -/
structure State where
  /-- Commands that wait, first in first out. -/
  pending : List Instr := []
  part : Part := {}
  pins : Pins := {}
  rst : RstPhase := .held
  /-- Reset by loss of REFCLK: a new rising edge of PERST_N is needed (19 R382). -/
  refclkLost : Bool := false
  /-- ns of PWR_OK and REFCLK that are still needed before the device may start (19 R378, R382). -/
  refclkTimer : Timer := none
  caps : Caps := {}
  time : TimeSt := {}
  trate : List Trate := List.replicate 4 {}
  mem : Mem := {}
  hbm : List HbmStack := List.replicate 12 {}
  scrubPeriod : BitVec 8 := 12
  thl : List Thallus := []
  gov : Gov := {}
  rdx : Rdx := {}
  cmt : Cmt := {}
  crun : CmtRun := {}
  win : List Win := List.replicate 16 {}
  snap : SnapReg := {}
  srun : SnapRun := {}
  lnk : Lnk := {}
  pci : Pci := {}
  port : PciPort := {}
  log : Log := {}
  pwr : Pwr := {}
  prun : PwrRun := {}
  sec : Sec := {}
  dbg : Dbg := {}
  bist : Bist := {}
  reg : RegBlk := {}
  /-- Commands that wait for firmware, in their order: its core is halted, or a command of SEC.FW runs (16 R346). -/
  fwCmds : List FwCmd := []
  /-- Position at which free values are read (model's own: log entry 4). -/
  nonce : Nat := 0
  out : List Out := []
deriving DecidableEq, Repr, Inhabited

/-- Reasons at which the model stops with a fault. -/
inductive Fault where
  /-- Raised by PERST_DEASSERT with TEST_EN high: a manufacturing mode that 19 T19-5 does not describe. Safe. -/
  | manufacturingMode
deriving DecidableEq, Repr, Inhabited

/-- Reasons at which a command has no meaning in a state. -/
inductive Refusal where
  /-- Raised by an arm of `exec` whose command has no meaning yet. Safe. -/
  | notModelled (mnemonic : String)
  /-- Raised by every meaning whose command names a unit that the part does not have: there is no such agent. Safe. -/
  | noSuchUnit
  /-- Raised by a command that stands for an event of the device whose condition does not hold, so that the event does
  not happen (log entry 8). Safe. -/
  | notEnabled
deriving DecidableEq, Repr, Inhabited

/-- What a meaning answers. -/
abbrev Res := Host.Outcome State Fault Refusal

/-- The device right after reset, held by PERST_N and PWR_OK at their default levels (19 T19-5): every register at its
reset value, no thallus numbered yet (00 R2), the queue empty. -/
def State.reset : State := {}

end Sys2Proof.Machine
end

