-- ==== Sys2Proof/Machine/Ops.lean ====
section
/-! DEFINITION. The named operations that every meaning shares: guards, access to units, the event log (14 R293, R294),
classes (10 R225), memory with its address map, aliases, uncorrectable locations and the snapshot tap (07, 06 R136 and R137,
11 R242), pegs (06 R127, R128), CRC-32C. -/

namespace Sys2Proof.Machine

open Sys2Proof

/-! ## Guards -/

/-- A meaning: refused where the unit is absent, refused where the event's condition does not hold, else the next state. -/
def need (unit ready : Bool) (t : State) : Res :=
  if !unit then .refused .noSuchUnit else if !ready then .refused .notEnabled else .next t

/-- A command from outside the device, which the device always takes. -/
def always (t : State) : Res := .next t

/-! ## Bytes -/

/-- The `k` little-endian bytes of a number (02 R36). -/
def bytesOf : Nat → Nat → List Byte
  | 0, _ => []
  | k + 1, x => BitVec.ofNat 8 x :: bytesOf k (x / 256)

/-- The number of little-endian bytes. -/
def natOf : List Byte → Nat
  | [] => 0
  | b :: bs => b.toNat + 256 * natOf bs

/-- The bytes cut into groups of `k`, at most `fuel` of them. -/
def chunks (k : Nat) : Nat → List Byte → List (List Byte)
  | 0, _ => []
  | fuel + 1, bs => if bs.isEmpty then [] else bs.take k :: chunks k fuel (bs.drop k)

/-- 64-bit words of bytes. -/
def wordsOf (bs : List Byte) : List Word := (chunks 8 (bs.length + 1) bs).map fun c => BitVec.ofNat 64 (natOf c)

/-- FP32 values of bytes. -/
def w32sOf (bs : List Byte) : List W32 := (chunks 4 (bs.length + 1) bs).map fun c => BitVec.ofNat 32 (natOf c)

/-- Bytes of 64-bit words. -/
def bytesOfWords (ws : List Word) : List Byte := ws.flatMap fun w => bytesOf 8 w.toNat

/-- Bytes of 32-bit values. -/
def bytesOfW32s (ws : List W32) : List Byte := ws.flatMap fun w => bytesOf 4 w.toNat

/-- Word `i` of a list of words, 0 beyond its end. -/
def wordAt (ws : List Word) (i : Nat) : Word := ws.getD i 0

/-- One step of the reflected CRC-32C of a bit. -/
def crcBit (c : Nat) : Nat → Nat
  | 0 => c
  | k + 1 => crcBit (if c % 2 == 1 then (c / 2) ^^^ 0x82F63B78 else c / 2) k

/-- CRC-32C of bytes (11 T11-2, 09 R192): initial value and final complement all ones. -/
def crc32c (bs : List Byte) : Nat :=
  (bs.foldl (fun c b => crcBit (c ^^^ b.toNat) 8) 0xFFFFFFFF) ^^^ 0xFFFFFFFF

/-! ## Units -/

/-- A file of `n` registers with register `i` written. -/
def setAt {α : Type} [Inhabited α] (n i : Nat) (x : α) (l : List α) : List α :=
  (List.range n).map fun j => if j == i then x else l.getD j default

def hasLink (s : State) (l : Nat) : Bool := s.caps.linkEn.getLsbD l && l < s.lnk.link.length

def thlOf (s : State) (n : Nat) : Thallus := s.thl.getD n {}

/-- An enabled thallus, and its streams, engines, cores and DMA channels (01 T1-1). -/
def hasThl (s : State) (n : Nat) : Bool := n < s.thl.length
def hasStrm (s : State) (n q : Nat) : Bool := hasThl s n && q < (thlOf s n).strm.length
def hasEng (s : State) (n m : Nat) : Bool := hasThl s n && m < (thlOf s n).eng.length
def hasCore (s : State) (n c : Nat) : Bool := hasThl s n && c < (thlOf s n).core.length
def hasDma (s : State) (n ch : Nat) : Bool := hasThl s n && ch < (thlOf s n).dma.length

def strmOf (s : State) (n q : Nat) : Stream := (thlOf s n).strm.getD q {}
def engOf (s : State) (n m : Nat) : Engine := (thlOf s n).eng.getD m {}
def coreOf (s : State) (n c : Nat) : Core := (thlOf s n).core.getD c {}
def frondOf (s : State) (n m f : Nat) : Frond := (engOf s n m).frond.getD f {}
def linkOf (s : State) (l : Nat) : Link := s.lnk.link.getD l {}
def dmaOf (s : State) (n ch : Nat) : List DmaEntry := (thlOf s n).dma.getD ch []

def modThl (n : Nat) (f : Thallus → Thallus) (s : State) : State := { s with thl := s.thl.modify n f }

def modStrm (n q : Nat) (f : Stream → Stream) (s : State) : State :=
  modThl n (fun t => { t with strm := t.strm.modify q f }) s

def modEng (n m : Nat) (f : Engine → Engine) (s : State) : State :=
  modThl n (fun t => { t with eng := t.eng.modify m f }) s

def modCore (n c : Nat) (f : Core → Core) (s : State) : State :=
  modThl n (fun t => { t with core := t.core.modify c f }) s

def modFrond (n m k : Nat) (f : Frond → Frond) (s : State) : State :=
  modEng n m (fun e => { e with frond := e.frond.modify k f }) s

def modDma (n ch : Nat) (f : List DmaEntry → List DmaEntry) (s : State) : State :=
  modThl n (fun t => { t with dma := t.dma.modify ch f }) s

def modLink (l : Nat) (f : Link → Link) (s : State) : State :=
  { s with lnk := { s.lnk with link := s.lnk.link.modify l f } }

/-- A job is loaded (14 R289). -/
def jobLoaded (s : State) : Bool := s.pci.jobState == 2

/-- This device's fabric identifier. -/
def self (s : State) : Nat := s.lnk.devId.toNat

/-- Field of logical thallus `n` (00 R3). -/
def fieldGo : Nat → List Nat → Nat → Nat
  | f, [], _ => f
  | f, k :: ks, n => if n < k then f else fieldGo (f + 1) ks (n - k)

def fieldOf (s : State) (n : Nat) : Nat := fieldGo 0 s.caps.thlField n

/-- The core is up, self-test has ended and the block answers (15 R321). -/
def up (s : State) : Bool := s.rst == .running

/-- The puppeteer core is debug halted, so no firmware duty runs (16 R346). -/
def fwHalted (s : State) : Bool := s.dbg.pup.mode == 2

/-- Append to the record of the output ports. -/
def emit (o : Out) (s : State) : State := { s with out := s.out ++ [o] }

/-! ## Event log -/

/-- Log one event record (14 R293) detected at `w1`: it enters the internal buffer of 4,096 records, or is lost and counted (14 R294).
`w0` holds the payload's word 0 without its cause. -/
def logAt (w1 : Word) (src cls cause w0 w2 w3 : Nat) (s : State) : State :=
  if s.log.buf.length < 4096 then
    { s with log := { s.log with
        buf := s.log.buf ++ [{
          cause := BitVec.ofNat 8 cause, source := BitVec.ofNat 4 src,
          cls := BitVec.ofNat 2 cls, jobTag := if jobLoaded s then s.crun.jobTag else 0,
          w0 := BitVec.ofNat 64 (w0 ||| cause), w1 := w1, w2 := BitVec.ofNat 64 w2, w3 := BitVec.ofNat 64 w3 }] } }
  else { s with log := { s.log with lost := s.log.lost + 1 }, pci := { s.pci with cntLogLost := satAdd s.pci.cntLogLost 1 } }

/-- Log one event record detected now. -/
def logEv (src cls cause w0 w2 w3 : Nat) (s : State) : State := logAt s.time.now src cls cause w0 w2 w3 s

/-- Class of a cause (10 T10-5). -/
def classOf (cause : Nat) : Nat :=
  if [0x14, 0x17, 0x19, 0x31, 0x42, 0x53, 0x72, 0x73].contains cause then 1
  else if cause == 0x68 then 2
  else if [0x10, 0x11, 0x12, 0x15, 0x30, 0x32, 0x33, 0x37, 0x40, 0x41, 0x43, 0x45, 0x50, 0x51, 0x52, 0x54, 0x61, 0x62, 0x63,
      0x64, 0x69, 0x74, 0x75, 0x76, 0x7B].contains cause then 3
  else 0

/-- The worse of two records: higher class, and the lower device between equals (10 R222). -/
def worse (a b : ClassRec) : ClassRec :=
  if b.cls == 0 then a
  else if a.cls == 0 then b
  else if a.cls < b.cls then b
  else if b.cls < a.cls then a
  else if b.dev < a.dev then b else a

/-- The device has flipped and its DONE is not yet sent (10 R228). -/
def afterFlip (s : State) : Bool :=
  s.cmt.state == .settling && (match s.crun.decide with
    | some d => bit d.w0 6
    | none => false)

/-- Record a class (10 R225, R228). After a commit flip a class 3 before DONE goes into DONE and every other class belongs to
the next step; in Idle and Stopped there is no step to record it for. -/
def recordClass (cls cause : Nat) (s : State) : State :=
  let r : ClassRec := ⟨cls, cause, self s⟩
  if cls == 0 || s.cmt.state == .idle || s.cmt.state == .stopped then s
  else if afterFlip s && cls == 3 && !s.crun.doneSent then
    { s with cmt := { s.cmt with worstRec := worse s.cmt.worstRec r }, crun := { s.crun with doneRec := worse s.crun.doneRec r } }
  else
    { s with cmt := { s.cmt with worstRec := worse s.cmt.worstRec r }, crun := { s.crun with worst := worse s.crun.worst r, act := true } }

/-- Log a cause with its class of Table 10-5 and record the class. -/
def fault (src cause w0 w2 w3 : Nat) (s : State) : State :=
  recordClass (classOf cause) cause (logEv src (classOf cause) cause w0 w2 w3 s)

/-- Word 0 of Table 4-4 without its cause: thallus, engine, stream, frond or core, halted. -/
def engW0 (n m q k : Nat) (halted : Bool) : Nat :=
  n <<< 8 ||| m <<< 16 ||| q <<< 18 ||| k <<< 20 ||| (b2n halted) <<< 23

/-! ## Agents -/

/-- Who accesses memory: it decides source and payload of the events (14 R386, 06 R137, 07 R166). `q` is the stream concerned
(3: none), `ia` the address of its instruction or pass, `w` the first word of the instruction or descriptor. -/
inductive Agent where
  | host (id : BitVec 16)
  | debug
  | strm (n q ia : Nat)
  | eng (n m q ia : Nat) (pw0 : Word)
  | dma (n ch q : Nat) (w : Word)
  | core (n c q pc : Nat) (w : Word)
  | watch (k n : Nat)
  | remote (n : Nat)
  | unit
deriving DecidableEq, Repr, Inhabited

def Agent.reqId : Agent → Nat
  | .host id => id.toNat
  | _ => 0

/-- The logical thallus that an agent belongs to. -/
def Agent.thl : Agent → Option Nat
  | .strm n _ _ => some n
  | .eng n _ _ _ _ => some n
  | .dma n _ _ _ => some n
  | .core n _ _ _ _ => some n
  | _ => none

/-- Log a discarded write to an epoch alias, cause 0x33 (06 R137). -/
def aliasEv (ag : Agent) (a : Nat) (s : State) : State :=
  match ag with
  | .strm n q _ => fault 0 0x33 (engW0 n 0 q 0 false) a 0 s
  | .eng n m q _ _ => fault 0 0x33 (engW0 n m q 0 false) a 0 s
  | .dma n _ q _ => fault 7 0x33 (engW0 n 0 q 0 false) a 0 s
  | .core n c q _ _ => fault 8 0x33 (engW0 n 0 q c false) a 0 s
  | _ => logEv 6 0 0x33 (ag.reqId <<< 8) a 0 s

/-- Log an uncorrectable read as the memory's device fault (07 R154, R161; 04 R389; 06 R390). -/
def memFaultEv (ag : Agent) (cause a : Nat) (s : State) : State :=
  match ag with
  | .strm n q _ => fault 7 cause (engW0 n 0 q 0 true) a 0 s
  | .eng n m q ia w => fault 7 cause (engW0 n m q 0 false) ia w.toNat s
  | .dma n _ q w => fault 7 cause (engW0 n 0 q 0 false) a w.toNat s
  | .core n c q _ _ => fault 7 cause (engW0 n 0 q c false) a 0 s
  | _ => fault 7 cause (engW0 0 0 3 0 false) a 0 s

/-! ## Address map (07 R147) -/

def gib : Nat := 2 ^ 30
def hbmEnd : Nat := 0x00C000000000
def curBase : Nat := 0x00C000000000
def nextBase : Nat := 0x00E000000000
def storeBase : Nat := 0x010000000000
def storeEnd : Nat := 0x010090000000
def scratchBase : Nat := 0x01F000000000
def scratchEnd : Nat := 0x01F004800000
def regBase : Nat := 0x020000000000
def regEnd : Nat := 0x020004000000
def aliasSpan : Nat := 0x002000000000

/-- Number of ones of a bit vector. -/
def popCount {w : Nat} (x : BitVec w) : Nat := ((List.range w).filter fun i => x.getLsbD i).length

/-- Bytes of the enabled HBM range (00 R3). -/
def hbmBytes (s : State) : Nat := 64 * gib * popCount s.caps.stackEn

/-- Where an address lies (07 T7-1); `reserved` also holds what is not an address of 44 bits. -/
inductive Region where
  | hbm | cur | nxt | store (n : Nat) | scratch (n c : Nat) | regs | reserved
deriving DecidableEq, Repr, Inhabited

def regionOf (a : Nat) : Region :=
  if a < hbmEnd then .hbm
  else if a < nextBase then .cur
  else if a < storeBase then .nxt
  else if a < storeEnd then .store ((a - storeBase) / 0x1000000)
  else if a < scratchBase then .reserved
  else if a < scratchEnd then .scratch ((a - scratchBase) / 0x80000) ((a - scratchBase) / 0x10000 % 8)
  else if a < regBase then .reserved
  else if a < regEnd then .regs
  else .reserved

/-- Start and length in bytes of an epoch window within its alias span (06 R136). -/
def Win.start (w : Win) : Nat := 0x200000 * w.spanOff.toNat
def Win.bytes (w : Win) : Nat := 0x200000 * (w.sizeM1.toNat + 1)
def Win.copyBase (w : Win) (p : Bool) : Nat := 0x200000 * (if p then w.copy1.toNat else w.copy0.toNat)

/-- The enabled window that covers an offset of the alias span, with its number. -/
def winAt (s : State) (o : Nat) : Option (Nat × Win) :=
  (s.win.zipIdx.find? fun (w, _) => w.en && w.start ≤ o && o < w.start + w.bytes).map fun (w, i) => (i, w)

/-- Stack, pseudo-channel and byte offset within the stack of an HBM address (07 R159). -/
def hbmGo (s : State) (a : Nat) : Nat → Nat × Nat × Nat
  | 0 => (0, 0, 0)
  | k + 1 =>
    let f := 3 - k
    let en := (List.range 3).filterMap fun i => if s.caps.stackEn.getLsbD (3 * f + i) then some (3 * f + i) else none
    let size := 64 * gib * en.length
    if a < size then
      let j := a / 256
      let jj := j / en.length
      (en.getD (j % en.length) 0, jj % 64, jj * 256 + a % 256)
    else hbmGo s (a - size) k

def hbmPlace (s : State) (a : Nat) : Nat × Nat × Nat := hbmGo s a 4

/-- The physical address that an address names, `none` where the part has no such unit (06 R136, 07 R147). -/
def target (s : State) (a : Nat) : Option Nat :=
  match regionOf a with
  | .hbm => if a < hbmBytes s then some a else none
  | .cur => (winAt s (a - curBase)).map fun (_, w) => w.copyBase s.cmt.epoch + (a - curBase - w.start)
  | .nxt => (winAt s (a - nextBase)).map fun (_, w) => w.copyBase (!s.cmt.epoch) + (a - nextBase - w.start)
  | .store n => if n < s.thl.length then some a else none
  | .scratch n _ => if n < s.thl.length then some a else none
  | _ => none

/-- The field of a physical address of HBM, store or scratch. -/
def memField (s : State) (p : Nat) : Option Nat :=
  match regionOf p with
  | .hbm => some ((hbmPlace s p).1 / 3)
  | .store n | .scratch n _ => some (fieldOf s n)
  | _ => none

def fieldIsOn (s : State) (f : Nat) : Bool := s.pwr.fieldOn.getLsbD f
def hbmIsActive (s : State) (f : Nat) : Bool := s.pwr.hbmActive.getLsbD f

/-- The field whose core is off that an address reaches in compat mode, where such memory is an absent unit (15 T15-6). -/
def compatOff (s : State) (a : Nat) : Option Nat :=
  if s.caps.compat then ((target s a).bind (memField s)).filter fun f => !fieldIsOn s f else none

/-- The physical address an address reaches, `none` for an absent unit (00 R4). -/
def resolve (s : State) (a : Nat) : Option Nat := if (compatOff s a).isSome then none else target s a

/-- Log a power event (15 T15-11). -/
def pwrEv (cause before after f w3 : Nat) (s : State) : State :=
  logEv 9 0 cause (before <<< 8 ||| after <<< 11 ||| f <<< 14) (if jobLoaded s then s.cmt.step.toNat else 0) w3 s

/-- Log an access to an absent unit (00 R4, 14 R386); to an off field in compat mode with its own cause too (15 T15-6). -/
def absentEv (ag : Agent) (a : Nat) (s0 : State) : State :=
  let s := match compatOff s0 a with
    | some f => pwrEv 0xC7 0 0 f a s0
    | none => s0
  let go (src n kind idx : Nat) := logEv src 0 0xB8 (ag.reqId <<< 8) a (n ||| kind <<< 8 ||| idx <<< 12) s
  match ag with
  | .host _ => go 6 0 0 0
  | .strm n q _ => go 0 n 1 q
  | .eng n m _ _ _ => go 0 n 2 m
  | .dma n ch _ _ => go 7 n 3 ch
  | .core n c _ _ _ => go 8 n 4 c
  | .watch k n => go 6 n 5 k
  | .remote n => go 5 n 6 0
  | .debug => go 11 0 7 0
  | .unit => go 7 0 8 0

/-! ## Sparse storage -/

/-- The value at a key, 0 where none is listed. -/
def Sparse.get {w : Nat} : Sparse w → Nat → BitVec w
  | [], _ => 0
  | (k, v) :: m, a => if k == a then v else Sparse.get m a

/-- Store a value at a key, keeping keys rising and listing no 0. -/
def Sparse.set {w : Nat} : Sparse w → Nat → BitVec w → Sparse w
  | [], a, x => if x == 0 then [] else [(a, x)]
  | (k, v) :: m, a, x =>
    if a < k then (if x == 0 then (k, v) :: m else (a, x) :: (k, v) :: m)
    else if a == k then (if x == 0 then m else (a, x) :: m)
    else (k, v) :: Sparse.set m a x

/-- Keys strictly rise from above `lo`, and no value is 0. -/
def Sparse.okFrom {w : Nat} : Option Nat → Sparse w → Bool
  | _, [] => true
  | lo, (k, v) :: m => (match lo with
      | none => true
      | some l => l < k) && v != 0 && Sparse.okFrom (some k) m

/-- The canonical form (the MEMORY rule of the model: equal contents are equal lists). -/
def Sparse.wf {w : Nat} (m : Sparse w) : Bool := Sparse.okFrom none m

/-- The memory is in canonical form. -/
def Mem.wf (m : Mem) : Bool := m.bytes.wf

def Mem.get (m : Mem) (a : Nat) : Byte := Sparse.get m.bytes a

/-- Consecutive bytes from `a`. -/
def Mem.gets (m : Mem) (a : Nat) : Nat → List Byte
  | 0 => []
  | k + 1 => m.get a :: m.gets (a + 1) k

def Sparse.sets {w : Nat} (m : Sparse w) (a : Nat) : List (BitVec w) → Sparse w
  | [] => m
  | x :: xs => Sparse.sets (Sparse.set m a x) (a + 1) xs

/-- The physical address lies in HBM. -/
def isHbm (p : Nat) : Bool := p < hbmEnd

/-- A byte's location is uncorrectable (07 R154, R161, R391). -/
def Mem.bad (m : Mem) (p : Nat) : Bool :=
  if isHbm p then m.badLines.contains (p / 64) else m.badWords.contains (p / 8)

/-! ## Reading -/

/-- Count an uncorrectable HBM line and record it (07 R161, T7-7). -/
def noteUncorr (p : Nat) (scrub : Bool) (s : State) : State :=
  let (k, pch, _) := hbmPlace s p
  { s with hbm := s.hbm.modify k fun h => { h with
      cntUncorr := satAdd h.cntUncorr 1,
      lastAddr := BitVec.ofNat 44 (p / 64 * 64), lastPch := BitVec.ofNat 6 pch, byScrub := scrub } }

/-- An uncorrectable read by an agent: its device fault (07 R154, R161). -/
def badRead (ag : Agent) (a p : Nat) (s : State) : State :=
  if isHbm p then memFaultEv ag 0x43 a (noteUncorr p false s) else memFaultEv ag 0x42 a s

/-- The bytes an agent reads within one 64-byte line; `none` after an uncorrectable read. Reads of absent units give zeros and
log one event (00 R4). -/
def readPiece (ag : Agent) (a n : Nat) (s : State) : State × Option (List Byte) :=
  match resolve s a with
  | none => (absentEv ag a s, some (List.replicate n 0))
  | some p =>
    match (List.range n).find? fun i => s.mem.bad (p + i) with
    | some i => (badRead ag (a + i) (p + i) s, none)
    | none => (s, some (s.mem.gets p n))

/-- Read by lines, at most `fuel` of them; stops at the first uncorrectable one. -/
def readGo (ag : Agent) : Nat → Nat → Nat → State → State × Option (List Byte)
  | 0, _, _, s => (s, some [])
  | fuel + 1, a, n, s =>
    if n == 0 then (s, some [])
    else
      let k := min n (64 - a % 64)
      match readPiece ag a k s with
      | (s1, none) => (s1, none)
      | (s1, some bs) =>
        match readGo ag fuel (a + k) (n - k) s1 with
        | (s2, none) => (s2, none)
        | (s2, some cs) => (s2, some (bs ++ cs))

/-- The bytes an agent reads, with the events of the read; `none` where a location is uncorrectable. -/
def readMem (ag : Agent) (a n : Nat) (s : State) : State × Option (List Byte) := readGo ag (n / 64 + 2) a n s

/-- A device unit's read of a range: absent units (00 R4) and uncorrectable locations (07 R154, R161) are logged. -/
def probe (a n : Nat) (s : State) : State := (readMem .unit a n s).1

/-- What a read finds at an address: 0 of an absent unit (00 R4), no data of an uncorrectable location (07 R154, R161: a free value). -/
def peekByte (s : State) (a : Nat) : Byte :=
  match resolve s a with
  | none => 0
  | some p => if s.mem.bad p then Config.noData s.nonce p else s.mem.get p

/-- What a unit that goes on after a failing read finds in a range (log entry 55): the events of the read are `probe`'s. -/
def peek (s : State) (a n : Nat) : List Byte := (List.range n).map fun i => peekByte s (a + i)

/-- A unit's read of a range: its events, and what it finds. -/
def look (a n : Nat) (s : State) : State × List Byte := (probe a n s, peek s a n)

/-- The events of a unit's reads of several ranges. -/
def probes (rs : List (Nat × Nat)) (s : State) : State := rs.foldl (fun t (a, n) => probe a n t) s

/-- The little-endian word at an address. -/
def peekWord (s : State) (a : Nat) : Word := BitVec.ofNat 64 (natOf (peek s a 8))
def peekWords (s : State) (a n : Nat) : List Word := (List.range n).map fun i => peekWord s (a + 8 * i)

/-! ## Writing -/

/-- Store bytes at a physical address, with no check. -/
def poke (p : Nat) (bs : List Byte) (s : State) : State :=
  { s with mem := { s.mem with bytes := Sparse.sets s.mem.bytes p bs } }

/-- HBM lines and words of store and scratch are written whole: they become readable, and lines leave the poison lists (07 R162, R391). -/
def healBy (line word : Nat → Bool) (s : State) : State :=
  { s with
    mem := { s.mem with badLines := s.mem.badLines.filter fun l => !line l, badWords := s.mem.badWords.filter fun w => !word w }
    hbm := s.hbm.map fun h => { h with poison := h.poison.filter fun l => !line l } }

/-- The lines and words that a range covers whole are written. -/
def heal (p n : Nat) (s : State) : State :=
  healBy (fun l => p ≤ l * 64 && l * 64 + 64 ≤ p + n) (fun w => p ≤ w * 8 && w * 8 + 8 ≤ p + n) s

/-- Write bytes within one line of HBM (07 R391). -/
def writeHbm (p : Nat) (bs : List Byte) (s : State) : State :=
  let line := p / 64
  if s.mem.badLines.contains line then
    if bs.length == 64 then poke p bs (heal p 64 s)
    else
      let (k, _) := hbmPlace s p
      { s with hbm := s.hbm.modify k fun h => { h with cntUncorr := satAdd h.cntUncorr 1 } }
  else poke p bs s

/-- Write one byte group within one 64-bit word of store or scratch (07 R391). -/
def writeWord (p : Nat) (bs : List Byte) (s : State) : State :=
  if s.mem.badWords.contains (p / 8) then
    if bs.length == 8 then poke p bs { s with mem := { s.mem with badWords := s.mem.badWords.filter (· != p / 8) } } else s
  else poke p bs s

/-- Write bytes of store or scratch by 64-bit words, at most `fuel` of them. -/
def writeStore : Nat → Nat → List Byte → State → State
  | 0, _, _, s => s
  | fuel + 1, p, bs, s =>
    if bs.isEmpty then s
    else
      let k := 8 - p % 8
      writeStore fuel (p + min k bs.length) (bs.drop k) (writeWord p (bs.take k) s)

/-- Write at a physical address within one line. -/
def writePhys (p : Nat) (bs : List Byte) (s : State) : State :=
  if isHbm p then writeHbm p bs s else writeStore 9 p bs s

/-- Offset of window `k` in a snapshot image (11 T11-1). -/
def imageOff (s : State) (k : Nat) : Nat :=
  4096 + ((s.win.take k).filter (·.en)).foldl (fun x w => x + w.bytes) 0

/-- Bytes of all window images. -/
def winBytes (s : State) : Nat := (s.win.filter (·.en)).foldl (fun x w => x + w.bytes) 0

/-- Base of a local slot, and of the slot being written. -/
def slotBase (s : State) (k : Bool) : Nat := 4096 * (if k then s.snap.slot1 else s.snap.slot0).toNat

/-- Advance the coverage entry of line `i` of the window images (11 R243): an indivisible read-modify-write. -/
def coverage (i : Nat) (s : State) : State :=
  let p := 4096 * s.snap.map.toNat + i / 4
  let sh := 2 * (i % 4)
  if s.mem.bad p then badRead .unit p p s
  else
    let b := (s.mem.get p).toNat
    let v := b >>> sh % 4
    if v < 2 then poke p [BitVec.ofNat 8 (b + 1 <<< sh)] s else s

/-- The snapshot tap: a whole-line write to the next alias in a snapshot step is written to the target slot too (11 R242). -/
def tap (o : Nat) (bs : List Byte) (s : State) : State :=
  if s.snap.phase == 1 && bs.length == 64 && o % 64 == 0 then
    match winAt s o with
    | none => s
    | some (k, w) =>
      let off := imageOff s k + (o - w.start)
      let s1 := writePhys (slotBase s s.snap.targetSlot + off) bs s
      coverage ((off - 4096) / 64) { s1 with srun := { s1.srun with cntTapBytes := satAdd s1.srun.cntTapBytes 64 } }
  else s

/-- Write bytes within one 64-byte line: aliases and EPOCH (06 R137), absent units (00 R4), the tap (11 R242). -/
def writePiece (ag : Agent) (a : Nat) (bs : List Byte) (s : State) : State :=
  match resolve s a with
  | none => absentEv ag a s
  | some p =>
    match regionOf a with
    | .cur => aliasEv ag a s
    | .nxt =>
      let ok := match ag.thl with
        | some n => (thlOf s n).epochOpen
        | none => false
      if ok then tap (a - nextBase) bs (writePhys p bs s) else aliasEv ag a s
    | _ => writePhys p bs s

/-- Write by lines, at most `fuel` of them. -/
def writeGo (ag : Agent) : Nat → Nat → List Byte → State → State
  | 0, _, _, s => s
  | fuel + 1, a, bs, s =>
    if bs.isEmpty then s
    else
      let k := 64 - a % 64
      writeGo ag fuel (a + min k bs.length) (bs.drop k) (writePiece ag a (bs.take k) s)

/-- An agent writes bytes. -/
def writeMem (ag : Agent) (a : Nat) (bs : List Byte) (s : State) : State := writeGo ag (bs.length / 64 + 2) a bs s

/-- A read-modify-write by a unit: where the read is uncorrectable nothing is written (07 R391). -/
def modMem (a n : Nat) (f : List Byte → List Byte) (s : State) : State :=
  match readMem .unit a n s with
  | (s1, none) => s1
  | (s1, some bs) => writeMem .unit a (f bs) s1

/-- Firmware or another unit of the device writes words. -/
def writeWords (a : Nat) (ws : List Word) (s : State) : State := writeMem .unit a (bytesOfWords ws) s

/-- The little-endian 32-bit value at an address, by an agent. -/
def read32 (ag : Agent) (a : Nat) (s : State) : State × Option W32 :=
  match readMem ag a 4 s with
  | (s1, none) => (s1, none)
  | (s1, some bs) => (s1, some (BitVec.ofNat 32 (natOf bs)))

/-! ## Throttle gates (01 R17) -/

/-- Tokens per 100 ns that gate `i` admits: of fields 0 to 3, and of the link bridges. -/
def gateOf (s : State) (i : Nat) : Nat := s.prun.gates.getD i 0
def linkGate (s : State) : Nat := gateOf s 4

/-- The gate of the units of thallus `n`, which have let `used` tokens through in the current window, admits another (log entry 73). -/
def gateOpen (s : State) (n used : Nat) : Bool := used < gateOf s (fieldOf s n)

/-! ## Pegs (06 R127, R128) -/

/-- Value of a peg. -/
def pegOf (s : State) (n p : Nat) : Nat := ((thlOf s n).peg.getD p 0).toNat

/-- A waiting stream tests its condition (06 R128): met, it goes on after the PEGWAIT. -/
def wakeStrm (p : Nat) (v : Nat) (q : Stream) : Stream :=
  if q.state == .pegWait && q.waitPeg.toNat == p && q.waitTarget.toNat ≤ v then
    { q with state := .running, waitTimer := none, pc := (q.pc + 8) % 2 ^ 44, waitPeg := 0 }
  else q

/-- A waiting core tests its condition (08 R187). -/
def wakeCore (p : Nat) (v : Nat) (c : Core) : Core :=
  if c.state == .pegWait && c.waitPeg.toNat == p && c.waitTarget.toNat ≤ v then
    { c with state := .running, waitTimer := none, pc := (c.pc + 8) % 2 ^ 44, waitPeg := 0 }
  else c

/-- Add to a peg of thallus `n` and test the waits on it. `agent` is the posting agent of 06 R127; `q` and `ia` name the stream
and instruction of a PEGPOST (3 and 0 for every other agent). -/
def postPeg (n p amount agent q ia : Nat) (s : State) : State :=
  let v := pegOf s n p
  let sat := 0xFFFFFFFF < v + amount
  let v' := min (v + amount) 0xFFFFFFFF
  let first := sat && !(thlOf s n).pegSat.getLsbD p
  let s1 := modThl n (fun t => { t with
      peg := setAt 64 p (BitVec.ofNat 32 v') t.peg,
      pegSat := if sat then t.pegSat ||| BitVec.ofNat 64 (2 ^ p) else t.pegSat,
      strm := t.strm.map (wakeStrm p v'), core := t.core.map (wakeCore p v') }) s
  if first then fault 0 0x32 (engW0 n 0 q 0 false) ia (p ||| agent <<< 8) s1 else s1

end Sys2Proof.Machine
end

