-- ==== Sys2Proof/Machine/Crypto.lean ====
section
/-! DEFINITION. SHA-256 (FIPS 180-4) and RSASSA-PSS verification (RFC 8017) with the parameters of 16 R326: SHA-256, MGF1 with
SHA-256, a salt of 32 bytes, a 3,072-bit modulus. -/

namespace Sys2Proof.Machine

open Sys2Proof

/-- Big-endian number of octets. -/
def beNat (bs : List Byte) : Nat := bs.foldl (fun x b => x * 256 + b.toNat) 0

/-- The `k` big-endian octets of a number. -/
def beBytes (k x : Nat) : List Byte := (bytesOf k x).reverse

/-! ## SHA-256 -/

/-- The largest root `r + x` with `x` below `2 ^ bits` whose `k`-th power does not exceed `n`. -/
def rootFrom (k n : Nat) : Nat → Nat → Nat
  | 0, r => r
  | bits + 1, r => rootFrom k n bits (bif ((r + 2 ^ bits) ^ k).ble n then r + 2 ^ bits else r)

/-- The first 32 bits of the fractional part of the `k`-th root of `p`, for a root below 32. -/
def rootFrac (k p : Nat) : W32 := BitVec.ofNat 32 (rootFrom k (p * 2 ^ (32 * k)) 37 0)

/-- The primes below 312: there are 64. -/
def primes64 : List Nat :=
  (List.range 312).filter fun p => Nat.ble 2 p && [2, 3, 5, 7, 11, 13, 17].all fun d => Nat.ble p d || !(p % d).beq 0

/-- The round constants: cube roots of the first 64 primes (FIPS 180-4 4.2.2). -/
def shaK : List W32 := primes64.map (rootFrac 3)

/-- The initial hash: square roots of the first 8 primes (FIPS 180-4 5.3.3). -/
def shaInit : List W32 := (primes64.take 8).map (rootFrac 2)

/-- The padding of a message of `n` bytes: a one bit, zeros, the length in bits. -/
def shaPad (n : Nat) : List Byte := 0x80 :: List.replicate ((119 - n % 64) % 64) 0 ++ beBytes 8 (8 * n)

/-- The message schedule from its first 16 words, newest first: `k` words more. -/
def shaSchedule : Nat → List W32 → List W32
  | 0, ws => ws
  | k + 1, ws =>
    let at_ (i : Nat) : W32 := ws.getD i 0
    let s0 := (at_ 14).rotateRight 7 ^^^ (at_ 14).rotateRight 18 ^^^ (at_ 14 >>> 3)
    let s1 := (at_ 1).rotateRight 17 ^^^ (at_ 1).rotateRight 19 ^^^ (at_ 1 >>> 10)
    shaSchedule k ((at_ 15 + s0 + at_ 6 + s1) :: ws)

/-- One round on the working variables a to h. -/
def shaRound (v : List W32) (kw : W32 × W32) : List W32 :=
  let at_ (i : Nat) : W32 := v.getD i 0
  let a := at_ 0; let b := at_ 1; let c := at_ 2; let e := at_ 4
  let t1 := at_ 7 + (e.rotateRight 6 ^^^ e.rotateRight 11 ^^^ e.rotateRight 25) + ((e &&& at_ 5) ^^^ (~~~e &&& at_ 6)) + kw.1 + kw.2
  let t2 := (a.rotateRight 2 ^^^ a.rotateRight 13 ^^^ a.rotateRight 22) + ((a &&& b) ^^^ (a &&& c) ^^^ (b &&& c))
  [t1 + t2, a, b, c, at_ 3 + t1, e, at_ 5, at_ 6]

/-- One block of 64 bytes. -/
def shaBlock (h : List W32) (block : List Byte) : List W32 :=
  let first := (chunks 4 16 block).map fun c => BitVec.ofNat 32 (beNat c)
  let ws := (shaSchedule 48 first.reverse).reverse
  List.zipWith (· + ·) h ((shaK.zip ws).foldl shaRound h)

/-- SHA-256 of bytes, as its 32 octets. -/
def sha256 (bs : List Byte) : List Byte :=
  let m := bs ++ shaPad bs.length
  ((chunks 64 (m.length / 64 + 1) m).foldl shaBlock shaInit).flatMap fun w => beBytes 4 w.toNat

/-- A digest as a 256-bit value, first octet most significant. -/
def digest (bs : List Byte) : BitVec 256 := BitVec.ofNat 256 (beNat (sha256 bs))

/-! ## RSASSA-PSS -/

/-- `b ^ e mod n` by squaring, over the bits of `e` (at most `fuel`). -/
def powMod (n : Nat) : Nat → Nat → Nat → Nat
  | 0, _, _ => 1 % n
  | fuel + 1, b, e => if e == 0 then 1 % n else
      let r := powMod n fuel (b * b % n) (e / 2)
      if e % 2 == 1 then r * b % n else r

/-- MGF1 with SHA-256. -/
def mgf1 (seed : List Byte) (len : Nat) : List Byte :=
  ((List.range (len / 32 + 1)).flatMap fun i => sha256 (seed ++ beBytes 4 i)).take len

/-- The signature verifies over the message digest, under a modulus and exponent given as octets (16 R326). -/
def pssVerify (modulus exponent signature mhash : List Byte) : Bool :=
  let n := beNat modulus
  let s := beNat signature
  if n == 0 || n ≤ s then false
  else
    let nbits := n.log2 + 1
    let embits := nbits - 1
    let emlen := (embits + 7) / 8
    let em := beBytes emlen (powMod n 40 s (beNat exponent))
    let big := powMod n 40 s (beNat exponent)
    let maskedDb := em.take (emlen - 33)
    let h := (em.drop (emlen - 33)).take 32
    let db0 := List.zipWith (· ^^^ ·) maskedDb (mgf1 h (emlen - 33))
    let db := beBytes (emlen - 33) (beNat db0 % 2 ^ (embits - 8 * 33))
    emlen ≥ 66 && big < 2 ^ embits && em.getLast? == some 0xBC &&
      db.take (emlen - 66) == List.replicate (emlen - 66) 0 && (db.drop (emlen - 66)).head? == some 0x01 &&
      sha256 (List.replicate 8 0 ++ mhash ++ db.drop (emlen - 65)) == h

end Sys2Proof.Machine
end

