-- ==== Sys2Proof/Machine/Domains.lean ====
section
/-! DEFINITION. Power domains that are off, and requests that meet one (15 R307, R308). Log entry 31. -/

namespace Sys2Proof.Machine

open Sys2Proof

/-- Field `f` has an enabled thallus. -/
def fieldUsed (s : State) (f : Nat) : Bool := s.caps.thlField.getD f 0 != 0

/-- Set or clear bit `f` of a mask of fields. -/
def setBit4 (x : BitVec 4) (f : Nat) (b : Bool) : BitVec 4 :=
  if b then x ||| BitVec.ofNat 4 (2 ^ f) else x &&& ~~~(BitVec.ofNat 4 (2 ^ f))

/-! ## Requests at a clamp (15 R307, R308) -/

/-- The domain that a physical address lies in, where it is off or in self-refresh. -/
def sleeper (s : State) (p : Nat) : Option Admit :=
  match regionOf p with
  | .hbm => let f := (hbmPlace s p).1 / 3; if hbmIsActive s f then none else some (.hbm f)
  | .store n | .scratch n _ => let f := fieldOf s n; if fieldIsOn s f then none else some (.field f)
  | _ => none

/-- An address of thallus `n`: the address by which a request that carries none (a peg post, ACT_LOAD) asks for the thallus's field
(log entry 72). -/
def thlAddr (n : Nat) : Nat := storeBase + 0x1000000 * n

/-- The sleeping domain that an access of `n` bytes at a device address meets, with the address that meets it. -/
def sleeping (s : State) (a n : Nat) : Option (Admit × Nat) :=
  ((List.range (n / 64 + 2)).map fun i => if i == 0 then a else min (a / 64 * 64 + 64 * i) (a + n - 1)).findSome? fun b =>
    (resolve s b).bind fun p => (sleeper s p).map fun d => (d, b)

def Admit.fieldIdx : Admit → Nat
  | .field f | .hbm f | .group f _ => f
  | .link l => l / 8
  | .slice => 0

/-- A request held at a clamp wants its target woken. -/
def want (a : Nat) (s : State) : State :=
  if s.prun.wants.contains a then s else { s with prun := { s.prun with wants := s.prun.wants ++ [a] } }

/-! ## Idle timers (15 R309) -/

/-- Interval of automatic field sleep (15 R309). -/
def idleNs (s : State) : Nat := 1000000 * s.pwr.idleMs.toNat

/-- A request has reached a field's core or its stacks: its idle time begins anew. -/
def touchField (f : Nat) (core : Bool) (s : State) : State :=
  { s with prun := { s.prun with
      idle := if core then s.prun.idle.set f (some 0) else s.prun.idle
      hbmIdle := if core then s.prun.hbmIdle else s.prun.hbmIdle.set f (some 1000000) } }

/-- A request of `n` bytes has reached memory: its field's core or stacks are not idle. -/
def touchMem (a n : Nat) (s : State) : State :=
  [a, a + n - 1].foldl (fun t b => match (resolve s b).map fun p => (regionOf p, p) with
    | some (.hbm, p) => touchField ((hbmPlace s p).1 / 3) false t
    | some (.store k, _) | some (.scratch k _, _) => touchField (fieldOf s k) true t
    | _ => t) s

/-! ## Asking for load steps (15 R317) -/

/-- Fused load of a step in W (15 R317): a field core as fused, stacks 25 W and the groups of start-up self-test as 17 T17-1 gives, a
slice 6 W (17 R360). -/
def stepLoad (s : State) : Admit → Nat
  | .field f => s.part.fieldLoad.getD f 75
  | .hbm _ => 25
  | .slice => 6
  | .link _ => Config.retrainLoad
  | .group f phase => if phase == 1 then s.part.fieldLoad.getD f 75 else [20, 24, 10, 25, 20].getD (phase - 2) 0

/-- The load step is ramped rather than met at once: a field power-up (17 T17-1). -/
def Admit.ramped : Admit → Bool
  | .field _ => true
  | .group _ phase => phase == 1
  | _ => false

/-- The step already waits for its admission, or is under way. -/
def askedFor (s : State) (d : Admit) : Bool :=
  s.prun.loadSteps.any (fun (_, a, _) => a == d) || match d with
    | .field f => s.prun.waking.getLsbD f
    | .hbm f => s.prun.hbmWaking.getLsbD f
    | .slice => s.bist.sliceBusy
    | .link l => (linkOf s l).state == .training
    | .group _ _ => s.bist.groupOn

/-- Ask for a load step with a priority: 0 wakes on access, 1 other wakes, retrains and start-up groups, 2 slices (15 R317). A wake that
already waits at a lower priority takes the higher one. -/
def ask (prio : Nat) (d : Admit) (s : State) : State :=
  if askedFor s d then
    { s with prun := { s.prun with loadSteps := s.prun.loadSteps.map fun (p, a, w) => (if a == d then min p prio else p, a, w) } }
  else { s with prun := { s.prun with loadSteps := s.prun.loadSteps ++ [(prio, d, stepLoad s d)] } }

end Sys2Proof.Machine
end

