-- ==== Sys2Proof/Machine/Fabric.lean ====
section
/-! DEFINITION. Sending over ScavenLink: routes (13 R273), outstanding transactions (13 R271), acknowledgements (13 R270). -/

namespace Sys2Proof.Machine

open Sys2Proof

/-- The entry of the routing table in force for a device (13 T13-6). -/
def rtEntry (s : State) (dst : Nat) : W32 := Sparse.get s.lnk.rt dst

/-- The link is in service (13 R266). -/
def linkUp (s : State) (l : Nat) : Bool := hasLink s l && (linkOf s l).state == .up

/-- The link that a transaction takes at this hop: primary if up, else alternate (13 R273). -/
def routeLink (s : State) (dst : Nat) : Option Nat :=
  let e := rtEntry s dst
  let port := field e 4 0
  let alt := field e 10 6
  if bit e 5 && linkUp s port then some port
  else if bit e 11 && linkUp s alt then some alt
  else none

/-- End-to-end timeout in ns (13 R271). -/
def e2eTmo (s : State) : Nat := 80000 * s.lnk.rtMaxHops.toNat + 100000

/-- Number of outstanding transactions whose first hop is link `l`. -/
def outstanding (s : State) (l : Nat) : Nat := (s.lnk.txns.filter fun x => x.txn.tid / 256 == l).length

/-- Lowest free slot of link `l`. -/
def freeSlot (s : State) (l : Nat) : Option Nat :=
  (List.range 256).find? fun i => !s.lnk.txns.any fun x => x.txn.tid == l * 256 + i

/-- Payload slots of a reduction message (09 R207; the payload lengths of the kinds that are not cut: log entry 18). -/
def redSlots : RedBody → Nat
  | .seal _ _ _ _ _ _ => 64
  | .data _ _ _ vals | .ring _ vals | .result _ vals => 1 + (vals.length + 3) / 4
  | .record _ _ blocks => 1 + 8 * blocks.length
  | .shardSum _ _ | .final _ => 4
  | .esc => 0
  | .announce _ _ _ | .grant _ _ | .dataEnd _ _ _ => 1

/-- Payload slots of a transaction (13 T13-4, T13-5). -/
def txnSlots (t : Txn) : Nat :=
  match t.body with
  | .write _ bs => (bs.length + 15) / 16
  | .red _ b => redSlots b
  | .commit _ _ => 1
  | .ack _ => 3
  | .writeFin _ _ | .nack _ _ => 0

/-- Header word 0 (13 T13-4). -/
def txnWord0 (t : Txn) : Nat :=
  let type := match t.body with
    | .write _ _ => 1
    | .writeFin _ _ => 2
    | .red _ _ => 3
    | .commit _ _ => 4
    | .ack _ => 5
    | .nack _ _ => 6
  type ||| t.dst <<< 4 ||| t.src <<< 18 ||| txnSlots t <<< 32 ||| t.tid <<< 40

/-- Log the end of a transaction by NACK (0x94) or loss (0x95), at most one event per 1 ms and cause (13 R271). -/
def lostEv (cause : Nat) (t : Txn) (s : State) : State :=
  let s1 := { s with lnk := { s.lnk with cntLost := satAdd s.lnk.cntLost 1 } }
  let armed := if cause == 0x94 then s.lnk.evt94 else s.lnk.evt95
  if armed.isSome then s1
  else
    let s2 := logEv 5 0 cause ((t.tid / 256 % 32) <<< 8 ||| t.dst <<< 13) (if jobLoaded s then s.cmt.step.toNat else 0) (txnWord0 t) s1
    { s2 with lnk := if cause == 0x94 then { s2.lnk with evt94 := some 1000000 } else { s2.lnk with evt95 := some 1000000 } }

/-- The owner of a transaction learns that it ended without acknowledgement: a DMA descriptor ends failed (07 R158), a mirror
write can no longer be acknowledged in time (11 R250), a push ends with state 3 (log entry 19). -/
def txFailed (x : OutTxn) (s : State) : State :=
  match x.owner with
  | .dma n ch => modDma n ch (fun q => q.map fun d =>
      if d.remote && d.started && !d.finDone then { d with failed := true, unsent := [] } else d) s
  | .mirror => { s with srun := { s.srun with mirLost := some (match s.srun.mirLost with
      | some r => min r (1000000 * s.snap.mirTmo.toNat - x.age)
      | none => 1000000 * s.snap.mirTmo.toNat - x.age) } }
  | .push => { s with snap := { s.snap with pushState := 3 }, srun := { s.srun with pushStage := 0 } }
  | _ => s

/-- Hand a transaction to a link with a free slot. -/
def launch (l slot : Nat) (x : OutTxn) (s : State) : State :=
  let t := { x.txn with tid := l * 256 + slot }
  let s1 := { s with lnk := { s.lnk with txns := s.lnk.txns ++ [{ x with txn := t, timer := some (e2eTmo s) }] } }
  emit (.txn t) (modLink l (fun k => { k with txq := k.txq ++ [t] }) s1)

/-- An originated transaction takes its route (13 R271, R273): none ends it as NACKed; it waits where the link holds 256 or an earlier
one waits for the same link (01 R28). Answers the transaction identifier, where it has one. -/
def place (x : OutTxn) (s : State) : State × Option Nat :=
  match routeLink s x.txn.dst with
  | none =>
    let s1 := lostEv 0x94 x.txn s
    (txFailed x { s1 with lnk := { s1.lnk with cntUnroutable := satAdd s1.lnk.cntUnroutable 1 } }, none)
  | some l =>
    match if s.lnk.waiting.any fun y => routeLink s y.txn.dst == some l then none else freeSlot s l with
    | some k => (launch l k x s, some (l * 256 + k))
    | none => ({ s with lnk := { s.lnk with waiting := s.lnk.waiting ++ [x] } }, none)

/-- Send a transaction to another device; to this device itself it goes to the output record and comes back as a command
(log entry 10), a WRITE with an identifier of its own above the links'. Answers the transaction identifier, where it has one. -/
def sendTxn (dst : Nat) (body : TxnBody) (o : TxOwner) (s : State) : State × Option Nat :=
  if dst == self s then
    match body with
    | .write _ _ =>
      let k := s.lnk.txns.foldl (fun m x => max m (x.txn.tid + 1)) 8192
      let t : Txn := ⟨dst, dst, k, body⟩
      (emit (.txn t) { s with lnk := { s.lnk with txns := s.lnk.txns ++ [{ txn := t, owner := o }] } }, some k)
    | _ => (emit (.txn ⟨dst, dst, 0, body⟩) s, none)
  else place { txn := ⟨dst, self s, 0, body⟩, owner := o } s

/-- The identifiers of two ACKs of this device to one destination, where one ACK can carry them all: at most 24 (13 R270). -/
def joinAck (src dst : Nat) (body : TxnBody) (t : Txn) : Option Txn :=
  match body, t.body with
  | .ack new, .ack old =>
    if t.src == src && t.dst == dst && old.length + new.length ≤ 24 then some { t with body := .ack (old ++ new) } else none
  | _, _ => none

/-- A reply joins a transaction that has not started, or queues behind. -/
def enqueueReply (src dst : Nat) (body : TxnBody) : List Txn → List Txn
  | [] => [⟨dst, src, 0, body⟩]
  | t :: ts =>
    match joinAck src dst body t with
    | some u => u :: ts
    | none => t :: enqueueReply src dst body ts

/-- ACK and NACK are not themselves acknowledged: they take the route and are not outstanding; an ACK joins one that has not yet
started (13 R270, R271). -/
def sendReply (dst : Nat) (body : TxnBody) (s : State) : State :=
  match routeLink s dst with
  | none => { s with lnk := { s.lnk with cntUnroutable := satAdd s.lnk.cntUnroutable 1 } }
  | some l => modLink l (fun k => { k with txq := enqueueReply (self s) dst body k.txq }) s

/-- Virtual channel of a transaction (13 T13-3). -/
def txnVc (t : Txn) : Nat :=
  match t.body with
  | .commit _ _ => 0
  | .ack _ | .nack _ _ => 1
  | .red _ _ => 2
  | .write _ _ | .writeFin _ _ => 3

/-- A received transaction leaves a link's buffer: its slots are freed and their credits are owed (13 R267). -/
def freeRx (l : Nat) (t : Txn) (s : State) : State :=
  modLink l (fun k => { k with
    rxq := k.rxq.erase t, owe := 2
    crFreed := k.crFreed.modify (txnVc t) fun c => (c + 1 + txnSlots t) % 4096 }) s

/-- Take a received transaction that satisfies `p` from the links and acknowledge it (13 R270). -/
def takeRx (p : Txn → Bool) (ok : Bool) (reason : Nat) (s : State) : State :=
  match s.lnk.link.zipIdx.findSome? fun (k, l) => (k.rxq.find? p).map fun t => (l, t) with
  | none => s
  | some (l, t) =>
    let s1 := freeRx l t s
    sendReply t.src (if ok then .ack [t.tid] else .nack t.tid reason) s1

/-- Acknowledge the reduction message that carries this tag word and body. -/
def ackRed (tag : Word) (body : RedBody) (s : State) : State := takeRx (fun t => t.body == .red tag body) true 0 s

/-- Reduction messages that waited for what they build on are discarded and acknowledged (13 R270). -/
def ackAll (ms : List (Word × RedBody)) (s : State) : State := ms.foldl (fun t (tag, body) => ackRed tag body t) s

/-- Acknowledge the commit token. -/
def ackCommit (src : Nat) (w0 w1 : Word) (s : State) : State :=
  takeRx (fun t => t.src == src && t.body == .commit w0 w1) true 0 s

/-- Transactions held at the bound of 256 of their link take their routes again, oldest first (01 R28): each goes on as a slot of its
link frees, and one that has lost its route ends as NACKed (13 R271). -/
def unhold (s : State) : State :=
  s.lnk.waiting.foldl (fun t x => (place x t).1) { s with lnk := { s.lnk with waiting := [] } }

end Sys2Proof.Machine
end

