-- ==== Sys2Proof/Machine/Snap.lean ====
section
/-! DEFINITION. Spore snapshots (11): requests and arming, sealing, the partner mirror, the host drain and the push. -/

namespace Sys2Proof.Machine

open Sys2Proof

/-- Log a snapshot event (11 T11-12). -/
def snapEv (cause slot dev w3 : Nat) (s : State) : State :=
  logEv 4 0 cause (slot <<< 8 ||| dev <<< 9) s.cmt.step.toNat w3 s

/-- Number of layers and of buckets of the job. -/
def nLayers (s : State) : Nat := s.gov.nLayersM1.toNat + 1
def nBuckets (s : State) : Nat := s.rdx.nBucketsM1.toNat + 1

/-- slot_bytes of 11 R244. -/
def slotBytes (s : State) : Nat :=
  (4096 + winBytes s + 256 * nLayers s + 8 * nBuckets s + 4095) / 4096 * 4096

/-- Bytes of the image without rounding. -/
def imageBytes (s : State) : Nat := 4096 + winBytes s + 256 * nLayers s + 8 * nBuckets s

/-- Zero a range of physical memory (what it covers whole becomes readable, 07 R391). -/
def zeroPhys (p n : Nat) (s : State) : State :=
  let s1 := heal p n s
  { s1 with mem := { s1.mem with bytes := s1.mem.bytes.filter fun (a, _) => !(p ≤ a && a < p + n) } }

/-- Zero a range named by a device address. -/
def zeroMem (a n : Nat) (s : State) : State :=
  match resolve s a with
  | none => absentEv .unit a s
  | some p => zeroPhys p n s

/-- The first uncorrectable HBM line of a range. -/
def badIn (s : State) (p n : Nat) : Option Nat := s.mem.badLines.find? fun l => p < l * 64 + 64 && l * 64 < p + n

/-- Bytes of the coverage map (11 R243). -/
def mapBytes (s : State) : Nat := winBytes s / 256

/-- Clear the coverage map. -/
def clearMap (s : State) : State := zeroPhys (4096 * s.snap.map.toNat) (mapBytes s) s

/-- A snapshot is in progress (11 R249). -/
def snapBusy (s : State) : Bool := s.snap.phase != 0

/-- The snapshot interval in ns, where one is set. -/
def snapPeriod (s : State) : Timer :=
  if s.snap.periodS == 0 then none else some (1000000000 * s.snap.periodS.toNat)

/-- Arm the pending request at a step start, or count it as held (11 R240, R241). -/
def armSnap (s : State) : State :=
  if !s.snap.pend then s
  else if snapBusy s || s.snap.disarmed then
    { s with srun := { s.srun with cntHeld := satAdd s.srun.cntHeld 1 } }
  else
    let slot := s.snap.latestValid && !s.snap.latestSlot
    let s1 := zeroPhys (slotBase s slot) 4096 s
    snapEv 0x80 (b2n slot) 0 0 { s1 with
      snap := { s1.snap with phase := 1, pend := false, targetSlot := slot, mirror := 0, drain := 0 }
      srun := { s1.srun with periodTimer := snapPeriod s1 } }

/-- Abandon the snapshot of an aborted step (11 R248); its request becomes pending again (11 R241). -/
def abandonSnap (again : Bool) (s : State) : State :=
  if s.snap.phase == 1 then
    let s1 := clearMap s
    snapEv 0x82 (b2n s.snap.targetSlot) 0 0 { s1 with
      snap := { s1.snap with phase := 0, pend := s1.snap.pend || again }
      srun := { s1.srun with cntAbandon := satAdd s1.srun.cntAbandon 1 } }
  else s

/-- A snapshot step commits: sealing starts (11 R245). -/
def sealStart (s : State) : State :=
  if s.snap.phase == 1 then
    { s with
      snap := { s.snap with phase := 2 }
      srun := { s.srun with
        fillDone := false, barrier := false, noWait := false, linesFilled := 0
        commitTime := s.time.now, commitStep := s.cmt.step } }
  else s

/-- The first forward barrier after the commit gives the header its loss digest (11 R247). -/
def snapBarrier (s : State) : State :=
  if s.snap.phase == 2 && !s.srun.barrier then
    { s with srun := { s.srun with
        barrier := true, hdrLossStep := s.snap.lossStep, hdrLossCrc := s.snap.lossCrc } }
  else s

/-- In Stopped and on a restart, the header is written without waiting (11 R247, T11-3). -/
def snapNoWait (s : State) : State := { s with srun := { s.srun with noWait := true } }

/-- Mirror and drain run or not: the phase after a change (11 R249). -/
def snapPhase (s : State) : State :=
  if s.snap.phase == 3 && s.snap.mirror != 1 && s.snap.drain != 1 then { s with snap := { s.snap with phase := 0 } } else s

/-! ## Sealing -/

/-- Coverage entry of line `i` of the window images. -/
def coverOf (s : State) (i : Nat) : Nat := (peekByte s (4096 * s.snap.map.toNat + i / 4)).toNat >>> (2 * (i % 4)) % 4

/-- Enabled windows with their numbers. -/
def enWins (s : State) : List (Nat × Win) := s.win.zipIdx.filterMap fun (w, i) => if w.en then some (i, w) else none

/-- Number of lines with coverage 1 among the listed entries of the map. -/
def linesOnce (s : State) : Nat :=
  ((s.mem.bytes.filter fun (a, _) => 4096 * s.snap.map.toNat ≤ a && a < 4096 * s.snap.map.toNat + mapBytes s).map fun (_, b) =>
    ((List.range 4).filter fun j => b.toNat >>> (2 * j) % 4 == 1).length).foldl (· + ·) 0

/-- Fill one window's image from the copy in force, where the coverage entry is 0 or 2 (11 R245 step 1). -/
def fillWin (s0 : State) (k : Nat) (w : Win) (s : State) : State :=
  let src := w.copyBase s0.cmt.epoch
  let off := imageOff s0 k
  let dst := slotBase s0 s0.snap.targetSlot + off
  let fillAt (i : Nat) : Bool := coverOf s0 ((off - 4096) / 64 + i / 64) != 1
  let s1 := healBy (fun l => dst ≤ l * 64 && l * 64 < dst + w.bytes && fillAt (l * 64 - dst)) (fun _ => false) { s with mem := { s.mem with
      bytes := s.mem.bytes.filter fun (a, _) => !(dst ≤ a && a < dst + w.bytes && fillAt (a - dst)) } }
  s0.mem.bytes.foldl (fun t (a, b) => if src ≤ a && a < src + w.bytes && fillAt (a - src) then poke (dst + (a - src)) [b] t else t) s1

/-- The state copies in force of layers and buckets: where each lies, its length, and its place after the window images. -/
def stateCopies (s : State) : List (Nat × Nat × Nat) :=
  let copy := b2n s.cmt.epoch
  ((List.range (nLayers s)).map fun l => (4096 * s.gov.ltabBase.toNat + 1024 * l + 0x100 + 0x100 * copy, 256, 256 * l)) ++
    (List.range (nBuckets s)).map fun b => (4096 * s.rdx.btabBase.toNat + b * 128 + 32 + 8 * copy, 8, 256 * nLayers s + 8 * b)

/-- Layer and bucket state in force, copied into their sections (11 R245 step 2). -/
def fillState (s : State) : State :=
  let base := slotBase s s.snap.targetSlot + 4096 + winBytes s
  (stateCopies s).foldl (fun t (a, n, o) => writePhysLong (base + o) (peek s a n) (probe a n t)) s
where
  /-- A physical write of any length. -/
  writePhysLong (p : Nat) (bs : List Byte) (t : State) : State :=
    (chunks 64 (bs.length + 1) bs).zipIdx.foldl (fun t (c, i) => writePhys (p + 64 * i) c t) t

/-- SNAP_FILL_DONE (11 R243, R245): steps 1 and 2 of sealing. A line of the copies in force or of the coverage map that cannot be read
raises its device fault and the fill does not end. -/
def snapFill (s : State) : State :=
  match (((enWins s).map fun (x : Nat × Win) => (x.2.copyBase s.cmt.epoch, x.2.bytes)) ++ [(4096 * s.snap.map.toNat, mapBytes s)]).findSome?
      fun (p, n) => badIn s p n with
  | some l => badRead .unit (l * 64) (l * 64) s
  | none =>
    let n := winBytes s / 64 - linesOnce s
    let s1 := (enWins s).foldl (fun t (k, w) => fillWin s k w t) s
    fillState { s1 with srun := { s1.srun with
        fillDone := true, linesFilled := s1.srun.linesFilled + n, cntFillLines := satAdd s1.srun.cntFillLines n } }

/-! ## The header (11 T11-2) -/

/-- layout_crc: ALIAS, COPY0 and COPY1 of every enabled window. -/
def layoutCrc (s : State) : Nat :=
  crc32c ((enWins s).flatMap fun (_, w) =>
    bytesOf 8 (1 ||| w.spanOff.toNat <<< 8 ||| w.sizeM1.toNat <<< 24) ++ bytesOf 8 (w.copy0.toNat <<< 21) ++ bytesOf 8 (w.copy1.toNat <<< 21))

/-- Words 0 to 9 of the header of the image in `slot`. -/
def headerWords (s : State) (slot : Bool) (verify : Bool) : List Word :=
  let base := slotBase s slot
  let w := winBytes s
  let st := 256 * nLayers s + 8 * nBuckets s
  [ BitVec.ofNat 64 (0x53504F52 ||| 1 <<< 32 ||| 1 <<< 40 ||| b2n verify <<< 41),
    BitVec.ofNat 64 (s.crun.jobTag.toNat ||| b2n slot <<< 16 ||| s.thl.length <<< 17 ||| (enWins s).length <<< 25),
    BitVec.ofNat 64 (s.srun.commitStep.toNat ||| (s.srun.seq + 1).toNat <<< 32),
    s.srun.commitTime,
    BitVec.ofNat 64 (s.sec.fwRelease.toNat ||| s.gov.nLayersM1.toNat <<< 32 ||| s.rdx.nBucketsM1.toNat <<< 44),
    BitVec.ofNat 64 w,
    BitVec.ofNat 64 (crc32c (peek s (base + 4096) w) ||| crc32c (peek s (base + 4096 + w) st) <<< 32),
    BitVec.ofNat 64 (s.srun.hdrLossStep.toNat ||| s.srun.hdrLossCrc.toNat <<< 32),
    BitVec.ofNat 64 s.srun.linesFilled,
    BitVec.ofNat 64 (layoutCrc s) ]

/-- The whole header: words 0 to 9, hdr_crc, zeros. -/
def headerBytes (s : State) (slot : Bool) (verify : Bool) : List Byte :=
  let ws := headerWords s slot verify
  let bs := bytesOfWords ws ++ bytesOf 8 (crc32c (bytesOfWords ws))
  bs ++ List.replicate (4096 - bs.length) 0

/-- A physical write of whole header bytes. -/
def pokeLong (p : Nat) (bs : List Byte) (s : State) : State := fillState.writePhysLong p bs s

/-! ## Mirror and drain -/

/-- Send bytes to another device as WRITEs that do not cross 1 KiB boundaries (13 R269). -/
def sendWrites (dst : Nat) (o : TxOwner) : Nat → Nat → List Byte → State → State
  | 0, _, _, s => s
  | fuel + 1, a, bs, s =>
    if bs.isEmpty then s
    else
      let k := 1024 - a % 1024
      let s1 := (sendTxn dst (.write a (bs.take k)) o s).1
      sendWrites dst o fuel (a + min k bs.length) (bs.drop k) s1

/-- Send bytes for the mirror or a push, counting them (11 T11-7). -/
def sendImage (dst : Nat) (o : TxOwner) (a : Nat) (bs : List Byte) (s : State) : State :=
  sendWrites dst o (bs.length / 1024 + 2) a bs
    { s with srun := { s.srun with cntMirrorBytes := satAdd s.srun.cntMirrorBytes bs.length } }

/-- Transactions of an owner that have not ended. -/
def waitsFor (o : TxOwner) (s : State) : Bool := s.lnk.txns.any (·.owner == o) || s.lnk.waiting.any (·.owner == o)

/-- Nobody waits for the transactions of an owner any more. -/
def dropOwner (o : TxOwner) (s : State) : State :=
  { s with lnk := { s.lnk with
      txns := s.lnk.txns.map fun x => if x.owner == o then { x with owner := .dropped } else x
      waiting := s.lnk.waiting.filter (·.owner != o) } }

/-- Partner slot base for a slot index. -/
def pslotBase (s : State) (k : Bool) : Nat := 4096 * (if k then s.snap.pslot1 else s.snap.pslot0).toNat

/-- Start the mirror: the zero header and every byte other than the header (11 R250). -/
def mirrorStart (slot : Bool) (s : State) : State :=
  if !s.snap.mirrorEn then s
  else
    let dst := s.snap.partner.toNat
    let a := pslotBase s slot
    let s1 := { s with snap := { s.snap with mirror := 1, phase := 3 }, srun := { s.srun with mirStage := 2 } }
    sendImage dst .mirror (a + 4096) (peek s (slotBase s slot + 4096) (imageBytes s - 4096))
      (probe (slotBase s slot + 4096) (imageBytes s - 4096) (sendImage dst .mirror a (List.replicate 4096 0) s1))

/-- Abandon the drain (11 R251, 14 R296). -/
def drainAbandon (s : State) : State :=
  if s.snap.drain == 1 then
    snapPhase (snapEv 0x86 (b2n s.snap.targetSlot) 0 0 { s with
      snap := { s.snap with drain := 3 }, srun := { s.srun with drainStage := 0 } })
  else s

/-- Abandon the mirror (11 R250). -/
def mirrorAbandon (s : State) : State :=
  if s.snap.mirror == 1 then
    snapPhase (snapEv 0x84 (b2n s.snap.targetSlot) s.snap.partner.toNat 0 (dropOwner .mirror { s with
      snap := { s.snap with mirror := 3 }, srun := { s.srun with mirStage := 0, mirLost := none } }))
  else s

/-- Start the drain: payload with Relaxed Ordering, header last, then the flushing read (14 R297). -/
def drainStart (slot : Bool) (s : State) : State :=
  if !s.snap.drainEn then s
  else
    let s0 := { s with snap := { s.snap with drain := 1, phase := 3 } }
    if !s.port.busMaster then drainAbandon s0
    else
      let host := 4096 * s.snap.drainAddr.toNat
      let body := peek s (slotBase s slot + 4096) (imageBytes s - 4096)
      let hdr := peek s (slotBase s slot) 4096
      let s1 := emit (.flushRead host) (emit (.hostWrite host hdr false) (emit (.hostWrite (host + 4096) body true)
        (probes [(slotBase s slot + 4096, imageBytes s - 4096), (slotBase s slot, 4096)] s0)))
      { s1 with
        srun := { s1.srun with drainStage := 1, cntDrainBytes := satAdd s1.srun.cntDrainBytes (body.length + 4096) }
        pci := { s1.pci with cntOutBytes := satAdd s1.pci.cntOutBytes (body.length + 4096) } }

/-- SNAP_HEADER_WRITE (11 R247, R249): CRCs, header, latest image; mirror and drain start. -/
def snapHeader (s : State) : State :=
  let slot := s.snap.targetSlot
  match badIn s (slotBase s slot + 4096) (imageBytes s - 4096) with
  | some l => badRead .unit (l * 64) (l * 64) s
  | none =>
    let s1 := clearMap (pokeLong (slotBase s slot) (headerBytes s slot s.srun.barrier) s)
    let s2 := snapEv 0x81 (b2n slot) 0 s.srun.linesFilled { s1 with
      snap := { s1.snap with phase := 0, latestValid := true, latestSlot := slot, latestStep := s1.srun.commitStep }
      srun := { s1.srun with cntSnap := satAdd s1.srun.cntSnap 1, seq := s1.srun.seq + 1 } }
    drainStart slot (mirrorStart slot s2)

/-- Every write of the mirror so far has been acknowledged: the header follows, and then the mirror is done (11 R250). -/
def mirrorAcked (s : State) : State :=
  if s.snap.mirror == 1 && !waitsFor .mirror s && s.srun.mirLost.isNone then
    let slot := s.snap.targetSlot
    if s.srun.mirStage == 2 then
      sendImage s.snap.partner.toNat .mirror (pslotBase s slot) (peek s (slotBase s slot) 4096)
        (probe (slotBase s slot) 4096 { s with srun := { s.srun with mirStage := 3 } })
    else
      snapPhase (snapEv 0x83 (b2n slot) s.snap.partner.toNat 0 { s with
        snap := { s.snap with mirror := 2 }, srun := { s.srun with mirStage := 0 } })
  else s

/-- The push ends with zeros as the target's header (11 R253). -/
def pushFail (dst a : Nat) (s : State) : State :=
  sendImage dst .dropped a (List.replicate 4096 0) { s with
    snap := { s.snap with pushState := 3 }, srun := { s.srun with pushStage := 0 } }

/-- Every write of the push so far has been acknowledged: the header is read again and follows where it is the same (11 R253); one that
cannot be read is not. -/
def pushAcked (s : State) : State :=
  if s.snap.pushState == 1 && !waitsFor .push s then
    let dst := s.snap.pushDev.toNat
    let a := 4096 * s.snap.pushAddr.toNat
    if s.srun.pushStage == 1 then
      match readMem .unit (pslotBase s s.snap.pushSlot) 4096 s with
      | (s1, some hdr) =>
        if hdr == s.srun.pushHdr then sendImage dst .push a hdr { s1 with srun := { s1.srun with pushStage := 2 } }
        else pushFail dst a s1
      | (s1, none) => pushFail dst a s1
    else { s with snap := { s.snap with pushState := 2 }, srun := { s.srun with pushStage := 0 } }
  else s

/-- Firmware sends what waits for the acknowledgements of a mirror or a push (11 R250, R253); debug halted, it sends nothing
(16 R346). -/
def imageAcked (s : State) : State := if fwHalted s then s else pushAcked (mirrorAcked s)

/-- A header is that of a valid image: magic, version, valid and hdr_crc (11 T11-4 check 1). -/
def headerValid (hdr : List Byte) : Bool :=
  let ws := wordsOf (hdr.take 88)
  let w0 := wordAt ws 0
  field w0 31 0 == 0x53504F52 && field w0 39 32 == 1 && bit w0 40 &&
    field (wordAt ws 10) 31 0 == crc32c (hdr.take 80)

/-- Bytes of the image that a header describes. -/
def headerImage (hdr : List Byte) : Nat :=
  let ws := wordsOf (hdr.take 88)
  4096 + field (wordAt ws 5) 43 0 + 256 * (field (wordAt ws 4) 43 32 + 1) + 8 * (field (wordAt ws 4) 55 44 + 1)

/-- Start a push (11 R253). The slot is at this device's PSLOT address (log entry 19). -/
def pushStart (dst : BitVec 14) (slot : Bool) (s : State) : State :=
  let s0 := { s with snap := { s.snap with pushDev := dst, pushSlot := slot, pushState := 1 } }
  let src := pslotBase s slot
  let a := 4096 * s.snap.pushAddr.toNat
  match readMem .unit src 4096 s0 with
  | (s1, some hdr) =>
    if headerValid hdr then
      sendImage dst.toNat .push (a + 4096) (peek s (src + 4096) (headerImage hdr - 4096))
        (probe (src + 4096) (headerImage hdr - 4096) { s1 with srun := { s1.srun with pushStage := 1, pushHdr := hdr } })
    else pushFail dst.toNat a s1
  | (s1, none) => pushFail dst.toNat a s1

end Sys2Proof.Machine
end

