-- ==== Sys2Proof/Machine/Commit.lean ====
section
/-! DEFINITION. The commit unit (10): tokens and their folds, readiness and decisions, the flip, the abort, quiescence, RELEASE; the
end of a step for the governor's events and lifetime counters (05 R106, R121); and `settle`, which ends every meaning that can
record a class. -/

namespace Sys2Proof.Machine

open Sys2Proof

/-! ## Tokens (10 T10-1) -/

def Token.kind (t : Token) : Nat := field t.w0 3 0
def Token.cls (t : Token) : Nat := field t.w0 5 4
def Token.flag (t : Token) : Bool := bit t.w0 6
def Token.cause (t : Token) : Nat := field t.w0 15 8
def Token.dev (t : Token) : Nat := field t.w0 29 16
def Token.step (t : Token) : Nat := field t.w0 63 32
def Token.nDev (t : Token) : Nat := field t.w1 14 0
def Token.nDropped (t : Token) : Nat := field t.w1 30 16
def Token.nPoisoned (t : Token) : Nat := field t.w1 46 32
def Token.jobTag (t : Token) : Nat := field t.w1 63 48
def Token.rec' (t : Token) : ClassRec := ⟨t.cls, t.cause, t.dev⟩

def mkToken (kind : Nat) (r : ClassRec) (flag : Bool) (step nDev nDrop nPoi tag : Nat) : Token :=
  { w0 := BitVec.ofNat 64 (kind ||| r.cls <<< 4 ||| b2n flag <<< 6 ||| r.cause <<< 8 ||| r.dev <<< 16 ||| step <<< 32)
    w1 := BitVec.ofNat 64 (nDev ||| nDrop <<< 16 ||| nPoi <<< 32 ||| tag <<< 48) }

/-- Fold two tokens: the worse class and the sums (10 R222). -/
def Token.fold (a b : Token) : Token :=
  mkToken a.kind (worse a.rec' b.rec') (a.flag && b.flag) a.step (a.nDev + b.nDev) (a.nDropped + b.nDropped)
    (a.nPoisoned + b.nPoisoned) a.jobTag

/-- The children of the device, from its list at CHILD_BASE (10 T10-8). -/
def children (s : State) : List Nat := s.crun.kids

/-- The device is dropped in the step (10 R232). -/
def dropped (s : State) : Bool := s.cmt.poisoned || s.cmt.excluded

/-- A token of the step that covers this device alone (10 T10-1). -/
def ownToken (kind : Nat) (r : ClassRec) (flag : Bool) (s : State) : Token :=
  mkToken kind r flag s.cmt.step.toNat 1 (b2n (dropped s)) (b2n s.cmt.poisoned) s.crun.jobTag.toNat

/-- Log a commit event (10 T10-13). -/
def cmtEv (cls cause dev bucket w3 : Nat) (s : State) : State :=
  logEv 3 cls cause (cls <<< 8 ||| dev <<< 10 ||| bucket <<< 24) s.cmt.step.toNat w3 s

/-- Log a commit event with its class and record it. -/
def cmtFault (cause dev bucket w3 : Nat) (s : State) : State :=
  recordClass (classOf cause) cause (cmtEv (classOf cause) cause dev bucket w3 s)

/-- Send a token. -/
def sendToken (dst : Nat) (t : Token) (s : State) : State := (sendTxn dst (.commit t.w0 t.w1) .step s).1

/-- Send a token to every child. -/
def toChildren (t : Token) (s : State) : State := (children s).foldl (fun u c => sendToken c t u) s

/-- The step being settled (10 R222). -/
def settledStep (s : State) : Nat :=
  match s.crun.decide with
  | some d => if d.flag then (s.cmt.step - 1).toNat else s.cmt.step.toNat
  | none => s.cmt.step.toNat

/-! ## Timeout lengths in ns -/

def collNs (s : State) : Nat := 1000 * s.cmt.collTmo.toNat
def stepNs (s : State) : Nat := 1000000 * s.cmt.stepTmo.toNat

/-! ## Layer table (05 T5-2) -/

def layerAddr (s : State) (l : Nat) : Nat := 4096 * s.gov.ltabBase.toNat + 1024 * l
def statAddr (s : State) (l d : Nat) : Nat := layerAddr s l + 0x300 + d * 0x80
/-- State copy `copy` of a layer and direction. -/
def stateAddr (s : State) (l d copy : Nat) : Nat := layerAddr s l + 0x100 + 0x100 * copy + d * 0x80
/-- The state copy in force, and the next (05 R105). -/
def curState (s : State) (l d : Nat) : Nat := stateAddr s l d (b2n s.cmt.epoch)
def nextState (s : State) (l d : Nat) : Nat := stateAddr s l d (b2n (!s.cmt.epoch))

/-- The config part of a layer in use: 24 words (05 R103). -/
def layerConf (s : State) (l : Nat) : List Word :=
  match s.gov.cfgUse.find? (·.1 == l) with
  | some (_, ws) => ws
  | none => peekWords s (layerAddr s l) 24

/-- The config of a direction in use (05 T5-4). -/
def dirConf (s : State) (l d : Nat) : List Word := ((layerConf s l).drop (8 + 8 * d)).take 8

/-- Every layer and direction of the job, forward before backward. -/
def layerDirs (s : State) : List (Nat × Nat) := (List.range (nLayers s)).flatMap fun l => [(l, 0), (l, 1)]

/-- Clear every step statistics block and the re-conversion log counts (05 R101). -/
def clearStats (s : State) : State :=
  let s1 := (List.range (nLayers s)).foldl (fun t l => zeroMem (statAddr t l 0) 256 t) s
  { s1 with gov := { s1.gov with rlogUsed := [] } }

/-- Add to lifetime counter `k` of a layer and direction (05 R106). -/
def lcntAdd (l d k v : Nat) (s : State) : State :=
  if s.gov.lcntBase == 0 || v == 0 then s
  else modMem (s.gov.lcntBase.toNat * 128 + l * 128 + d * 64 + k * 8) 8
    (fun bs => bytesOf 8 (satAdd (BitVec.ofNat 64 (natOf bs)) v).toNat) s

/-- The local statistics block of block index `b`: as saved before the exchange, else as it stands (05 R106). -/
def localBlock (s : State) (b : Nat) : List Word :=
  match s.gov.localBlocks.find? (·.1 == b) with
  | some (_, ws) => ws
  | none => peekWords s (statAddr s (b / 2) (b % 2)) 16

/-- At the end of every step, committed or aborted, the lifetime counters take the local statistics (05 R106). -/
def lifetime (s : State) : State :=
  if s.gov.lcntBase == 0 then s
  else
    (layerDirs s).foldl (fun u (l, d) =>
      let b := localBlock s (2 * l + d)
      let t := if s.gov.localSaved then u else probe (statAddr s l d) 128 u
      lcntAdd l d 0 (wordAt b 3).toNat (lcntAdd l d 1 (wordAt b 2).toNat (lcntAdd l d 2 (wordAt b 4).toNat
        (lcntAdd l d 3 (wordAt b 5).toNat (lcntAdd l d 4 (field (wordAt b 6) 63 32) t))))) s

/-- Log and count one governor event at commit (05 R121). DESIGN CHOICE (log entry 75): its time of detection is that of the flip, at
which it is logged. -/
def govCommit1 (s : State) (e : GovEv) : State :=
  let s1 := logEv 1 0 e.cause (e.layer <<< 8 ||| e.dir <<< 20 ||| e.before <<< 21 ||| e.after <<< 23) s.cmt.step.toNat e.w3.toNat s
  match e.cause with
  | 0x20 =>
    if e.before < e.after then
      lcntAdd e.layer e.dir 5 1 { s1 with gov := { s1.gov with cntWiden := satAdd s1.gov.cntWiden 1 } }
    else lcntAdd e.layer e.dir 6 1 { s1 with gov := { s1.gov with cntNarrow := satAdd s1.gov.cntNarrow 1 } }
  | 0x21 => lcntAdd e.layer e.dir 7 1 { s1 with gov := { s1.gov with cntDormWarn := satAdd s1.gov.cntDormWarn 1 } }
  | _ => { s1 with gov := { s1.gov with cntFallback := satAdd s1.gov.cntFallback 1 } }

/-- The governor's and the exchange's working state of a step ends. -/
def govClear (s : State) : State :=
  { s with gov := { s.gov with
      cfgNext := [], done := false, events := [], exchStarted := false, exchDone := false, exchWait := false, exchTimer := none
      up := [], upSent := false, down := [], localBlocks := [], localSaved := false, busy := false } }

/-! ## Stopping work (10 R231, R392) -/

/-- A stream reset: its registers PROG and its counters stay. -/
def Stream.reset (q : Stream) : Stream :=
  { prog := q.prog, progPend := q.progPend, cause := q.cause, cntInstr := q.cntInstr, cntWaitNs := q.cntWaitNs,
    cntHoldNs := q.cntHoldNs, dbg := { q.dbg with stepEngine := none }, treg := q.treg, tval := q.tval, skip := q.skip, tagDiag := false }

/-- A core reset: CSTAT and its counters stay (10 T10-4). -/
def Core.reset (c : Core) : Core :=
  { cause := c.cause, cstat := c.cstat, cntInstr := c.cntInstr, cntOrd := c.cntOrd, dbg := { c.dbg with stepEngine := none } }

/-- An engine discards its queue and what was abandoned, and dispatches again; passes already in fronds go on. -/
def Engine.flush (e : Engine) : Engine :=
  { e with
    dead := false, raised15 := false, ovlpHold := false
    passes := e.passes.filter fun p => p.stage != .queued && p.stage != .abandoned }

/-- Streams, cores, engines and DMA channels stop (10 R231, R392). -/
def stopWork (s : State) : State :=
  { s with thl := s.thl.map fun t => { t with
      strm := t.strm.map Stream.reset
      core := t.core.map Core.reset
      eng := t.eng.map Engine.flush
      runs := []
      epochOpen := false
      dma := t.dma.map fun q => q.filter fun d => d.started && (!d.remote || d.sentAny) } }

/-- The reduction units abandon every bucket, free every tag and clear the contribution list (10 R231). -/
def rdxClear (s0 : State) : State :=
  let s := ackAll (s0.rdx.bkts.flatMap (·.waiting)) s0
  let s1 := { s with rdx := { s.rdx with
      bkts := [], tags := List.replicate 256 none, clistCount := 0, held := [], logged68 := false } }
  { s1 with thl := s1.thl.map fun t => { t with strm := t.strm.map fun q => { q with tval := 0, tagTimer := none } } }

def clearPegs (s : State) : State :=
  { s with thl := s.thl.map fun t => { t with peg := List.replicate 64 0, pegSat := 0 } }

/-- The abort on DECIDE with flag = 0 (10 R231, T10-4). -/
def abortStep (s : State) : State :=
  let s1 := lifetime s
  let s2 := clearStats (govClear (clearPegs (rdxClear (stopWork s1))))
  abandonSnap true { s2 with
    cmt := { s2.cmt with poisoned := false, excluded := false }
    crun := { s2.crun with barrierOpen := false } }

/-- All work stops, the reduction units' and the record exchange's too; tags, contribution list, statistics and pegs stay for
diagnosis (10 R392). -/
def stopAll (s : State) : State :=
  let s1 := snapNoWait (stopWork (ackAll (s.rdx.bkts.flatMap (·.waiting)) s))
  { s1 with
    cmt := { s1.cmt with state := .stopped }
    rdx := { s1.rdx with held := [], bkts := [] }
    gov := { s1.gov with exchTimer := none, exchWait := false }
    crun := { s1.crun with
      act := false, heldReports := [], early := false, startDue := false, decisionTimer := none, rootTimer := none, doneTimer := none
      releaseTimer := none, stepTimer := none } }

/-! ## The decision (10 R226, R228) -/

/-- The commit flip (10 R228): epoch pointer, step counter, the governor's events; sealing starts after a snapshot step. -/
def flip (s : State) : State :=
  let s1 := s.gov.events.foldl govCommit1 (lifetime s)
  let use := (s1.gov.cfgUse.filter fun (l, _) => !s1.gov.cfgNext.any (·.1 == l)) ++ s1.gov.cfgNext
  let s2 := { s1 with gov := { s1.gov with cfgUse := use }, cmt := { s1.cmt with
      epoch := !s1.cmt.epoch, step := s1.cmt.step + 1, cntCommit := satAdd s1.cmt.cntCommit 1 } }
  sealStart (govClear s2)

/-- Act on DECIDE: a dropped device counts the step (10 R232), then flip or abort, and the token goes on to the children (10 R226,
R228, R231). -/
def actDecide (t : Token) (s : State) : State :=
  let s0 := if dropped s then
      { s with cmt := { s.cmt with cntDropped := satAdd s.cmt.cntDropped 1 } } else s
  let s1 := if t.flag then flip s0 else abortStep s0
  let s2 := { s1 with
    cmt := { s1.cmt with
      state := if t.flag then .settling else .aborting
      worstRec := if t.flag then {} else worse s1.cmt.worstRec t.rec' }
    crun := { s1.crun with
      decide := some t, settDropped := dropped s, settPoisoned := s.cmt.poisoned, quiet := false, doneSent := false
      doneRec := if t.flag then s1.crun.worst else {}, dones := [], reports := [], act := false
      worst := if t.flag then {} else s1.crun.worst
      startDue := t.flag, early := t.flag
      decisionTimer := none, rootTimer := none, releaseTimer := none, stepTimer := none
      doneTimer := if s1.cmt.root then some (2 * collNs s1) else none } }
  toChildren t s2

/-- The root decides (10 R226): DECIDE covers the devices of `cover`, whose reports it has folded in (10 T10-1). -/
def decideAs (r : ClassRec) (flag : Bool) (cover : Token) (s : State) : State :=
  actDecide (mkToken 2 r flag s.cmt.step.toNat cover.nDev cover.nDropped cover.nPoisoned s.crun.jobTag.toNat) s

/-- The root decides abort with no report folded in. -/
def decideAbort (r : ClassRec) (s : State) : State := decideAs r false (ownToken 1 {} false s) s

/-- A class that has been recorded is acted on before the device has reported: the root decides, every other device sends a
not-ready REPORT at once (10 R225, R226). A class that belongs to a step that has not started waits for its start, and in Settling
for the RELEASE. -/
def actClass (s : State) : State :=
  if !s.crun.act || s.crun.startDue then s
  else if s.cmt.state == .running || s.cmt.state == .gathering then
    let s1 := { s with crun := { s.crun with act := false } }
    if s.cmt.root then (if fwHalted s then s else decideAbort s.crun.worst s1)
    else
      sendToken s.cmt.parent.toNat (ownToken 1 s.crun.worst false s) { s1 with
        cmt := { s1.cmt with state := .reported }, crun := { s1.crun with reported := true } }
  else if s.cmt.state == .settling then s
  else { s with crun := { s.crun with act := false } }

/-! ## Streams that have no work left (06 R125) -/

/-- The work that stream `q` of thallus `n` issued is done in the sense of 06 R125. -/
def workDone (t : Thallus) (q : Nat) (k : Stream) : Bool :=
  t.eng.all (fun e => e.passes.all fun p => p.stream != q) && (t.dma.getD q []).isEmpty && !k.dmaLost &&
    t.runs.all fun r => r.stream != q

/-- Draining streams with no work left are done. -/
def Thallus.drain (t : Thallus) : Thallus :=
  { t with strm := t.strm.zipIdx.map fun (k, q) => if k.state == .draining && workDone t q k then { k with state := .done } else k }

/-- Every stream of every enabled thallus is done. -/
def streamsDone (s : State) : Bool := s.thl.all fun t => t.strm.all fun q => q.state == .done

/-! ## The record exchange (09 R217) -/

/-- Saturating lane sums of two statistics blocks, the maximum for amax_x (09 R217, 05 T5-6). -/
def foldBlock (a b : List Word) : List Word :=
  let w (i : Nat) := satAdd (wordAt a i) (wordAt b i).toNat
  let half (i lo : Nat) : Nat := min (field (wordAt a i) (lo + 31) lo + field (wordAt b i) (lo + 31) lo) 0xFFFFFFFF
  let wide (i : Nat) : List Word :=
    let x := min ((wordAt a i).toNat + (wordAt a (i + 1)).toNat * 2 ^ 64 + (wordAt b i).toNat + (wordAt b (i + 1)).toNat * 2 ^ 64)
      (2 ^ 128 - 1)
    [BitVec.ofNat 64 x, BitVec.ofNat 64 (x / 2 ^ 64)]
  [w 0, w 1, w 2, w 3, w 4, w 5,
    BitVec.ofNat 64 (max (field (wordAt a 6) 31 0) (field (wordAt b 6) 31 0) + half 6 32 * 2 ^ 32),
    BitVec.ofNat 64 (half 7 0 + half 7 32 * 2 ^ 32)] ++ wide 8 ++ wide 10 ++ wide 12 ++ wide 14

/-- Tag word of a RECORD message (09 T9-3, R217). -/
def recordTag (s : State) : Word :=
  BitVec.ofNat 64 (self s <<< 12 ||| 10 <<< 26 ||| (s.cmt.step.toNat % 2 ^ 30) <<< 34)

/-- Send blocks in RECORD messages of at most seven, the first with block index `i`. -/
def sendBlocks (dst : Nat) (down : Bool) : Nat → Nat → List (List Word) → State → State
  | 0, _, _, s => s
  | fuel + 1, i, bs, s =>
    if bs.isEmpty then s
    else
      let body : RedBody := .record i down (bs.take 7)
      let n := 16 + 16 * redSlots body
      let s1 := (sendTxn dst (.red (recordTag s) body) .step s).1
      sendBlocks dst down fuel (i + 7) (bs.drop 7) { s1 with rdx := { s1.rdx with cntTxBytes := satAdd s1.rdx.cntTxBytes n } }

/-- The step statistics blocks, as read. -/
def statReads (s : State) : List (Nat × Nat) := (layerDirs s).map fun (l, d) => (statAddr s l d, 128)

/-- All blocks of the device's own record. -/
def ownBlocks (s : State) : List (List Word) := (layerDirs s).map fun (l, d) => peekWords s (statAddr s l d) 16

/-- Write the reduced record over the local blocks and send it to the children (09 R217 step 4). -/
def recordReduced (bs : List (List Word)) (s : State) : State :=
  let s1 := bs.zipIdx.foldl (fun t (b, i) => writeWords (statAddr t (i / 2) (i % 2)) b t) s
  let s2 := (children s1).foldl (fun t c => sendBlocks c true (bs.length + 1) 0 bs t) s1
  { s2 with gov := { s2.gov with exchDone := true, exchWait := false, exchTimer := none } }

/-- Every child's up-record has arrived whole. -/
def upRecords (s : State) : Bool :=
  (children s).all fun c => (s.gov.up.filter fun (k, _, _) => k == c).length == 2 * nLayers s

/-- Fold the children's records with the device's own and send the fold up; the root takes it as the reduced record
(09 R217 steps 2 and 3). -/
def exchangeUp (s : State) : State :=
  if s.gov.exchStarted && !s.gov.upSent && upRecords s then
    let own := ownBlocks s
    let s := probes (statReads s) s
    let bs := own.zipIdx.map fun (b, i) => (s.gov.up.filter fun (_, k, _) => k == i).foldl (fun x (_, _, y) => foldBlock x y) b
    let s1 := { s with gov := { s.gov with upSent := true } }
    if s.cmt.root then recordReduced bs s1 else sendBlocks s.cmt.parent.toNat false (bs.length + 1) 0 bs s1
  else s

/-- The exchange may start: every stream is done and every statistics merger holds no record (05 R100, R117). -/
def exchangeReady (s : State) : Bool :=
  jobLoaded s && s.gov.scope && !s.gov.exchStarted && s.cmt.state == .running && streamsDone s &&
    s.thl.all fun t => t.eng.all fun e => e.passes.all fun p => p.stats.isNone

/-- Start the device's part of the exchange: the local statistics are kept for the lifetime counters (05 R106), and a
poisoned or excluded device contributes zeros (05 R100, 10 R233). -/
def exchangeStart (s : State) : State :=
  if exchangeReady s then
    let saved := (layerDirs s).map fun (l, d) => (2 * l + d, peekWords s (statAddr s l d) 16)
    let s0 := probes (statReads s) s
    let s1 := { s0 with gov := { s0.gov with
        exchStarted := true, exchWait := true, localBlocks := saved, localSaved := true, exchTimer := some (collNs s) } }
    exchangeUp (if s.cmt.poisoned || s.cmt.excluded then clearStatsOnly s1 else s1)
  else s
where
  clearStatsOnly (s : State) : State := (List.range (nLayers s)).foldl (fun t l => zeroMem (statAddr t l 0) 256 t) s

/-! ## Settling -/

/-- What follows of itself at the end of a command that may have ended work or recorded a class: streams that are done, the start
of the record exchange, the not-ready REPORT or the root's decision. -/
def settle (s : State) : State :=
  actClass (exchangeStart { s with thl := s.thl.map Thallus.drain })

end Sys2Proof.Machine
end

