-- ==== Sys2Proof/Machine/DebugOps.lean ====
section
/-! DEFINITION. Debug halts that instructions themselves meet: address and pass breakpoints, the end of a step (16 R344, R345,
R347). -/

namespace Sys2Proof.Machine

open Sys2Proof

/-- A target as DBG.TGT [12:0] (16 T16-11): kind 0 puppeteer, 1 marionette core, 2 stream. -/
def tgtWord (kind n idx : Nat) : Nat := kind ||| n <<< 2 ||| idx <<< 10

/-- Log a debug event (16 T16-13). -/
def dbgEv (cause reason tgt w3 : Nat) (s : State) : State :=
  logEv 11 0 cause (reason <<< 8 ||| s.dbg.level.toNat <<< 12 ||| tgt <<< 14) (if jobLoaded s then s.cmt.step.toNat else 0) w3 s

/-- The first halt in each step while a job is loaded logs cause 0xE3 (16 R347). -/
def haltEv (tgt pc : Nat) (s : State) : State :=
  if jobLoaded s && !s.dbg.haltLogged then
    dbgEv 0xE3 0 tgt pc { s with dbg := { s.dbg with haltLogged := true } }
  else s

/-- The address breakpoint that a target meets at `pc` (16 T16-11 DBG.BP). -/
def bpAt (s : State) (kind n idx pc : Nat) : Option Nat :=
  s.dbg.bp.findIdx? fun b => bit b 44 && field b 43 3 * 8 == pc && field b 57 45 == tgtWord kind n idx

/-- A halted target. -/
def DbgTgt.halt (reason bp : Nat) (d : DbgTgt) : DbgTgt :=
  { d with mode := 2, reason := BitVec.ofNat 4 reason, bpIndex := BitVec.ofNat 4 bp, stepEngine := none }

def haltCore (n c reason bp : Nat) (s : State) : State :=
  haltEv (tgtWord 1 n c) (coreOf s n c).pc (modCore n c (fun k => { k with dbg := k.dbg.halt reason bp }) s)

def haltStrm (n q reason bp : Nat) (s : State) : State :=
  haltEv (tgtWord 2 n q) (strmOf s n q).pc (modStrm n q (fun k => { k with dbg := k.dbg.halt reason bp }) s)

/-- The target is debug halted. -/
def DbgTgt.halted (d : DbgTgt) : Bool := d.mode == 2

end Sys2Proof.Machine
end

