-- ==== Sys2Proof/Machine/Num.lean ====
section
/-! DEFINITION. Number formats, rounding and conversion (02): exact values, their encodings, the three rounding modes, the
converter's outcomes and flags, MX blocks. All arithmetic is exact on integers and rounds once at the end. -/

namespace Sys2Proof.Machine

open Sys2Proof

/-- An exact value: NaN, an infinity, or (-1)^neg * m * 2^e (`m = 0` is the signed zero). -/
inductive Fp where
  | nan
  | inf (neg : Bool)
  | fin (neg : Bool) (m : Nat) (e : Int)
deriving DecidableEq, Repr, Inhabited

/-- Which encodings of the largest exponent are special (02 T2-2). -/
inductive FKind where
  /-- Infinity and NaN. -/
  | ieee
  /-- One NaN code only (E4M3). -/
  | oneNan
  /-- Every encoding is finite. -/
  | finite
deriving DecidableEq, Repr, Inhabited

/-- A floating-point layout (02 T2-2). -/
structure Fmt where
  ew : Nat
  mw : Nat
  bias : Nat
  kind : FKind
deriving DecidableEq, Repr, Inhabited

def Fmt.width (f : Fmt) : Nat := 1 + f.ew + f.mw

def e2m1 : Fmt := ⟨2, 1, 1, .finite⟩
def e2m3 : Fmt := ⟨2, 3, 1, .finite⟩
def e3m2 : Fmt := ⟨3, 2, 3, .finite⟩
def e4m3 : Fmt := ⟨4, 3, 7, .oneNan⟩
def e5m2 : Fmt := ⟨5, 2, 15, .ieee⟩
def bf16 : Fmt := ⟨8, 7, 127, .ieee⟩
def fp16 : Fmt := ⟨5, 10, 15, .ieee⟩
def fp32 : Fmt := ⟨8, 23, 127, .ieee⟩
def fp64 : Fmt := ⟨11, 52, 1023, .ieee⟩
/-- The frond accumulator (02 T2-2). -/
def fp32p8 : Fmt := ⟨8, 31, 127, .ieee⟩
/-- Both planes of an M48 value as one 48-bit pattern, the extension plane in the low 16 bits (02 R40). -/
def m48 : Fmt := ⟨8, 39, 127, .ieee⟩

/-- The three rounding modes (02 R42). -/
inductive Rnd where
  | rne | rna | rz
deriving DecidableEq, Repr, Inhabited

/-- The rounding of `rnd` in a conversion control; 3 is unsupported and its users check it (02 R42). -/
def rndOf : Nat → Rnd
  | 0 => .rne
  | 1 => .rna
  | _ => .rz

/-- Exponent of the unit of a subnormal. -/
def Fmt.qmin (f : Fmt) : Int := 1 - (f.bias : Int) - (f.mw : Int)

/-- The pattern of the largest finite magnitude (02 T2-2). -/
def Fmt.maxBits (f : Fmt) : Nat :=
  match f.kind with
  | .ieee => (2 ^ f.ew - 1) * 2 ^ f.mw - 1
  | .oneNan => 2 ^ (f.ew + f.mw) - 2
  | .finite => 2 ^ (f.ew + f.mw) - 1

/-- The canonical NaN (02 T2-3); for FP4 and FP6, which have none, +0 (02 T2-8). -/
def Fmt.nanBits (f : Fmt) : Nat :=
  match f.kind with
  | .ieee => (2 ^ f.ew - 1) * 2 ^ f.mw + 2 ^ (f.mw - 1)
  | .oneNan => 2 ^ (f.ew + f.mw) - 1
  | .finite => 0

/-- The sign bit's weight. -/
def Fmt.signBits (f : Fmt) (neg : Bool) : Nat := if neg then 2 ^ (f.ew + f.mw) else 0

/-- The exact value of a pattern (02 R33). -/
def Fmt.decode (f : Fmt) (x : Nat) : Fp :=
  let neg := x / 2 ^ (f.ew + f.mw) % 2 == 1
  let e := x / 2 ^ f.mw % 2 ^ f.ew
  let m := x % 2 ^ f.mw
  let special := e == 2 ^ f.ew - 1
  if f.kind == .ieee && special then (if m == 0 then .inf neg else .nan)
  else if f.kind == .oneNan && special && m == 2 ^ f.mw - 1 then .nan
  else if e == 0 then .fin neg m f.qmin
  else .fin neg (2 ^ f.mw + m) (f.qmin + (e : Int) - 1)

/-- `m * 2^e` rounded to a multiple of `2^q`, as the multiple (02 R42: rounding acts on the magnitude). -/
def roundAt (r : Rnd) (m : Nat) (e q : Int) : Nat :=
  if q ≤ e then m * 2 ^ (e - q).toNat
  else
    let d := (q - e).toNat
    let lo := m / 2 ^ d
    let rem := m % 2 ^ d
    let half := 2 ^ (d - 1)
    match r with
    | .rz => lo
    | .rna => if half ≤ rem then lo + 1 else lo
    | .rne => if half < rem then lo + 1 else if rem == half then lo + lo % 2 else lo

/-- Exponent of the leading bit of a non-zero magnitude: floor(log2). -/
def ilog (m : Nat) (e : Int) : Int := (Nat.log2 m : Int) + e

/-- The magnitude pattern of a finite value rounded as though the exponent had no upper limit (02 R48). -/
def Fmt.roundBits (f : Fmt) (r : Rnd) (m : Nat) (e : Int) : Nat :=
  if m == 0 then 0
  else
    let q := max (ilog m e - f.mw) f.qmin
    roundAt r m e q + (q - f.qmin).toNat * 2 ^ f.mw

/-- The four flags of a conversion (02 R51). -/
structure CFlags where
  ovf : Bool := false
  unf : Bool := false
  nanIn : Bool := false
  infIn : Bool := false
deriving DecidableEq, Repr, Inhabited

/-- A value rounded into a float format, with its flags (02 R48 to R50, T2-8). -/
def Fmt.conv (f : Fmt) (r : Rnd) (sat : Bool) (x : Fp) : Nat × CFlags :=
  match x with
  | .nan => (f.nanBits, { nanIn := true })
  | .inf neg =>
    let b := match f.kind with
      | .ieee => f.signBits neg + (2 ^ f.ew - 1) * 2 ^ f.mw
      | .oneNan => f.nanBits
      | .finite => f.signBits neg + f.maxBits
    (b, { infIn := true })
  | .fin neg m e =>
    let b := f.roundBits r m e
    if f.maxBits < b then
      let lim := if f.kind == .ieee && !sat && r != .rz then (2 ^ f.ew - 1) * 2 ^ f.mw else f.maxBits
      (f.signBits neg + lim, { ovf := true })
    else (f.signBits neg + b, { unf := b == 0 && m != 0 })

/-- The value of a two's-complement integer; integer 0 is +0 (02 R45). -/
def intVal (i : Int) : Fp := .fin (i < 0) i.natAbs 0

/-- Convert into a signed integer of `w` bits (02 T2-8): the pattern and the flags. -/
def convInt (w : Nat) (r : Rnd) (x : Fp) : Nat × CFlags :=
  let lim (neg : Bool) : Nat := if neg then 2 ^ (w - 1) else 2 ^ (w - 1) - 1
  match x with
  | .nan => (0, { nanIn := true })
  | .inf neg => (lim neg, { infIn := true })
  | .fin neg m e =>
    let k := roundAt r m e 0
    if (if neg then 2 ^ (w - 1) else 2 ^ (w - 1) - 1) < k then (lim neg, { ovf := true })
    else (if neg then (2 ^ w - k) % 2 ^ w else k, { unf := k == 0 && m != 0 })

/-! ## Exact arithmetic on values -/

/-- Signed significand at exponent `q ≤ e`. -/
def sigAt (neg : Bool) (m : Nat) (e q : Int) : Int :=
  let k : Int := ((m * 2 ^ (e - q).toNat : Nat) : Int)
  if neg then -k else k

/-- Exact sum (02 R45: a zero sum is +0 unless both operands are -0; 02 R44, 08 R174 for infinities). -/
def Fp.add : Fp → Fp → Fp
  | .nan, _ | _, .nan => .nan
  | .inf a, .inf b => if a == b then .inf a else .nan
  | .inf a, _ | _, .inf a => .inf a
  | .fin na ma ea, .fin nb mb eb =>
    let q := min ea eb
    let s := sigAt na ma ea q + sigAt nb mb eb q
    if s == 0 then .fin (na && nb) 0 q else .fin (s < 0) s.natAbs q

def Fp.neg : Fp → Fp
  | .nan => .nan
  | .inf n => .inf (!n)
  | .fin n m e => .fin (!n) m e

def Fp.sub (a b : Fp) : Fp := a.add b.neg

/-- Exact product (02 R45; 0 times infinity is NaN). -/
def Fp.mul : Fp → Fp → Fp
  | .nan, _ | _, .nan => .nan
  | .inf a, .inf b => .inf (a != b)
  | .inf a, .fin b m _ | .fin b m _, .inf a => if m == 0 then .nan else .inf (a != b)
  | .fin na ma ea, .fin nb mb eb => .fin (na != nb) (ma * mb) (ea + eb)

/-- Quotient with a sticky last bit: exact for every rounding to 62 bits or fewer (08 R174). -/
def Fp.div : Fp → Fp → Fp
  | .nan, _ | _, .nan => .nan
  | .inf _, .inf _ => .nan
  | .inf a, .fin b _ _ => .inf (a != b)
  | .fin a _ _, .inf b => .fin (a != b) 0 0
  | .fin na ma ea, .fin nb mb eb =>
    if mb == 0 then (if ma == 0 then .nan else .inf (na != nb))
    else if ma == 0 then .fin (na != nb) 0 0
    else
      let k := 64 + Nat.log2 mb
      let n := ma * 2 ^ k
      .fin (na != nb) (2 * (n / mb) + b2n (n % mb != 0)) (ea - eb - k - 1)

/-- Integer square root by bits, from bit `k` down. -/
def isqrtGo (n : Nat) : Nat → Nat → Nat
  | 0, r => if (r + 1) * (r + 1) ≤ n then r + 1 else r
  | k + 1, r => isqrtGo n k (if (r + 2 ^ (k + 1)) * (r + 2 ^ (k + 1)) ≤ n then r + 2 ^ (k + 1) else r)

def isqrt (n : Nat) : Nat := isqrtGo n (Nat.log2 n / 2 + 1) 0

/-- Square root with a sticky last bit (08 R174). -/
def Fp.sqrt : Fp → Fp
  | .nan => .nan
  | .inf neg => if neg then .nan else .inf false
  | .fin neg m e =>
    if m == 0 then .fin neg 0 e
    else if neg then .nan
    else
      let m1 := if e % 2 == 0 then m else 2 * m
      let e1 := if e % 2 == 0 then e else e - 1
      let n := m1 * 2 ^ 128
      let r := isqrt n
      .fin false (2 * r + b2n (r * r != n)) (e1 / 2 - 65)

/-- Strict order of values that are not NaN, with -0 below +0 (02 R46). -/
def Fp.lt : Fp → Fp → Bool
  | .nan, _ | _, .nan => false
  | .inf a, .inf b => a && !b
  | .inf a, _ => a
  | _, .inf b => !b
  | .fin na ma ea, .fin nb mb eb =>
    let q := min ea eb
    let x := sigAt na ma ea q
    let y := sigAt nb mb eb q
    x < y || (x == y && na && !nb)

def Fp.isNan : Fp → Bool
  | .nan => true
  | _ => false

def Fp.isInf : Fp → Bool
  | .inf _ => true
  | _ => false

/-- ±0. -/
def Fp.isZero : Fp → Bool
  | .fin _ m _ => m == 0
  | _ => false

def Fp.abs : Fp → Fp
  | .nan => .nan
  | .inf _ => .inf false
  | .fin _ m e => .fin false m e

/-! ## Arithmetic on patterns -/

/-- Round into a format with no saturation (02 T2-4). -/
def Fmt.enc (f : Fmt) (r : Rnd) (x : Fp) : Nat := (f.conv r false x).1

def Fmt.addB (f : Fmt) (a b : Nat) : Nat := f.enc .rne ((f.decode a).add (f.decode b))
def Fmt.subB (f : Fmt) (a b : Nat) : Nat := f.enc .rne ((f.decode a).sub (f.decode b))
def Fmt.mulB (f : Fmt) (a b : Nat) : Nat := f.enc .rne ((f.decode a).mul (f.decode b))
def Fmt.divB (f : Fmt) (a b : Nat) : Nat := f.enc .rne ((f.decode a).div (f.decode b))
def Fmt.sqrtB (f : Fmt) (a : Nat) : Nat := f.enc .rne (f.decode a).sqrt

/-- Minimum (`mx = false`) or maximum of two patterns: an operand's bits unchanged, NaN ignored, canonical NaN of two NaNs
(02 R46, T2-7). -/
def Fmt.minmaxB (f : Fmt) (mx : Bool) (a b : Nat) : Nat :=
  let x := f.decode a
  let y := f.decode b
  if x.isNan && y.isNan then f.nanBits
  else if x.isNan then b
  else if y.isNan then a
  else if mx then (if x.lt y then b else a) else (if y.lt x then b else a)

/-! ## Format codes and conversion -/

/-- An element format: a float layout, a two's-complement integer, or the MXINT8 element (an integer in units of 2^-6). -/
inductive NFmt where
  | flt (f : Fmt)
  | int (w : Nat)
  | fix8
deriving DecidableEq, Repr, Inhabited

/-- The element format of a format code (02 T2-1); the codes that are MX give their element format. -/
def nfmtOf : Nat → Option NFmt
  | 0x00 | 0x10 => some (.flt e2m1)
  | 0x01 | 0x11 => some (.flt e2m3)
  | 0x02 | 0x12 => some (.flt e3m2)
  | 0x03 | 0x13 => some (.flt e4m3)
  | 0x04 | 0x14 => some (.flt e5m2)
  | 0x05 => some (.flt bf16)
  | 0x06 => some (.flt fp16)
  | 0x07 => some (.flt fp32)
  | 0x08 => some (.flt fp64)
  | 0x09 => some (.int 4)
  | 0x0A => some (.int 8)
  | 0x0B => some (.int 16)
  | 0x0C => some (.int 32)
  | 0x0D => some (.flt m48)
  | 0x15 => some .fix8
  | _ => none

/-- The code names a block-scaled format (02 T2-1). -/
def isMx (c : Nat) : Bool := 0x10 ≤ c && c ≤ 0x15

/-- The code is reserved (02 R32). -/
def isReserved (c : Nat) : Bool := c == 0x0E || c == 0x0F || (0x16 ≤ c && c ≤ 0x1E) || 0x1F < c

/-- Element width in bits of a code (02 T2-1); M48 counts both planes. -/
def codeWidth (c : Nat) : Nat :=
  match nfmtOf c with
  | some (.flt f) => f.width
  | some (.int w) => w
  | some .fix8 => 8
  | none => 8

def NFmt.decode : NFmt → Nat → Fp
  | .flt f, x => f.decode x
  | .int w, x => intVal (signed w x)
  | .fix8, x =>
    let i := signed 8 x
    .fin (i < 0) i.natAbs (-6)

/-- Scale a finite or infinite value by a power of two. -/
def Fp.scale2 (x : Fp) (k : Int) : Fp :=
  match x with
  | .fin n m e => .fin n m (e + k)
  | y => y

/-- Convert into a format that has no block scale (02 R47 to R51). DEDUCED (log entry 52): -128 * 2^-6 is an MXINT8 element, so a
negative element that rounds to it is in range (0x80, no overflow). -/
def NFmt.conv (t : NFmt) (r : Rnd) (sat : Bool) (x : Fp) : Nat × CFlags :=
  match t with
  | .flt f => f.conv r sat x
  | .int w => convInt w r x
  | .fix8 =>
    -- an element whose magnitude exceeds the range saturates to ±127 * 2^-6 (02 R39)
    match x with
    | .nan => (0, { nanIn := true })
    | .inf _ => (0, { infIn := true })
    | .fin neg m e =>
      let k := roundAt r m e (-6)
      let k' := if (if neg then 128 else 127) < k then 127 else k
      (if neg then (256 - k') % 256 else k', { ovf := k' != k, unf := k == 0 && m != 0 })

/-- An E8M0 byte as a value (02 R33). -/
def e8m0Val (b : Nat) : Fp := if b == 0xFF then .nan else .fin false 1 ((b : Int) - 127)

/-- The value of element bits `x` of format code `c` under the block scale byte `sc` (02 R37); `sc` counts for MX only. -/
def elemVal (c sc x : Nat) : Fp :=
  match nfmtOf c with
  | none => .nan
  | some t =>
    if isMx c then (if sc == 0xFF then .nan else (t.decode x).scale2 ((sc : Int) - 127)) else t.decode x

/-- A per-tensor scale that is positive, finite and normal (02 R47). -/
def scaleOk (s : W32) : Bool := 0 < field s 30 23 && field s 30 23 < 255 && !bit s 31

/-- The scale used, 1.0 in place of a bad one (02 R47). -/
def scaleVal (s : W32) : Fp := if scaleOk s then fp32.decode s.toNat else .fin false 1 0

/-- emax of 02 R38. -/
def mxEmax (c : Nat) : Int :=
  match c with
  | 0x10 | 0x11 => 2
  | 0x12 => 4
  | 0x13 => 8
  | 0x14 => 15
  | _ => 0

/-- The larger magnitude of two finite magnitudes. -/
def magMax (a b : Nat × Int) : Nat × Int :=
  if a.1 == 0 then b
  else if b.1 == 0 then a
  else
    let q := min a.2 b.2
    if a.1 * 2 ^ (a.2 - q).toNat < b.1 * 2 ^ (b.2 - q).toNat then b else a

/-- Largest finite magnitude of a list of values. -/
def amaxFin (ys : List Fp) : Nat × Int :=
  ys.foldl (fun a y => match y with
    | .fin _ m e => magMax a (m, e)
    | _ => a) (0, 0)

/-- Whether a magnitude rounds past the element's largest finite value (02 R38 step 4). -/
def NFmt.exceeds (t : NFmt) (r : Rnd) (m : Nat) (e : Int) : Bool :=
  match t with
  | .flt f => f.maxBits < f.roundBits r m e
  | .int w => 2 ^ (w - 1) - 1 < roundAt r m e 0
  | .fix8 => 127 < roundAt r m e (-6)

/-- Convert one block to an MX format: the scale byte and the elements with their flags (02 R38, R39). -/
def mxBlock (c : Nat) (r : Rnd) (sat : Bool) (ys : List Fp) : Nat × List (Nat × CFlags) :=
  match nfmtOf c with
  | none => (0xFF, ys.map fun _ => (0, {}))
  | some t =>
    if ys.any (fun y => y.isNan || y.isInf) then
      (0xFF, ys.map fun y => (0, { nanIn := y.isNan, infIn := y.isInf }))
    else
      let (am, ae) := amaxFin ys
      if am == 0 then (0x00, ys.map fun y => t.conv r sat y)
      else
        let x0 := ilog am ae - mxEmax c
        let x1 := if t.exceeds r am (ae - x0) then x0 + 1 else x0
        let x := min (max x1 (-127)) 127
        ((x + 127).toNat, ys.map fun y => t.conv r true (y.scale2 (-x)))

/-- Element count and packing: element `i` of width `w` in a little-endian bit string (02 R36). -/
def elemAt (x w i : Nat) : Nat := x >>> (w * i) % 2 ^ w

/-- Pack elements of width `w`, element 0 lowest (02 R36). -/
def packElems (w : Nat) : List Nat → Nat
  | [] => 0
  | x :: xs => x % 2 ^ w + 2 ^ w * packElems w xs

end Sys2Proof.Machine
end

