-- ==== Sys2Proof/Machine/Operands.lean ====
section
/-! DEFINITION. Operand forms: the fields of marionette instruction words (08 T8-2), the reads and writes of general, vector and
predicate registers with their hard-wired members (08 R167), effective addresses and their checks (08 R171). -/

namespace Sys2Proof.Machine

open Sys2Proof

/-! ## Fields of an instruction word -/

def fOp (w : Word) : Nat := field w 7 0
/-- rd, rt or vd. -/
def fD (w : Word) : Nat := field w 12 8
/-- ra, rbase or va. -/
def fA (w : Word) : Nat := field w 17 13
def fB (w : Word) : Nat := field w 22 18
/-- Signed immediate, offset or target. -/
def fImm (w : Word) : Int := signed 32 (field w 63 32)
-- format M
def fGsp (w : Word) : Bool := bit w 18
def fMpg (w : Word) : Nat := field w 21 19
/-- Bytes of a scalar access or of an element of a masked store. -/
def fSize (w : Word) : Nat := 2 ^ field w 23 22
-- format V
def fGx (w : Word) : Nat := field w 27 23
def fPg (w : Word) : Nat := field w 30 28
def fPz (w : Word) : Bool := bit w 31
/-- Element width in bits. -/
def fEw (w : Word) : Nat := 8 * 2 ^ field w 33 32
def fFa (w : Word) : Nat := field w 38 34
def fFb (w : Word) : Nat := field w 43 39
def fCvt (w : Word) : Nat := field w 51 44
def fPd (w : Word) : Nat := field w 54 52
def fGd (w : Word) : Nat := field w 59 55

/-! ## Registers -/

/-- g0 reads 0 (08 T8-1). -/
def Core.gR (k : Core) (i : Nat) : Word := if i == 0 then 0 else k.g.getD i 0

/-- Writes to g0 are discarded. -/
def Core.gW (i : Nat) (x : Word) (k : Core) : Core := if i == 0 then k else { k with g := setAt 32 i x k.g }

def Core.vR (k : Core) (i : Nat) : Nat := (k.v.getD i 0).toNat
def Core.vW (i x : Nat) (k : Core) : Core := { k with v := setAt 32 i (BitVec.ofNat 1024 x) k.v }

/-- p0 reads all ones. -/
def Core.pR (k : Core) (i : Nat) : Nat := if i == 0 then 2 ^ 128 - 1 else (k.p.getD i 0).toNat

/-- Writes to p0 are discarded. -/
def Core.pW (i x : Nat) (k : Core) : Core := if i == 0 then k else { k with p := setAt 8 i (BitVec.ofNat 128 x) k.p }

/-- A narrow result in a general register: the bits above it are free (log entry 20). -/
def widen (w x : Nat) : Word := BitVec.ofNat 64 (x % 2 ^ w + Config.high w (x % 2 ^ w) * 2 ^ w)

/-- Elements of width `w` of a vector register. -/
def elems (w n x : Nat) : List Nat := (List.range n).map fun i => elemAt x w i

/-- Bits of a predicate from a list, element 0 lowest. -/
def bitsNat (bs : List Bool) : Nat := packElems 1 (bs.map b2n)

/-- The destination of a predicated elementwise instruction (08 T8-2): an inactive element is 0 with pz, else keeps its bits. -/
def mergeV (w n old pred : Nat) (pz : Bool) (xs : List Nat) : Nat :=
  packElems w ((List.range n).map fun i => if pred.testBit i then xs.getD i 0 else if pz then 0 else elemAt old w i)

/-! ## Addresses (08 R171) -/

/-- g[base] + off, modulo 2^64. -/
def effAddr (base : Word) (off : Int) : Nat := wrapNat 64 ((base.toNat : Int) + off)

/-- The check of an access of `n` bytes with alignment `al`: the cause of the fault, or the device address. A byte of the
core's own scratch has one home, its global address. Where both causes apply, the lower is taken (log entry 21). -/
def checkAddr (nThl c : Nat) (gsp : Bool) (a n al : Nat) : Nat ⊕ Nat :=
  if a % al != 0 then .inl 0x51
  else if gsp then
    let bad (x : Nat) : Bool := regionOf x == .regs || regionOf x == .reserved
    if bad a || bad (a + n - 1) then .inl 0x52 else .inr a
  else if a + n ≤ 0x10000 then .inr (scratchBase + 0x80000 * nThl + 0x10000 * c + a)
  else .inl 0x52

end Sys2Proof.Machine
end

