-- ==== Sys2Proof/Machine/Flags.lean ====
section
/-! DEFINITION. Flag computations: the conversion flags of 02 R51 in CSTAT (08 R177, T8-8) and CSTAT as a register. -/

namespace Sys2Proof.Machine

open Sys2Proof

/-- Some flag of an element is raised. -/
def CFlags.any (f : CFlags) : Bool := f.ovf || f.unf || f.nanIn || f.infIn

/-- OR of two sets of flags. -/
def CFlags.or (a b : CFlags) : CFlags := ⟨a.ovf || b.ovf, a.unf || b.unf, a.nanIn || b.nanIn, a.infIn || b.infIn⟩

/-- The flags as CSTAT bits [3:0]. -/
def CFlags.bits (f : CFlags) : BitVec 5 := BitVec.ofNat 5 (b2n f.ovf + 2 * b2n f.unf + 4 * b2n f.nanIn + 8 * b2n f.infIn)

/-- Sticky flags of a conversion and of a replaced scale. -/
def Core.orStat (f : CFlags) (badScale : Bool) (k : Core) : Core :=
  { k with cstat := k.cstat ||| f.bits ||| (if badScale then 0x10 else 0) }

/-- CSTAT as read (08 T8-8). -/
def Core.cstatWord (k : Core) : Word := BitVec.ofNat 64 (k.cstat.toNat ||| k.ordCount.toNat <<< 16)

end Sys2Proof.Machine
end

