-- ==== Sys2Proof/Machine/Mar.lean ====
section
/-! DEFINITION. What every marionette instruction shares: when a core may execute, advancing, faults (08 R189), holds (01 R28). -/

namespace Sys2Proof.Machine

open Sys2Proof

/-- The core takes its next instruction, or the one it is held at again: its issue gate is open (01 R17), and the debug port does not
hold it. -/
def coreReady (s : State) (n c : Nat) : Bool :=
  let k := coreOf s n c
  (k.state == .running || k.state == .held) && !k.dbg.halted && gateOpen s n (k.cntInstr - k.gateBase).toNat &&
    !(thlOf s n).runs.any fun r => r.isUpd && r.mask.getLsbD c

/-- The run of core `c`, as its position in the thallus's list. -/
def runIdx (s : State) (n c : Nat) : Nat :=
  (thlOf s n).runs.findIdx fun r => r.mask.getLsbD c && !r.ended.getLsbD c

/-- The stream that started the core's run, 3 where there is none. -/
def runStream (s : State) (n c : Nat) : Nat :=
  match (thlOf s n).runs[runIdx s n c]? with
  | some r => r.stream
  | none => 3

/-- The core as an agent of memory. -/
def coreAgent (s : State) (n c : Nat) (w : Word) : Agent := .core n c (runStream s n c) (coreOf s n c).pc w

/-- What a recorded class brings about, where the command has recorded one. -/
def classed (s : State) : State := if s.crun.act then settle s else s

/-- The payload of a marionette event (08 R189). -/
def coreEv (cls cause n c : Nat) (w : Word) (s : State) : State :=
  logEv 8 cls cause (engW0 n 0 (runStream s n c) c false) (coreOf s n c).pc w.toNat s

/-- A core fault (08 R189): the core stops at the instruction, which has no effect; the class is recorded. -/
def coreFault (n c cause : Nat) (w : Word) (s : State) : State :=
  settle (recordClass (classOf cause) cause (coreEv (classOf cause) cause n c w
    (modCore n c (fun k => { k with state := .faulted, cause := BitVec.ofNat 8 cause, waitTimer := none, waitPeg := 0 }) s)))

/-- The instruction completes: its effect on the core, and the next instruction. -/
def Core.done (f : Core → Core) (k : Core) : Core :=
  let k1 := f k
  { k1 with pc := (k.pc + 8) % 2 ^ 44, state := .running, cntInstr := satAdd k.cntInstr 1 }

/-- Complete with an effect on the core's own registers. -/
def coreNext (n c : Nat) (f : Core → Core) (s : State) : State := modCore n c (Core.done f) s

/-- Held at a bound or a fence: the same instruction again. -/
def coreHold (n c : Nat) (s : State) : State := modCore n c (fun k => { k with state := .held }) s

/-- The core takes an instruction word, past a breakpoint that it was resumed at. -/
def Core.taking (w : Word) (k : Core) : Core := { k with instr := w, dbg := { k.dbg with skipBp := false } }

/-- Execute an instruction: an address breakpoint halts the core before it; after a debug step the core halts. A step's instruction that
was held is executed again, and ends the step when it completes. -/
def coreStep (n c : Nat) (w : Word) (body : State → State) (s : State) : State :=
  let k := coreOf s n c
  match (if k.dbg.skipBp || k.state == .held then none else bpAt s 1 n c k.pc) with
  | some i => haltCore n c 2 i s
  | none =>
    if k.dbg.mode == 3 && k.dbg.stepEngine.isSome && k.state != .held then haltCore n c 4 0 s
    else
      let s1 := body (modCore n c (Core.taking w) s)
      if k.dbg.mode == 3 then
        if (coreOf s1 n c).state == .running then haltCore n c 4 0 s1
        else modCore n c (fun k => { k with dbg := { k.dbg with stepEngine := some 0 } }) s1
      else s1

/-- The core's fetch finds its word: an enabled unit, and no uncorrectable location. -/
def fetchOk (s : State) (n c : Nat) : Bool :=
  match resolve s (coreOf s n c).pc with
  | none => false
  | some p => !s.mem.bad p

/-- A fetch that fails: from an absent unit it reads zeros, and opcode 0x00 is an illegal instruction (00 R4, 08 R169); an uncorrectable
location gives no word, and the core stays held (log entry 22). -/
def fetchFail (n c : Nat) (s : State) : State :=
  let ag := coreAgent s n c 0
  let pc := (coreOf s n c).pc
  match resolve s pc with
  | none => coreFault n c 0x50 0 (absentEv ag pc s)
  | some p => classed (coreHold n c (badRead ag pc p s))

/-- A marionette instruction: fetched; an unacceptable word faults before any effect (08 R173). -/
def coreInstr (n c : Nat) (w : Word) (legal : Bool) (body : State → State) (s : State) : Res :=
  need (hasCore s n c) (coreReady s n c)
    (coreStep n c w (fun t => if !fetchOk t n c then fetchFail n c t else if legal then body t else coreFault n c 0x50 w t) s)

/-- An instruction whose whole effect is on the core's registers. -/
def regInstr (n c : Nat) (w : Word) (legal : Bool) (f : Core → Core) (s : State) : Res :=
  coreInstr n c w legal (coreNext n c f) s

end Sys2Proof.Machine
end

