-- ==== Sys2Proof/Machine/MarCvt.lean ====
section
/-! DEFINITION. VCVT (08 R175 to R177) and the conversion of a block of values that UPD shares (06 R142). -/

namespace Sys2Proof.Machine

open Sys2Proof

/-- An M48 pattern from its planes; the extension of an infinity or NaN is ignored (02 R40). -/
def m48Pat (hi lo : Nat) : Nat := if hi / 2 ^ 23 % 256 == 255 then 65536 * hi else 65536 * hi + lo

/-- Width of a source or result element in va or vd; an M48 element counts as 32 there, its extension lies in the next
register (08 R176). -/
def planeWidth (code : Nat) : Nat := if code == 0x0D then 32 else codeWidth code

/-- Element count (08 R175). -/
def cvtCount (fa fb : Nat) : Nat :=
  if isMx fa || isMx fb then 32 else 1024 / max (planeWidth fa) (planeWidth fb)

/-- The formats, the rounding and the register pairs that VCVT accepts (08 R173, R175, R176). -/
def cvtLegal (w : Word) : Bool :=
  let fa := fFa w
  let fb := fFb w
  !isReserved fa && !isReserved fb && fb != 0x1F && (fa != 0x1F || fb == 0x07) && field w 45 44 != 3 && fPg w == 0 &&
    (fa != 0x0D || fA w % 2 == 0) && (fb != 0x0D || fD w % 2 == 0)

/-- Convert values into a format with no block scale. -/
def convList (code : Nat) (r : Rnd) (sat : Bool) (ys : List Fp) : List (Nat × CFlags) :=
  match nfmtOf code with
  | some t => ys.map fun y => t.conv r sat y
  | none => ys.map fun _ => (0, {})

/-- Convert values into any format: the block's scale byte for MX (else 0) and the elements with their flags. -/
def convBlock (code : Nat) (r : Rnd) (sat : Bool) (ys : List Fp) : Nat × List (Nat × CFlags) :=
  if isMx code then mxBlock code r sat ys else (0, convList code r sat ys)

/-- The exact source value of element `i` of VCVT. -/
def cvtSource (w : Word) (k : Core) (i : Nat) : Fp :=
  let fa := fFa w
  let x := elemAt (k.vR (fA w)) (planeWidth fa) i
  if fa == 0x1F then e8m0Val x
  else if fa == 0x0D then m48.decode (m48Pat x (elemAt (k.vR (fA w + 1)) 16 i))
  else elemVal fa ((k.gR (fGd w)).toNat % 256) x

/-- The scale of VCVT, and whether it was replaced: 1.0 and unchecked with gx = 0 (08 R175, 02 R47). -/
def cvtScale (w : Word) (k : Core) : Fp × Bool :=
  if fGx w == 0 then (.fin false 1 0, false)
  else
    let x : W32 := (k.gR (fGx w)).setWidth 32
    (scaleVal x, !scaleOk x)

/-- The effect of VCVT on the core. -/
def cvtCore (w : Word) (k : Core) : Core :=
  let fb := fFb w
  let (sc, badSc) := cvtScale w k
  let ys := (List.range (cvtCount (fFa w) fb)).map fun i => (cvtSource w k i).mul sc
  let (sb, rs) := convBlock fb (rndOf (field w 45 44)) (bit w 46) ys
  let xs := rs.map (·.1)
  let fl := rs.map (·.2)
  let k1 := k.orStat (fl.foldl CFlags.or {}) badSc
  let k2 := if fb == 0x0D then
      (k1.vW (fD w) (packElems 32 (xs.map (· / 65536)))).vW (fD w + 1) (packElems 16 (xs.map (· % 65536)))
    else k1.vW (fD w) (packElems (planeWidth fb) xs)
  let k3 := if isMx fb then k2.gW (fGd w) (BitVec.ofNat 64 sb) else k2
  if fPd w == 0 then k3 else k3.pW (fPd w) (bitsNat (fl.map CFlags.any))

/-- VCVT (08 R175 to R177): a replaced scale logs cause 0x56 once. -/
def execVcvt (n c : Nat) (w : Word) (s : State) : Res :=
  coreInstr n c w (cvtLegal w) (fun t =>
    let t1 := if (cvtScale w (coreOf t n c)).2 then coreEv 0 0x56 n c w t else t
    coreNext n c (cvtCore w) t1) s

end Sys2Proof.Machine
end

