-- ==== Sys2Proof/Machine/PassWord.lean ====
section
/-! DEFINITION. The pass word (04 T4-1), the geometry of a pass (03 T3-1 to T3-3) and the formats it may name (03 R55, R67). -/

namespace Sys2Proof

open Sys2Proof.Machine

/-! ## Fields of the pass word (04 T4-1) -/

def PassWord.grouping (p : PassWord) : Nat := field p.w0 2 0
def PassWord.aFmt (p : PassWord) : Nat := field p.w0 7 3
def PassWord.bFmt (p : PassWord) : Nat := field p.w0 12 8
def PassWord.outFmt (p : PassWord) : Nat := field p.w0 17 13
def PassWord.srOp (p : PassWord) : Nat := field p.w0 20 18
def PassWord.srCmp (p : PassWord) : Nat := field p.w0 22 21
def PassWord.splitSum (p : PassWord) : Bool := bit p.w0 23
def PassWord.aTrans (p : PassWord) : Bool := bit p.w0 24
def PassWord.bTrans (p : PassWord) : Bool := bit p.w0 25
def PassWord.accIn (p : PassWord) : Bool := bit p.w0 26
def PassWord.drainOut (p : PassWord) : Bool := bit p.w0 27
def PassWord.fp64Rnd (p : PassWord) : Rnd := if bit p.w0 28 then .rna else .rne
def PassWord.rnd (p : PassWord) : Nat := field p.w0 30 29
def PassWord.sat (p : PassWord) : Bool := bit p.w0 31
/-- K, in steps. -/
def PassWord.k (p : PassWord) : Nat := field p.w0 48 37 + 1
def PassWord.peg (p : PassWord) : Nat := field p.w0 54 49
def PassWord.pegEn (p : PassWord) : Bool := bit p.w0 55
def PassWord.recompute (p : PassWord) : Bool := bit p.w0 56
/-- 0 forward, 1 backward. -/
def PassWord.dir (p : PassWord) : Nat := field p.w0 57 57
def PassWord.statsEn (p : PassWord) : Bool := bit p.w0 58
def PassWord.aAddr (p : PassWord) : Nat := field p.w1 17 0
def PassWord.bAddr (p : PassWord) : Nat := field p.w1 35 18
def PassWord.aStride (p : PassWord) : Nat := field p.w1 49 36
def PassWord.bStride (p : PassWord) : Nat := field p.w1 63 50
def PassWord.accAddr (p : PassWord) : Nat := field p.w2 13 0
def PassWord.aSaddr (p : PassWord) : Nat := field p.w2 31 14
def PassWord.bSaddr (p : PassWord) : Nat := field p.w2 49 32
def PassWord.layer (p : PassWord) : Nat := field p.w2 61 50
def PassWord.sclMode (p : PassWord) : Nat := field p.w2 63 62
def PassWord.odesc (p : PassWord) : Nat := field p.w3 7 0
def PassWord.outRow (p : PassWord) : Nat := field p.w3 28 8
def PassWord.outCol (p : PassWord) : Nat := field p.w3 44 29
/-- Valid tile rows and columns. -/
def PassWord.rows (p : PassWord) : Nat := field p.w3 49 45 + 1
def PassWord.cols (p : PassWord) : Nat := field p.w3 54 50 + 1
def PassWord.act (p : PassWord) : Nat := field p.w3 58 55
def PassWord.actDeriv (p : PassWord) : Bool := bit p.w3 59
def PassWord.maskMode (p : PassWord) : Nat := field p.w3 61 60

namespace Machine

/-! ## Geometry (03 T3-1 to T3-3) -/

/-- The grouping a format requires (03 T3-1). -/
def groupOf : Nat → Option Nat
  | 0x00 | 0x10 => some 0
  | 0x01 | 0x02 | 0x03 | 0x04 | 0x09 | 0x11 | 0x12 | 0x13 | 0x14 | 0x15 => some 1
  | 0x05 | 0x0A => some 2
  | 0x06 | 0x0B => some 3
  | 0x07 => some 4
  | 0x08 => some 5
  | _ => none

/-- Side of the output tile of a grouping (03 T3-2). -/
def tileSide : Nat → Nat
  | 0 | 1 => 32
  | 2 => 16
  | 3 => 8
  | 4 => 4
  | _ => 2

/-- Operand bytes per token of a format (03 T3-3). -/
def tokenBytes : Nat → Nat
  | 0x01 | 0x02 | 0x11 | 0x12 => 24
  | 0x09 | 0x0A | 0x06 | 0x0B | 0x07 | 0x08 => 16
  | 0x15 => 8
  | _ => 32

/-- The format is an integer format. -/
def isIntFmt (c : Nat) : Bool := 0x09 ≤ c && c ≤ 0x0C

/-- Elements of a row per step: 2 in split mode, else 1; MXINT8 delivers one in four steps. -/
def elemCount (c k : Nat) : Nat := if c == 0x15 then k / 4 else if groupOf c == some 0 then 2 * k else k

/-- The result is INT32 (03 R59): integer operands, or a counting semiring. -/
def intResult (p : PassWord) : Bool := isIntFmt p.aFmt || p.srOp == 5 || p.srOp == 6

/-- The result is FP64. -/
def fp64Result (p : PassWord) : Bool := p.grouping == 5 && !intResult p

/-- Both lanes of a split pass are drained (03 R56). -/
def bothLanes (p : PassWord) : Bool := p.grouping == 0 && !p.splitSum

/-- Footprint of the tile in accumulator words (04 T4-6). -/
def footprint (p : PassWord) : Nat :=
  match p.grouping with
  | 0 => if p.splitSum then 1024 else 2048
  | 1 => 1024
  | 2 => 256
  | 3 => 64
  | 4 => 16
  | _ => 8

/-- First accumulator word of the tile (04 R78). -/
def accBase (p : PassWord) : Nat := p.accAddr * 8

/-- The footprints of two passes overlap (04 R80). -/
def footOverlap (p q : PassWord) : Bool := accBase p < accBase q + footprint q && accBase q < accBase p + footprint p

/-- Elements of one block of a scale plane in steps (03 R57). -/
def blockSteps (c : Nat) : Nat := if c == 0x10 then 16 else if c == 0x15 then 128 else 32

/-- The number of scale slots that an MX operand has (07 R152). -/
def scaleSlots (c k : Nat) : Nat := if isMx c then k / blockSteps c else 0

/-- Bytes of a stored tile (07 R150). -/
def tileBytes (c : Nat) : Nat := 32 * tokenBytes c

/-- Tiles that a pass reads of an operand. -/
def tileCount (k : Nat) : Nat := (k + 31) / 32

/-- The rules of 03 R55, R57 and R67 on formats, grouping and semiring mode; `fp64` and `dist` are the part's capabilities. -/
def formatsOk (p : PassWord) (fp64 dist : Bool) : Bool :=
  let a := p.aFmt
  let b := p.bFmt
  let mxOk (c : Nat) (kInner : Bool) : Bool := !isMx c || (p.k % blockSteps c == 0 && kInner)
  groupOf a == some p.grouping && groupOf b == some p.grouping &&
    (isIntFmt a == isIntFmt b) && ((a == 0x15) == (b == 0x15)) &&
    (p.grouping != 5 || fp64) &&
    mxOk a (!p.aTrans) && mxOk b p.bTrans &&
    p.srOp != 7 && (dist || (p.srOp != 3 && p.srOp != 4)) &&
    (p.srOp == 0 || (a == b && (if p.srOp == 5 then [0x0A, 0x0B].contains a else [0x0A, 0x0B, 0x05, 0x07].contains a)))

end Machine

end Sys2Proof
end

