-- ==== Sys2Proof/Machine/Product.lean ====
section
/-! DEFINITION. What a frond computes (03): stored operands (07 R150 to R152), terms, accumulation (03 R53, R58, R59, R68, R69) and
the drain into accumulator memory (03 R56, R70; 04 R78). -/

namespace Sys2Proof.Machine

open Sys2Proof

/-! ## Stored operands -/

/-- An operand as the feeder has read it: format code, stored tiles and scale slots as bit strings. -/
structure Operand where
  fmt : Nat
  stepMajor : Bool
  tiles : List Nat
  slots : List Nat
deriving DecidableEq, Repr, Inhabited

/-- Side of the tile for an operand's format. -/
def fmtSide (c : Nat) : Nat := tileSide ((groupOf c).getD 1)

/-- Lines of element indices in a tile: 8 for MXINT8, else 32; elements per index. -/
def tileLines (c : Nat) : Nat := if c == 0x15 then 8 else 32
def perIndex (c : Nat) : Nat := if groupOf c == some 0 then 2 else 1

/-- Bits of element `i` along K of row (or column) `r` (07 R151). -/
def Operand.bits (o : Operand) (r i : Nat) : Nat :=
  let e := perIndex o.fmt
  let n := tileLines o.fmt
  let line := i / e % n
  let pos := if o.stepMajor then (line * fmtSide o.fmt + r) * e + i % e else (r * n + line) * e + i % e
  elemAt (o.tiles.getD (i / e / n) 0) (codeWidth o.fmt) pos

/-- The block scale byte of element `i` of row `r` (07 R152); a per-tensor operand takes part with exponent 0 (03 R55). -/
def Operand.scale (o : Operand) (r i : Nat) : Nat :=
  if isMx o.fmt then elemAt (o.slots.getD (i / 32) 0) 8 r else 127

/-- The value of an element. -/
def Operand.val (o : Operand) (r i : Nat) : Fp := elemVal o.fmt (o.scale r i) (o.bits r i)

/-- Ranges (offset, length) of a tile that a pass reads, where `n` of its element indices are used (07 R150). -/
def tileRanges (c : Nat) (stepMajor : Bool) (n : Nat) : List (Nat × Nat) :=
  let w := codeWidth c * perIndex c
  if n == tileLines c then [(0, tileBytes c)]
  else if stepMajor then [(0, n * fmtSide c * w / 8)]
  else (List.range (fmtSide c)).map fun r => (r * tileLines c * w / 8, (n * w + 7) / 8)

/-- Global address of a store-local address, modulo 16 MiB (07 R148). -/
def storeAddr (n a : Nat) : Nat := storeBase + 0x1000000 * n + a % 0x1000000

/-- Read `k` bytes at a local address of the store of thallus `n`, which wrap at its end (07 R148). -/
def readStore (ag : Agent) (n a k : Nat) (s : State) : State × Option (List Byte) :=
  let j := min k (0x1000000 - a % 0x1000000)
  match readMem ag (storeAddr n a) j s with
  | (s1, none) => (s1, none)
  | (s1, some bs) =>
    match readMem ag (storeAddr n 0) (k - j) s1 with
    | (s2, none) => (s2, none)
    | (s2, some cs) => (s2, some (bs ++ cs))

/-- Read ranges of a tile at a local address of the store of thallus `n`. -/
def readTile (ag : Agent) (n a : Nat) : List (Nat × Nat) → State → State × Option Nat
  | [], s => (s, some 0)
  | (o, k) :: rest, s =>
    match readStore ag n (a + o) k s with
    | (s1, none) => (s1, none)
    | (s1, some bs) =>
      match readTile ag n a rest s1 with
      | (s2, none) => (s2, none)
      | (s2, some x) => (s2, some (natOf bs * 2 ^ (8 * o) + x))

/-- Read a list of (address, ranges), stopping at the first uncorrectable one. -/
def readTiles (ag : Agent) (n : Nat) : List (Nat × List (Nat × Nat)) → State → State × Option (List Nat)
  | [], s => (s, some [])
  | (a, rs) :: rest, s =>
    match readTile ag n a rs s with
    | (s1, none) => (s1, none)
    | (s1, some x) =>
      match readTiles ag n rest s1 with
      | (s2, none) => (s2, none)
      | (s2, some xs) => (s2, some (x :: xs))

/-- Read an operand of `k` steps: tiles at `a` spaced `stride`, slots at `sa`, all in bytes of the store of thallus `n`. -/
def readOperand (ag : Agent) (n c : Nat) (stepMajor : Bool) (k a stride sa : Nat) (s : State) : State × Option Operand :=
  let idx := if c == 0x15 then k / 4 else k
  let l := tileLines c
  let tiles := (List.range (tileCount k)).map fun t =>
    (a + t * stride, tileRanges c stepMajor (min l (idx - t * l)))
  match readTiles ag n tiles s with
  | (s1, none) => (s1, none)
  | (s1, some ts) =>
    let slots := (List.range (scaleSlots c k)).map fun j => (sa + 64 * j, [(0, fmtSide c)])
    match readTiles ag n slots s1 with
    | (s2, none) => (s2, none)
    | (s2, some ss) => (s2, some ⟨c, stepMajor, ts, ss⟩)

/-- The operands of a pass. -/
def readPass (ag : Agent) (n : Nat) (p : PassWord) (s : State) : State × Option (Operand × Operand) :=
  match readOperand ag n p.aFmt p.aTrans p.k (p.aAddr * 64) (p.aStride * 64) (p.aSaddr * 64) s with
  | (s1, none) => (s1, none)
  | (s1, some a) =>
    match readOperand ag n p.bFmt (!p.bTrans) p.k (p.bAddr * 64) (p.bStride * 64) (p.bSaddr * 64) s1 with
    | (s2, none) => (s2, none)
    | (s2, some b) => (s2, some (a, b))

/-! ## Floating-point accumulation -/

/-- The magnitude exceeds the largest finite FP32+8 value. -/
def pastP8 (m : Nat) (e : Int) : Bool :=
  let q := min e 96
  (2 ^ 32 - 1) * 2 ^ (96 - q).toNat < m * 2 ^ (e - q).toNat

/-- RZ to FP32+8, with an infinity beyond its range (03 R53, R68; 02 R44). -/
def p8Round (x : Fp) : Fp :=
  match x with
  | .fin neg m e => if pastP8 m e then .inf neg else fp32p8.decode (fp32p8.enc .rz x)
  | y => y

/-- One add of a term into a lane: FP32+8 with RZ, or FP64 with the pass's rounding. A term beyond the range of FP32+8 makes the add
overflow (03 R53). -/
def laneAdd (fp64r : Option Rnd) (acc t : Fp) : Fp :=
  match fp64r with
  | some r => fp64.decode (fp64.enc r (acc.add t))
  | none =>
    match acc, t with
    | .fin _ _ _, .fin neg m e => if m != 0 && 128 ≤ ilog m e then .inf neg else p8Round (acc.add t)
    | _, _ => p8Round (acc.add t)

/-- The four digit terms of an MXINT8 element pair (03 R58). -/
def digitTerms (a b : Nat) (sa sb : Nat) : List Fp :=
  if sa == 0xFF || sb == 0xFF then List.replicate 4 .nan
  else
    let x := signed 8 a
    let y := signed 8 b
    let neg := decide (x < 0) != decide (y < 0)
    let e : Int := (sa : Int) + (sb : Int) - 254 - 12
    let ah := x.natAbs / 16
    let al := x.natAbs % 16
    let bh := y.natAbs / 16
    let bl := y.natAbs % 16
    [.fin neg (ah * bh) (e + 8), .fin neg (ah * bl) (e + 4), .fin neg (al * bh) (e + 4), .fin neg (al * bl) e]

/-- Minimum or maximum with NaN kept (03 R68, R69). -/
def keepMinMax (mx : Bool) (acc t : Fp) : Fp :=
  if acc.isNan || t.isNan then .nan
  else if mx then (if acc.lt t then t else acc) else (if t.lt acc then t else acc)

/-- The term of a float semiring mode 1 to 4 (03 R68). -/
def srTerm (op : Nat) (x y : Fp) : Fp :=
  match op with
  | 1 | 2 => p8Round (x.add y)
  | 3 =>
    let d := p8Round (x.sub y)
    d.mul d
  | _ => (p8Round (x.sub y)).abs

/-- The identity of a float accumulator (03 T3-6). -/
def srIdentity (op : Nat) : Fp :=
  match op with
  | 1 => .inf false
  | 2 => .inf true
  | _ => .fin true 0 0

/-- Accumulate the elements `is` along K into one float lane. -/
def floatLane (p : PassWord) (a b : Operand) (r c : Nat) (is : List Nat) : Fp :=
  let fp64r := if p.grouping == 5 then some p.fp64Rnd else none
  is.foldl (fun acc i =>
    if p.srOp == 1 || p.srOp == 2 then keepMinMax (p.srOp == 2) acc (srTerm p.srOp (a.val r i) (b.val c i))
    else if p.srOp == 3 || p.srOp == 4 then laneAdd none acc (srTerm p.srOp (a.val r i) (b.val c i))
    else if a.fmt == 0x15 then
      (digitTerms (a.bits r i) (b.bits c i) (a.scale r i) (b.scale c i)).foldl (laneAdd none) acc
    else laneAdd fp64r acc ((a.val r i).mul (b.val c i))) (srIdentity p.srOp)

/-! ## Integer accumulation (03 R59) -/

/-- The relation of `sr_cmp` (03 R67): +0 and -0 are equal (03 R68). -/
def srCompare (cmp : Nat) (x y : Fp) : Bool :=
  let eq := (x.isZero && y.isZero) || (!x.lt y && !y.lt x)
  match cmp with
  | 0 => eq
  | 1 => !eq
  | 2 => x.lt y && !eq
  | _ => x.lt y || eq

/-- Number of ones of a pattern. -/
def ones (w x : Nat) : Nat := ((List.range w).filter fun i => Nat.testBit x i).length

/-- The exact integer accumulator of a position. -/
def intLane (p : PassWord) (a b : Operand) (r c : Nat) (is : List Nat) : Int :=
  let w := codeWidth a.fmt
  let start : Int := if p.srOp == 1 then 2147483647 else if p.srOp == 2 then -2147483648 else 0
  is.foldl (fun acc i =>
    let x := signed w (a.bits r i)
    let y := signed w (b.bits c i)
    match p.srOp with
    | 0 => acc + x * y
    | 1 => min acc (x + y)
    | 2 => max acc (x + y)
    | 3 => acc + (x - y) * (x - y)
    | 4 => acc + (x - y).natAbs
    | 5 => acc + ones w (a.bits r i ^^^ b.bits c i)
    | _ =>
      let u := a.val r i
      let v := b.val c i
      if u.isNan || v.isNan then acc else acc + b2n (srCompare p.srCmp u v)) start

/-- Compare-and-count terms with a NaN operand (03 R69). -/
def nanTerms (p : PassWord) (a b : Operand) (r c : Nat) (is : List Nat) : Nat :=
  if p.srOp == 6 then (is.filter fun i => (a.val r i).isNan || (b.val c i).isNan).length else 0

/-- Saturate to INT32; whether it saturated. -/
def satInt32 (x : Int) : Nat × Bool :=
  if 2147483647 < x then (0x7FFFFFFF, true)
  else if x < -2147483648 then (0x80000000, true)
  else (wrapNat 32 x, false)

/-! ## The drain -/

/-- What a drain gives: accumulator words, and what it adds to NANCMP and ISAT. -/
structure Drain where
  words : List (Nat × W32)
  nan : Nat
  sat : Nat
deriving DecidableEq, Repr, Inhabited

/-- The elements along K of one lane. -/
def laneElems (c k lane : Nat) : List Nat :=
  if groupOf c == some 0 then (List.range k).map fun i => 2 * i + lane else List.range (elemCount c k)

/-- Combine a drained float value with the stored pattern (03 R56, R70). -/
def drainFloat (p : PassWord) (x : Fp) (stored : Nat) : Nat :=
  if p.grouping == 5 then
    fp64.enc p.fp64Rnd (if p.accIn then x.add (fp64.decode stored) else x)
  else if p.srOp == 1 || p.srOp == 2 then
    let v := fp32.enc .rna x
    if p.accIn then fp32.enc .rne (keepMinMax (p.srOp == 2) (fp32.decode v) (fp32.decode stored)) else v
  else fp32.enc .rna (if p.accIn then x.add (fp32.decode stored) else x)

/-- Combine a drained integer with the stored value (03 R59, R70). -/
def drainInt (p : PassWord) (x : Int) (stored : Nat) : Nat × Bool :=
  let y := signed 32 stored
  satInt32 (if p.accIn then
    (match p.srOp with
      | 1 => min x y
      | 2 => max x y
      | _ => x + y)
    else x)

/-- One output position of a pass, drained into accumulator memory `acc` (04 R78). -/
def drainAt (p : PassWord) (a b : Operand) (acc : Sparse 32) (r c : Nat) : Drain :=
  let side := tileSide p.grouping
  let at0 := accBase p + r * side + c
  let old (i : Nat) : Nat := (Sparse.get acc i).toNat
  if intResult p then
    let is := laneElems p.aFmt p.k 0
    let (x, sat) := drainInt p (intLane p a b r c is) (old at0)
    ⟨[(at0, BitVec.ofNat 32 x)], nanTerms p a b r c is, b2n sat⟩
  else if p.grouping == 5 then
    let at2 := accBase p + 2 * (r * side + c)
    let x := drainFloat p (floatLane p a b r c (laneElems p.aFmt p.k 0)) (old at2 + old (at2 + 1) * 2 ^ 32)
    ⟨[(at2, BitVec.ofNat 32 x), (at2 + 1, BitVec.ofNat 32 (x / 2 ^ 32))], 0, 0⟩
  else if p.grouping == 0 then
    let l0 := floatLane p a b r c (laneElems p.aFmt p.k 0)
    let l1 := floatLane p a b r c (laneElems p.aFmt p.k 1)
    if p.splitSum then ⟨[(at0, BitVec.ofNat 32 (drainFloat p (l0.add l1) (old at0)))], 0, 0⟩
    else ⟨[(at0, BitVec.ofNat 32 (drainFloat p l0 (old at0))), (at0 + 1024, BitVec.ofNat 32 (drainFloat p l1 (old (at0 + 1024))))], 0, 0⟩
  else ⟨[(at0, BitVec.ofNat 32 (drainFloat p (floatLane p a b r c (laneElems p.aFmt p.k 0)) (old at0)))], 0, 0⟩

/-- The drain of the first `rows` rows of a tile, row by row. -/
def drainTile (p : PassWord) (a b : Operand) (acc : Sparse 32) (rows : Nat) : Drain :=
  let side := tileSide p.grouping
  ((List.range rows).flatMap fun r => (List.range side).map fun c => (r, c)).foldl (fun d (r, c) =>
    let x := drainAt p a b acc r c
    ⟨d.words ++ x.words, d.nan + x.nan, d.sat + x.sat⟩) ⟨[], 0, 0⟩

/-- Store drained words. -/
def storeWords (acc : Sparse 32) (ws : List (Nat × W32)) : Sparse 32 := ws.foldl (fun m (a, x) => Sparse.set m a x) acc

end Sys2Proof.Machine
end

