-- ==== Sys2Proof/Machine/Output.lean ====
section
/-! DEFINITION. The output path (04 R83 to R89): descriptors (04 T4-5), activation tables (04 R86, R87), masks, conversion,
re-conversion (05 R111 to R113) and the taps of a tile (05 R97, R98, R393). -/

namespace Sys2Proof.Machine

open Sys2Proof

/-! ## Output descriptors (04 T4-5): bases rounded down to 64 bytes, pitches to a multiple of 64 -/

def odBase (d : List Word) (i : Nat) : Nat := field (wordAt d i) 43 6 * 64
def odPitch (d : List Word) (i : Nat) : Nat := field (wordAt d i) 31 6 * 64
def odAuxFmt (d : List Word) : Nat := field (wordAt d 6) 52 48
def odAuxMul (d : List Word) : W32 := BitVec.ofNat 32 (field (wordAt d 7) 63 32)

/-! ## Activation tables -/

/-- Word `i` of a table (04 T4-9). -/
def actWord (e : Engine) (slot deriv i : Nat) : Nat := (Sparse.get e.act (1024 * (slot * 2 + deriv) + i)).toNat

/-- A tail of a table (04 R87). -/
def actTail (a b x : Nat) : Nat := if (fp32.decode b).isZero then a else fp32.addB a (fp32.mulB b x)

/-- Floor of a finite value that is not negative. -/
def floorFin (m : Nat) (e : Int) : Nat := roundAt .rz m e 0

/-- Evaluate a table (04 R87): every operation rounds RNE to FP32, t is exact. DESIGN CHOICE (log entry 76): where u is -0, t is +0. -/
def actEval (e : Engine) (slot deriv x : Nat) : Nat :=
  let w := actWord e slot deriv
  let lo := actTail (w 2) (w 3) x
  let hi := actTail (w 4) (w 5) x
  match fp32.decode x with
  | .nan => fp32.nanBits
  | .inf neg => if neg then lo else hi
  | .fin _ _ _ =>
    match fp32.decode (fp32.mulB (fp32.subB x (w 0)) (w 1)) with
    | .nan => fp32.nanBits
    | .inf neg => if neg then lo else hi
    | .fin neg m ex =>
      if neg && m != 0 then lo
      else
        let i := floorFin m ex
        if 256 ≤ i then hi
        else
          let t := (fp32.enc .rne ((Fp.fin false m ex).sub (.fin false i 0)))
          let c (j : Nat) := w (8 + 3 * i + j)
          fp32.addB (c 0) (fp32.mulB t (fp32.addB (c 1) (fp32.mulB t (c 2))))

/-! ## Positions -/

/-- A valid position of the tile in the order of the output path: its row and tensor column, and its accumulator word. -/
structure Pos where
  row : Nat
  col : Nat
  word : Nat
deriving DecidableEq, Repr, Inhabited

/-- Valid positions of lane `l`, row by row (04 R77, R78, R83). -/
def lanePos (p : PassWord) (l : Nat) : List Pos :=
  let side := tileSide p.grouping
  let unit := if fp64Result p then 2 else 1
  (List.range p.rows).flatMap fun r => (List.range p.cols).map fun c =>
    ⟨p.outRow + r, p.outCol + 32 * l + c, accBase p + 1024 * l + unit * (r * side + c)⟩

/-- All valid positions. -/
def tilePos (p : PassWord) : List Pos := lanePos p 0 ++ (if bothLanes p then lanePos p 1 else [])

/-! ## Stages 1 to 4 -/

/-- The pattern that stage 1 reads. -/
def accPattern (p : PassWord) (e : Engine) (x : Pos) : Nat :=
  let w (i : Nat) : Nat := (Sparse.get e.acc (x.word + i)).toNat
  if fp64Result p then w 0 + w 1 * 2 ^ 32 else w 0

/-- The value of a pattern of the result's type. -/
def resultVal (p : PassWord) (x : Nat) : Fp :=
  if intResult p then intVal (signed 32 x) else if fp64Result p then fp64.decode x else fp32.decode x

/-- An element leaving stage 4: its pattern and its mask bit. -/
structure Elem where
  pos : Pos
  x : Nat
  mask : Bool
deriving DecidableEq, Repr, Inhabited

/-- The auxiliary factor, 1.0 where it is not positive, finite and normal (04 R85). -/
def auxMul (d : List Word) : Nat := if scaleOk (odAuxMul d) then (odAuxMul d).toNat else 0x3F800000

/-- The auxiliary input of a position (04 R77, R85). -/
def readAux (ag : Agent) (d : List Word) (x : Pos) (s : State) : State × Option Nat :=
  let w := codeWidth (odAuxFmt d)
  let bit0 := x.col * w
  let a := odBase d 6 + x.row * odPitch d 7 + bit0 / 8
  match readMem ag a ((bit0 % 8 + w + 7) / 8) s with
  | (s1, none) => (s1, none)
  | (s1, some bs) =>
    (s1, some (fp32.mulB (fp32.enc .rne (elemVal (odAuxFmt d) 127 (natOf bs >>> (bit0 % 8) % 2 ^ w))) (auxMul d)))

/-- Stages 2 to 4 for one position (04 T4-8, T4-10). -/
def stage4 (ag : Agent) (p : PassWord) (d : List Word) (e : Engine) (x : Pos) (s : State) : State × Option Elem :=
  let v := accPattern p e x
  let pre := match fp32.decode v with
    | .fin neg m _ => !neg && m != 0
    | .inf neg => !neg
    | .nan => false
  let (s1, v1) :=
    if p.act == 0 then (s, some v)
    else if p.actDeriv then
      match readAux ag d x s with
      | (s1, none) => (s1, none)
      | (s1, some ax) => (s1, some (fp32.mulB v (actEval e p.act 1 ax)))
    else (s, some (actEval e p.act 0 v))
  match v1 with
  | none => (s1, none)
  | some y =>
    if p.maskMode == 3 then
      match readMem ag (odBase d 4 + x.row * odPitch d 5 + x.col / 8) 1 s1 with
      | (s2, none) => (s2, none)
      | (s2, some bs) => (s2, some ⟨x, fp32.mulB y (if Nat.testBit (natOf bs) (x.col % 8) then 0x3F800000 else 0), false⟩)
    else (s1, some ⟨x, y, if p.maskMode == 1 then pre else !(fp32.decode y).isZero⟩)

/-- Stages 1 to 4 of a list of positions; how many elements came before an uncorrectable read. -/
def stages (ag : Agent) (p : PassWord) (d : List Word) (e : Engine) : List Pos → State → State × List Elem × Bool
  | [], s => (s, [], true)
  | x :: xs, s =>
    match stage4 ag p d e x s with
    | (s1, none) => (s1, [], false)
    | (s1, some el) =>
      let (s2, els, ok) := stages ag p d e xs s1
      (s2, el :: els, ok)

/-! ## Stage 5 -/

/-- The scale of a pass before its check (04 R85, 05 R107). -/
def passScale (s : State) (p : PassWord) : W32 :=
  if p.sclMode == 1 then BitVec.ofNat 32 (field (peekWord s (curState s p.layer p.dir + 8)) 31 0) else 0x3F800000

/-- A converted element: its source value, `y`, its pattern, the value written, its flags, and whether its block has scale 0xFF. -/
structure Conv where
  el : Elem
  x : Fp
  y : Fp
  q : Nat
  qv : Fp
  fl : CFlags
  badBlock : Bool
deriving DecidableEq, Repr, Inhabited

/-- The largest finite value of a target with the sign of `y` (05 T5-1, e_err). -/
def maxLike (c : Nat) (y : Fp) : Fp :=
  let neg := match y with
    | .fin n _ _ => n
    | .inf n => n
    | .nan => false
  match nfmtOf c with
  | some (.flt f) => f.decode (f.signBits neg + f.maxBits)
  | some (.int w) => if neg then .fin true (2 ^ (w - 1)) 0 else .fin false (2 ^ (w - 1) - 1) 0
  | _ => .fin neg 127 (-6)

/-- Convert one row of elements, an MX row as its block (04 R84, 02 R38): the scale byte and the elements. -/
def convRow (p : PassWord) (sc : Fp) (els : List Elem) : Nat × List Conv :=
  let xs := els.map fun e => resultVal p e.x
  let ys := xs.map fun x => x.mul sc
  let (sb, rs) := convBlock p.outFmt (rndOf p.rnd) p.sat ys
  let mx := isMx p.outFmt
  (sb, (els.zip (xs.zip (ys.zip rs))).map fun (e, x, y, q, fl) =>
    { el := e, x := x, y := y, q := q, fl := fl, badBlock := mx && sb == 0xFF,
      qv := if fl.ovf && !mx then maxLike p.outFmt y else elemVal p.outFmt sb q })

/-- The elements cut into tile rows. -/
def rowsOf (p : PassWord) (els : List Elem) : List (List Elem) :=
  (List.range (els.length / p.cols)).map fun r => (els.drop (r * p.cols)).take p.cols

/-- Convert a tile. -/
def convTile (p : PassWord) (sc : Fp) (els : List Elem) : List (Nat × List Conv) := (rowsOf p els).map (convRow p sc)

def anyOvf (rows : List (Nat × List Conv)) : Bool := rows.any fun (_, cs) => cs.any fun c => c.fl.ovf

/-- Re-conversion applies to the pass (05 R111). -/
def reconvOn (s : State) (p : PassWord) : Bool :=
  !isMx p.outFmt && p.sclMode == 1 && bit (wordAt (dirConf s p.layer p.dir) 0) 31 &&
    field (wordAt (layerConf s p.layer) 1) 43 0 != 0

/-- The smallest k from 1 to 31 with which nothing overflows (05 R111). -/
def reconvK (p : PassWord) (sc : Fp) (els : List Elem) : Option Nat :=
  ((List.range 31).map (· + 1)).find? fun k => !anyOvf (convTile p (sc.scale2 (-(k : Int))) els)

/-! ## Stage 6: taps (05 R97, R98, R393) -/

/-- sq(z) with anchor g, in units of 2^(2g-80), and whether it clipped (05 R98). -/
def sq (g : Int) (z : Fp) : Nat × Bool :=
  match z with
  | .fin _ m e =>
    let q := min (2 * e) (2 * g)
    if 2 ^ (2 * g - q).toNat < m * m * 2 ^ (2 * e - q).toNat then (2 ^ 80, true)
    else (roundAt .rz (m * m) (2 * e) (2 * g - 80), false)
  | _ => (0, false)

/-- |x| rounded toward +Inf to FP32, for amax_x (05 R393). -/
def amaxUp (x : Fp) : Nat :=
  match x with
  | .fin _ m e =>
    let lo := min (fp32.roundBits .rz m e) fp32.maxBits
    match (Fp.fin false m e), fp32.decode lo with
    | a, b => if b.lt a && lo != fp32.maxBits then lo + 1 else lo
  | _ => 0

/-- The read of the state copy in force that the settings of a governed pass need. -/
def confProbe (p : PassWord) (s : State) : State :=
  if p.sclMode == 1 || (p.statsEn && !p.recompute) then probe (curState s p.layer p.dir) 16 s else s

/-- Anchor exponent of the layer's state copy in force. -/
def anchorOf (s : State) (l d : Nat) : Int := signed 8 (field (peekWord s (curState s l d)) 47 40)

/-- Taps of one element: `k` re-conversion binades, `ovf0` its flag in the first conversion. -/
def tapElem (g : Int) (k : Nat) (ovf0 : Bool) (c : Conv) (t : TileRec) : TileRec :=
  let fin := match c.x with
    | .fin _ _ _ => true
    | _ => false
  let y := c.y.scale2 k
  let q := c.qv.scale2 k
  let sy := sq g y
  let se := sq g (q.sub y)
  let energy := fin && !c.badBlock
  { t with
    nElem := t.nElem + 1
    nZero := t.nZero + b2n c.x.isZero
    nUnder := t.nUnder + b2n (c.fl.unf && !c.badBlock)
    nOver := t.nOver + b2n (ovf0 && !c.badBlock)
    nNan := t.nNan + b2n c.x.isNan
    nInf := t.nInf + b2n c.x.isInf
    amaxX := if fin then BitVec.ofNat 32 (max t.amaxX.toNat (amaxUp c.x)) else t.amaxX
    eSig := if energy then t.eSig + sy.1 else t.eSig
    eErr := if energy then t.eErr + se.1 else t.eErr
    nClip := if energy then t.nClip + b2n sy.2 + b2n se.2 else t.nClip }

/-- Taps of a tile. -/
def tapTile (g : Int) (k : Nat) (first second : List (Nat × List Conv)) (t : TileRec) : TileRec :=
  ((first.flatMap (·.2)).zip (second.flatMap (·.2))).foldl (fun t (a, b) => tapElem g k a.fl.ovf b t) t

/-! ## Stage 7: write (04 R77) -/

/-- Write one row of a tile: elements, block scale and mask bits. -/
def writeRow (ag : Agent) (p : PassWord) (d : List Word) (row : Nat × List Conv) (s : State) : State :=
  match row.2.head? with
  | none => s
  | some c0 =>
    let w := codeWidth p.outFmt
    let x := c0.el.pos
    let n := row.2.length
    let bytes := bytesOf ((n * w + 7) / 8) (packElems w (row.2.map (·.q)))
    let s1 := writeMem ag (odBase d 0 + x.row * odPitch d 1 + x.col * w / 8) bytes s
    let s2 := if isMx p.outFmt then writeMem ag (odBase d 2 + x.row * odPitch d 3 + x.col / 32) [BitVec.ofNat 8 row.1] s1 else s1
    if p.maskMode == 1 || p.maskMode == 2 then
      writeMem ag (odBase d 4 + x.row * odPitch d 5 + x.col / 8)
        (bytesOf (n / 8) (packElems 1 (row.2.map fun c => b2n c.el.mask))) s2
    else s2

/-! ## The tile -/

/-- The re-conversion log entry (05 R113). -/
def reconvEntry (p : PassWord) (d : List Word) (k : Nat) : Word × Word :=
  (BitVec.ofNat 64 (p.outRow ||| p.outCol <<< 21 ||| (p.rows - 1) <<< 37 ||| (p.cols - 1) <<< 42 ||| k <<< 47),
    BitVec.ofNat 64 (odBase d 0))

/-- What the tile hands on: rows to write and the record of its taps. -/
structure TileOut where
  rows : List (Nat × List Conv)
  record : Option TileRec
  reconv : Bool
deriving DecidableEq, Repr, Inhabited

/-- Stages 5 and 6 with re-conversion (05 R111, R112). -/
def tileOut (s : State) (p : PassWord) (d : List Word) (els : List Elem) : TileOut :=
  let sc := scaleVal (passScale s p)
  let first := convTile p sc els
  let k := if reconvOn s p && anyOvf first then reconvK p sc els else none
  let second := match k with
    | some j => convTile p (sc.scale2 (-(j : Int))) els
    | none => first
  let base : TileRec := { layer := p.layer, dir := p.dir }
  let on := p.statsEn && !p.recompute
  let entry := match k with
    | some j => if p.recompute then none else some (reconvEntry p d j)
    | none => none
  let t0 := if on then { tapTile (anchorOf s p.layer p.dir) (k.getD 0) first second base with
      tapped := true, nReconv := b2n k.isSome } else base
  { rows := second
    record := if on || entry.isSome then some { t0 with log := entry } else none
    reconv := k.isSome }

end Sys2Proof.Machine
end

