-- ==== Sys2Proof/Machine/Health.lean ====
section
/-! DEFINITION. The health map in the board's flash and in BIST.HMAP (17 R356, R357). -/

namespace Sys2Proof.Machine

open Sys2Proof

/-- The copy in force: the higher sequence number whose CRC holds. -/
def mapCur (p : Part) : FlashMap := if p.mapA.good && (!p.mapB.good || p.mapB.seq ≤ p.mapA.seq) then p.mapA else p.mapB

/-- Write an update into the other copy, which becomes current. -/
def mapWrite (es : List HmapEntry) (p : Part) : Part :=
  let m : FlashMap := { seq := (mapCur p).seq + 1, good := true, entries := es }
  if p.mapA.good && (!p.mapB.good || p.mapB.seq ≤ p.mapA.seq) then { p with mapB := m } else { p with mapA := m }

/-- An entry of a thallus or of what lies in one (17 T17-3). -/
def inThallus (e : HmapEntry) : Bool := 1 ≤ e.kind && e.kind ≤ 4

/-- A map in the register array: its entries and hmap_full (17 R357). Once more than 256 entries are needed, one thallus entry stands in
place of all the entries of a thallus, and the first 256 are kept. -/
def capEntries (full : Bool) (es : List HmapEntry) : List HmapEntry × Bool :=
  if !full && es.length ≤ 256 then (es, false)
  else
    ((es.foldl (fun (acc : List HmapEntry) e =>
      if !inThallus e then acc ++ [e]
      else if acc.any (fun x => x.kind == 1 && x.unit == e.unit) then acc
      else acc ++ [{ e with kind := 1, sub := 0, row := 0 }]) []).take 256, true)

/-- Record an entry in operation: it takes effect at the next start (17 R362, 04 R95). -/
def hmapRecord (e : HmapEntry) (s : State) : State :=
  let (shown, full) := capEntries s.bist.hmapFull (s.bist.hmap ++ [e])
  { s with
    part := mapWrite ((mapCur s.part).entries ++ [e]) s.part
    bist := { s.bist with hmap := shown, hmapFull := full } }

/-- Physical index of logical thallus `n`. -/
def physOf (s : State) (n : Nat) : Nat := s.caps.thlPhys.getD n 0

/-- An entry recorded now. -/
def hmapNow (s : State) (kind unit sub row origin reason : Nat) : HmapEntry :=
  ⟨kind, unit, sub, row, origin, reason, false, if jobLoaded s then s.cmt.step.toNat else 0, s.time.now.toNat⟩

/-- Word 0 of an entry (17 T17-3). -/
def hmapWord0 (e : HmapEntry) : Nat :=
  e.kind ||| e.unit <<< 4 ||| e.sub <<< 12 ||| e.row <<< 17 ||| e.origin <<< 23 ||| e.reason <<< 26 ||| (b2n e.excluded) <<< 30 |||
    e.step <<< 32

end Sys2Proof.Machine
end

