-- ==== Sys2Proof/Machine/RegOps.lean ====
section
/-! DEFINITION. What every register write shares (18 R366 to R373): the bits written, ignored writes, and holes. -/

namespace Sys2Proof.Machine

open Sys2Proof

/-- A write: who makes it, the BAR0 offset of the 64-bit register, the bits that it writes and their values. -/
structure Wr where
  who : Who
  off : Nat
  mask : Word := BitVec.allOnes 64
  data : Word
deriving DecidableEq, Repr, Inhabited

/-- Requester ID, 0 for the debug port (18 R373). -/
def whoId : Who → Nat
  | .host id => id.toNat
  | .debug => 0

def isDebug : Who → Bool
  | .host _ => false
  | .debug => true

/-- A new value of the field at bits [lo + w - 1:lo]: the written bits from the write, the others as they were. -/
def Wr.merge {w : Nat} (x : Wr) (old : BitVec w) (lo : Nat) : BitVec w :=
  let m : BitVec w := BitVec.ofNat w (x.mask.toNat >>> lo)
  (old &&& ~~~m) ||| (BitVec.ofNat w (x.data.toNat >>> lo) &&& m)

/-- A new value of a one-bit field. -/
def Wr.flag (x : Wr) (old : Bool) (i : Nat) : Bool := if bit x.mask i then bit x.data i else old

/-- A command bit is written 1. -/
def Wr.sets (x : Wr) (i : Nat) : Bool := bit x.mask i && bit x.data i

/-- The write touches a bit of [hi:lo]. -/
def Wr.touches (x : Wr) (hi lo : Nat) : Bool := field x.mask hi lo != 0

/-- The offset and the data of the access itself: a 4-byte write may be to a register's upper half. -/
def Wr.access (x : Wr) : Nat × Word :=
  let d := x.data &&& x.mask
  if field x.mask 31 0 == 0 then (x.off + 4, d >>> 32) else (x.off, d)

/-- A write that is ignored and logged, causes 0x01 and 0x02 (18 R370, R373). -/
def ignoreWrite (x : Wr) (cause : Nat) (s : State) : State :=
  logEv 13 0 cause (whoId x.who <<< 8) x.access.1 x.access.2.toNat { s with reg := {
    cntIgnored := satAdd s.reg.cntIgnored 1
    offset := BitVec.ofNat 23 (x.off / 8), dbg := isDebug x.who, cause := BitVec.ofNat 8 cause } }

/-- The agent that a requester is. -/
def whoAgent : Who → Agent
  | .host id => .host id
  | .debug => .debug

/-- An access to a hole of register space (18 R365): the record names the BAR0 offset, or for the debug port, which accesses by device
address, that address (14 R386). -/
def holeEv (who : Who) (off : Nat) (s : State) : State :=
  absentEv (whoAgent who) (match who with
    | .host _ => off
    | .debug => regBase + off) s

/-- Write a register whose RW-K fields lie in bits [hi:lo] of the ranges: ignored where the block is in use and a bit of them is
written, else `f`. -/
def rwk (x : Wr) (ranges : List (Nat × Nat)) (inUse : Bool) (f : State → State) (s : State) : State :=
  if inUse && ranges.any (fun (hi, lo) => x.touches hi lo) then ignoreWrite x 0x01 s else f s

end Sys2Proof.Machine
end

