-- ==== Sys2Proof/Machine/Engine.lean ====
section
/-! DEFINITION. Engines (04): dispatch, drain, the output path, completion, faults, pre-emption and activation loads; shadow passes
(05 R114 to R116). -/

namespace Sys2Proof.Machine

open Sys2Proof

/-! ## Passes of an engine -/

def passAt (s : State) (n m k : Nat) : Pass := (engOf s n m).passes.getD k {}

def modPass (n m k : Nat) (f : Pass → Pass) (s : State) : State :=
  modEng n m (fun e => { e with passes := e.passes.modify k f }) s

/-- The engine as the agent of a pass (04 R75). -/
def passAgent (n m : Nat) (p : Pass) : Agent := .eng n m p.stream p.issueAddr p.pw.w0

/-- Log an engine event of a pass and record its class (04 T4-4). -/
def passFault (n m cause f : Nat) (p : Pass) (s : State) : State :=
  fault 0 cause (engW0 n m p.stream f false) p.issueAddr p.pw.w0.toNat s

/-- Passes that frond `f` holds, shadows included. -/
def frondCount (e : Engine) (f : Nat) : Nat :=
  (e.passes.filter fun p => p.stage == .inFrond f).length + (e.passes.filter fun p => p.shadow == .inFrond f).length

/-- Frond `f` can accept a pass (03 R62): it holds none, or one whose steps it has read (a matter of time: a free value). -/
def frondFree (s : State) (e : Engine) (f : Nat) : Bool :=
  !e.withdrawn.getLsbD f && (frondCount e f == 0 || (frondCount e f == 1 && Config.streamed s.nonce f))

/-- The lowest-numbered frond other than `not` that can accept. -/
def pickFrond (s : State) (e : Engine) (not : Option Nat) : Option Nat :=
  (List.range 8).find? fun f => not != some f && frondFree s e f

/-- The frond of a re-issue or a shadow: another than `f`, or `f` itself where every other is withdrawn (04 R93, 05 R115). -/
def pickReissue (s : State) (e : Engine) (f : Nat) : Option Nat :=
  if (List.range 8).all fun g => g == f || e.withdrawn.getLsbD g then (if frondFree s e f then some f else none)
  else pickFrond s e (some f)

/-- Position of the first abandoned pass, or the number of passes. -/
def firstDead (e : Engine) : Nat := e.passes.findIdx (·.stage == .abandoned)

/-- Abandon a pass by a device fault: nothing further is dispatched in the step (04 R94, R389). -/
def abandonPass (n m k : Nat) (s : State) : State :=
  modEng n m (fun e => { e with dead := true, faulted := true })
    (modPass n m k (fun p => { p with stage := .abandoned, shadow := .none, stats := none }) s)

/-! ## Shadow sampling (05 R114) -/

/-- The step-seeded function, modulo 2^32. -/
def shadowPick (seed step layer dir row col lg : Nat) : Bool :=
  if lg == 0 then true
  else
    let m := 2 ^ 32
    let x0 := seed ^^^ (0x9E3779B9 * step % m) ^^^ (layer * 2 ^ 20 % m) ^^^ (dir * 2 ^ 19)
    let x1 := x0 ^^^ (0x85EBCA6B * row % m) ^^^ (0xC2B2AE35 * col % m)
    let x2 := 0x7FEB352D * (x1 ^^^ x1 / 2 ^ 16) % m
    let x3 := 0x846CA68B * (x2 ^^^ x2 / 2 ^ 15) % m
    let x4 := x3 ^^^ x3 / 2 ^ 16
    x4 / 2 ^ (32 - lg) == 0

/-- The shadow format: the first rung above rung_sel whose grouping is wider than the pass's (05 R114). -/
def shadowFmt (s : State) (p : PassWord) : Option Nat :=
  let c0 := wordAt (dirConf s p.layer p.dir) 0
  let sel := field (peekWord s (curState s p.layer p.dir)) 1 0
  ((List.range (field c0 21 20 + 1)).filterMap fun r =>
    if sel < r then
      let f := field c0 (5 * r + 4) (5 * r)
      match groupOf f with
      | some g => if p.grouping < g then some f else none
      | none => none
    else none).head?

/-- The conversions that are exact and raise no flag (02 R52), for operands with no block scale. DEDUCED (log entry 77): FP4 to FP6 and FP6
E3M2 to FP8 E4M3, which R52 does not name, are exact too. -/
def widens (a b : Nat) : Bool :=
  if a == b then true
  else
    match nfmtOf a, nfmtOf b with
    | some (.int v), some (.int w) => v ≤ w
    | some (.flt f), some (.flt g) => f.ew ≤ g.ew && f.mw ≤ g.mw && (f.kind == .finite || g.kind != .finite)
    | some (.int v), some (.flt g) => v ≤ g.mw + 2
    | _, _ => false

/-- Steps of a shadow pass (05 R114). -/
def shadowSteps (p : PassWord) : Nat := if p.grouping == 0 then 2 * p.k else p.k

/-- The pass is a shadow candidate: its shadow format (05 R114). -/
def shadowCand (s : State) (p : PassWord) : Option Nat :=
  let cf := dirConf s p.layer p.dir
  let a := bit (wordAt cf 4) 18
  let b := bit (wordAt cf 4) 50
  if p.statsEn && !p.recompute && !p.accIn && p.srOp == 0 && !isMx p.aFmt && !isMx p.bFmt && !bothLanes p &&
      field (wordAt cf 2) 27 24 != 15 && shadowSteps p ≤ 4096 then
    (shadowFmt s p).bind fun f => if (a || widens p.aFmt f) && (b || widens p.bFmt f) then some f else none
  else none

/-- Whether a candidate is sampled; a free-running generator advances once per candidate (05 R114). -/
def shadowSample (n m : Nat) (p : PassWord) (s : State) : State × Bool :=
  match shadowCand s p with
  | none => (s, false)
  | some _ =>
    let c2 := wordAt (dirConf s p.layer p.dir) 2
    if bit c2 28 then
      (modEng n m (fun e => { e with shdCount := e.shdCount + 1 }) s,
        field c2 27 24 == 0 || Config.shadowDraw (4 * n + m) (engOf s n m).shdCount)
    else (s, shadowPick s.gov.shdSeed.toNat s.cmt.step.toNat p.layer p.dir p.outRow p.outCol (field c2 27 24))

/-! ## PASS_DISPATCH (04 R80, R81, R92, R93, R95) -/

/-- A pass enters a frond; a primary pass is sampled for a shadow. -/
def enterFrond (n m k f : Nat) (s : State) : State :=
  let p := passAt s n m k
  let (s1, sh) := shadowSample n m p.pw (confProbe p.pw s)
  let d := (engOf s1 n m).dispCount
  modEng n m (fun e => { e with dispCount := d + 1 })
    (modPass n m k (fun p => { p with stage := .inFrond f, disp := d, frond := f, shadow := if sh then .waiting else .none })
      { s1 with nonce := s1.nonce + 1 })

/-- What the dispatcher does next. -/
inductive DispAct where
  | reissue (k f : Nat)
  | shadow (k f : Nat)
  | head (k f : Nat)
  /-- The head is held by an overlap (04 R80). -/
  | hold
  /-- The head's descriptor read had failed (04 R389). -/
  | badDesc (k : Nat)
  /-- Every frond is withdrawn (04 R95). -/
  | noFrond (k : Nat)
  | nothing
deriving DecidableEq, Repr, Inhabited

/-- The queue head and the overlap that holds it: an earlier pass that has not completed touches its footprint (04 R80). -/
def headAt (e : Engine) : Nat := e.passes.findIdx (·.stage == .queued)
def headHeld (e : Engine) : Bool :=
  headAt e < e.passes.length && (e.passes.take (headAt e)).any fun q => footOverlap q.pw (e.passes.getD (headAt e) {}).pw

/-- The dispatcher's choice: a re-issue first, then a shadow, then the queue head unless something holds it. -/
def dispChoice (s : State) (e : Engine) : DispAct :=
  let live := e.passes.take (firstDead e)
  match live.zipIdx.findSome? fun (p, k) => match p.stage with
      | .reissue f => some (k, f)
      | _ => none with
  | some (k, f) => match pickReissue s e f with
    | some g => .reissue k g
    | none => .nothing
  | none =>
    match live.zipIdx.findSome? fun (p, k) => if p.shadow == .waiting then some (k, p.frond) else none with
    | some (k, f) => match pickReissue s e f with
      | some g => .shadow k g
      | none => .nothing
    | none =>
      let k := headAt e
      let p := e.passes.getD k {}
      if e.passes.length ≤ k || e.preempt || e.sliceHold || e.loadBusy || !e.loadFailed.isEmpty || e.dead then .nothing
      else if e.withdrawn == 0xFF then .noFrond k
      else if p.descBad then .badDesc k
      else if headHeld e then (if e.ovlpHold then .nothing else .hold)
      else match pickFrond s e none with
        | some f => .head k f
        | none => .nothing

/-- Cause 0x15, once in a step (04 R95): it reports pass `h`, and pass `k` is abandoned. -/
def allWithdrawn (n m k h : Nat) (s : State) : State :=
  settle (abandonPass n m k (passFault n m 0x15 0 (passAt s n m h) (modEng n m (fun e => { e with raised15 := true }) s)))

/-- A pass starts at the feeders. -/
def DispAct.starts : DispAct → Bool
  | .reissue _ _ | .shadow _ _ | .head _ _ => true
  | _ => false

/-- What the dispatcher does now: the throttle gate at the feeders holds a start (01 R17). -/
def dispNow (s : State) (n m : Nat) : DispAct :=
  let e := engOf s n m
  let a := dispChoice s e
  if a.starts && !gateOpen s n (e.dispCount - e.gateBase) then .nothing else a

def dispatch (n m : Nat) (s : State) : State :=
  match dispNow s n m with
  | .reissue k f => enterFrond n m k f s
  | .head k f => modEng n m (fun e => { e with ovlpHold := false }) (enterFrond n m k f s)
  | .shadow k f =>
    let d := (engOf s n m).dispCount
    modEng n m (fun e => { e with dispCount := d + 1 })
      (modPass n m k (fun p => { p with shadow := .inFrond f, shDisp := d }) { s with nonce := s.nonce + 1 })
  | .hold => modEng n m (fun e => { e with ovlpHold := true, cntHoldOvlp := satAdd e.cntHoldOvlp 1 }) s
  | .badDesc k => abandonPass n m k s
  | .noFrond k => allWithdrawn n m k k s
  | .nothing => s

/-- PASS_DISPATCH (04 R81). -/
def execPassDispatch (n m : Nat) (s : State) : Res :=
  need (hasEng s n m) (dispNow s n m != .nothing) (dispatch n m s)

/-! ## PASS_DRAIN_COMPLETE (04 R81, 03 R56 to R61) -/

/-- The passes in frond `f`, oldest dispatch first: (dispatch number, is a shadow, position). -/
def inFrondList (e : Engine) (f : Nat) : List (Nat × Bool × Nat) :=
  let xs := e.passes.zipIdx.flatMap fun (p, k) =>
    (if p.stage == .inFrond f then [(p.disp, false, k)] else []) ++ (if p.shadow == .inFrond f then [(p.shDisp, true, k)] else [])
  match xs with
  | [a, b] => if b.1 < a.1 then [b, a] else [a, b]
  | _ => xs

/-- The next pass that leaves frond `f`: a primary pass. -/
def drainNext (e : Engine) (f : Nat) : Option Nat :=
  match inFrondList e f with
  | (_, false, k) :: _ => some k
  | _ => none

/-- Add a drain's counts to a frond. -/
def frondCounts (n m f : Nat) (d : Drain) (s : State) : State :=
  modFrond n m f (fun r => { r with nancmp := satAdd r.nancmp d.nan, isat := satAdd r.isat d.sat }) s

/-- The tile of pass `k` goes into accumulator memory. -/
def drainPass (n m f k : Nat) (s : State) : State :=
  let p := passAt s n m k
  match readPass (passAgent n m p) n p.pw s with
  | (s1, none) => settle (abandonPass n m k s1)
  | (s1, some (a, b)) =>
    let d := drainTile p.pw a b (engOf s1 n m).acc (tileSide p.pw.grouping)
    modPass n m k (fun p => { p with stage := .drained })
      (frondCounts n m f d (modEng n m (fun e => { e with acc := storeWords e.acc d.words }) s1))

/-- PASS_DRAIN_COMPLETE. -/
def execPassDrainComplete (n m f : Nat) (s : State) : Res :=
  need (hasEng s n m && f < 8) (drainNext (engOf s n m) f).isSome
    (match drainNext (engOf s n m) f with
      | some k => drainPass n m f k s
      | none => s)

/-! ## OUTPUT_PATH_TILE (04 R83) -/

/-- The tile whose turn it is in the output path: in issue order, the record of the tile before accepted (05 R99). -/
def outputNext (e : Engine) : Option Nat :=
  let k := e.passes.findIdx fun p => p.stage == .abandoned || (p.pw.drainOut && p.stage != .output)
  let p := e.passes.getD k {}
  if k < e.passes.length && p.stage == .drained && e.passes.all (fun q => q.stats.isNone) then some k else none

/-- The bad-scale event, once per pass (02 R47, 04 R85). -/
def badScale (n m : Nat) (p : Pass) (s : State) : State :=
  if !scaleOk (passScale s p.pw) || (p.pw.act != 0 && p.pw.actDeriv && !scaleOk (odAuxMul p.desc)) then
    passFault n m 0x16 0 p s
  else s

/-- Write the rows of a tile that were converted. -/
def writeRows (ag : Agent) (p : PassWord) (d : List Word) (rows : List (Nat × List Conv)) (s : State) : State :=
  rows.foldl (fun t r => writeRow ag p d r t) s

/-- Elements written by the output path count. -/
def countOut (n m k : Nat) (s : State) : State := modEng n m (fun e => { e with cntOutElem := satAdd e.cntOutElem k }) s

/-- The output path treats the tile of pass `k`. -/
def outputTile (n m k : Nat) (s : State) : State :=
  let p := passAt s n m k
  let ag := passAgent n m p
  let s0 := badScale n m p (confProbe p.pw s)
  match stages ag p.pw p.desc (engOf s0 n m) (tilePos p.pw) s0 with
  | (s1, els, false) =>
    -- rows before the failing read may have been written (04 R389)
    let rows := convTile p.pw (scaleVal (passScale s1 p.pw)) els
    let part := rows.take (Config.part s1.nonce % (rows.length + 1))
    let s2 := writeRows ag p.pw p.desc part { s1 with nonce := s1.nonce + 1 }
    settle (abandonPass n m k (countOut n m (part.flatMap (·.2)).length s2))
  | (s1, els, true) =>
    let o := tileOut s1 p.pw p.desc els
    let s2 := writeRows ag p.pw p.desc o.rows s1
    let s3 := countOut n m els.length s2
    let s4 := if o.reconv then { s3 with gov := { s3.gov with cntReconv := satAdd s3.gov.cntReconv 1 } } else s3
    classed (modPass n m k (fun p => { p with stage := .output, stats := o.record }) s4)

/-- OUTPUT_PATH_TILE. -/
def execOutputPathTile (n m : Nat) (s : State) : Res :=
  need (hasEng s n m) (outputNext (engOf s n m)).isSome
    (match outputNext (engOf s n m) with
      | some k => outputTile n m k s
      | none => s)

/-! ## PASS_COMPLETE (04 R82) -/

/-- The head pass has completed all that R82 and 05 R99, R115 ask. -/
def headDone (e : Engine) : Bool :=
  match e.passes with
  | [] => false
  | p :: _ => (p.stage == .output || (p.stage == .drained && !p.pw.drainOut)) && p.stats.isNone &&
      (p.shadow == .none || p.shadow == .done)

/-- The head pass completes and posts its peg; a debug step that awaited it ends (16 R345). -/
def completePass (n m : Nat) (s : State) : State :=
  let p := passAt s n m 0
  let s1 := modEng n m (fun e => { e with passes := e.passes.drop 1, cntPasses := satAdd e.cntPasses 1 }) s
  let s2 := if p.pw.pegEn then postPeg n p.pw.peg 1 1 3 0 s1 else s1
  settle (if p.stepped then haltStrm n p.stream 4 0 s2 else s2)

/-- PASS_COMPLETE. -/
def execPassComplete (n m : Nat) (s : State) : Res := need (hasEng s n m) (headDone (engOf s n m)) (completePass n m s)

/-! ## SHADOW_COMPARE (05 R115) -/

/-- The pass whose shadow is compared next: its tile is in accumulator memory. -/
def shadowNext (e : Engine) : Option Nat :=
  e.passes.zipIdx.findSome? fun (p, k) => match p.shadow with
    | .inFrond _ => if p.stage == .drained || p.stage == .output then some k else none
    | _ => none

/-- A shadow operand: its shadow copy, or the stored operand widened exactly. DESIGN CHOICE (log entry 77): the scale slots of a copy in an MX
format, whose address the spec does not give, are read from the start of the store. -/
def readShadow (ag : Agent) (n c sc : Nat) (copy stepMajor : Bool) (k k' a stride off : Nat) (s : State) : State × Option Operand :=
  if copy then
    readOperand ag n sc stepMajor k' (a + off * 64) (stride * codeWidth sc / codeWidth c) 0 s
  else readOperand ag n c stepMajor k a stride 0 s

/-- The value of one position of the shadow. -/
def shadowVal (p : PassWord) (f : Nat) (a b : Operand) (r c : Nat) : Fp :=
  let is := List.range (elemCount p.aFmt p.k)
  if f == 0x08 then is.foldl (fun x i => laneAdd (some p.fp64Rnd) x ((a.val r i).mul (b.val c i))) (.fin true 0 0)
  else if isIntFmt f then
    intVal (is.foldl (fun x i => match (a.val r i).mul (b.val c i) with
      | .fin neg m e => let v : Int := (m * 2 ^ e.toNat : Nat); if neg then x - v else x + v
      | _ => x) (0 : Int))
  else
    let x := is.foldl (fun x i => laneAdd none x ((a.val r i).mul (b.val c i))) (.fin true 0 0)
    fp32.decode (fp32.enc .rna x)

/-- Add a comparison to a record. -/
def TileRec.addShadow (sig err : Nat) (t : TileRec) : TileRec :=
  { t with nShadow := t.nShadow + 1, shdSig := t.shdSig + sig, shdErr := t.shdErr + err }

/-- The shadow of pass `k` compares its sub-tile with the primary values. DEDUCED (log entry 77): an uncorrectable read for the shadow is one
for its pass (04 R389), which is abandoned. -/
def compareShadow (n m k : Nat) (s0 : State) : State :=
  let p := passAt s0 n m k
  let w := p.pw
  let s := confProbe w s0
  let f := (shadowCand s w).getD 7
  let cf := wordAt (dirConf s w.layer w.dir) 4
  let ag := passAgent n m p
  let k' := shadowSteps w
  match readShadow ag n w.aFmt f (bit cf 18) w.aTrans w.k k' (w.aAddr * 64) (w.aStride * 64) (field cf 17 0) s with
  | (s1, none) => settle (abandonPass n m k s1)
  | (s1, some a) =>
    match readShadow ag n w.bFmt f (bit cf 50) (!w.bTrans) w.k k' (w.bAddr * 64) (w.bStride * 64) (field cf 49 32) s1 with
    | (s2, none) => settle (abandonPass n m k s2)
    | (s2, some b) =>
      let side := tileSide ((groupOf f).getD 4)
      let g := anchorOf s2 w.layer w.dir - (match fp32.decode (field (peekWord s2 (curState s2 w.layer w.dir + 8)) 31 0) with
        | .fin _ m e => ilog m e
        | _ => 0)
      let e := engOf s2 n m
      let ps := (lanePos w 0).filter fun x => x.row - w.outRow < side && x.col - w.outCol < side
      let (sig, err) := ps.foldl (fun (u, v) x =>
        let y := shadowVal w f a b (x.row - w.outRow) (x.col - w.outCol)
        (u + (sq g y).1, v + (sq g ((resultVal w (accPattern w e x)).sub y)).1)) (0, 0)
      modPass n m k (fun p => { p with
          shadow := .done
          stats := some ((p.stats.getD { layer := w.layer, dir := w.dir }).addShadow sig err) })
        { s2 with gov := { s2.gov with cntShadow := satAdd s2.gov.cntShadow 1 } }

/-- SHADOW_COMPARE. -/
def execShadowCompare (n m : Nat) (s : State) : Res :=
  need (hasEng s n m) (shadowNext (engOf s n m)).isSome
    (match shadowNext (engOf s n m) with
      | some k => compareShadow n m k s
      | none => s)

/-! ## STATS_RECORD_MERGE (05 R99, R113) -/

/-- Saturating addition of 32 and 64-bit lanes and of 128-bit pairs of words. -/
def addLane (w : Word) (lo v : Nat) : Word :=
  let x := min (field w (lo + 31) lo + v) 0xFFFFFFFF
  BitVec.ofNat 64 ((if lo == 0 then field w 63 32 * 2 ^ 32 else field w 31 0) + x * 2 ^ lo)

def addPair (lo hi : Word) (v : Nat) : List Word :=
  let x := min (lo.toNat + hi.toNat * 2 ^ 64 + v) (2 ^ 128 - 1)
  [BitVec.ofNat 64 x, BitVec.ofNat 64 (x / 2 ^ 64)]

/-- The statistics block with a record added (05 T5-6). -/
def mergeBlock (b : List Word) (t : TileRec) : List Word :=
  let w (i : Nat) := wordAt b i
  let w6 := addLane (w 6) 32 t.nReconv
  [satAdd (w 0) t.nElem, satAdd (w 1) t.nZero, satAdd (w 2) t.nUnder, satAdd (w 3) t.nOver, satAdd (w 4) t.nNan, satAdd (w 5) t.nInf,
    BitVec.ofNat 64 (max (field w6 31 0) t.amaxX.toNat + field w6 63 32 * 2 ^ 32),
    addLane (addLane (w 7) 0 t.nClip) 32 t.nShadow] ++
  addPair (w 8) (w 9) t.eSig ++ addPair (w 10) (w 11) t.eErr ++ addPair (w 12) (w 13) t.shdSig ++ addPair (w 14) (w 15) t.shdErr

/-- Log entries in use of a layer and direction. -/
def rlogCount (s : State) (l d : Nat) : Nat :=
  match s.gov.rlogUsed.find? fun (a, b, _) => a == l && b == d with
  | some (_, _, k) => k
  | none => 0

/-- The rung of a layer and direction as word 0 of an event that does not change it holds it: before and after (05 T5-13). -/
def rungBits (s : State) (l d : Nat) : Nat :=
  let r := field (peekWord s (curState s l d)) 1 0
  r <<< 21 ||| r <<< 23

/-- Allocate a re-conversion log entry in arrival order, or lose it (05 R113). DEDUCED (log entry 77): the base is taken rounded down to 64
bytes. -/
def rlogAdd (t : TileRec) (e : Word × Word) (s : State) : State :=
  let l := t.layer
  let base := field (wordAt (layerConf s l) 1) 43 6 * 64
  let cap := field (wordAt (layerConf s l) 2) 15 0
  let k := rlogCount s l t.dir
  if k < cap then
    writeWords (base + (t.dir * cap + k) * 16) [e.1, e.2] { s with gov := { s.gov with
        rlogUsed := (l, t.dir, k + 1) :: s.gov.rlogUsed.filter fun (a, b, _) => !(a == l && b == t.dir) } }
  else
    logEv 1 0 0x23 (l <<< 8 ||| t.dir <<< 20 ||| rungBits s l t.dir) s.cmt.step.toNat (e.1.toNat % 2 ^ 37)
      { s with gov := { s.gov with cntRlogLost := satAdd s.gov.cntRlogLost 1 } }

/-- The merger accepts a record. -/
def mergeRecord (t : TileRec) (s : State) : State :=
  let a := statAddr s t.layer t.dir
  let s1 := modMem a 128 (fun bs => bytesOfWords (mergeBlock (wordsOf bs) t)) s
  match t.log with
  | some e => rlogAdd t e s1
  | none => s1

/-- STATS_RECORD_MERGE. -/
def execStatsRecordMerge (n m : Nat) (s : State) : Res :=
  let k := (engOf s n m).passes.findIdx fun p => p.stats.isSome
  need (hasEng s n m) (k < (engOf s n m).passes.length)
    (match (passAt s n m k).stats with
      | some t => settle (mergeRecord t (modPass n m k (fun p => { p with stats := none }) s))
      | none => s)

/-! ## Faults (04 R93 to R95, 05 R116) -/

/-- Withdraw a frond from dispatch and log it (04 R95). -/
def withdraw (n m f q ia w0 : Nat) (s : State) : State :=
  logEv 0 0 0x18 (engW0 n m q f false) ia w0
    (modEng n m (fun e => { e with withdrawn := e.withdrawn ||| BitVec.ofNat 8 (2 ^ f) }) s)

/-- A frond fault counts; the fourth withdraws the frond and is recorded in the health map with origin 3. -/
def countFault (n m f : Nat) (p : Pass) (s : State) : State :=
  let s1 := modFrond n m f (fun r => { r with faultCount := satAdd r.faultCount 1 }) s
  if (frondOf s1 n m f).faultCount == 4 && !(engOf s1 n m).withdrawn.getLsbD f then
    hmapRecord (hmapNow s1 3 (physOf s1 n) (m * 8 + f) 0 3 4) (withdraw n m f p.stream p.issueAddr p.pw.w0.toNat s1)
  else s1

/-- A frond fault on the pass or shadow in the frond. DESIGN CHOICE (log entry 45): compare-and-count terms with a NaN operand that a pass had
streamed before the fault are not counted. Where the fault withdraws the last frond, cause 0x15 reports the queue head (04 R75), or the
faulted pass where the queue is empty. -/
def frondFaultAt (n m f k : Nat) (isShadow : Bool) (s : State) : State :=
  let p := passAt s n m k
  if isShadow then
    countFault n m f p (passFault n m 0x13 f p (modPass n m k (fun p => { p with shadow := .done }) s))
  else if p.reissued then
    settle (countFault n m f p (passFault n m 0x14 f p (abandonPass n m k s)))
  else
    let s1 := modPass n m k (fun p => { p with stage := .reissue f, reissued := true, shadow := .none }) s
    let s2 := countFault n m f p (passFault n m 0x13 f p
      (modEng n m (fun e => { e with cntReissue := satAdd e.cntReissue 1 }) s1))
    if (engOf s2 n m).withdrawn == 0xFF then
      let e := engOf s2 n m
      allWithdrawn n m k (if headAt e < e.passes.length then headAt e else k) s2
    else s2

/-- FROND_FAULT (04 R93): of two passes in the frond, the earlier in its capture or the later in its streaming (a free value). -/
def execFrondFault (n m f : Nat) (s : State) : Res :=
  let xs := inFrondList (engOf s n m) f
  need (hasEng s n m && f < 8) (!xs.isEmpty)
    (match if Config.faultsEarlier s.nonce then xs.head? else xs.getLast? with
      | some (_, sh, k) => frondFaultAt n m f k sh { s with nonce := s.nonce + 1 }
      | none => s)

/-- Part of a tile is written from frond `f` before a device fault (04 R94); what it has written counts (03 R72). -/
def partDrain (n m f k rows : Nat) (s : State) : State :=
  let p := passAt s n m k
  match readPass (passAgent n m p) n p.pw s with
  | (_, none) => s
  | (_, some (a, b)) =>
    let d := drainTile p.pw a b (engOf s n m).acc rows
    frondCounts n m f d (modEng n m (fun e => { e with acc := storeWords e.acc d.words }) { s with nonce := s.nonce + 1 })

/-- DRAIN_PARITY_ERROR (04 R94): after the first row has been written. DEDUCED (log entry 45): cause 0x19 is a frond cause of T4-4, so word 0
names the frond; 0x17 is not. -/
def execDrainParityError (n m f : Nat) (s : State) : Res :=
  need (hasEng s n m && f < 8) (drainNext (engOf s n m) f).isSome
    (match drainNext (engOf s n m) f with
      | some k =>
        let p := passAt s n m k
        let side := tileSide p.pw.grouping
        settle (abandonPass n m k (passFault n m 0x19 f p (partDrain n m f k (1 + Config.part s.nonce % side) s)))
      | none => s)

/-- ACC_MEM_UNCORRECTABLE (04 R94): met where pass `k` uses accumulator memory, at its drain or in the output path. -/
def execAccMemUncorrectable (n m k : Nat) (s : State) : Res :=
  let p := passAt s n m k
  let draining : Option Nat := match p.stage with
    | .inFrond f => if drainNext (engOf s n m) f == some k then some f else none
    | _ => none
  need (hasEng s n m) (k < (engOf s n m).passes.length && (draining.isSome || p.stage == .drained))
    (settle (abandonPass n m k (passFault n m 0x17 0 p (match draining with
      | some f => partDrain n m f k (Config.part s.nonce % (tileSide p.pw.grouping + 1)) s
      | none => s))))

/-! ## Pre-emption (04 R92, 18 R368) -/

/-- Passes that pre-emption lets run: those in fronds, a re-issue, and what is on its way out. -/
def engBusy (e : Engine) : Bool := e.passes.any fun p => p.stage != .queued && p.stage != .abandoned

/-- PASSQ_STAT.stopped (04 T4-14). -/
def engStopped (e : Engine) : Bool := (e.preempt || e.sliceHold) && !engBusy e

/-! ## Activation loads (04 R88, R389) -/

/-- ACT_LOAD is in use (18 T18-3). -/
def actInUse (e : Engine) : Bool := e.passes.any (·.stage != .abandoned) || e.loadBusy || e.sliceHold

/-- BAR0 offset of the registers of an engine (04 R96). -/
def engOff (n m : Nat) : Nat := 0x01800000 + 0x1000 * n + 0x100 * m

/-- Slots that a load covers. -/
def loadSlots (e : Engine) : List Nat := if e.actSlot == 0 then (List.range 15).map (· + 1) else [e.actSlot.toNat]

/-- The address by which a load that meets a sleeping domain asks for it: the engine's field, or the stacks that hold a table
(15 R307, R308). -/
def actLoadHeld (s : State) (n m : Nat) : Option Nat :=
  if !fieldIsOn s (fieldOf s n) then some (thlAddr n)
  else
    let e := engOf s n m
    (loadSlots e).findSome? fun k => (sleeping s (e.actBase.toNat * 64 + 8192 * (k - 1)) 8192).map (·.2)

/-- A load that is held wants what holds it. -/
def actLoadAsk (n m : Nat) (s : State) : State :=
  match actLoadHeld s n m with
  | some a => want a s
  | none => s

/-- A write of ACT_LOAD. A load of an engine whose field is off waits for the field, or in compat mode meets an absent unit (15 R308,
T15-6). -/
def actLoadWrite (n m : Nat) (x : Wr) (s : State) : State :=
  rwk x [(48, 6)] (actInUse (engOf s n m)) (fun t =>
    if x.sets 48 && t.caps.compat && !fieldIsOn t (fieldOf t n) then
      holeEv x.who x.off (pwrEv 0xC7 0 0 (fieldOf t n) (regBase + x.off) t)
    else
      let u := modEng n m (fun e => { e with
        actBase := x.merge e.actBase 6, actSlot := x.merge e.actSlot 44, loadBusy := x.sets 48 }) t
      if x.sets 48 then actLoadAsk n m u else u) s

/-- Read the tables of the slots: (slot, derivative, table words), stopping at an uncorrectable one. -/
def readTables (ag : Agent) (base : Nat) : List (Nat × Nat) → State → State × Option (List (Nat × Nat × List W32))
  | [], s => (s, some [])
  | (k, d) :: rest, s =>
    match readMem ag (base + 8192 * (k - 1) + 4096 * d) 3104 s with
    | (s1, none) => (s1, none)
    | (s1, some bs) =>
      match readTables ag base rest s1 with
      | (s2, none) => (s2, none)
      | (s2, some ts) => (s2, some ((k, d, w32sOf bs) :: ts))

/-- Put a table's words into its storage. -/
def putTable (k d : Nat) (ws : List W32) (m : Sparse 32) : Sparse 32 := Sparse.sets m (1024 * (k * 2 + d)) ws

/-- An activation load ends; answers whether it ended without fault. -/
def actLoadEnd (n m : Nat) (s : State) : State × Bool :=
  let e := engOf s n m
  let slots := loadSlots e
  match readTables (.eng n m 3 0 0) (e.actBase.toNat * 64) (slots.flatMap fun k => [(k, 0), (k, 1)]) s with
  | (s1, some ts) =>
    (modEng n m (fun e => { e with
        loadBusy := false, act := ts.foldl (fun a (k, d, ws) => putTable k d ws a) e.act
        loadFailed := e.loadFailed.filter fun k => !slots.contains k }) s1, true)
  | (s1, none) =>
    let garbage (k d : Nat) : List W32 := (List.range 776).map fun i => Config.actGarbage s1.nonce (1024 * (k * 2 + d) + i)
    (modEng n m (fun e => { e with
        loadBusy := false, faulted := true
        act := (slots.flatMap fun k => [(k, 0), (k, 1)]).foldl (fun a (k, d) => putTable k d (garbage k d) a) e.act
        loadFailed := e.loadFailed.filter (fun k => !slots.contains k) ++ slots }) { s1 with nonce := s1.nonce + 1 }, false)

/-- ACT_LOAD_DONE; a load that meets a sleeping domain is held and wakes it. -/
def execActLoadDone (n m : Nat) (s : State) : Res :=
  need (hasEng s n m) (engOf s n m).loadBusy
    (if (actLoadHeld s n m).isSome then actLoadAsk n m s else settle (actLoadEnd n m s).1)

end Sys2Proof.Machine
end

