-- ==== Sys2Proof/Machine/Govern.lean ====
section
/-! DEFINITION. The governor (05 R103, R107 to R109, R117, R118, R394) and the record exchange (09 R217). -/

namespace Sys2Proof.Machine

open Sys2Proof

/-! ## State copies (05 T5-5) -/

/-- The state of one direction of a layer. -/
structure DirState where
  rung : Nat
  fbActive : Bool
  dwellLeft : Nat
  upRun : Nat
  downRun : Nat
  fbLeft : Nat
  anchor : Int
  histN : Nat
  histHead : Nat
  sEff : Nat
  eOut : Int
  eIn : Int
  dorm : Nat
  learned : Nat
  hist : List Nat
deriving DecidableEq, Repr, Inhabited

/-- Read a state copy. -/
def dirState (s : State) (a : Nat) : DirState :=
  let w (i : Nat) := peekWord s (a + 8 * i)
  { rung := field (w 0) 1 0, fbActive := bit (w 0) 2, dwellLeft := field (w 0) 15 8, upRun := field (w 0) 23 16
    downRun := field (w 0) 31 24, fbLeft := field (w 0) 39 32, anchor := signed 8 (field (w 0) 47 40)
    histN := field (w 0) 52 48, histHead := field (w 0) 56 53, sEff := field (w 1) 31 0
    eOut := signed 8 (field (w 1) 39 32), eIn := signed 8 (field (w 1) 47 40), dorm := field (w 1) 63 48
    learned := field (w 2) 31 0
    hist := (List.range 16).map fun i => field (w (4 + i / 2)) (32 * (i % 2) + 31) (32 * (i % 2)) }

/-- Words of a state copy. -/
def DirState.words (x : DirState) : List Word :=
  [BitVec.ofNat 64 (x.rung ||| b2n x.fbActive <<< 2 ||| x.dwellLeft <<< 8 ||| x.upRun <<< 16 ||| x.downRun <<< 24 |||
      x.fbLeft <<< 32 ||| wrapNat 8 x.anchor <<< 40 ||| x.histN <<< 48 ||| x.histHead <<< 53),
    BitVec.ofNat 64 (x.sEff ||| wrapNat 8 x.eOut <<< 32 ||| wrapNat 8 x.eIn <<< 40 ||| x.dorm <<< 48),
    BitVec.ofNat 64 x.learned, 0] ++
  ((List.range 8).map fun i => BitVec.ofNat 64 (x.hist.getD (2 * i) 0 ||| x.hist.getD (2 * i + 1) 0 <<< 32)) ++ [0, 0, 0, 0]

/-- Entry `i` back from the newest in the ring of `depth` entries (log entry 23). -/
def DirState.entry (x : DirState) (depth i : Nat) : Nat := x.hist.getD ((x.histHead + depth - i % depth) % depth) 0

/-- The largest valid entry of the history, an FP32 pattern that is not negative. -/
def DirState.maxHist (x : DirState) (depth : Nat) : Nat :=
  ((List.range (min x.histN depth)).map (x.entry depth)).foldl max 0

/-- Push an entry; what is beyond the depth is dropped (05 R117). -/
def DirState.push (x : DirState) (v depth : Nat) : DirState :=
  let k := min x.histN depth
  let h := if k == 0 then 0 else (x.histHead + 1) % depth
  { x with hist := x.hist.set h v, histHead := h, histN := min (k + 1) depth }

/-! ## Step statistics and config -/

def statLane (s : State) (l d i : Nat) : Nat := (peekWord s (statAddr s l d + 8 * i)).toNat
def statWide (s : State) (l d i : Nat) : Nat := statLane s l d i + statLane s l d (i + 1) * 2 ^ 64

/-- A direction config with named fields (05 T5-4). -/
structure DirConf where
  fmts : List Nat
  rungsM1 : Nat
  mode : Nat
  depth : Nat
  margin : Nat
  srcA : Option Nat
  srcB : Option Nat
  upDb : Int
  downDb : Int
  shdUpDb : Int
  upHold : Nat
  downHold : Nat
  dwell : Nat
  dormLimit : Nat
  dormPct : Nat
  dormWiden : Bool
  ovfPpm : Nat
  underCap : Nat
  fbHold : Nat
  fbPpm : Nat
deriving DecidableEq, Repr, Inhabited

/-- Or `k` where the field is 0. -/
def orElse0 (x k : Nat) : Nat := if x == 0 then k else x

def readConf (ws : List Word) : DirConf :=
  let w (i : Nat) := wordAt ws i
  { fmts := (List.range 4).map fun i => field (w 0) (5 * i + 4) (5 * i)
    rungsM1 := field (w 0) 21 20, mode := field (w 0) 23 22, depth := field (w 0) 27 24 + 1, margin := field (w 0) 30 28
    srcA := if bit (w 0) 44 then some (field (w 0) 43 32) else none
    srcB := if bit (w 0) 57 then some (field (w 0) 56 45) else none
    upDb := signed 16 (field (w 1) 15 0), downDb := signed 16 (field (w 1) 31 16), shdUpDb := signed 16 (field (w 1) 47 32)
    upHold := orElse0 (field (w 2) 7 0) 1, downHold := orElse0 (field (w 2) 15 8) 1, dwell := field (w 2) 23 16
    dormLimit := orElse0 (field (w 2) 47 32) 256, dormPct := orElse0 (field (w 2) 54 48) 100, dormWiden := bit (w 2) 55
    ovfPpm := field (w 3) 23 0, underCap := field (w 3) 47 24
    fbHold := orElse0 (field (w 5) 7 0) 1, fbPpm := field (w 5) 31 8 }

/-- Precision bits of a ladder format (05 T5-7). -/
def precBits (c : Nat) : Int :=
  match nfmtOf c with
  | some (.flt f) => f.mw
  | _ => 0

/-- emax of a ladder format (05 T5-7). -/
def ladderEmax (c : Nat) : Int :=
  match nfmtOf c with
  | some (.flt f) => ilog (f.decode f.maxBits |> fun x => match x with
      | .fin _ m _ => m
      | _ => 1) (match f.decode f.maxBits with
      | .fin _ _ e => e
      | _ => 0)
  | _ => 0

/-! ## Decibels (05 R117, R394) -/

/-- An error in 1/16 dB. -/
inductive Db where
  | ninf
  | val (i : Int)
  | pinf
deriving DecidableEq, Repr, Inhabited

/-- Floor of an FP64 value times 16. -/
def floor16 (x : Fp) : Int :=
  match x with
  | .fin neg m e =>
    let lo := roundAt .rz m (e + 4) 0
    if neg then (if m * 2 ^ (e + 4).toNat == lo * 2 ^ (-(e + 4)).toNat then -(lo : Int) else -(lo : Int) - 1) else lo
  | _ => 0

/-- 16 * floor of 10 * log10(a / b), every operation in FP64 RNE, with the firmware's log10 routine. -/
def db16 (a b : Nat) : Int :=
  let f (x : Nat) : Nat := fp64.enc .rne (.fin false x 0)
  let l := (Config.log10Fw (BitVec.ofNat 64 (fp64.divB (f a) (f b)))).toNat
  floor16 (fp64.decode (fp64.mulB (f 10) l))

def Db.gt (x : Db) (t : Int) : Bool :=
  match x with
  | .ninf => false
  | .val i => t < i
  | .pinf => true

/-- rel_mse_db, `none` where it is undefined. -/
def relMse (eErr eSig : Nat) : Option Db := if eSig == 0 then none else if eErr == 0 then some .ninf else some (.val (db16 eErr eSig))

/-- shd of 05 R394. -/
def shdDb (n err sig : Nat) : Db := if n == 0 || err == 0 then .ninf else if sig == 0 then .pinf else .val (db16 err sig)

/-- rel_mse_db in word 3 of an event (05 R120). -/
def mseWord (m : Option Db) : Nat :=
  match m with
  | none => 0x7FFFFFFF
  | some .ninf => 0x80000000
  | some (.val i) => wrapNat 32 (max (min i 2147483646) (-2147483647))
  | some .pinf => 0x7FFFFFFF

/-! ## One direction (05 R117) -/

/-- Smallest k with 2^k at least the FP32 pattern's value. -/
def ceilLog2 (p : Nat) : Int :=
  match fp32.decode p with
  | .fin _ m e => let k := ilog m e; if m == 2 ^ Nat.log2 m then k else k + 1
  | _ => 128

def clampI (x lo hi : Int) : Int := max lo (min hi x)

/-- amax_x in the true domain, rounded toward +Inf to FP32 (05 R107). -/
def trueAmax (amax : Nat) (eIn : Int) : Nat := if (fp32.decode amax).isZero then 0 else amaxUp ((fp32.decode amax).scale2 (-eIn))

/-- What govern_direction works with: the next state and the events so far. -/
structure GovAcc where
  n : DirState
  evs : List GovEv := []
deriving DecidableEq, Repr, Inhabited

/-- change(n, d, c) with its event (05 R117, R121). -/
def govChange (l d : Nat) (delta : Int) (c : DirConf) (mse : Option Db) (dorm : Nat) (x : GovAcc) : GovAcc :=
  let r := ((x.n.rung : Int) + delta).toNat
  { n := { x.n with rung := r, upRun := 0, downRun := 0, dwellLeft := c.dwell }
    evs := x.evs ++ [⟨0x20, l, d, x.n.rung, r, BitVec.ofNat 64 (mseWord mse ||| dorm <<< 32)⟩] }

/-- The dormancy counter (05 R118). -/
def dormancy (l : Nat) (c : DirConf) (under f : Nat) (mse : Option Db) (x : GovAcc) : GovAcc :=
  if f == 0 then x
  else if under * 100 < c.dormPct * f then { x with n := { x.n with dorm := 0 } }
  else
    let k := x.n.dorm + 1
    if k < c.dormLimit then { x with n := { x.n with dorm := k } }
    else
      let x1 := { x with evs := x.evs ++ [⟨0x21, l, 1, x.n.rung, x.n.rung, BitVec.ofNat 64 (mseWord mse ||| k <<< 32)⟩] }
      let x2 := if c.dormWiden && x.n.rung < c.rungsM1 then govChange l 1 1 c mse k x1 else x1
      { x2 with n := { x2.n with dorm := 0 } }

/-- e_out by the amax history (05 R108, mode 1). -/
def histOut (c : DirConf) (n : DirState) : Int :=
  let f := c.fmts.getD n.rung 0
  if f == 0x05 || f == 0x07 then 0
  else if n.maxHist c.depth == 0 then n.eOut
  else clampI (ladderEmax f - ceilLog2 (n.maxHist c.depth) - c.margin) (-40) 40

/-- learned_l rounded RNE to an integer. -/
def rneInt (p : Nat) : Int :=
  match fp32.decode p with
  | .fin neg m e => if neg then -(roundAt .rne m e 0 : Int) else roundAt .rne m e 0
  | _ => 0

/-- set_e_out (05 R108, R109). DEDUCED (log entry 78): fb_left and fb_active of the next copy count the commits still to come. -/
def setOut (l d : Nat) (c : DirConf) (nOver f nClip nElem : Nat) (x : GovAcc) : GovAcc :=
  match c.mode with
  | 1 => { x with n := { x.n with eOut := histOut c x.n } }
  | 3 =>
    let v := fp32.decode x.n.learned
    let trig := v.isNan || v.isInf || (f != 0 && c.fbPpm * f < 1000000 * nOver) || nElem < 2 * nClip
    let evs := if trig then x.evs ++ [⟨0x22, l, d, x.n.rung, x.n.rung, BitVec.ofNat 64 x.n.learned⟩] else x.evs
    if trig || x.n.fbActive then
      -- the step that triggered counts (05 R109)
      let left := (if trig then c.fbHold else x.n.fbLeft) - 1
      { n := { x.n with eOut := histOut c x.n, fbActive := left != 0, fbLeft := left }, evs := evs }
    else { x with n := { x.n with eOut := clampI (rneInt x.n.learned) (-40) 40 } }
  | _ => { x with n := { x.n with eOut := 0 } }

/-- What the step asks for: a wider rung, a narrower rung (05 R117). -/
def govVerdict (c : DirConf) (o : DirState) (mse : Option Db) (shd : Db) (f nOver nUnder : Nat) : Bool × Bool :=
  match mse with
  | none => (false, false)
  | some m =>
    let ovfHigh := f != 0 && c.ovfPpm * f < 1000000 * nOver
    let capped := f == 0 || 1000000 * nUnder ≤ c.underCap * f
    let gain : Int := 96 * (precBits (c.fmts.getD o.rung 0) - precBits (c.fmts.getD (o.rung - 1) 0))
    let est := match m with
      | .val i => Db.val (i + gain)
      | y => y
    (m.gt c.upDb || shd.gt c.shdUpDb || (c.mode == 0 && ovfHigh),
      0 < o.rung && o.dwellLeft == 0 && !est.gt c.downDb && capped && !shd.gt c.shdUpDb && (c.mode != 0 || nOver == 0))

/-- govern_direction: the next state of a layer and direction from the copy in force `o` and the learned scale of the next copy. -/
def governDir (s : State) (l d : Nat) (c : DirConf) (o : DirState) (learned : Nat) : GovAcc :=
  let st (i : Nat) := statLane s l d i
  let n0 : DirState := { o with learned := learned }
  let nElem := st 0
  if nElem == 0 then { n := n0 }
  else
    let f := nElem - st 1 - st 4 - st 5
    let n1 := n0.push (trueAmax (st 6 % 2 ^ 32) o.eIn) c.depth
    let mse := relMse (statWide s l d 10) (statWide s l d 8)
    let shd := shdDb (st 7 / 2 ^ 32) (statWide s l d 14) (statWide s l d 12)
    let nOver := st 3
    let nUnder := st 2
    let v := govVerdict c o mse shd f nOver nUnder
    let up := v.1
    let down := v.2
    let n2 := { n1 with
      upRun := if up then min (o.upRun + 1) 255 else 0
      downRun := if down && !up then min (o.downRun + 1) 255 else 0
      dwellLeft := o.dwellLeft - 1 }
    let x0 : GovAcc := { n := n2 }
    let x1 :=
      if c.upHold ≤ n2.upRun && o.rung < c.rungsM1 then govChange l d 1 c mse n2.dorm x0
      else if c.downHold ≤ n2.downRun then govChange l d (-1) c mse n2.dorm x0
      else x0
    let x2 := if d == 1 then dormancy l c nUnder f mse x1 else x1
    let x3 := setOut l d c nOver f (st 7 % 2 ^ 32) nElem x2
    if 0 < x3.n.maxHist c.depth then
      { x3 with n := { x3.n with anchor := clampI (ceilLog2 (x3.n.maxHist c.depth) + x3.n.eOut) (-100) 100 } }
    else x3

/-! ## GOVERNOR_RUN -/

/-- The config part of a layer that this commit uses, read once (05 R103), and the state after the read; with enable = 0 no governor runs
and nothing is read. -/
def govConf (l : Nat) (s : State) : State × List Word :=
  let ws := peekWords s (layerAddr s l) 24
  if !s.gov.enable then (s, layerConf s l)
  else if bit (wordAt ws 0) 0 then ({ s with gov := { s.gov with cntCfgRetry := satAdd s.gov.cntCfgRetry 1 } }, layerConf s l)
  else ({ s with gov := { s.gov with cfgNext := s.gov.cfgNext ++ [(l, ws)] } }, ws)

/-- First sweep over one layer. -/
def govLayer (s : State) (l : Nat) : State :=
  let (s1, ws) := govConf l s
  [0, 1].foldl (fun t d =>
    let o := dirState t (curState t l d)
    let learned := field (peekWord t (nextState t l d + 16)) 31 0
    let x : GovAcc :=
      if bit (wordAt ws 0) 32 && t.gov.enable then governDir t l d (readConf ((ws.drop (8 + 8 * d)).take 8)) o learned
      else { n := { o with learned := learned } }
    writeRaw (nextState t l d) x.n.words { t with gov := { t.gov with events := t.gov.events ++ x.evs } }) s1
where
  /-- The governor writes the next copy. -/
  writeRaw (a : Nat) (ws : List Word) (t : State) : State := writeWords a ws t

/-- The config that this commit's run has read or kept. -/
def confNow (s : State) (l : Nat) : List Word :=
  match s.gov.cfgNext.find? (·.1 == l) with
  | some (_, ws) => ws
  | none => layerConf s l

/-- Second sweep over one layer and direction: e_in and s_eff. -/
def govScale (s : State) (l d : Nat) : State :=
  let c := readConf (((confNow s l).drop (8 + 8 * d)).take 8)
  let src (k : Option Nat) : Int := match k with
    | some i => (dirState s (nextState s i d)).eOut
    | none => 0
  let n := dirState s (nextState s l d)
  let e := src c.srcA + src c.srcB
  writeWords (nextState s l d) ({ n with eIn := e, sEff := fp32.enc .rne (.fin false 1 (n.eOut - e)) } : DirState).words s

/-- The reads of a layer entry at a commit: the state copy in force and learned_l of the next copies, and where the governor runs the
config and the statistics too (05 T5-2). An uncorrectable line is a device fault (07 R161). -/
def govReads (s : State) (l : Nat) : State :=
  let on (r : Nat × Nat) : List (Nat × Nat) := if s.gov.enable then [r] else []
  probes (on (layerAddr s l, 192) ++
    [(curState s l 0, 128), (curState s l 1, 128), (nextState s l 0 + 16, 4), (nextState s l 1 + 16, 4)] ++ on (statAddr s l 0, 256)) s

/-- The governor's run of a step; with enable = 0 the state is held and the step is not governed (05 T5-10). -/
def governor (st : State) : State :=
  let s := (List.range (nLayers st)).foldl govReads st
  let s0 :=
    if !s.gov.scope && s.cmt.poisoned && !s.gov.localSaved then
      let saved := (layerDirs s).map fun (l, d) => (2 * l + d, peekWords s (statAddr s l d) 16)
      exchangeStart.clearStatsOnly { probes (statReads s) s with gov := { s.gov with localBlocks := saved, localSaved := true } }
    else s
  let s1 := (List.range (nLayers s0)).foldl govLayer s0
  let s2 := if s1.gov.enable then (layerDirs s1).foldl (fun t (l, d) => govScale t l d) s1 else s1
  { s2 with gov := { s2.gov with done := true, lastStep := if s2.gov.enable then s2.cmt.step else s2.gov.lastStep } }

/-- What the governor waits for (05 R117). -/
def govReady (s : State) : Bool :=
  jobLoaded s && !s.gov.done && s.cmt.state == .running && streamsDone s &&
    (s.thl.all fun t => t.eng.all fun e => e.passes.all fun p => p.stats.isNone) && (!s.gov.scope || s.gov.exchDone)

/-- GOVERNOR_RUN (05 R117). -/
def execGovernorRun (s : State) : Res := need true (govReady s && !fwHalted s) (settle (governor s))

/-! ## RECORD messages (09 R206, R217) -/

/-- The reduction units take messages: a step is under way (10 R231, R392). -/
def redLive (s : State) : Bool :=
  match s.cmt.state with
  | .running | .gathering | .reported => true
  | .settling => s.crun.early
  | _ => false

/-- A message is of the device's step (09 R206). -/
def redFresh (s : State) (tag : Word) : Bool := field tag 63 34 == s.cmt.step.toNat % 2 ^ 30

def stale (s : State) : State := { s with rdx := { s.rdx with cntStale := satAdd s.rdx.cntStale 1 } }

/-- Bytes of a reduction message: header and payload. -/
def redBytes (b : RedBody) : Nat := 16 + 16 * redSlots b

/-- A reduction message arrives and is counted. -/
def redCount (body : RedBody) (s : State) : State :=
  { s with rdx := { s.rdx with cntRxBytes := satAdd s.rdx.cntRxBytes (redBytes body) } }

/-- A reduction message arrives: it is discarded and acknowledged where it is of another step (09 R206), else `f` acts, and acknowledges it
once it has acted (13 R270). -/
def redIn (tag : Word) (body : RedBody) (ok : Bool) (f : State → State) (s : State) : State :=
  let s1 := redCount body s
  if !redFresh s tag then ackRed tag body (stale s1)
  else if !redLive s then ackRed tag body s1
  else if !ok then ackRed tag body (stale s1)
  else f s1

/-- Blocks with their indices. -/
def indexed (first : Nat) (bs : List (List Word)) : List (Nat × List Word) := bs.zipIdx.map fun (b, i) => (first + i, b)

/-- The prefix of a RECORD is in range. -/
def recordOk (s : State) (first : Nat) (bs : List (List Word)) : Bool :=
  1 ≤ bs.length && bs.length ≤ 7 && first + bs.length ≤ 2 * nLayers s && bs.all fun b => b.length == 16

/-- RECORD_UP (09 R217 steps 1 to 3). -/
def execRecordUp (tag : Word) (first : Nat) (bs : List (List Word)) (s : State) : Res :=
  always (redIn tag (.record first false bs) (recordOk s first bs) (fun t =>
    let src := field tag 25 12
    let new := (indexed first bs).filter fun (i, _) => !t.gov.up.any fun (c, j, _) => c == src && j == i
    ackRed tag (.record first false bs)
      (exchangeUp { t with gov := { t.gov with up := t.gov.up ++ new.map fun (i, b) => (src, i, b) } })) s)

/-- RECORD_DOWN (09 R217 step 4). -/
def execRecordDown (tag : Word) (first : Nat) (bs : List (List Word)) (s : State) : Res :=
  always (redIn tag (.record first true bs) (recordOk s first bs) (fun t =>
    let new := (indexed first bs).filter fun (i, _) => !t.gov.down.any fun (j, _) => j == i
    let down := t.gov.down ++ new
    let t1 := { t with gov := { t.gov with down := down } }
    ackRed tag (.record first true bs)
      (if down.length == 2 * nLayers t && !t.gov.exchDone then
        recordReduced ((List.range (2 * nLayers t)).map fun i => match down.find? (·.1 == i) with
          | some (_, b) => b
          | none => []) t1
      else t1)) s)

end Sys2Proof.Machine
end

