-- ==== Sys2Proof/Machine/Streams.lean ====
section
/-! DEFINITION. Stream instructions (06) but for the reduction's (BOPEN, BCONTRIB) and UPD: issue, pegs, markers and the forward
barrier, EPOCH, DMA, MRUN, LSET, branches; halts and resumption. -/

namespace Sys2Proof.Machine

open Sys2Proof

/-! ## What every stream instruction shares -/

/-- The stream takes its next instruction, or the one it is held at again. -/
def strmReady (s : State) (n q : Nat) : Bool :=
  let k := strmOf s n q
  (k.state == .running || (k.state == .held && (k.why == .bound || k.why == .epoch || k.why == .tag))) &&
    !k.dbg.halted && k.dbg.stepEngine.isNone

/-- The stream as an agent of memory. -/
def strmAgent (s : State) (n q : Nat) : Agent := .strm n q (strmOf s n q).pc

/-- Log a stream event with word 3 (04 T4-4). -/
def strmEv (cls cause n m q : Nat) (halted : Bool) (w3 : Nat) (s : State) : State :=
  logEv 0 cls cause (engW0 n m q 0 halted) (strmOf s n q).pc w3 s

/-- Halt a stream at its instruction (06 R135). With halt_hold the class is recorded only at the step timeout (10 R225). -/
def haltAt (n m q cause : Nat) (w3 : Word) (s : State) : State :=
  let hold := s.cmt.haltHold
  let s1 := modStrm n q (fun k => { k with
    state := .halted, cause := BitVec.ofNat 8 cause, waitTimer := none, waitPeg := 0, why := .none, haltDue := hold
    haltPay := (BitVec.ofNat 64 (engW0 n m q 0 true ||| cause), s.time.now, BitVec.ofNat 64 k.pc, w3) }) s
  let cls := if hold then 0 else classOf cause
  settle (recordClass cls cause (strmEv cls cause n m q true w3.toNat s1))

/-- Halt after an uncorrectable read that the stream made for itself: the memory has logged the cause (06 R390). -/
def haltMem (n q : Nat) (hbm : Bool) (s : State) : State :=
  settle (modStrm n q (fun k => { k with
    state := .halted, cause := if hbm then 0x43 else 0x42, waitTimer := none, why := .none, haltDue := false }) s)

/-- The instruction is issued: the next one follows at `pc + 8 * words`. -/
def strmNext (n q words : Nat) (s : State) : State :=
  modStrm n q (fun k => { k with
    state := .running, why := .none, pc := (k.pc + 8 * words) % 2 ^ 44, cntInstr := satAdd k.cntInstr 1 }) s

/-- The stream is held at its instruction (01 R28). -/
def strmHold (n q : Nat) (why : HoldWhy) (s : State) : State :=
  modStrm n q (fun k => { k with state := .held, why := why }) s

/-- The stream takes an instruction, past a breakpoint that it was resumed at. -/
def Stream.taking (w : Word) (k : Stream) : Stream := { k with instr := w, dbg := { k.dbg with skipBp := false } }

/-- A debug step ends when the stream has halted or executed END (16 R345). -/
def stepEnds (n q : Nat) (s : State) : State :=
  let k := strmOf s n q
  if k.dbg.mode == 3 && (k.state == .halted || k.state == .draining || k.state == .done) then haltStrm n q 4 0 s else s

/-- The first word of an instruction that a fetch does not find: its own at an absent unit, or one in an uncorrectable location. -/
def fetchLost (s : State) (pc words : Nat) : Option Nat :=
  (List.range words).find? fun i => match resolve s (pc + 8 * i) with
    | none => i == 0
    | some p => s.mem.bad p

/-- The fetch does not find word `i`: from an absent unit it reads zeros, an illegal instruction (00 R4, 06 R122); an uncorrectable location
halts the stream (06 R390). -/
def fetchStop (n q i : Nat) (s : State) : State :=
  let pc := (strmOf s n q).pc
  match resolve s (pc + 8 * i) with
  | none => haltAt n 0 q 0x30 0 (absentEv (strmAgent s n q) pc (modStrm n q (fun k => { k with instr := 0 }) s))
  | some p => haltMem n q (isHbm p) (badRead (strmAgent s n q) (pc + 8 * i) p s)

/-- Execute an instruction of `words` words: its words are fetched, an address breakpoint halts the stream before it, and a debug step may
end with it (16 R344, R345). -/
def strmStep (n q words : Nat) (w : Word) (body : State → State) (s : State) : State :=
  let k := strmOf s n q
  match (if k.dbg.skipBp || k.state == .held then none else bpAt s 2 n q k.pc) with
  | some i => haltStrm n q 2 i s
  | none =>
    let s0 := modStrm n q (Stream.taking w) s
    stepEnds n q (match fetchLost s0 k.pc words with
      | some i => fetchStop n q i s0
      | none => body s0)

/-- A stream instruction that the streams `who` may execute; after its end-of-forward marker a forward stream executes only END and
trace markers (06 R126, R133). -/
def strmInstr (n q words : Nat) (w : Word) (who : List Nat) (body : State → State) (s : State) : Res :=
  need (hasStrm s n q) (strmReady s n q)
    (strmStep n q words w (fun t =>
      if who.contains q && !(strmOf t n q).marked then body t else haltAt n 0 q 0x30 w t) s)

/-! ## ISSUE (04 R74, R76) -/

/-- A base that a pass may use: within the HBM or store ranges of the address map (04 T4-3). -/
def destOk (a : Nat) : Bool :=
  match regionOf a with
  | .hbm | .store _ => true
  | _ => false

/-- The cause of a failed issue check, the lowest of those that apply (04 R74, T4-3; 07 R150). -/
def issueCause (s : State) (p : PassWord) (d : List Word) : Option Nat :=
  let side := tileSide p.grouping
  let o := p.outFmt
  let post := p.act != 0 || p.actDeriv || p.maskMode != 0
  if 5 < p.grouping || !formatsOk p s.part.fp64 s.part.dist || isReserved o || o == 0x0D || o == 0x1F || p.rnd == 3 ||
      1 < p.sclMode || side < p.rows || side < p.cols || (post && (fp64Result p || intResult p)) || (p.actDeriv && p.act == 0) ||
      (isMx o && side < 32) || (p.actDeriv && 7 < odAuxFmt d) then some 0x10
  else if accBase p % footprint p != 0 || p.outCol % side != 0 || p.aAddr % 16 != 0 || p.bAddr % 16 != 0 ||
      (32 < p.k && (p.aStride % 16 != 0 || p.bStride % 16 != 0)) ||
      (codeWidth o == 4 && p.cols % 2 != 0) || (codeWidth o == 6 && p.cols % 4 != 0) ||
      (p.maskMode != 0 && (p.outCol % 8 != 0 || p.cols % 8 != 0)) then some 0x11
  else
    let past (c a stride sa : Nat) : Bool :=
      0x1000000 < (a + (tileCount p.k - 1) * stride) * 64 + tileBytes c || (isMx c && 0x1000000 < sa * 64 + 64 * scaleSlots c p.k)
    let bases := if p.drainOut then
        [odBase d 0] ++ (if isMx o then [odBase d 2] else []) ++ (if p.maskMode != 0 then [odBase d 4] else []) ++
          (if p.actDeriv then [odBase d 6] else [])
      else []
    if past p.aFmt p.aAddr p.aStride p.aSaddr || past p.bFmt p.bAddr p.bStride p.bSaddr || !bases.all destOk then some 0x12
    else none

/-- The pass word uses its layer (06 R126). -/
def usesLayer (p : PassWord) : Bool := (p.statsEn && !p.recompute) || p.sclMode == 1

/-- The pass breakpoint that a pass matches (16 R345). -/
def pbpAt (s : State) (n : Nat) (p : PassWord) : Option Nat :=
  s.dbg.pbp.findIdx? fun b => b.en && b.layer.toNat == p.layer && (b.dirAny || b2n b.dir == p.dir) &&
    (b.thallusAny || b.thallus.toNat == n)

/-- The engine accepts a pass word: it keeps the pass word, the copy of its descriptor, the address of the ISSUE and the stream. -/
def acceptPass (n m q : Nat) (p : PassWord) (d : List Word) (bad : Bool) (s : State) : State :=
  let k := strmOf s n q
  let step := k.dbg.mode == 3
  strmNext n q 5 (modStrm n q (fun k => if step then { k with dbg := { k.dbg with stepEngine := some m } } else k)
    (modEng n m (fun e => { e with faulted := e.faulted || bad, passes := e.passes ++ [{
      pw := p, desc := d, issueAddr := k.pc, stream := q, descBad := bad, stepped := step }] }) s))

/-- Passes in the queue (04 T4-14). -/
def queued (e : Engine) : Nat := (e.passes.filter (·.stage == .queued)).length

/-- ISSUE after the pass breakpoints. DEDUCED (log entry 48): the descriptor is read before the checks, so a pass word that fails one may log
the memory's fault too. -/
def issueBody (n q : Nat) (w0 : Word) (p : PassWord) (s : State) : State :=
  let m := field w0 9 8
  if 16 ≤ queued (engOf s n m) then strmHold n q .bound s
  else if usesLayer p && nLayers s ≤ p.layer then haltAt n 0 q 0x30 w0 s
  else
    let ag : Agent := .eng n m q (strmOf s n q).pc p.w0
    let a := storeBase + 0x1000000 * n + 0x4000 * (thlOf s n).odtBase.toNat + p.odesc * 64
    match readMem ag a 64 s with
    | (s1, none) =>
      match issueCause s1 p [] with
      | some c => haltAt n m q c p.w0 s1
      | none => settle (acceptPass n m q p [] true s1)
    | (s1, some bs) =>
      let d := wordsOf bs
      match issueCause s1 p d with
      | some c => haltAt n m q c p.w0 s1
      | none => acceptPass n m q p d false s1

/-- ISSUE. -/
def execIssue (n q : Nat) (w0 : Word) (p : PassWord) (s : State) : Res :=
  let w := field w0 7 0
  let k := strmOf s n q
  let skip := k.dbg.skipBp || k.state == .held
  strmInstr n q 5 w0 [0, 1, 2] (fun t =>
    if w == 1 then
      match (if skip then none else pbpAt t n p) with
      | some i => haltStrm n q 3 i t
      | none => issueBody n q w0 p t
    else haltAt n 0 q 0x30 w0 t) s

/-! ## Pegs (06 R127 to R129) -/

/-- PEGWAIT. -/
def execPegwait (n q : Nat) (w : Word) (s : State) : Res :=
  strmInstr n q 1 w [0, 1, 2] (fun t =>
    let p := field w 13 8
    let target := field w 63 32
    let us := field w 31 16
    if target ≤ pegOf t n p then strmNext n q 1 t
    else modStrm n q (fun k => { k with
      state := .pegWait, why := .none, waitPeg := BitVec.ofNat 6 p, waitTarget := BitVec.ofNat 32 target
      waitTimer := if us == 0 then none else some (1000 * us), cntInstr := satAdd k.cntInstr 1 }) t) s

/-- PEGWAIT_TIMEOUT: the stream halts with cause 0x31. -/
def execPegwaitTimeout (n q : Nat) (s : State) : Res :=
  let k := strmOf s n q
  need (hasStrm s n q) (k.state == .pegWait && k.waitTimer == some 0 && !k.dbg.halted) (stepEnds n q (haltAt n 0 q 0x31 k.instr s))

/-- PEG_POST: an agent adds to a peg. -/
def execPegPostEv (n p : Nat) (amount : W32) (agent : Nat) (s : State) : Res :=
  need (hasThl s n && p < 64) true (classed (postPeg n p amount.toNat agent 3 0 s))

/-- The post of a PEGPOST (06 R129). DESIGN CHOICE (log entry 72): an absent thallus's 0xB8 names the instruction's address. -/
def doPegpost (n q : Nat) (w : Word) (s : State) : State :=
  let m := if bit w 15 then field w 23 16 else n
  let ia := (strmOf s n q).pc
  let s1 := strmNext n q 1 s
  if m < s.thl.length then classed (postPeg m (field w 13 8) (field w 63 32) 0 q ia s1) else absentEv (.strm n q ia) ia s1

/-- PEGPOST: with fence = 1 held until all the work issued before is done. -/
def execPegpost (n q : Nat) (w : Word) (s : State) : Res :=
  strmInstr n q 1 w [0, 1, 2] (fun t =>
    if bit w 14 && !workDone (thlOf t n) q (strmOf t n q) then strmHold n q .fence t else doPegpost n q w t) s

/-- PEGPOST_FENCE_DONE. -/
def execPegpostFenceDone (n q : Nat) (s : State) : Res :=
  let k := strmOf s n q
  need (hasStrm s n q) (k.state == .held && k.why == .fence && !k.dbg.halted && workDone (thlOf s n) q k) (doPegpost n q k.instr s)

/-! ## DMA, MRUN -/

/-- DMA (07 R156): a full channel queue holds the stream. -/
def execDma (n q : Nat) (w0 w1 : Word) (s : State) : Res :=
  strmInstr n q 2 w0 [0, 1, 2] (fun t =>
    if 16 ≤ (dmaOf t n q).length then strmHold n q .bound t
    else strmNext n q 2 (modDma n q (fun x => x ++ [{ addr := field w1 43 0 }]) t)) s

/-- A core of a mask has not ended its run. -/
def coresBusy (s : State) (n mask : Nat) : Bool :=
  (thlOf s n).runs.any (fun r => (r.mask &&& ~~~r.ended).toNat &&& mask != 0) ||
    (List.range 8).any fun c => Nat.testBit mask c && (coreOf s n c).state != .idle

/-- A core at the start of a run (08 R168). -/
def Core.start (n c mask arg entry step : Nat) (k : Core) : Core :=
  { k with
    state := .running, pc := entry, waitTimer := none, oseq := 0, dmaLost := false
    g := [0, BitVec.ofNat 64 arg, BitVec.ofNat 64 c, BitVec.ofNat 64 n, BitVec.ofNat 64 step, BitVec.ofNat 64 mask,
      BitVec.ofNat 64 (popCount (BitVec.ofNat 8 mask))] ++ List.replicate 25 0
    v := List.replicate 32 0, p := List.replicate 8 0, ordCount := 0, instr := 0 }

/-- MRUN (08 R168): starts the entry on every core of the mask; a busy core holds the stream. An entry that is not 8-byte aligned is
taken with its low bits ignored (log entry 24). -/
def execMrun (n q : Nat) (w0 w1 : Word) (s : State) : Res :=
  strmInstr n q 2 w0 [0, 1, 2] (fun t =>
    let mask := field w0 15 8
    if mask == 0 then haltAt n 0 q 0x30 w0 t
    else if coresBusy t n mask then strmHold n q .bound t
    else
      let run : Run := { mask := BitVec.ofNat 8 mask, peg := field w0 21 16, stream := q }
      strmNext n q 2 (modThl n (fun h => { h with
        runs := h.runs ++ [run]
        core := h.core.zipIdx.map fun (k, c) =>
          if Nat.testBit mask c then k.start n c mask (field w0 63 32) (field w1 43 3 * 8) t.cmt.step.toNat else k }) t)) s

/-! ## Markers and the forward barrier (06 R132, R133; 11 R246, R257) -/

/-- MARK kind 0: the end-of-forward marker holds the stream as a fence; END_OF_FORWARD_LOSS_CHECK completes it. -/
def execMarkEndOfForward (n q : Nat) (w0 w1 : Word) (s : State) : Res :=
  strmInstr n q 2 w0 [0] (fun t => modStrm n q (fun k => { k with
    state := .held, why := .marker, markThenEnd := false, lossAddr := field w1 43 0, lossN := field w0 31 16
    cntInstr := satAdd k.cntInstr 1 }) t) s

/-- The stream has executed END: draining, and done where no work is left. -/
def strmEnd (n q : Nat) (s : State) : State :=
  settle (modStrm n q (fun k => { k with state := .draining, why := .none, pc := (k.pc + 16) % 2 ^ 44 }) s)

/-- The end-of-forward marker of a forward stream completes: its loss values are read and a non-finite one poisons the device. -/
def lossCheck (n : Nat) (s : State) : State :=
  let k := strmOf s n 0
  let ag := strmAgent s n 0
  let ending (s1 : State) (vals : List W32) : State :=
    let bad := vals.any fun v => field v 30 23 == 255
    let s2 := modStrm n 0 (fun k => { k with marked := true, lossVals := vals }) s1
    let s3 := if bad then
        strmEv 0 0x35 n 0 0 false k.instr.toNat { s2 with cmt := { s2.cmt with poisoned := true } }
      else s2
    let s4 := if k.markThenEnd then strmEnd n 0 s3
      else modStrm n 0 (fun k => { k with state := .running, why := .none, pc := (k.pc + 16) % 2 ^ 44 }) s3
    stepEnds n 0 s4
  if k.lossAddr == 0 then ending s []
  else
    match readMem ag k.lossAddr (4 * k.lossN) s with
    | (s1, some bs) => ending s1 (w32sOf bs)
    | (s1, none) =>
      let hbm := match resolve s1 k.lossAddr with
        | some p => isHbm p
        | none => true
      stepEnds n 0 (haltMem n 0 hbm s1)

/-- END_OF_FORWARD_LOSS_CHECK (06 R132). -/
def execEndOfForwardLossCheck (n : Nat) (s : State) : Res :=
  let k := strmOf s n 0
  need (hasThl s n) (k.state == .held && k.why == .marker && !k.dbg.halted && workDone (thlOf s n) 0 k) (lossCheck n s)

/-- MARK kind 1 (END): a forward stream without its end-of-forward marker executes one with no loss check first. -/
def execMarkEnd (n q : Nat) (w0 w1 : Word) (s : State) : Res :=
  let _ := w1
  need (hasStrm s n q) (strmReady s n q)
    (strmStep n q 2 w0 (fun t =>
      let t1 := modStrm n q (fun k => { k with cntInstr := satAdd k.cntInstr 1 }) t
      if q == 0 && !(strmOf t n q).marked then
        modStrm n q (fun k => { k with state := .held, why := .marker, markThenEnd := true, lossAddr := 0, lossN := 0 }) t1
      else strmEnd n q t1) s)

/-- MARK kind 2: a trace event with its 16-bit value in word 3's instruction word. -/
def execMarkTrace (n q : Nat) (w0 w1 : Word) (s : State) : Res :=
  let _ := w1
  need (hasStrm s n q) (strmReady s n q)
    (strmStep n q 2 w0 (fun t => strmNext n q 2 (strmEv 0 0x36 n 0 q false w0.toNat t)) s)

/-- Every forward stream has completed its end-of-forward marker. -/
def barrierReady (s : State) : Bool :=
  !s.crun.barrierOpen && s.thl.any (fun t => (t.strm.getD 1 {}).state == .barrier) && s.thl.all fun t => (t.strm.getD 0 {}).marked

/-- The replay check (11 R257). -/
def replayCheck (crc : Nat) (s : State) : State :=
  match s.srun.verify with
  | none => s
  | some (step, valid, want) =>
    if step != s.cmt.step then s
    else if valid && want.toNat == crc then
      logEv 4 0 0x89 (b2n s.snap.latestSlot <<< 8) s.cmt.step.toNat (crc ||| want.toNat <<< 32) { s with snap := { s.snap with replay := 2 } }
    else
      logEv 4 0 0x8A (b2n s.snap.latestSlot <<< 8) s.cmt.step.toNat (crc ||| want.toNat <<< 32)
        { s with snap := { s.snap with replay := 3, disarmed := true } }

/-- FORWARD_BARRIER_OPEN (06 R133): the loss digest, the replay check, the snapshot header's digest, and every backward stream goes on. -/
def execForwardBarrierOpen (s : State) : Res :=
  need true (barrierReady s)
    (let crc := crc32c (bytesOfW32s (s.thl.flatMap fun t => (t.strm.getD 0 {}).lossVals))
     let s1 := { s with
      snap := { s.snap with lossCrc := BitVec.ofNat 32 crc, lossStep := s.cmt.step }
      crun := { s.crun with barrierOpen := true }
      thl := s.thl.map fun t => { t with strm := t.strm.modify 1 fun k =>
        if k.state == .barrier then { k with state := .running } else k } }
     snapBarrier (replayCheck crc s1))

/-! ## EPOCH, LSET, branches -/

/-- EPOCH (06 R138): held while an earlier epoch is still committing. -/
def execEpoch (n q : Nat) (w : Word) (s : State) : Res :=
  strmInstr n q 1 w [2] (fun t =>
    if t.cmt.state == .settling then strmHold n q .epoch t
    else strmNext n q 1 (modThl n (fun h => { h with epochOpen := true }) t)) s

/-- LSET (06 R144): the FP32 value at the address goes into learned_l of the next state copy. -/
def execLset (n q : Nat) (w0 w1 : Word) (s : State) : Res :=
  strmInstr n q 2 w0 [2] (fun t =>
    let l := field w0 19 8
    let a := field w1 43 0
    if nLayers t ≤ l then haltAt n 0 q 0x30 w0 t
    else
      match read32 (strmAgent t n q) a t with
      | (t1, none) =>
        haltMem n q (match resolve t1 a with
          | some p => isHbm p
          | none => true) t1
      | (t1, some v) =>
        strmNext n q 2 (writeMem .unit (nextState t1 l (field w0 20 20) + 16) (bytesOf 4 v.toNat) t1)) s

/-- Continue at a signed offset in words from the branching instruction. -/
def strmJump (n q off : Nat) (s : State) : State :=
  modStrm n q (fun k => { k with
    state := .running, why := .none, pc := wrapNat 44 ((k.pc : Int) + 8 * signed 32 off), cntInstr := satAdd k.cntInstr 1 }) s

/-- BRUNG (06 R134): the branch that rung_sel of the state copy in force names. -/
def execBrung (n q : Nat) (w0 w1 w2 : Word) (s : State) : Res :=
  strmInstr n q 3 w0 [0, 1, 2] (fun t =>
    let l := field w0 19 8
    if nLayers t ≤ l then haltAt n 0 q 0x30 w0 t
    else
      let a := curState t l (field w0 20 20)
      match readMem (strmAgent t n q) a 8 t with
      | (t1, none) =>
        haltMem n q (match resolve t1 a with
          | some p => isHbm p
          | none => true) t1
      | (t1, some bs) =>
        let off := match natOf bs % 4 with
          | 0 => field w1 31 0
          | 1 => field w1 63 32
          | 2 => field w2 31 0
          | _ => field w2 63 32
        strmJump n q off t1) s

/-- JUMP. -/
def execJump (n q : Nat) (w : Word) (s : State) : Res :=
  strmInstr n q 1 w [0, 1, 2] (strmJump n q (field w 63 32)) s

/-! ## Resumption (06 R135, T6-7) -/

/-- Words of an instruction by its opcode (06 T6-2); a reserved opcode counts as one. -/
def instrWords (w : Word) : Nat :=
  match field w 7 0 with
  | 0x01 => 5
  | 0x04 | 0x07 | 0x09 | 0x0A | 0x0B => 2
  | 0x06 | 0x0C => 3
  | _ => 1

/-- The stream is busy for RW-K (18 T18-3). -/
def strmInUse (k : Stream) : Bool := [StrmState.running, .pegWait, .held, .barrier, .draining].contains k.state

/-- BAR0 offset of a stream's registers (06 R146). -/
def strmOff (n q : Nat) : Nat := 0x01800000 + 0x1000 * n + 0x900 + q * 0x40

/-- A write of THL[n].STRM[s].CTRL. -/
def strmCtrlWrite (n q : Nat) (x : Wr) (s : State) : State :=
  rwk x [(1, 0)] (strmInUse (strmOf s n q)) (fun t0 =>
    let t := modStrm n q (fun k => { k with skip := x.flag k.skip 1 }) t0
    if x.sets 0 && (strmOf t n q).state == .halted then
      modStrm n q (fun k => { k with
        state := .running, why := .none, haltDue := false
        pc := if x.sets 1 then (k.pc + 8 * instrWords k.instr) % 2 ^ 44 else k.pc }) t
    else t) s

end Sys2Proof.Machine
end

