-- ==== Sys2Proof/Machine/Dma.lean ====
section
/-! DEFINITION. Thallus DMA (07 R156 to R158) and HBM scrubbing (07 R162). A channel has one remote descriptor under way at a
time (log entry 25). -/

namespace Sys2Proof.Machine

open Sys2Proof

/-! ## The descriptor (07 T7-2) -/

def ddOp (d : List Word) : Nat := field (wordAt d 0) 3 0
def ddPegEn (d : List Word) : Bool := bit (wordAt d 0) 4
def ddPeg (d : List Word) : Nat := field (wordAt d 0) 10 5
def ddRemote (d : List Word) : Bool := bit (wordAt d 0) 11
def ddDev (d : List Word) : Nat := field (wordAt d 0) 25 12
def ddSrcRemote (d : List Word) : Bool := bit (wordAt d 0) 26
def ddRpegEn (d : List Word) : Bool := bit (wordAt d 0) 41
def ddRpeg (d : List Word) : Nat := field (wordAt d 0) 47 42
def ddRthl (d : List Word) : Nat := field (wordAt d 0) 55 48
def ddSrc (d : List Word) : Nat := field (wordAt d 1) 43 0
def ddDst (d : List Word) : Nat := field (wordAt d 2) 43 0
def ddRowBytes (d : List Word) : Nat := field (wordAt d 3) 23 0
def ddRows (d : List Word) : Nat := field (wordAt d 3) 63 32
def ddSrcPitch (d : List Word) : Nat := field (wordAt d 4) 31 0
def ddDstPitch (d : List Word) : Nat := field (wordAt d 4) 63 32

/-- A range lies in no register space and no reserved range (07 R157, T7-1). -/
def rangeOk (a n : Nat) : Bool := a + n ≤ storeEnd || (scratchBase ≤ a && a + n ≤ scratchEnd)

/-- A range lies in HBM or in the stores. -/
def remoteOk (a n : Nat) : Bool := a + n ≤ hbmEnd || (storeBase ≤ a && a + n ≤ storeEnd)

/-- Cause of a failed check, in the order of 07 R157. -/
def descCause (s : State) (addr : Nat) (d : List Word) : Option Nat :=
  let n := ddRowBytes d
  let src (i : Nat) := ddSrc d + i * ddSrcPitch d
  let dst (i : Nat) := ddDst d + i * ddDstPitch d
  if ddSrcRemote d then some 0x40
  else if addr % 64 != 0 || 1 < ddOp d || n == 0 || ddRows d == 0 || (1 < ddRows d && ddDstPitch d < n) ||
      (ddRemote d && ddDev d == self s) then some 0x41
  else if (List.range (ddRows d)).all fun i =>
      (ddOp d == 1 || rangeOk (src i) n) && (if ddRemote d then remoteOk (dst i) n else rangeOk (dst i) n) then none
  else some 0x41

/-! ## Reading the source -/

/-- Pieces (source, destination, length) within source lines, row by row. -/
def rowPieces : Nat → Nat → Nat → Nat → List (Nat × Nat × Nat)
  | 0, _, _, _ => []
  | fuel + 1, a, b, n =>
    if n == 0 then []
    else
      let k := min n (64 - a % 64)
      (a, b, k) :: rowPieces fuel (a + k) (b + k) (n - k)

def descPieces (d : List Word) : List (Nat × Nat × Nat) :=
  (List.range (ddRows d)).flatMap fun i =>
    rowPieces (ddRowBytes d / 64 + 2) (ddSrc d + i * ddSrcPitch d) (ddDst d + i * ddDstPitch d) (ddRowBytes d)

/-- Read the pieces; what was read before an uncorrectable location, and whether all was read. -/
def readPieces (ag : Agent) : List (Nat × Nat × Nat) → State → State × List (Nat × Nat × List Byte) × Bool
  | [], s => (s, [], true)
  | (a, b, n) :: rest, s =>
    match readMem ag a n s with
    | (s1, none) => (s1, [], false)
    | (s1, some bs) =>
      let (s2, xs, ok) := readPieces ag rest s1
      (s2, (a, b, bs) :: xs, ok)

/-- The bytes of a fill row (07 R156): byte j mod 8 of the pattern. -/
def fillRow (pat : Word) (n : Nat) : List Byte := (List.range n).map fun j => BitVec.ofNat 8 (pat.toNat >>> (8 * (j % 8)))

/-- A source line and a destination line of the descriptor have bytes in common. -/
def overlaps (ps : List (Nat × Nat × List Byte)) : Bool :=
  ps.any fun (a, _, x) => ps.any fun (_, b, y) => a < b + y.length && b < a + x.length

/-- Overlapping ranges (07 R158): each byte takes the old or the new value of its source byte, a free choice; in ascending order. -/
def overlapBytes (nonce : Nat) (ps : List (Nat × Nat × List Byte)) : List (Nat × List Byte) :=
  let bytes := ps.flatMap fun (a, b, xs) => xs.zipIdx.map fun (x, j) => (a + j, b + j, x)
  let ord := if Config.dmaOld nonce 0 then bytes else bytes.reverse
  (ord.zipIdx.foldl (fun (done : List (Nat × Byte)) ((a, b, x), i) =>
    let v := if Config.dmaOld nonce (i + 1) then x else
      match done.find? (·.1 == a) with
      | some (_, y) => y
      | none => x
    (b, v) :: done) []) |> (fun done => (if Config.dmaOld nonce 0 then done.reverse else done).map fun (b, v) => (b, [v]))

/-! ## DMA_DESCRIPTOR_START -/

/-- The stream that a channel serves, 3 for none. -/
def dmaStream (s : State) (n ch : Nat) (e : DmaEntry) : Nat :=
  if ch < 3 then ch
  else match e.core with
    | some c => runStream s n c
    | none => 3

def dmaAgent (s : State) (n ch : Nat) (e : DmaEntry) (w : Word) : Agent := .dma n ch (dmaStream s n ch e) w

/-- Replace entry `k` of a channel. -/
def setEntry (n ch k : Nat) (e : DmaEntry) (s : State) : State := modDma n ch (fun q => q.set k e) s

/-- Count bytes read and written by the thallus DMA. -/
def dmaCount (n rd wr : Nat) (s : State) : State :=
  modThl n (fun t => { t with cntRdBytes := satAdd t.cntRdBytes rd, cntWrBytes := satAdd t.cntWrBytes wr }) s

/-- A descriptor that fails its check (07 R157). -/
def refuseDesc (n ch k cause : Nat) (e : DmaEntry) (d : List Word) (s : State) : State :=
  let s1 := setEntry n ch k { e with started := true, failed := true, desc := d } s
  settle (fault 7 cause (engW0 n 0 (dmaStream s n ch e) 0 false) e.addr (wordAt d 0).toNat
    (modThl n (fun t => { t with cntRefused := satAdd t.cntRefused 1 }) s1))

/-- Writes cut at 1 KiB boundaries of their destination (13 R269). -/
def cutWrites : Nat → Nat → List Byte → List (Nat × List Byte)
  | 0, _, _ => []
  | fuel + 1, a, bs =>
    if bs.isEmpty then []
    else
      let k := min (1024 - a % 1024) bs.length
      (a, bs.take k) :: cutWrites fuel (a + k) (bs.drop k)

/-- Join the pieces of each row, so that a write is cut by the lines of its destination. -/
def rowWrites (d : List Word) (ws : List (Nat × List Byte)) : List (Nat × List Byte) :=
  (List.range (ddRows d)).filterMap fun i =>
    let lo := ddDst d + i * ddDstPitch d
    let bs := (ws.filter fun (a, _) => lo ≤ a && a < lo + ddRowBytes d).flatMap (·.2)
    if bs.isEmpty then none else some (lo, bs)

/-- The transfers of a remote descriptor. -/
def joinRows (d : List Word) (ws : List (Nat × List Byte)) : List (Nat × List Byte) :=
  (rowWrites d ws).flatMap fun (lo, bs) => cutWrites (bs.length / 1024 + 2) lo bs

/-- Send what a remote descriptor has ready; held before the RELEASE of an earlier step (10 R229). -/
def dmaSend (n ch k : Nat) (s : State) : State :=
  match (dmaOf s n ch)[k]? with
  | none => s
  | some e =>
    if s.crun.early || e.unsent.isEmpty then s
    else
      let s1 := setEntry n ch k { e with unsent := [], sentAny := true } s
      e.unsent.foldl (fun t (a, bs) => (sendTxn (ddDev e.desc) (.write a bs) (.dma n ch) t).1)
        (dmaCount n 0 (e.unsent.foldl (fun x (_, bs) => x + bs.length) 0) s1)

/-- The transfer of a descriptor that passed its check: the source is read; local writes are prepared, remote ones sent. -/
def startDesc (n ch k : Nat) (e : DmaEntry) (d : List Word) (s : State) : State :=
  let ag := dmaAgent s n ch e (wordAt d 0)
  if ddOp d == 1 then
    let ws := (List.range (ddRows d)).map fun i => (ddDst d + i * ddDstPitch d, fillRow (wordAt d 1) (ddRowBytes d))
    if ddRemote d then
      dmaSend n ch k (setEntry n ch k { e with started := true, desc := d, remote := true, unsent := joinRows d ws } s)
    else setEntry n ch k { e with started := true, desc := d, writes := ws } s
  else
    match readPieces ag (descPieces d) s with
    | (s1, ps, ok) =>
      let rd := ps.foldl (fun x (_, _, bs) => x + bs.length) 0
      let s2 := dmaCount n rd 0 s1
      let plain := ps.map fun (_, b, bs) => (b, bs)
      if ok then
        if ddRemote d then
          dmaSend n ch k (setEntry n ch k { e with started := true, desc := d, remote := true, unsent := joinRows d plain } s2)
        else
          let ws := if overlaps ps then overlapBytes s2.nonce ps else plain
          setEntry n ch k { e with started := true, desc := d, writes := rowWrites d ws } { s2 with nonce := s2.nonce + 1 }
      else
        -- part of what was read before may have been written (07 R157)
        let part := plain.take (Config.part s2.nonce % (plain.length + 1))
        let s3 := { s2 with nonce := s2.nonce + 1 }
        settle (if ddRemote d then
          dmaSend n ch k (setEntry n ch k { e with
            started := true, failed := true, desc := d, remote := true, unsent := joinRows d part } s3)
        else setEntry n ch k { e with started := true, failed := true, desc := d, writes := rowWrites d part } s3)

/-- The next descriptor that a channel starts, in issue order; a remote one waits for the one before. -/
def dmaNext (s : State) (n ch : Nat) : Option Nat :=
  let q := dmaOf s n ch
  let k := q.findIdx fun e => !e.started
  if q.length ≤ k || waitsFor (.dma n ch) s || q.any (fun e => e.remote && e.started && !e.failed && !e.finDone) then none else some k

/-- Fetch, check and start descriptor `k`. -/
def dmaStart (n ch k : Nat) (s : State) : State :=
  let e := (dmaOf s n ch).getD k {}
  match readMem (dmaAgent s n ch e 0) e.addr 64 s with
  | (s1, none) => settle (setEntry n ch k { e with started := true, failed := true } s1)
  | (s1, some bs) =>
    let d := wordsOf bs
    match descCause s1 e.addr d with
    | some c => refuseDesc n ch k c e d s1
    | none => startDesc n ch k e d s1

/-- A descriptor passes the throttle gate of the thallus's DMA ports (01 R17). -/
def useGate (n : Nat) (s : State) : State := modThl n (fun t => { t with gateUsed := t.gateUsed + 1 }) s

/-- DMA_DESCRIPTOR_START (07 R157). -/
def execDmaDescriptorStart (n ch : Nat) (s : State) : Res :=
  need (hasDma s n ch) ((dmaNext s n ch).isSome && gateOpen s n (thlOf s n).gateUsed)
    (match dmaNext s n ch with
      | some k => dmaStart n ch k (useGate n s)
      | none => s)

/-! ## DMA_COMPLETE (07 R156, R158) -/

/-- A write or WRITE_FIN of the channel has been acknowledged: the remote descriptor goes on or is complete (13 R269). -/
def dmaAcked (n ch : Nat) (s : State) : State :=
  if waitsFor (.dma n ch) s then s
  else
    let q := dmaOf s n ch
    let k := q.findIdx fun e => e.remote && e.started && !e.failed && !e.finDone && e.unsent.isEmpty
    match q[k]? with
    | none => s
    | some e =>
      if ddRpegEn e.desc && !e.finSent then
        (sendTxn (ddDev e.desc) (.writeFin (ddRpeg e.desc) (ddRthl e.desc)) (.dma n ch)
          (setEntry n ch k { e with finSent := true } s)).1
      else setEntry n ch k { e with finDone := true } s

/-- The head descriptor has ended: failed, local, or acknowledged. -/
def dmaEnded (e : DmaEntry) : Bool := e.started && (e.failed || !e.remote || e.finDone)

/-- Who issued a descriptor that ended failed does not meet R125 or R172 again. -/
def dmaLose (n ch : Nat) (e : DmaEntry) (s : State) : State :=
  match e.core with
  | some c => modCore n c (fun k => { k with dmaLost := true }) s
  | none => modStrm n ch (fun k => { k with dmaLost := true }) s

/-- The head of a channel ends: its local writes become visible and its peg is posted. -/
def dmaFinish (n ch : Nat) (s : State) : State :=
  match dmaOf s n ch with
  | [] => s
  | e :: rest =>
    let s1 := modDma n ch (fun _ => rest) s
    let ag := dmaAgent s n ch e (wordAt e.desc 0)
    let s2 := e.writes.foldl (fun t (a, bs) => writeMem ag a bs t) (dmaCount n 0 (e.writes.foldl (fun x (_, bs) => x + bs.length) 0) s1)
    settle (if e.failed then dmaLose n ch e s2
      else if ddPegEn e.desc then postPeg n (ddPeg e.desc) 1 2 3 0 s2 else s2)

/-- DMA_COMPLETE. -/
def execDmaComplete (n ch : Nat) (s : State) : Res :=
  need (hasDma s n ch) ((dmaOf s n ch).head?.any dmaEnded) (dmaFinish n ch s)

/-! ## HBM_SCRUB_LINE (07 R162) -/

/-- A line that scrubbing finds uncorrectable is logged and enters the poison list, once; a 65th entry is a device fault. -/
def scrubBad (a : Nat) (s : State) : State :=
  let line := a / 64
  let (k, _) := hbmPlace s (line * 64)
  let st := s.hbm.getD k {}
  let s1 := noteUncorr (line * 64) true { s with mem := { s.mem with
    badLines := if s.mem.badLines.contains line then s.mem.badLines else s.mem.badLines ++ [line] } }
  if st.poison.contains line then logEv 7 0 0x44 (engW0 0 0 3 0 false) (line * 64) 0 s1
  else if st.poison.length < 64 then
    logEv 7 0 0x44 (engW0 0 0 3 0 false) (line * 64) 0
      { s1 with hbm := s1.hbm.modify k fun h => { h with poison := h.poison ++ [line] } }
  else settle (fault 7 0x45 (engW0 0 0 3 0 false) (line * 64) 0 s1)

/-- HBM_SCRUB_LINE: a scrub read of the line at `addr`. -/
def execHbmScrubLine (addr : Nat) (r : ScrubResult) (s : State) : Res :=
  let (k, _) := hbmPlace s addr
  need (addr < hbmBytes s) (s.scrubPeriod != 0)
    (match r with
      | .clean => s
      | .corrected => { s with hbm := s.hbm.modify k fun h => { h with cntCorr := satAdd h.cntCorr 1 } }
      | .uncorrectable => scrubBad addr s)

end Sys2Proof.Machine
end

