-- ==== Sys2Proof/Machine/Bucket.lean ====
section
/-! DEFINITION. Buckets on the device (09): the bucket and group tables, tags, contributions, reduction messages outbound,
announcements, completion; BOPEN, BCONTRIB and the tag-wait diagnostic. -/

namespace Sys2Proof

/-- Message kinds (09 T9-4). -/
def RedBody.kind : RedBody → Nat
  | .announce _ _ _ => 0
  | .seal _ _ _ _ _ _ => 1
  | .grant _ _ => 2
  | .data _ _ _ _ => 3
  | .dataEnd _ _ _ => 4
  | .ring _ _ => 5
  | .esc => 6
  | .result _ _ => 7
  | .shardSum _ _ => 8
  | .final _ => 9
  | .record _ _ _ => 10

end Sys2Proof

namespace Sys2Proof.Machine

open Sys2Proof

/-! ## Tables (09 T9-1, T9-2) -/

def bktAddr (s : State) (b : Nat) : Nat := 4096 * s.rdx.btabBase.toNat + b * 128
def bktWord (s : State) (b i : Nat) : Word := peekWord s (bktAddr s b + 8 * i)
def bktElems (s : State) (b : Nat) : Nat := field (bktWord s b 0) 31 0
def bktRing (s : State) (b : Nat) : Bool := bit (bktWord s b 0) 40
def bktSum (s : State) (b : Nat) : Bool := bit (bktWord s b 0) 41
def bktDlv (s : State) (b : Nat) : Bool := bit (bktWord s b 0) 42
def bktLocal (s : State) (b : Nat) : Nat := field (bktWord s b 0) 50 43
def bktShard (s : State) (b : Nat) : Nat := field (bktWord s b 1) 31 0
def bktDigest (s : State) (b : Nat) : Nat := field (bktWord s b 6) 31 0

/-- Addresses of the two state copies: in force, and next (09 R192). -/
def bktCur (s : State) (b : Nat) : Nat := bktAddr s b + 8 * (4 + b2n s.cmt.epoch)
def bktNext (s : State) (b : Nat) : Nat := bktAddr s b + 8 * (4 + b2n (!s.cmt.epoch))

/-- Ring scale exponent of the copy in force. -/
def bktE (s : State) (b : Nat) : Int := signed 8 (field (peekWord s (bktCur s b)) 7 0)

/-- Word `i` of the group entry of bucket `b` (09 R193). -/
def grpWord (s : State) (b i : Nat) : Word :=
  peekWord s (s.rdx.gtabBase.toNat * 64 + field (bktWord s b 0) 39 32 * 16 + 8 * i)
def grpN (s : State) (b : Nat) : Nat := field (grpWord s b 0) 14 0
def grpSelf (s : State) (b : Nat) : Nat := field (grpWord s b 0) 29 16
def grpDev (s : State) (b i : Nat) : Nat := natOf (peek s (field (grpWord s b 1) 43 0 + 2 * i) 2) % 16384
def grpDevs (s : State) (b : Nat) : List Nat := (List.range (grpN s b)).map (grpDev s b)
/-- Member index of a device. -/
def grpIdx (s : State) (b dev : Nat) : Option Nat := (List.range (grpN s b)).find? fun i => grpDev s b i == dev

/-- The bucket is of the job's table and of a group that this device belongs to. -/
def bktOurs (s : State) (b : Nat) : Bool := b < nBuckets s && bit (grpWord s b 0) 30 && grpN s b != 0

/-- The device is the bucket's seal root. -/
def bktRoot (s : State) (b : Nat) : Bool := grpDev s b 0 == self s

/-! ## Shards and windows (09 R194, R209) -/

def nShards (s : State) (b : Nat) : Nat := (bktElems s b + bktShard s b - 1) / bktShard s b
def shardLo (s : State) (b j : Nat) : Nat := j * bktShard s b
def shardHi (s : State) (b j : Nat) : Nat := min ((j + 1) * bktShard s b) (bktElems s b)
def shardOwner (s : State) (b j : Nat) : Nat := j % grpN s b
def myShards (s : State) (b : Nat) : List Nat := (List.range (nShards s b)).filter fun j => shardOwner s b j == grpSelf s b
def nWins (s : State) (b j : Nat) : Nat := (shardHi s b j - shardLo s b j + 4095) / 4096
def winLo (s : State) (b j w : Nat) : Nat := shardLo s b j + 4096 * w
def winHi (s : State) (b j w : Nat) : Nat := min (winLo s b j w + 4096) (shardHi s b j)

/-- Where an element of the device's share lies (09 R194). -/
def shareAddr (s : State) (b e : Nat) : Nat :=
  let j := e / bktShard s b
  field (bktWord s b 2) 43 0 +
    4 * (if bktDlv s b then e else j / grpN s b * bktShard s b + e - j * bktShard s b)

/-- Elements of the device's share. -/
def shareLen (s : State) (b : Nat) : Nat :=
  if bktDlv s b then bktElems s b else ((myShards s b).map fun j => shardHi s b j - shardLo s b j).sum

/-! ## Bucket records of the reduction unit -/

def bktOf (s : State) (b : Nat) : Bkt := (s.rdx.bkts.find? (·.id == b)).getD { id := b }

def modBkt (b : Nat) (f : Bkt → Bkt) (s : State) : State :=
  { s with rdx := { s.rdx with bkts := s.rdx.bkts.map fun k => if k.id == b then f k else k } }

/-- The unit's reads of a bucket's tables: its entry, its group's entry and member list. -/
def bktReads (s : State) (b : Nat) : List (Nat × Nat) :=
  [(bktAddr s b, 128), (s.rdx.gtabBase.toNat * 64 + field (bktWord s b 0) 39 32 * 16, 16),
    (field (grpWord s b 1) 43 0, 2 * grpN s b)]

/-- The unit handles the bucket from now on: it reads its tables. -/
def openBkt (b : Nat) (s : State) : State :=
  if s.rdx.bkts.any (·.id == b) then s
  else
    let s1 := probes (bktReads s b) s
    { s1 with rdx := { s1.rdx with bkts := s1.rdx.bkts ++ [{ id := b }] } }

/-- An announcement, a seal or data of the bucket has been sent or received in the step (10 R224). -/
def Bkt.touched (k : Bkt) : Bool :=
  k.announced.isSome || !k.anns.isEmpty || k.mSeal.isSome || !k.parts.isEmpty || k.placed != 0 || k.finalSum.isSome ||
    !k.waiting.isEmpty

/-- Log a reduction event (09 T9-14). -/
def rdxEv (cls cause b dev w3 : Nat) (s : State) : State :=
  logEv 2 cls cause (b <<< 8 ||| dev <<< 20) s.cmt.step.toNat w3 s

def rdxFault (cause b dev w3 : Nat) (s : State) : State :=
  recordClass (classOf cause) cause (rdxEv (classOf cause) cause b dev w3 s)

/-- The reduction unit reads memory; after an uncorrectable read, whose device fault ends the step, it goes on with the bits that
stand there. -/
def unitRead (a n : Nat) (s : State) : State × List Byte :=
  match readMem .unit a n s with
  | (s1, some bs) => (s1, bs)
  | (s1, none) => (s1, peek s1 a n)

/-! ## Messages outbound (09 R206, R207) -/

/-- The bucket tag word of a message (09 T9-3; which messages carry `ring` and `rerun`: log entry 26). -/
def redTag (s : State) (b : Nat) (body : RedBody) (esc warm rerun : Bool) : Word :=
  let ring := bktRing s b && !rerun && [1, 5, 6, 7, 8, 9].contains body.kind
  BitVec.ofNat 64 (b ||| self s <<< 12 ||| body.kind <<< 26 ||| b2n ring <<< 30 ||| b2n esc <<< 31 ||| b2n warm <<< 32 |||
    b2n rerun <<< 33 ||| (s.cmt.step.toNat % 2 ^ 30) <<< 34)

/-- Send a reduction message, or hold it until RELEASE (10 R229). -/
def sendRed (dst : Nat) (tag : Word) (body : RedBody) (s : State) : State :=
  if s.crun.early then { s with rdx := { s.rdx with held := s.rdx.held ++ [(dst, tag, body)] } }
  else
    let s1 := (sendTxn dst (.red tag body) .step s).1
    { s1 with rdx := { s1.rdx with cntTxBytes := satAdd s1.rdx.cntTxBytes (redBytes body) } }

/-- Send a message of bucket `b`, of its re-run once it has moved there. -/
def sendB (b dst : Nat) (body : RedBody) (s : State) : State :=
  sendRed dst (redTag s b body false false (bktOf s b).rerun) body s

/-- Values cut into runs of at most 252 (09 R207), with their element offsets. -/
def runsOf : Nat → Nat → List W32 → List (Nat × List W32)
  | 0, _, _ => []
  | fuel + 1, off, vs => if vs.isEmpty then [] else (off, vs.take 252) :: runsOf fuel (off + 252) (vs.drop 252)

/-- RELEASE lifts the holds of 10 R229: the messages go out. -/
def liftRed (s : State) : State :=
  let held := s.rdx.held
  held.foldl (fun t (d, tag, body) => sendRed d tag body t) { s with rdx := { s.rdx with held := [] } }

/-! ## Announcements (09 R201, R202, R205) -/

/-- A device that announced present and holds a seal without its own bit is excluded (09 R202, R203). -/
def sealedOut (b : Nat) (s : State) : State :=
  let k := bktOf s b
  match k.mSeal with
  | some x =>
    if k.announced == some .present && !x.bits.getD (grpSelf s b) false then
      { s with cmt := { s.cmt with excluded := true } }
    else s
  | none => s

/-- The device's local part of a bucket closes: it announces to the seal root, and its collective timeout starts, also where 10 R229
holds the message (09 R205, 01 R28). -/
def announceBkt (b : Nat) (s : State) : State :=
  let k := bktOf s b
  let kind : AnnKind :=
    if s.cmt.excluded then .excluded else if s.cmt.poisoned then .poisoned else if bktLocal s b == 0 then .none else .present
  let body : RedBody := .announce kind (if kind == .present then k.count else 0) (bktDigest s b)
  let s1 := modBkt b (fun k => { k with
    closed := true, announced := some kind, timer := some (collNs s) }) s
  sealedOut b (sendB b (grpDev s b 0) body s1)

/-- At step start every bucket without local contributions is announced (09 R199). -/
def announceEmpty (s : State) : State :=
  (List.range (nBuckets s)).foldl (fun t b =>
    if bktOurs t b && bktLocal t b == 0 then announceBkt b (openBkt b t) else t) s

/-! ## Contributions (09 R199, R200) -/

/-- Record `i` of the contribution list. -/
def clistAddr (s : State) (i : Nat) : Nat := 4096 * s.rdx.clistBase.toNat + 32 * i

/-- The contributions to bucket `b`, in list order: (source, offset, length). -/
def contribs (b : Nat) (s : State) : State × List (Nat × Nat × Nat) :=
  (List.range s.rdx.clistCount).foldl (fun (t, acc) i =>
    let (t1, bs) := unitRead (clistAddr t i) 32 t
    let ws := wordsOf bs
    if field (wordAt ws 3) 11 0 == b then
      (t1, acc ++ [(field (wordAt ws 0) 43 0, field (wordAt ws 1) 31 0, field (wordAt ws 1) 63 32)])
    else (t1, acc)) (s, [])

/-- The values of the contributions in elements `lo` to `hi - 1`, one run per contribution (09 R209: never pre-summed). -/
def contribVals (b lo hi : Nat) (s : State) : State × List (Nat × List W32) :=
  let (s1, cs) := contribs b s
  cs.foldl (fun (t, acc) (src, off, len) =>
    let x := max lo off
    let y := min hi (off + len)
    if x < y then
      let (t1, bs) := unitRead (src + 4 * (x - off)) (4 * (y - x)) t
      (t1, acc ++ [(x, w32sOf bs)])
    else (t, acc)) (s1, [])

/-! ## Completion (09 R211, R215, R216) -/

/-- The summary's words 0 to 4 (09 T9-6). -/
def summaryWords (x : Summary) : List Word :=
  [BitVec.ofNat 64 (x.nNan ||| x.nInf <<< 32), BitVec.ofNat 64 x.count,
    BitVec.ofNat 64 (x.nPresent ||| x.nDropped <<< 15 ||| x.nfDev.getD 0 <<< 30 ||| b2n x.nfDev.isSome <<< 44 |||
      b2n x.ringUsed <<< 45 ||| b2n x.escalated <<< 46 ||| b2n x.warm <<< 47 ||| b2n x.empty <<< 48 ||| b2n x.ovf <<< 49 |||
      b2n x.failed <<< 50 ||| wrapNat 8 x.eUsed <<< 51),
    BitVec.ofNat 64 (x.step ||| x.bucket <<< 32),
    BitVec.ofNat 64 (x.bitmapCrc ||| x.firstDrop.getD 0 <<< 32 ||| b2n x.firstDrop.isSome <<< 46)]

/-- A bitmap as bytes, bit 0 first, padded with zeros. -/
def bitBytes (bits : List Bool) : List Byte :=
  bytesOf ((bits.length + 7) / 8) ((bits.zipIdx.filter (·.1)).foldl (fun x (_, i) => x + 2 ^ i) 0)

/-- The next state copy of a bucket: exponent, calm run, and whether the scale fell (09 R215). -/
def nextScale (s : State) (b : Nat) (x : Summary) : Int × Nat × Bool :=
  let w := peekWord s (bktCur s b)
  let e := signed 8 (field w 7 0)
  let calm := field w 15 8
  let t := bktWord s b 1
  let relax := field t 51 44
  if !bktRing s b then (e, calm, false)
  else if x.escalated then (min (e + max 1 (field t 43 40)) 127, 0, false)
  else if x.warm then (e, 0, false)
  else if relax != 0 && relax ≤ calm + 1 then (max (e - 1) (-128), 0, -128 < e)
  else (e, min (calm + 1) 255, false)

/-- A freed tag: the registers that hold it name no bucket (06 R130). -/
def freeTag (tag : Nat) (s : State) : State :=
  { s with
    rdx := { s.rdx with tags := s.rdx.tags.set tag none }
    thl := s.thl.map fun t => { t with strm := t.strm.map fun k => { k with
      tval := BitVec.ofNat 8 ((List.range 8).foldl (fun v i =>
        if bit k.tval i && (k.treg.getD i 0).toNat != tag then v ||| 1 <<< i else v) 0) } } }

/-- Write the summary, and the bitmap behind it where it is asked for (09 R211). -/
def writeSummary (b : Nat) (x : Summary) (bits : List Bool) (s : State) : State :=
  let a := field (bktWord s b 3) 43 0
  let s1 := writeWords a (summaryWords x ++ [0, 0, 0]) s
  if s.rdx.logBitmap then
    let bs := bitBytes bits
    writeMem .unit (a + 64) (bs ++ List.replicate ((64 - bs.length % 64) % 64) 0) s1
  else s1

/-- A bucket completes where its whole share is in place and its seal and FINAL are held; a failed one only has its summary written
(09 R195, R211). -/
def tryComplete (b : Nat) (s : State) : State :=
  let k := bktOf s b
  match k.finalSum, k.mSeal with
  | some x, some m =>
    if k.completed || k.timedOut then s
    else if x.failed then writeSummary b x m.bits s
    else if k.placed < shareLen s b then s
    else
      let s1 := writeSummary b x m.bits s
      let (e, calm, fell) := nextScale s1 b x
      let s2 := writeWords (bktNext s1 b) [BitVec.ofNat 64 (wrapNat 8 e ||| calm <<< 8)] s1
      let s3 := k.openers.foldl (fun t (n, p) => postPeg n p 1 4 3 0 t) s2
      let s4 := match k.tag with
        | some tag => freeTag tag s3
        | none => s3
      let s5 := modBkt b (fun k => { k with completed := true, tag := none, timer := none, wins := [], shards := [] }) { s4 with
        rdx := { s4.rdx with
          cntBuckets := satAdd s4.rdx.cntBuckets 1
          cntRelax := if fell then satAdd s4.rdx.cntRelax 1 else s4.rdx.cntRelax } }
      if x.nNan + x.nInf != 0 && !s5.rdx.logged68 then
        rdxFault 0x68 b (self s5) (wordAt (summaryWords x) 2).toNat { s5 with rdx := { s5.rdx with logged68 := true } }
      else s5
  | _, _ => s

/-- Firmware copies the state in force of every bucket that did not complete (09 R215). -/
def copyScales (s : State) : State :=
  (List.range (nBuckets s)).foldl (fun t b =>
    if (bktOf t b).completed then t else writeWords (bktNext t b) [peekWord t (bktCur t b)] (probe (bktCur t b) 8 t)) s

/-! ## BOPEN, BCONTRIB -/

/-- Lowest free tag of the pools open to a stream (09 R196). -/
def pickTag (s : State) (q : Nat) : Option Nat :=
  let free (lo n : Nat) : Option Nat := ((List.range n).map (lo + ·)).find? fun i => s.rdx.tags.getD i none == none
  match free (if q == 1 then 0 else 0x40) 0x40 with
  | some i => some i
  | none => free 0x80 0x80

/-- The stream gets the tag of the bucket. -/
def takeTag (n q b w tag : Nat) (s : State) : State :=
  let i := w >>> 20 % 8
  let o := (n, w >>> 23 % 64)
  let s1 := modBkt b (fun k => { k with
    tag := some tag, openers := if k.openers.contains o then k.openers else k.openers ++ [o] }) (openBkt b s)
  classed (strmNext n q 1 (modStrm n q (fun k => { k with
    treg := k.treg.set i (BitVec.ofNat 8 tag), tval := k.tval ||| BitVec.ofNat 8 (1 <<< i), tagTimer := none, tagDiag := false })
    { s1 with rdx := { s1.rdx with tags := s1.rdx.tags.set tag (some b) } }))

/-- BOPEN (06 R130, 09 R196 to R198). -/
def execBopen (n q : Nat) (w : Word) (s : State) : Res :=
  strmInstr n q 1 w [1, 2] (fun t =>
    let b := field w 19 8
    let k := bktOf t b
    if !bktOurs t b then haltAt n 0 q 0x30 w t
    else if k.completed then haltAt n 0 q 0x62 w t
    else
      match (match k.tag with
        | some i => some i
        | none => pickTag t q) with
      | some i => takeTag n q b w.toNat i t
      | none =>
        let us := if q == 1 then t.rdx.tagwaitBwd else t.rdx.tagwaitUpd
        let held := (strmOf t n q).why == .tag
        strmHold n q .tag (modStrm n q (fun k =>
          if held then k else { k with tagDiag := false, tagTimer := if us == 0 then none else some (1000 * us.toNat) }) t)) s

/-- TAG_WAIT_DIAG (09 R198): the diagnostic is raised once per hold. -/
def execTagWaitDiag (n q : Nat) (s : State) : Res :=
  let k := strmOf s n q
  need (hasStrm s n q) (k.state == .held && k.why == .tag && k.tagTimer == some 0 && !k.tagDiag)
    (rdxEv 0 0x60 (field k.instr 19 8) (self s) 0 (modStrm n q (fun k => { k with tagTimer := none, tagDiag := true })
      { s with rdx := { s.rdx with cntTagwait := satAdd s.rdx.cntTagwait 1 } }))

/-- BCONTRIB (06 R131, 09 R199, R200). -/
def execBcontrib (n q : Nat) (w0 w1 w2 : Word) (s : State) : Res :=
  strmInstr n q 3 w0 [1, 2] (fun t =>
    let k := strmOf t n q
    let i := field w0 10 8
    match (if bit k.tval i then t.rdx.tags.getD (k.treg.getD i 0).toNat none else none) with
    | none => haltAt n 0 q 0x30 w0 t
    | some b =>
      let kb := bktOf t b
      if bktElems t b < field w2 31 0 + field w2 63 32 then haltAt n 0 q 0x30 w0 t
      else if kb.closed then haltAt n 0 q 0x63 w0 t
      else if 4096 ≤ kb.nContrib then haltAt n 0 q 0x61 w0 t
      else if 524288 ≤ t.rdx.clistCount then haltAt n 0 q 0x69 w0 t
      else
        let last := bit w0 11
        let t1 := writeWords (clistAddr t t.rdx.clistCount)
          [BitVec.ofNat 64 (field w1 43 0), w2, BitVec.ofNat 64 (field w0 63 32 ||| b2n last <<< 32), BitVec.ofNat 64 b] t
        let t2 := modBkt b (fun k => { k with
          nContrib := k.nContrib + 1
          nLast := k.nLast + b2n last
          count := k.count + if last then field w0 63 32 else 0 }) { t1 with rdx := { t1.rdx with clistCount := t1.rdx.clistCount + 1 } }
        let t3 := if last && kb.nLast + 1 == bktLocal t b then announceBkt b t2 else t2
        strmNext n q 3 t3) s

end Sys2Proof.Machine
end

