-- ==== Sys2Proof/Machine/Reduce.lean ====
section
/-! DEFINITION. Reduction messages (09): sealing at the root, exact accumulation at the owner, ring hops, escalation, results and
summaries; the collective timeout (10 R237). Messages that arrive before what they build on are held (log entry 27). -/

namespace Sys2Proof.Machine

open Sys2Proof

/-! ## The seal root (09 R195, R203, R204; 11 R256) -/

/-- The step is a replay step at this device (11 R256). -/
def replaying (s : State) : Bool :=
  match s.srun.verify with
  | some (step, _, _) => step == s.cmt.step
  | none => false

/-- Where the replay bitmap table's entry of bucket `b` lies. -/
def entryAddr (s : State) (b : Nat) : Nat := s.snap.rbmpBase.toNat * 64 + b * s.snap.rbmpStride.toNat * 64

/-- Member `i` is in the replay bitmap table's entry of bucket `b`. -/
def inEntry (s : State) (b i : Nat) : Bool := Nat.testBit (natOf (peek s (entryAddr s b + i / 8) 1)) (i % 8)

/-- Members whose poisoned or excluded announcement reached the root before the seal, in ascending order. -/
def droppedOf (s : State) (b : Nat) : List Nat :=
  (List.range (grpN s b)).filter fun i =>
    (bktOf s b).anns.any fun (j, kind, _) => j == i && (kind == .poisoned || kind == .excluded)

/-- The seal that the announcements held give. -/
def sealOf (s : State) (b : Nat) : Seal :=
  let k := bktOf s b
  let ins (i : Nat) : Bool := (!replaying s || inEntry s b i) && k.anns.any fun (j, kind, _) => j == i && kind == .present
  { att := if k.mismatch.isSome then .failed else if bktRing s b then .ring else .direct
    total := ((k.anns.filter fun (j, kind, _) => kind == .present && ins j).map fun (_, _, c) => c).sum
    bits := (List.range (grpN s b)).map ins }

/-- Send FINAL to every member: the summary of Table 9-6 from the shard summaries held. -/
def sendFinal (b : Nat) (s : State) : State :=
  let k := bktOf s b
  let m := k.rootSeal.getD {}
  let ss := k.sums.map (·.2)
  let failed := m.att == .failed
  let drop := droppedOf s b
  let x : Summary := {
    nNan := min ((ss.map (·.nNan)).sum) 0xFFFFFFFF, nInf := min ((ss.map (·.nInf)).sum) 0xFFFFFFFF
    count := m.total % 2 ^ 64, nPresent := (m.bits.filter id).length, nDropped := drop.length
    nfDev := (ss.filterMap (·.nfDev)).min?
    ringUsed := m.att == .ring && !k.escSent, escalated := k.escSent
    warm := ss.any (·.warm), empty := m.total == 0 && !bktSum s b, ovf := ss.any (·.ovf), failed := failed
    eUsed := if bktRing s b then bktE s b else 0, step := s.cmt.step.toNat, bucket := b
    bitmapCrc := crc32c (bitBytes m.bits), firstDrop := drop.head? }
  let body : RedBody := .final x
  (grpDevs s b).foldl (fun t d => sendRed d (redTag t b body false x.warm k.escSent) body t)
    (modBkt b (fun k => { k with finalSent := true }) s)

/-- Word 3 of 0x8A: the loss digest that DEV holds, and the loss_crc of the restored image (11 T11-12). -/
def lossWord (s : State) : Nat :=
  s.snap.lossCrc.toNat ||| (match s.srun.verify with
    | some (_, _, want) => want.toNat
    | none => 0) <<< 32

/-- Member `i` has announced something other than present. -/
def annOther (s : State) (b i : Nat) : Bool := (bktOf s b).anns.any fun (j, kind, _) => j == i && kind != .present

/-- Seal the bucket. -/
def doSeal (b : Nat) (s : State) : State :=
  let x := sealOf s b
  let n := grpN s b
  let parts := (n + 8063) / 8064
  let drop := droppedOf s b
  let s1 := modBkt b (fun k => { k with rootSeal := some x, sealTimer := none }) s
  let s2 := match drop with
    | [] => s1
    | i :: _ => rdxEv 0 0x67 b (grpDev s b i) i { s1 with rdx := { s1.rdx with cntDropped := satAdd s1.rdx.cntDropped drop.length } }
  -- a member of the replay entry that announced other than present (11 R256)
  let s3 := if replaying s then
      ((List.range n).filter fun i => inEntry s b i && annOther s b i).foldl (fun t i =>
        snapEv 0x8A (b2n s.snap.latestSlot) (grpDev s b i) (lossWord s) t) s2
    else s2
  let s4 := (grpDevs s b).foldl (fun t d => (List.range parts).foldl (fun t p =>
    sendB b d (.seal x.total x.att p parts n ((x.bits.drop (8064 * p)).take 8064)) t) t) s3
  if x.att == .failed then sendFinal b s4 else s4

/-- The root may seal: a digest differs, every member has announced, or in a replay every member of the entry. -/
def sealReady (s : State) (b : Nat) : Bool :=
  let k := bktOf s b
  let n := grpN s b
  let announced (i : Nat) : Bool := k.anns.any fun (j, _, _) => j == i
  k.mismatch.isSome || k.anns.length == n || (replaying s && (List.range n).all fun i => !inEntry s b i || announced i)

/-- ANNOUNCE at the root. -/
def onAnnounce (b src : Nat) (kind : AnnKind) (count digest : Nat) (s0 : State) : State :=
  let k := bktOf s0 b
  let s := if replaying s0 && k.anns.isEmpty && bktRoot s0 b then probe (entryAddr s0 b) ((grpN s0 b + 7) / 8) s0 else s0
  match grpIdx s b src with
  | none => stale s
  | some i =>
    if !bktRoot s b then stale s
    else if k.rootSeal.isSome then
      rdxEv 0 0x66 b src 0 { s with rdx := { s.rdx with cntLate := satAdd s.rdx.cntLate 1 } }
    else if k.anns.any fun (j, _, _) => j == i then s
    else
      let timer := if k.anns.isEmpty && s.rdx.sealTmo != 0 && !replaying s then some (1000 * s.rdx.sealTmo.toNat) else k.sealTimer
      let s1 := modBkt b (fun k => { k with
        anns := k.anns ++ [(i, kind, count)], sealTimer := timer
        mismatch := if digest != bktDigest s b then some (src, digest) else k.mismatch }) s
      if sealReady s1 b then doSeal b s1 else s1

/-! ## Exact accumulation (09 T9-5, R208, R210) -/

/-- Add an FP32 value to an accumulator. -/
def Acc.add (c : Acc) (x : W32) : Acc :=
  match fp32.decode x.toNat with
  | .nan => { c with nan := true }
  | .inf neg => if neg then { c with ninf := true } else { c with pinf := true }
  | .fin neg m e => { c with a := c.a + BitVec.ofInt 320 (sigAt neg m e (-149)) }

/-- The FP32 pattern of `x * 2^e / n` rounded once, and whether it overflowed (09 R210 cases 3 and 4). -/
def quotient (x : Int) (e : Int) (n : Nat) : Nat × Bool :=
  if n == 0 then (0, false)
  else
    let (v, f) := fp32.conv .rne false ((Fp.fin (x < 0) x.natAbs e).div (.fin false n 0))
    (v, f.ovf)

/-- Result of an element: its pattern and whether it overflowed (09 R210). -/
def Acc.result (c : Acc) (n : Nat) : Nat × Bool :=
  if c.nan || (c.pinf && c.ninf) then (0x7FC00000, false)
  else if c.pinf then (0x7F800000, false)
  else if c.ninf then (0xFF800000, false)
  else quotient c.a.toInt (-149) n

/-- The divisor: the seal's total count, or 1 where the bucket's result is the sum. -/
def divisor (s : State) (b : Nat) : Nat :=
  if bktSum s b then 1 else ((bktOf s b).mSeal.getD {}).total

/-- Results counted into a shard's part of the summary. -/
def countResults (x : Summary) (rs : List (Nat × Bool)) : Summary :=
  let isNan (v : Nat) : Bool := (fp32.decode v).isNan
  let isInf (v : Nat) : Bool := (fp32.decode v).isInf
  { x with
    nNan := x.nNan + (rs.filter fun r => isNan r.1).length
    nInf := x.nInf + (rs.filter fun r => isInf r.1).length
    ovf := x.ovf || rs.any (·.2) }

/-- The state of a shard at its owner. -/
def shardOf (k : Bkt) (j : Nat) : ShardSt := (k.shards.find? (·.shard == j)).getD { shard := j }

def modShard (b j : Nat) (f : ShardSt → ShardSt) (s : State) : State :=
  modBkt b (fun k => { k with shards := (k.shards.filter (·.shard != j)) ++ [f (shardOf k j)] }) s

/-- Place a run of results in the device's share. -/
def placeRun (b off : Nat) (vs : List W32) (s : State) : State :=
  modBkt b (fun k => { k with placed := k.placed + vs.length })
    (writeMem .unit (shareAddr s b off) (bytesOfW32s vs) s)

/-- A shard's results are final at its owner (09 R211): its own share, RESULT to the others, SHARD_SUM to the root. -/
def shardDone (b j : Nat) (vs : List W32) (x : Summary) (s : State) : State :=
  let lo := shardLo s b j
  let s1 := placeRun b lo vs (modShard b j (fun h => { h with done := true, res := [] }) s)
  let s2 := { s1 with rdx := { s1.rdx with cntNonfinite := satAdd s1.rdx.cntNonfinite (x.nNan + x.nInf) } }
  let s3 := if bktDlv s b then
      ((grpDevs s b).filter (· != self s)).foldl (fun t d =>
        (runsOf (vs.length + 1) lo vs).foldl (fun t (o, r) => sendB b d (.result o r) t) t) s2
    else s2
  let body : RedBody := .shardSum j { x with nNan := min x.nNan 0xFFFFFFFF, nInf := min x.nInf 0xFFFFFFFF }
  tryComplete b (sendRed (grpDev s b 0) (redTag s3 b body false x.warm (bktOf s3 b).rerun) body s3)

/-- Insert a run before the first of a higher offset. -/
def insertRun (r : Nat × List W32) : List (Nat × List W32) → List (Nat × List W32)
  | [] => [r]
  | x :: xs => if r.1 ≤ x.1 then r :: x :: xs else x :: insertRun r xs

/-- Runs held in ascending order of their offsets, joined. -/
def joinRuns (runs : List (Nat × List W32)) : List W32 := (runs.foldr insertRun []).flatMap (·.2)

/-! ## Windows (09 R209) -/

/-- Devices in the seal's bitmap. -/
def sealedIn (s : State) (b : Nat) : List Nat :=
  match (bktOf s b).mSeal with
  | some m => (List.range (grpN s b)).filter fun i => m.bits.getD i false
  | none => []

/-- The window holds DATA_END from every sealed-in member, and the DATA that they state. -/
def winFull (s : State) (b : Nat) (w : Window) : Bool :=
  (sealedIn s b).all fun i => match w.ends.find? (·.1 == i) with
    | some (_, n) => (w.got.filter (· == i)).length == n
    | none => false

/-- Round a full window; with the last window of its shard the shard is done. -/
def closeWin (b : Nat) (w : Window) (s : State) : State :=
  let rs := w.accs.map fun c => c.result (divisor s b)
  let vs := rs.map fun r => BitVec.ofNat 32 r.1
  let s1 := modShard b w.shard (fun h =>
    let x := countResults h.sum rs
    { h with
      res := h.res ++ [(winLo s b w.shard w.idx, vs)]
      sum := { x with nfDev := ([x.nfDev, w.nf].filterMap id).min? } })
    (modBkt b (fun k => { k with wins := k.wins.filter fun v => !(v.shard == w.shard && v.idx == w.idx) }) s)
  let h := shardOf (bktOf s1 b) w.shard
  if h.res.length == nWins s b w.shard then shardDone b w.shard (joinRuns h.res) h.sum s1 else s1

/-- The bucket runs a direct attempt here. -/
def directLive (k : Bkt) : Bool :=
  !k.completed && !k.timedOut && match k.mSeal with
    | some m => m.att == .direct || (m.att == .ring && k.rerun)
    | none => false

/-- The next window that reduction unit `u` opens. -/
def nextWin (s : State) (u : Nat) : Option (Nat × Nat × Nat) :=
  s.rdx.bkts.findSome? fun k =>
    if k.id % 4 == u && directLive k then
      (myShards s k.id).findSome? fun j =>
        let o := (shardOf k j).opened
        if o < nWins s k.id j then some (k.id, j, o) else none
    else none

/-- Windows open in unit `u`. -/
def openWins (s : State) (u : Nat) : Nat := ((s.rdx.bkts.filter fun k => k.id % 4 == u).map fun k => k.wins.length).sum

/-- Open windows of unit `u`, at most two at a time. A window with no sealed-in member closes at once. -/
def openGo (u : Nat) : Nat → State → State
  | 0, s => s
  | fuel + 1, s =>
    if 2 ≤ openWins s u then s
    else
      match nextWin s u with
      | none => s
      | some (b, j, o) =>
        let w : Window := { shard := j, idx := o, accs := List.replicate (winHi s b j o - winLo s b j o) {} }
        let s1 := modBkt b (fun k => { k with wins := k.wins ++ [w] }) (modShard b j (fun h => { h with opened := o + 1 }) s)
        let s2 := (sealedIn s b).foldl (fun t i => sendB b (grpDev s b i) (.grant j o) t) s1
        openGo u fuel (if winFull s2 b w then closeWin b w s2 else s2)

/-- Open what unit `u` may open: at most every window of every bucket. -/
def openUnit (u : Nat) (s : State) : State :=
  openGo u ((s.rdx.bkts.map fun k => ((myShards s k.id).map fun j => nWins s k.id j).sum).sum + 1) s

/-- A window may have become full. -/
def checkWin (b j w : Nat) (s : State) : State :=
  match (bktOf s b).wins.find? fun v => v.shard == j && v.idx == w with
  | some v => if winFull s b v then openUnit (b % 4) (closeWin b v s) else s
  | none => s

/-- GRANT at a sealed-in member: its contributions to the window, each as its own value. -/
def onGrant (b src j w : Nat) (s : State) : State :=
  let (s1, runs) := contribVals b (winLo s b j w) (winHi s b j w) s
  let msgs := runs.flatMap fun (o, vs) => runsOf (vs.length + 1) o vs
  sendB b src (.dataEnd j w msgs.length) (msgs.foldl (fun t (o, vs) => sendB b src (.data o j w vs) t) s1)

/-- DATA at the owner. -/
def onData (b src off j w : Nat) (vs : List W32) (s : State) : State :=
  match (bktOf s b).wins.find? (fun v => v.shard == j && v.idx == w), grpIdx s b src with
  | some _, some i =>
    let bad := vs.any fun v => field v 30 23 == 255
    checkWin b j w (modBkt b (fun k => { k with wins := k.wins.map fun v =>
      if v.shard == j && v.idx == w then
        { v with
          accs := v.accs.zipIdx.map fun (c, e) =>
            let a := winLo s b j w + e
            if off ≤ a && a < off + vs.length then c.add (vs.getD (a - off) 0) else c
          got := v.got ++ [i]
          nf := if bad then ([v.nf, some src].filterMap id).min? else v.nf }
      else v }) s)
  | _, _ => stale s

/-- DATA_END at the owner. -/
def onDataEnd (b src j w sent : Nat) (s : State) : State :=
  match (bktOf s b).wins.find? (fun v => v.shard == j && v.idx == w), grpIdx s b src with
  | some _, some i =>
    checkWin b j w (modBkt b (fun k => { k with wins := k.wins.map fun v =>
      if v.shard == j && v.idx == w then { v with ends := v.ends ++ [(i, sent)] } else v }) s)
  | _, _ => stale s

/-! ## Ring (09 R212, R213) -/

/-- Workspace word of an element. -/
def workAddr (s : State) (b e : Nat) : Nat := field (bktWord s b 7) 43 0 + 8 * e

/-- Sealed in. -/
def amSealedIn (s : State) (b : Nat) : Bool := ((bktOf s b).mSeal.getD {}).bits.getD (grpSelf s b) false

/-- A member that sets escalate sends ESC to the root at once, once. -/
def hopEsc (b : Nat) (s : State) : State :=
  if (bktOf s b).entryEsc then s
  else
    let body : RedBody := .esc
    sendRed (grpDev s b 0) (redTag s b body true false false) body (modBkt b (fun k => { k with entryEsc := true }) s)

/-- Fold the member's contributions into its workspace; the tests act on the final sums. -/
def ringFold (b : Nat) (s : State) : State :=
  if !amSealedIn s b then s
  else
    let (s1, runs) := contribVals b 0 (bktElems s b) s
    let e := bktE s b
    let (ls, bad) := runs.foldl (fun (ls, bad) (o, vs) => vs.zipIdx.foldl (fun (ls, bad) (v, i) =>
      match fp32.decode v.toNat with
      | .fin neg m x =>
        let q := roundAt .rne m (x - e) 0
        if q < 2 ^ 30 then (ls.modify (o + i) fun l => if neg then l - (q : Int) else l + q, bad) else (ls, true)
      | _ => (ls, true)) (ls, bad)) (List.replicate (bktElems s b) (0 : Int), false)
    let s2 := writeMem .unit (workAddr s1 b 0) (ls.flatMap fun l => bytesOf 8 (wrapNat 64 l)) s1
    let s3 := if ls.any fun l => 2 ^ 26 ≤ l.natAbs then modBkt b (fun k => { k with entryWarm := true }) s2 else s2
    if bad || ls.any fun l => 2 ^ 30 ≤ l.natAbs then hopEsc b s3 else s3

/-- The owner of shard `j` receives the sums of a run of elements (09 R213). -/
def ringOwner (b j off : Nat) (ps : List Int) (esc warm : Bool) (s : State) : State :=
  let s1 := modShard b j (fun h => { h with
    res := h.res ++ [(off, ps.map fun p => BitVec.ofInt 32 p)]
    sum := { h.sum with warm := h.sum.warm || warm, escalated := h.sum.escalated || esc } }) s
  let h := shardOf (bktOf s1 b) j
  let vs := joinRuns h.res
  if vs.length < shardHi s b j - shardLo s b j then s1
  else if h.sum.escalated then
    let body : RedBody := .shardSum j h.sum
    sendRed (grpDev s b 0) (redTag s1 b body true h.sum.warm false) body s1
  else
    let rs := vs.map fun v => quotient v.toInt (bktE s b) (divisor s b)
    shardDone b j (rs.map fun r => BitVec.ofNat 32 r.1) (countResults h.sum rs) s1

/-- One hop of a run of partials: add the own L, check, forward or finish. -/
def ringHop (b off : Nat) (ps : List Int) (esc warm : Bool) (s : State) : State :=
  let (s1, ls) := if amSealedIn s b then
      let (t, bs) := unitRead (workAddr s b off) (8 * ps.length) s
      (t, (wordsOf bs).map (·.toInt))
    else (s, List.replicate ps.length (0 : Int))
  let qs := ps.zipWith (· + ·) ls
  let high := qs.any fun p => 2 ^ 30 ≤ p.natAbs
  let s2 := if high then hopEsc b s1 else s1
  let k := bktOf s2 b
  let esc' := esc || k.entryEsc
  let warm' := warm || k.entryWarm || qs.any fun p => 2 ^ 26 ≤ p.natAbs && p.natAbs < 2 ^ 30
  let j := off / bktShard s b
  if shardOwner s b j == grpSelf s b then ringOwner b j off qs esc' warm' s2
  else
    let next := grpDev s b ((grpSelf s b + 1) % grpN s b)
    (runsOf (qs.length + 1) off (qs.map fun p => BitVec.ofInt 32 p)).foldl (fun t (o, vs) =>
      let body : RedBody := .ring o vs
      sendRed next (redTag t b body esc' warm' false) body t) s2

/-- Start the ring attempt: fold, and begin the runs of the shards whose owner comes before this member. -/
def ringStart (b : Nat) (s : State) : State :=
  ((List.range (nShards s b)).filter fun j => (shardOwner s b j + 1) % grpN s b == grpSelf s b).foldl (fun t j =>
    ringHop b (shardLo t b j) (List.replicate (shardHi t b j - shardLo t b j) 0) false false t) (ringFold b s)

/-! ## Seal and escalation at a member (09 R202, R203, R214) -/

/-- The device holds the whole seal of the bucket. -/
def gotSeal (b : Nat) (x : Seal) (s : State) : State :=
  let s1 := sealedOut b (modBkt b (fun k => { k with mSeal := some x, parts := [] }) s)
  match x.att with
  | .failed =>
    let (d, g) := ((bktOf s b).mismatch).getD (self s, bktDigest s b)
    tryComplete b (rdxFault 0x64 b d g s1)
  | .ring => tryComplete b (ringStart b s1)
  | .direct => tryComplete b (openUnit (b % 4) s1)

/-- A part of the seal arrives. -/
def onSeal (b src total : Nat) (att : Attempt) (part : Nat) (bits : List Bool) (s : State) : State :=
  let k := bktOf s b
  let parts := (grpN s b + 8063) / 8064
  if src != grpDev s b 0 then stale s
  else if k.mSeal.isSome || k.parts.any (·.1 == part) then s
  else
    let ps := k.parts ++ [(part, bits)]
    let s1 := modBkt b (fun k => { k with parts := ps }) s
    if ps.length < parts then s1
    else
      gotSeal b { att := att, total := total, bits := (List.range parts).flatMap fun p =>
        match ps.find? (·.1 == p) with
        | some (_, x) => x
        | none => [] } s1

/-- The root tells every member to escalate (09 R214). -/
def rootEsc (b : Nat) (s : State) : State :=
  if (bktOf s b).escSent then s
  else
    let body : RedBody := .esc
    (grpDevs s b).foldl (fun t d => sendRed d (redTag t b body true false true) body t)
      (modBkt b (fun k => { k with escSent := true, sums := [] }) { s with rdx := { s.rdx with cntEsc := satAdd s.rdx.cntEsc 1 } })

/-- A member abandons the ring attempt and runs the bucket in direct mode under the same seal (09 R214). -/
def escalate (b : Nat) (s : State) : State :=
  openUnit (b % 4) (rdxEv 0 0x65 b (self s) 0 (modBkt b (fun k => { k with
    rerun := true, placed := 0, wins := [], shards := [] }) s))

/-- ESC: from a hop at the root, from the root at a member. -/
def onEsc (b src : Nat) (tag : Word) (s : State) : State :=
  if bktRoot s b && !bit tag 33 then rootEsc b s
  else if src != grpDev s b 0 then stale s
  else if (bktOf s b).rerun then s
  else escalate b s

/-! ## Results and summaries at root and members (09 R211) -/

/-- SHARD_SUM at the root. -/
def onShardSum (b : Nat) (tag : Word) (j : Nat) (x : Summary) (s : State) : State :=
  let k := bktOf s b
  if !bktRoot s b then stale s
  else if bit tag 31 then rootEsc b s
  else if k.escSent && !bit tag 33 then stale s
  else if k.finalSent || k.sums.any (·.1 == j) then s
  else
    let s1 := modBkt b (fun k => { k with sums := k.sums ++ [(j, x)] }) s
    if k.sums.length + 1 == nShards s b then sendFinal b s1 else s1

/-- RESULT at a member. -/
def onResult (b off : Nat) (vs : List W32) (s : State) : State := tryComplete b (placeRun b off vs s)

/-- FINAL at a member. -/
def onFinal (b src : Nat) (x : Summary) (s : State) : State :=
  if src != grpDev s b 0 then stale s else tryComplete b (modBkt b (fun k => { k with finalSum := some x }) s)

/-! ## What every message passes (09 R206, R207; 10 R237) -/

/-- The message's fields are in range for its bucket (09 R207). -/
def redOk (s : State) (b src : Nat) (body : RedBody) : Bool :=
  let n := grpN s b
  let run (vs : List W32) : Bool := 1 ≤ vs.length && vs.length ≤ 252
  bktOurs s b && match body with
    | .announce _ _ _ | .esc | .final _ => true
    | .seal _ _ p ps m bits =>
      m == n && ps == (n + 8063) / 8064 && p < ps && bits.length == min 8064 (n - 8064 * p)
    | .grant j w => j < nShards s b && w < nWins s b j && grpDev s b (shardOwner s b j) == src
    | .data o j w vs =>
      run vs && j < nShards s b && w < nWins s b j && winLo s b j w ≤ o && o + vs.length ≤ winHi s b j w
    | .dataEnd j w _ => j < nShards s b && w < nWins s b j
    | .ring o vs => run vs && o < bktElems s b && o + vs.length ≤ shardHi s b (o / bktShard s b)
    | .result o vs =>
      run vs && bktDlv s b && o < bktElems s b && o + vs.length ≤ shardHi s b (o / bktShard s b) &&
        grpDev s b (shardOwner s b (o / bktShard s b)) == src
    | .shardSum j _ => j < nShards s b
    | .record _ _ _ => false

/-- The message needs the seal, or the escalation, that this device does not hold yet. -/
def mustWait (s : State) (b : Nat) (tag : Word) (body : RedBody) : Bool :=
  let k := bktOf s b
  match body with
  | .announce _ _ _ | .seal _ _ _ _ _ _ => false
  | .esc => k.mSeal.isNone && !(bktRoot s b && !bit tag 33)
  | .ring _ _ => k.mSeal.isNone
  | _ => bktRing s b && bit tag 33 && !k.rerun

/-- What a message does. -/
def redMsg (b : Nat) (tag : Word) (body : RedBody) (s : State) : State :=
  let k := bktOf s b
  let src := field tag 25 12
  if bit tag 30 && !bit tag 33 && k.rerun then stale s
  else
    match body with
    | .announce kind count digest => onAnnounce b src kind count digest s
    | .seal total att part _ _ bits => onSeal b src total att part bits s
    | .grant j w => onGrant b src j w s
    | .data o j w vs => onData b src o j w vs s
    | .dataEnd j w n => onDataEnd b src j w n s
    | .ring o vs => ringHop b o (vs.map (·.toInt)) (bit tag 31) (bit tag 32) s
    | .esc => onEsc b src tag s
    | .result o vs => onResult b o vs s
    | .shardSum j x => onShardSum b tag j x s
    | .final x => onFinal b src x s
    | .record _ _ _ => s

/-- Messages whose wait has ended act in the order in which they came. -/
def drainWait (b : Nat) : Nat → State → State
  | 0, s => s
  | fuel + 1, s =>
    match (bktOf s b).waiting.find? fun (tag, body) => !mustWait s b tag body with
    | none => s
    | some (tag, body) =>
      drainWait b fuel (ackRed tag body (redMsg b tag body (modBkt b (fun k => { k with waiting := k.waiting.erase (tag, body) }) s)))

/-- A message of a bucket that its collective timeout has closed (10 R237). -/
def lateData (b src : Nat) (s : State) : State :=
  let s1 := { s with cmt := { s.cmt with cntLate := satAdd s.cmt.cntLate 1 } }
  if (bktOf s b).lateLogged then s1
  else cmtEv 0 0x7C src b 0 (modBkt b (fun k => { k with lateLogged := true }) s1)

/-- A reduction message of a bucket arrives. -/
def bktMsg (tag : Word) (body : RedBody) (s : State) : State :=
  let b := field tag 11 0
  redIn tag body (redOk s b (field tag 25 12) body) (fun t =>
    let t1 := openBkt b t
    let k := bktOf t1 b
    settle (
      if k.timedOut then ackRed tag body (lateData b (field tag 25 12) t1)
      else if k.completed && body.kind != 0 then ackRed tag body t1
      else if mustWait t1 b tag body then modBkt b (fun k => { k with waiting := k.waiting ++ [(tag, body)] }) t1
      else
        let t2 := ackRed tag body (redMsg b tag body t1)
        drainWait b (bktOf t2 b).waiting.length t2)) s

/-! ## The rows -/

/-- ANNOUNCE (09 R203, R204, R195). -/
def execAnnounce (tag : Word) (kind : AnnKind) (count digest : Nat) (s : State) : Res :=
  always (bktMsg tag (.announce kind count digest) s)

/-- SEAL_DEADLINE (09 R203). -/
def execSealDeadline (b : Nat) (s : State) : Res :=
  need true ((bktOf s b).sealTimer == some 0 && (bktOf s b).rootSeal.isNone) (settle (doSeal b s))

/-- SEAL (09 R203, R207). -/
def execSeal (tag : Word) (total : Nat) (att : Attempt) (part parts members : Nat) (bits : List Bool) (s : State) : Res :=
  always (bktMsg tag (.seal total att part parts members bits) s)

/-- GRANT (09 R209 step 2). -/
def execGrant (tag : Word) (j w : Nat) (s : State) : Res := always (bktMsg tag (.grant j w) s)

/-- DATA (09 R208). -/
def execData (tag : Word) (off j w : Nat) (vs : List W32) (s : State) : Res := always (bktMsg tag (.data off j w vs) s)

/-- DATA_END (09 R209 step 3). -/
def execDataEnd (tag : Word) (j w sent : Nat) (s : State) : Res := always (bktMsg tag (.dataEnd j w sent) s)

/-- RING (09 R213). -/
def execRing (tag : Word) (off : Nat) (vs : List W32) (s : State) : Res := always (bktMsg tag (.ring off vs) s)

/-- ESC (09 R214). -/
def execEsc (tag : Word) (s : State) : Res := always (bktMsg tag .esc s)

/-- RESULT (09 R211). -/
def execResult (tag : Word) (off : Nat) (vs : List W32) (s : State) : Res := always (bktMsg tag (.result off vs) s)

/-- SHARD_SUM (09 R211, R214). -/
def execShardSum (tag : Word) (j : Nat) (x : Summary) (s : State) : Res := always (bktMsg tag (.shardSum j x) s)

/-- FINAL (09 R211). -/
def execFinal (tag : Word) (x : Summary) (s : State) : Res := always (bktMsg tag (.final x) s)

/-- The child whose up-record is missing, or the parent (10 R237). -/
def missingRecord (s : State) : Nat :=
  ((children s).filter fun c => (s.gov.up.filter fun (k, _, _) => k == c).length != 2 * nLayers s).min?.getD s.cmt.parent.toNat

/-- COLLECTIVE_TIMEOUT (10 R237), of a bucket or of the record exchange. -/
def execCollectiveTimeout (b : Option Nat) (s : State) : Res :=
  match b with
  | some b =>
    let k := bktOf s b
    need true (k.timer == some 0 && !k.completed && !k.timedOut)
      (settle (cmtFault 0x73 (self s) b 0
        (modBkt b (fun k => { k with timedOut := true, timer := none, wins := [], waiting := [] }) (ackAll k.waiting s))))
  | none =>
    need true (s.gov.exchTimer == some 0 && !s.gov.exchDone)
      (settle (cmtFault 0x73 (missingRecord s) 0 1 { s with gov := { s.gov with exchTimer := none } }))

end Sys2Proof.Machine
end

