-- ==== Sys2Proof/Machine/Link.lean ====
section
/-! DEFINITION. ScavenLink (13): flits, replay, lanes, link states, credits, transactions at their destination and their ends at the
originator, transit, the routing table. Log entries 18, 28 and 29. -/

namespace Sys2Proof.Machine

open Sys2Proof

/-- Log a link or time event (13 T13-10). -/
def lnkEv (cause l dev w3 : Nat) (s : State) : State :=
  logEv 5 0 cause (l <<< 8 ||| dev <<< 13) (if jobLoaded s then s.cmt.step.toNat else 0) w3 s

/-! ## Lanes (13 R261) -/

/-- The active lanes, ascending. -/
def activeLanes (lanes : BitVec 8) : List Nat := (List.range 8).filter fun i => lanes.getLsbD i

/-- The lane that carries byte `i` of a flit: the bytes are striped over the active lanes. -/
def byteLane (lanes : BitVec 8) (i : Nat) : Nat := (activeLanes lanes).getD (i % (activeLanes lanes).length) 0

/-! ## Decoding of a flit (13 R262) -/

/-- Bytes of a flit on the wire: 240 data bytes, then the check bytes of the two codewords. -/
def flitBytes : Nat := 256

/-- The codeword of byte `i`; the check bytes are taken as interleaved like the data (log entry 71). -/
def codeword (i : Nat) : Nat := i % 2

/-- The bytes of a codeword that arrived in error. -/
def fecErrs (fec : Fec) (c : Nat) : List Nat :=
  (List.range flitBytes).filter fun i => codeword i == c && fec.errs.contains i

/-- A codeword can be corrected: at most 4 byte errors. -/
def fecWordOk (fec : Fec) (c : Nat) : Bool := (fecErrs fec c).length ≤ 4

/-- The bytes that the decoder corrects. -/
def fecFixed (fec : Fec) : List Nat :=
  [0, 1].flatMap fun c => if fecWordOk fec c then fecErrs fec c else []

/-- The flit is kept: both codewords corrected, and the CRC holds. -/
def fecGood (fec : Fec) : Bool := fecWordOk fec 0 && fecWordOk fec 1 && fec.crcOk

/-! ## Transmitter (13 R262 to R264, R267) -/

/-- Receive buffer of a channel in slots (13 T13-3). -/
def vcBuf : Nat → Nat
  | 0 => 64
  | 1 => 256
  | _ => 2048

/-- Credits for all slots of a transaction are held. -/
def startable (k : Link) (t : Txn) : Bool := k.crOut.getD (txnVc t) 0 + 1 + txnSlots t ≤ vcBuf (txnVc t)

/-- The next transaction of a channel: channel 2 takes its sources in turn. -/
def nextOn (k : Link) (v : Nat) : Option Txn :=
  let q := k.txq.filter fun t => txnVc t == v
  if v == 2 then
    let next (p : Nat → Bool) : Option Nat := ((q.map (·.src)).filter p).min?
    match (match next (k.rrSrc < ·) with
      | some x => some x
      | none => next fun _ => true) with
    | some x => q.find? (·.src == x)
    | none => none
  else q.head?

/-- The transaction that starts next: strict priority of the channels. -/
def nextTxn (k : Link) : Option Txn :=
  (List.range 4).findSome? fun v => (nextOn k v).bind fun t => if startable k t then some t else none

/-- Start transactions until a flit is full, as far as the throttle gate at the bridge admits them (01 R17). -/
def Link.fill (gate : Nat) : Nat → Link → Link
  | 0, k => k
  | fuel + 1, k =>
    if 14 ≤ k.txSlots.length || gate ≤ k.gateUsed then k
    else
      match nextTxn k with
      | none => k
      | some t =>
        let n := txnSlots t
        Link.fill gate fuel { k with
          txq := k.txq.erase t, gateUsed := k.gateUsed + 1
          txSlots := k.txSlots ++ Slot.head t :: List.replicate n Slot.body
          sent := k.sent ++ [(t, none)]
          rrSrc := if txnVc t == 2 then t.src else k.rrSrc
          crOut := k.crOut.modify (txnVc t) (· + 1 + n)
          cntTxBytes := satAdd k.cntTxBytes (16 + 16 * n) }

def Slot.isHead : Slot → Bool
  | .head _ => true
  | _ => false

def Slot.isBody : Slot → Bool
  | .body => true
  | _ => false

/-- Lanes in use of a width code (13 T13-8). -/
def lanesOf : Nat → BitVec 8
  | 1 => 0xFF
  | 2 => 0x0F
  | 3 => 0xF0
  | _ => 0

/-- A flit of this end: acknowledgement, and the credits of one pair of channels. -/
def Link.mk' (k : Link) (seq : Nat) (slots : List Slot) (nak : Bool) : Flit :=
  let v := if k.owe == 2 then 0 else 2
  { seq := seq, ackSeq := (k.rxNext + 4095) % 4096, ackValid := k.rxAny, nak := nak
    crVc := v, crSlots := k.crFreed.getD v 0, crVc2 := v + 1, crSlots2 := k.crFreed.getD (v + 1) 0
    lanes := lanesOf k.width.toNat, first := (slots.findIdx? Slot.isHead).getD 15, slots := slots }

/-- Arm the acknowledgement timer for the oldest unacknowledged flit, from the time at which it was sent (13 R263). -/
def Link.armAck (ackTmo : Nat) (k : Link) : Link :=
  { k with ackTimer := k.sentAt.head?.map fun t => ackTmo - (k.clk - t) }

/-- Send one flit where there is something to send: a data flit, else an idle flit for what is owed. -/
def pump (ackTmo l : Nat) (s : State) : State :=
  if !linkUp s l then s
  else
    let k := (linkOf s l).fill (linkGate s) 14
    if !k.txSlots.isEmpty && k.replayBuf.length < 256 then
      let now := k.txSlots.take 14
      let rest := k.txSlots.drop 14
      let fl := k.mk' k.txSeq (now ++ List.replicate (14 - now.length) Slot.empty) false
      -- transactions of which slots remain
      let left := (rest.filter Slot.isHead).length + b2n ((rest.head?.map Slot.isBody).getD false)
      let n := k.sent.length
      let k1 := { k with
        txSlots := rest, txSeq := (k.txSeq + 1) % 4096, replayBuf := k.replayBuf ++ [fl], sentAt := k.sentAt ++ [k.clk]
        owe := k.owe - 1
        sent := k.sent.zipIdx.map fun (x : (Txn × Option Nat) × Nat) =>
          (x.1.1, if x.1.2.isNone && x.2 + left < n then some k.txSeq else x.1.2)
        cntTxFlits := satAdd k.cntTxFlits 1 }
      emit (.flit l fl) (modLink l (fun _ => k1.armAck ackTmo) s)
    else if k.owe != 0 then
      emit (.idleFlit l (k.mk' 0 [] false)) (modLink l (fun _ => { k with owe := k.owe - 1 }) s)
    else s

/-! ## Links that leave service (13 R264, R266) -/

/-- What training begins with: nothing in flight, counts from zero. -/
def Link.clear (k : Link) : Link :=
  { k with
    txSeq := 0, replayBuf := [], sentAt := [], laneCorr := List.replicate 8 0, txq := [], txSlots := [], sent := [], epSeq := none, epTimer := none, epReplays := 0
    ackTimer := none, rpTimer := none, owe := 0, crOut := [0, 0, 0, 0], crLast := [0, 0, 0, 0], rxNext := 0, rxAny := false
    asm := none, rxq := [], crFreed := [0, 0, 0, 0], timeTimer := none, t1 := none, reqArrival := none
    willing := false, peerWilling := false }

/-- An outstanding transaction ends without acknowledgement (13 R271). -/
def lostTid (cause tid : Nat) (s : State) : State :=
  match s.lnk.txns.find? fun x => x.txn.tid == tid with
  | none => s
  | some x =>
    txFailed x (lostEv cause x.txn { s with lnk := { s.lnk with txns := s.lnk.txns.filter fun y => y.txn.tid != tid } })

/-- A transaction that has not started on a hop takes its route again (13 R273). -/
def reroute (t : Txn) (s : State) : State :=
  match s.lnk.txns.find? fun x => t.src == self s && x.txn.tid == t.tid && x.txn == t with
  | some x =>
    let s1 := { s with lnk := { s.lnk with txns := s.lnk.txns.filter fun y => y.txn.tid != t.tid } }
    (sendTxn t.dst t.body x.owner s1).1
  | none =>
    match routeLink s t.dst with
    | some l => modLink l (fun k => { k with txq := k.txq ++ [t] }) s
    | none =>
      let s1 := { s with lnk := { s.lnk with cntUnroutable := satAdd s.lnk.cntUnroutable 1 } }
      if txnVc t == 1 then s1 else sendReply t.src (.nack t.tid 0) s1

/-- The transactions in flight on a link are lost, and those that have not started go elsewhere. -/
def loseTxns (l : Nat) (f : Link → Link) (s : State) : State :=
  let k := linkOf s l
  let s1 := modLink l (fun k => f k.clear) s
  let s2 := (k.sent.filter fun (t, _) => t.src == self s && txnVc t != 1).foldl (fun t (x, _) => lostTid 0x95 x.tid t) s1
  settle (unhold (k.txq.foldl (fun t x => reroute x t) s2))

/-- The link goes down; every case but exhaustion logs cause 0x93. -/
def goDown (l : Nat) (ev : Bool) (s : State) : State :=
  let s1 := if ev then lnkEv 0x93 l (linkOf s l).peerDev.toNat 0 s else s
  loseTxns l (fun k => { k with state := .down, width := 0, trainTimer := some 100000000 }) s1

/-- Transactions that have not started on a hop choose again where their link is no longer the one to take: the choice is the one at
their start (13 R273). -/
def rechoose (s : State) : State :=
  (List.range 32).foldl (fun t l =>
    ((linkOf t l).txq.filter fun x => routeLink t x.dst != some l).foldl (fun u x =>
      reroute x (modLink l (fun k => { k with txq := k.txq.erase x }) u)) t) s

/-- Both ends are willing: the link is in service (13 R266). -/
def inService (l : Nat) (s : State) : State :=
  let k := linkOf s l
  if k.state == .ready && k.willing && k.peerWilling then
    unhold (rechoose (lnkEv 0x90 l k.peerDev.toNat 0 (modLink l (fun k => { k with state := .up, timeTimer := some 125000 }) s)))
  else s

/-- Send a link-control flit: its header carries acknowledgement and credits (13 R262). -/
def sendCtl (l : Nat) (c : LinkCtl) (s : State) : State := emit (.linkCtl l ((linkOf s l).mk' 0 [] false) c) s

/-- This end becomes willing and tells the peer. -/
def becomeWilling (l : Nat) (s : State) : State :=
  if (linkOf s l).state == .ready && !(linkOf s l).willing then
    inService l (sendCtl l (.willing true) (modLink l (fun k => { k with willing := true }) s))
  else s

/-- Start training; only with a valid identifier (13 R266). -/
def train (l : Nat) (s : State) : State :=
  if s.lnk.devValid then loseTxns l (fun k => { k with state := .training, width := 0, trainTimer := none }) s else s

/-! ## Replay (13 R263, R264) -/

/-- The replays are exhausted. -/
def exhaust (l : Nat) (s : State) : State :=
  let k := linkOf s l
  goDown l false (lnkEv 0x92 l k.peerDev.toNat (k.epSeq.getD 0)
    (modLink l (fun k => { k with cntExhaust := satAdd k.cntExhaust 1 }) s))

/-- Replay from the oldest unacknowledged flit, unless a replay is under way; a 17th ends the episode. -/
def replay (l : Nat) (s : State) : State :=
  let k := linkOf s l
  match k.replayBuf with
  | [] => s
  | fl :: _ =>
    if k.rpTimer.isSome then modLink l (fun k => { k with ackTimer := some s.lnk.ackTmo.toNat }) s
    else if k.epReplays == 16 then exhaust l s
    else
      let s1 := modLink l (fun k => { k with
        epSeq := some (k.epSeq.getD fl.seq), epReplays := k.epReplays + 1
        epTimer := if k.epSeq.isSome then k.epTimer else some 32000
        ackTimer := some s.lnk.ackTmo.toNat, sentAt := k.sentAt.map fun _ => k.clk, disturbed := some 1000000
        rpTimer := some (k.replayBuf.length * (if k.width == 1 then 2 else 4))
        cntReplay := satAdd k.cntReplay 1, cntTxFlits := satAdd k.cntTxFlits k.replayBuf.length }) s
      k.replayBuf.foldl (fun t f => emit (.flit l f) t) s1

/-! ## Receiver -/

/-- A sequence number is covered by an acknowledgement. -/
def covered (seq ack : Nat) : Bool := (ack + 4096 - seq) % 4096 < 2048

/-- Slots freed since the last count of a channel (13 R267). -/
def creditIn (v c : Nat) (k : Link) : Link :=
  let d := (c + 4096 - k.crLast.getD v 0) % 4096
  { k with crOut := k.crOut.modify v (· - d), crLast := k.crLast.set v c }

/-- Acknowledgement, credits and NAK that a good flit of any kind carries. -/
def headerIn (l : Nat) (fl : Flit) (s : State) : State :=
  let s1 := modLink l (fun k =>
    let k1 := creditIn fl.crVc2 fl.crSlots2 (creditIn fl.crVc fl.crSlots k)
    if !fl.ackValid then k1
    else
      let buf := k1.replayBuf.filter fun f => !covered f.seq fl.ackSeq
      let ended := match k1.epSeq with
        | some q => covered q fl.ackSeq
        | none => false
      let k2 := { k1 with
        replayBuf := buf
        sentAt := k1.sentAt.drop (k1.replayBuf.length - buf.length)
        sent := k1.sent.filter fun (_, q) => match q with
          | some q => !covered q fl.ackSeq
          | none => true
        epSeq := if ended then none else k1.epSeq
        epTimer := if ended then none else k1.epTimer
        epReplays := if ended then 0 else k1.epReplays }
      if buf.length < k1.replayBuf.length then k2.armAck s.lnk.ackTmo.toNat else k2) s
  if fl.nak then replay l s1 else s1

/-- Put the slots of a flit together into transactions. -/
def assemble : List Slot → Link → Link
  | [], k => k
  | x :: xs, k =>
    let whole (t : Txn) (k : Link) : Link :=
      { k with asm := none, rxq := k.rxq ++ [t], cntRxBytes := satAdd k.cntRxBytes (16 + 16 * txnSlots t) }
    assemble xs (match x, k.asm with
      | .head t, _ => if txnSlots t == 0 then whole t k else { k with asm := some (t, txnSlots t) }
      | .body, some (t, n) => if n == 1 then whole t k else { k with asm := some (t, n - 1) }
      | _, _ => k)

/-- The decoder's counts of a flit (13 R262), and the corrected bytes of each of the peer's lanes (13 R265). -/
def fecIn (l : Nat) (fl : Flit) (fec : Fec) (s : State) : State :=
  modLink l (fun k => { k with
    cntFecCorr := satAdd k.cntFecCorr (fecFixed fec).length
    cntFecUncorr := if fecGood fec then k.cntFecUncorr else satAdd k.cntFecUncorr 1
    laneCorr := (fecFixed fec).foldl (fun c i => c.modify (byteLane fl.lanes i) (· + 1)) k.laneCorr }) s

/-- A lane has failed: a link at 8 lanes with a whole half left degrades to it, any other goes down (13 R265, R266). -/
def laneFail (l lane : Nat) (s : State) : State :=
  let k := linkOf s l
  let ok := k.laneOk &&& ~~~(BitVec.ofNat 8 (1 <<< lane))
  let s1 := modLink l (fun k => { k with laneOk := ok, disturbed := some 1000000 }) s
  if !bit (lanesOf k.width.toNat) lane then s1
  else if k.width != 1 || (ok &&& 0x0F != 0x0F && ok &&& 0xF0 != 0xF0) then goDown l true s1
  else
    let w : BitVec 2 := if ok &&& 0x0F == 0x0F then 2 else 3
    lnkEv 0x91 l k.peerDev.toNat ok.toNat
      (modLink l (fun k => { k with width := w, cntDegrade := satAdd k.cntDegrade 1 }) s1)

/-- The lane can fail: the link is trained and the lane has not failed. -/
def laneLive (s : State) (l lane : Nat) : Bool :=
  let k := linkOf s l
  lane < 8 && (k.state == .up || k.state == .ready) && bit k.laneOk lane

/-- Lanes whose corrected bytes of the millisecond exceed degrade_thr fail (13 R265). -/
def laneCheck (l : Nat) (s : State) : State :=
  (List.range 8).foldl (fun t i =>
    if s.lnk.degradeThr.toNat < (linkOf s l).laneCorr.getD i 0 && laneLive t l i then laneFail l i t else t) s

/-- A discarded flit is named in a NAK. -/
def nakFlit (l : Nat) (s : State) : State := emit (.idleFlit l ((linkOf s l).mk' 0 [] true)) s

/-- A flit on a link: decoded and counted, its header, what it carries; discarded and named in a NAK where it is not good. -/
def flitIn (l : Nat) (fl : Flit) (fec : Fec) (body : State → State) (s : State) : State :=
  let s1 := fecIn l fl fec s
  settle (laneCheck l (if fecGood fec then body (headerIn l fl s1) else nakFlit l s1))

/-- The link takes flits of the kind: data, idle and time in service, control from training on. -/
def takesFlits (s : State) (l : Nat) (ctl : Bool) : Bool :=
  let k := linkOf s l
  k.state == .up || (ctl && (k.state == .ready || k.state == .training))

/-- DATA_FLIT (13 R262, R263): in sequence it is delivered; one out of sequence is dropped, for the replay brings it again. -/
def execDataFlit (l : Nat) (fl : Flit) (fec : Fec) (s : State) : Res :=
  need (hasLink s l) true (if !takesFlits s l false then s else
    flitIn l fl fec (fun t => modLink l (fun k =>
      if fl.seq == k.rxNext && k.state == .up then
        assemble fl.slots { k with
          rxNext := (k.rxNext + 1) % 4096, rxAny := true, owe := 2, cntRxFlits := satAdd k.cntRxFlits 1 }
      else { k with owe := 2 }) t) s)

/-- IDLE_FLIT. -/
def execIdleFlit (l : Nat) (fl : Flit) (fec : Fec) (s : State) : Res :=
  need (hasLink s l) true (if !takesFlits s l false then s else flitIn l fl fec id s)

/-- LINK_CONTROL_FLIT (13 R266). -/
def execLinkControlFlit (l : Nat) (fl : Flit) (fec : Fec) (ctl : LinkCtl) (s : State) : Res :=
  need (hasLink s l) true (if !takesFlits s l true then s else
    flitIn l fl fec (fun t => match ctl with
      | .willing w => inService l (modLink l (fun k => { k with peerWilling := w }) t)
      | .disable => goDown l true t) s)

/-- ACK_TIMEOUT (13 R263). -/
def execAckTimeout (l : Nat) (s : State) : Res :=
  let k := linkOf s l
  need (hasLink s l) (k.state == .up && k.ackTimer == some 0 && !k.replayBuf.isEmpty && k.epReplays != 16) (settle (replay l s))

/-- REPLAY_EXHAUSTED (13 R264): a 17th replay would be needed, or 32 µs have passed. -/
def execReplayExhausted (l : Nat) (s : State) : Res :=
  let k := linkOf s l
  need (hasLink s l) (k.state == .up && k.epSeq.isSome && (k.epTimer == some 0 ||
    (k.epReplays == 16 && k.ackTimer == some 0 && k.rpTimer.isNone && !k.replayBuf.isEmpty))) (exhaust l s)

/-! ## Lanes and training (13 R265, R266) -/

/-- LANE_FAIL: the lane has lost lock. Too many corrected bytes fail a lane as the flit that brings them arrives (`laneCheck`). -/
def execLaneFail (l lane : Nat) (s : State) : Res := need (hasLink s l) (laneLive s l lane) (laneFail l lane s)

/-- LINK_TRAIN_RETRY: every 100 ms. -/
def execLinkTrainRetry (l : Nat) (s : State) : Res :=
  let k := linkOf s l
  need (hasLink s l) (k.state == .down && k.enable && k.trainTimer == some 0 && s.lnk.devValid) (train l s)

/-- LINK_TRAINED: with a whole half of its lanes usable the link is ready, else training has failed. -/
def execLinkTrained (l : Nat) (usable : BitVec 8) (peerDev peerLink : Nat) (s : State) : Res :=
  need (hasLink s l) ((linkOf s l).state == .training)
    (let lanes := usable &&& ~~~(linkOf s l).laneBad
     let w : BitVec 2 := if lanes == 0xFF then 1 else if lanes &&& 0x0F == 0x0F then 2 else if lanes &&& 0xF0 == 0xF0 then 3 else 0
     let s1 := modLink l (fun k => { k with laneOk := lanes }) s
     if w == 0 then goDown l true s1
     else
       let s2 := modLink l (fun k => { k with
         state := .ready, width := w, peerDev := BitVec.ofNat 14 peerDev, peerLink := BitVec.ofNat 5 peerLink, peerValid := true }) s1
       if jobLoaded s then s2 else becomeWilling l s2)

/-- BAR0 offset of a link's registers. -/
def lnkOff (l : Nat) : Nat := 0x6000 + l * 0x80

/-- Enabling and disabling (13 R266). -/
def linkEnable (l : Nat) (on : Bool) (s : State) : State :=
  let was := (linkOf s l).enable
  if on && !was then train l (modLink l (fun k => { k with enable := true }) s)
  else if !on && was then
    sendCtl l .disable (loseTxns l (fun k => { k with state := .disabled, enable := false, width := 0, trainTimer := none }) s)
  else s

/-- A write of LNK[l].CTRL. -/
def linkCtrlWrite (l : Nat) (x : Wr) (s : State) : State :=
  if !hasLink s l then holeEv x.who x.off s
  else rwk x [(1, 0)] (jobLoaded s) (fun t =>
    let t1 := linkEnable l (x.flag (linkOf t l).enable 0) t
    if x.sets 1 && (linkOf t1 l).enable then ask 1 (.link l) t1 else t1) s

/-! ## Transactions (13 R269 to R271, R273) -/

/-- A transaction of this device has been acknowledged. -/
def ackTid (tid : Nat) (s : State) : State :=
  match s.lnk.txns.find? fun x => x.txn.tid == tid with
  | none => { s with lnk := { s.lnk with cntLateAck := satAdd s.lnk.cntLateAck 1 } }
  | some x =>
    let s1 := { s with lnk := { s.lnk with txns := s.lnk.txns.filter fun y => y.txn.tid != tid } }
    match x.owner with
    | .dma n ch => dmaAcked n ch s1
    | .mirror | .push => imageAcked s1
    | _ => s1

/-- The command names a transaction that stands in the link's receive queue, or one of this device to itself. -/
def rxHas (s : State) (l : Option Nat) (t : Txn) : Bool :=
  t.dst == self s && match l with
    | some l => (linkOf s l).rxq.contains t
    | none => t.src == self s

/-- Acknowledge a transaction that has acted: over the fabric, or this device's own at once. -/
def ackTxn (l : Option Nat) (t : Txn) (ok : Bool) (s : State) : State :=
  match l with
  | some l => sendReply t.src (if ok then .ack [t.tid] else .nack t.tid 1) (freeRx l t s)
  | none => if t.tid < 8192 then s else if ok then ackTid t.tid s else lostTid 0x94 t.tid s

/-- The bytes lie in the HBM and store ranges of the address map (13 R269). -/
def remoteWritable (a n : Nat) : Bool :=
  let ok (a : Nat) : Bool := match regionOf a with
    | .hbm | .store _ => true
    | _ => false
  n != 0 && ok a && ok (a + n - 1)

/-- A WRITE that has reached its destination: written and acknowledged; held in the receive queue while its domain sleeps (15 R307, R308). -/
def writeArrived (l : Option Nat) (t : Txn) (a : Nat) (bs : List Byte) (s : State) : State :=
  if !remoteWritable a bs.length then ackTxn l t false s
  else
    match sleeping s a bs.length with
    | some (_, b) => want b s
    | none => ackTxn l t true (touchMem a bs.length (writeMem (.remote 0) a bs s))

/-- WRITE at its destination. -/
def execWrite (l : Option Nat) (t : Txn) (s : State) : Res :=
  match t.body with
  | .write a bs => need true (rxHas s l t) (settle (writeArrived l t a bs s))
  | _ => need true false s

/-- A peg post over ScavenLink: to an absent thallus it is an access to an absent unit, whose event holds no device address: DESIGN
CHOICE, word 2 is 0 (log entry 72). -/
def remotePost (n p : Nat) (s : State) : State :=
  if (resolve s (thlAddr n)).isSome then postPeg n (p % 64) 1 2 3 0 s else absentEv (.remote n) 0 s

/-- WRITE_FIN at its destination: the post, then the acknowledgement; held while the thallus's field is off. -/
def execWriteFin (l : Option Nat) (t : Txn) (s : State) : Res :=
  match t.body with
  | .writeFin p n =>
    need true (rxHas s l t)
      (if (sleeping s (thlAddr n) 1).isSome then want (thlAddr n) s else settle (ackTxn l t true (remotePost n p s)))
  | _ => need true false s

/-- ACK at the originator. -/
def execAck (l : Option Nat) (t : Txn) (s : State) : Res :=
  match t.body, l with
  | .ack tids, some l =>
    need true (rxHas s (some l) t) (settle (unhold (tids.foldl (fun u i => ackTid i u) (freeRx l t s))))
  | _, _ => need true false s

/-- NACK at the originator: cause 0x94. -/
def execNack (l : Option Nat) (t : Txn) (s : State) : Res :=
  match t.body, l with
  | .nack tid _, some l => need true (rxHas s (some l) t) (settle (unhold (lostTid 0x94 tid (freeRx l t s))))
  | _, _ => need true false s

/-- TRANSACTION_TIMEOUT (13 R271). -/
def execTransactionTimeout (tid : Nat) (s : State) : Res :=
  need true (s.lnk.txns.any fun x => x.txn.tid == tid && x.timer == some 0) (settle (unhold (lostTid 0x95 tid s)))

/-- TRANSACTION_FORWARD (13 R273). -/
def execTransactionForward (l : Nat) (t : Txn) (s : State) : Res :=
  need (hasLink s l) (t.dst != self s && (linkOf s l).rxq.contains t)
    (let s1 := freeRx l t s
     match routeLink s1 t.dst with
     | some k => modLink k (fun x => { x with txq := x.txq ++ [t] }) s1
     | none =>
       let s2 := { s1 with lnk := { s1.lnk with cntUnroutable := satAdd s1.lnk.cntUnroutable 1 } }
       if txnVc t == 1 then s2 else sendReply t.src (.nack t.tid 0) s2)

/-! ## Routing table (13 R272) -/

/-- A write of LNK.RT. -/
def rtWrite (x : Wr) (s : State) : State :=
  rwk x [(44, 6)] (jobLoaded s) (fun t => { t with lnk := { t.lnk with
    rtBase := x.merge t.lnk.rtBase 6, rtBusy := t.lnk.rtBusy || x.sets 44 } }) s

/-- Hops of an entry: the greater of its valid routes. -/
def entryHops (e : W32) : Nat :=
  max (if bit e 5 then field e 19 12 else 0) (if bit e 11 then field e 27 20 else 0)

/-- The routing table is loaded from memory and takes force, with its greatest hop count (13 R272). -/
def rtLoad (s : State) : State :=
  let base := s.lnk.rtBase.toNat * 64
  let s := probe base 65536 s
  let rt : Sparse 32 := (List.range 16384).filterMap fun i =>
    let e := BitVec.ofNat 32 (natOf (peek s (base + 4 * i) 4))
    if e == 0 || i == self s then none else some (i, e)
  unhold (rechoose { s with lnk := { s.lnk with
      rt := rt, rtLoaded := true, rtBusy := false
      rtMaxHops := BitVec.ofNat 8 (rt.foldl (fun m (_, e) => max m (entryHops e)) 0) } })

/-- ROUTE_TABLE_LOADED: the load ends; where the table lies in a sleeping domain, it is held and wakes it (15 R307, R308). -/
def execRouteTableLoaded (s : State) : Res :=
  need true s.lnk.rtBusy
    (match sleeping s (s.lnk.rtBase.toNat * 64) 65536 with
    | some (_, b) => want b s
    | none => rtLoad s)

end Sys2Proof.Machine
end

