-- ==== Sys2Proof/Machine/Time.lean ====
section
/-! DEFINITION. The fabric timebase (13 R275 to R279): root choice, timestamp exchange, PPS; and the measured token rates
(01 R387). Log entry 30. -/

namespace Sys2Proof.Machine

open Sys2Proof

/-! ## The time root (13 R276) -/

/-- Root `a` comes before root `b`: locked to PPS, then lower priority value, then lower identifier. -/
def RootInfo.before (a b : RootInfo) : Bool :=
  if a.ppsLocked != b.ppsLocked then a.ppsLocked
  else if a.prio != b.prio then a.prio < b.prio
  else a.dev < b.dev

/-- This device as a candidate. -/
def ownRoot (s : State) : RootInfo :=
  { dev := self s, ppsLocked := s.time.ppsInLocked, prio := s.time.prio.toNat, hops := 0 }

/-- Announcements that count: of links in service, with hops below 63; priority 255 is never root. -/
def liveAnns (s : State) : List (Nat × RootInfo) :=
  s.time.anns.filterMap fun (l, r, _) => if linkUp s l && r.hops < 63 && r.prio != 255 then some (l, r) else none

/-- The best root and, for a follower, its up-link. -/
def bestRoot (s : State) : Option (RootInfo × Option Nat) :=
  let own : List (RootInfo × Option Nat) := if s.time.prio == 255 || !s.lnk.devValid then [] else [(ownRoot s, none)]
  let best := ((liveAnns s).map fun (l, r) => (r, some l)) ++ own
  best.foldl (fun acc (r, l) =>
    match acc with
    | none => some (r, l)
    | some (q, k) =>
      let better :=
        if r.dev == q.dev && r.ppsLocked == q.ppsLocked && r.prio == q.prio then
          match l, k with
          | some l, some k => r.hops < q.hops || (r.hops == q.hops && l < k)
          | none, some _ => true
          | _, _ => false
        else r.before q
      if better then some (r, l) else acc) none

/-- The root that the device has, with its up-link where it follows. -/
def rootNow (s : State) : Option (Nat × Option Nat) :=
  if s.time.role == 1 then some (s.time.rootDev.toNat, none)
  else if s.time.role == 2 then some (s.time.rootDev.toNat, some s.time.upLink.toNat)
  else none

/-- Choose root and up-link again; a change is logged and counted, and so is holdover (13 R276, R278). -/
def chooseRoot (s : State) : State :=
  let was := rootNow s
  let changed (t : State) : State :=
    if rootNow t == was then t
    else
      lnkEv 0xA0 t.time.upLink.toNat t.time.rootDev.toNat 0 { t with time := { t.time with
        cntRootChange := satAdd t.time.cntRootChange 1 } }
  match bestRoot s with
  | some (r, some l) =>
    changed { s with time := { s.time with
      role := 2, rootDev := BitVec.ofNat 14 r.dev, hops := BitVec.ofNat 6 (r.hops + 1), upLink := BitVec.ofNat 5 l } }
  | some (r, none) =>
    changed { s with time := { s.time with role := 1, rootDev := BitVec.ofNat 14 r.dev, hops := 0, upLink := 0, locked := false } }
  | none =>
    if s.time.role == 2 then
      let s1 := { s with time := { s.time with role := 3, locked := false } }
      lnkEv 0xA2 s.time.upLink.toNat s.time.rootDev.toNat 0 s1
    else if s.time.role == 1 then { s with time := { s.time with role := 0, locked := false } }
    else s

/-- What this device announces: its root, with its hops from it; a device that has none and may not be root announces hops that no
device takes (log entry 30). -/
def announced (s : State) : RootInfo :=
  match bestRoot s with
  | some (r, some _) => { r with hops := r.hops + 1 }
  | some (r, none) => r
  | none => { ownRoot s with hops := 63 }

/-! ## Setting the timebase -/

/-- Step the timebase by whole 1/64 ns; the event and the counter (13 R278). -/
def stepTime (l : Nat) (d64 : Int) (s : State) : State :=
  let v : Int := ((s.time.now.toNat * 2 ^ 32 + s.time.frac.toNat : Nat) : Int) + d64 * 2 ^ 26
  let x := wrapNat 96 v
  lnkEv 0xA4 l s.time.rootDev.toNat (wrapNat 64 (d64 / 64)) { s with time := { s.time with
    now := BitVec.ofNat 64 (x / 2 ^ 32), frac := BitVec.ofNat 32 x, ppsDone := false, cntStep := satAdd s.time.cntStep 1 } }

/-- An adjustment within ±500 ppm, and within ±200 ppm while a job is loaded (13 R278), in 2^-32 ns. -/
def adjLimit (loaded : Bool) (a : Int) : Int :=
  let lim : Int := if loaded then 858993 else 2147483
  max (-lim) (min lim a)

/-- The adjustment in force when a job is loaded: from then on the device slews at up to ±200 ppm (13 R278). -/
def adjLoaded (s : State) : State := { s with time := { s.time with adj := BitVec.ofInt 32 (adjLimit true s.time.adj.toInt) } }

/-- The servo acts on an offset: its law is a free value, within the limit of the adjustment. -/
def servo (o : Int) (s : State) : State :=
  let a := (Config.servoAdj s.nonce o).toInt
  { s with nonce := s.nonce + 1, time := { s.time with adj := BitVec.ofInt 32 (adjLimit (jobLoaded s) a) } }

/-- Follow an offset in 1/64 ns: with no job loaded a large one is stepped away, else the servo slews (13 R278). -/
def discipline (l : Nat) (o : Int) (s : State) : State :=
  if !jobLoaded s && 64000 < o.natAbs then stepTime l (-o) s else servo o s

/-- The device's registers TIME are written by TIME.SET with no job loaded, on the root only (13 R275). -/
def timeSet (x : Wr) (s : State) : State :=
  rwk x [(63, 0)] (jobLoaded s) (fun t =>
    if t.time.role == 1 then
      let v := x.merge t.time.setReg 0
      let t1 := { t with time := { t.time with setReg := v, now := v, frac := 0, ppsDone := false, cntStep := satAdd t.time.cntStep 1 } }
      lnkEv 0xA4 0 t.time.rootDev.toNat (v - t.time.now).toNat t1
    else t) s

/-! ## Time flits (13 R276, R277) -/

/-- The up-link of a follower. -/
def isUpLink (s : State) (l : Nat) : Bool := s.time.role == 2 && s.time.upLink.toNat == l

/-- A stamp in 1/64 ns (13 R277): the device's timebase, corrected by `corr`. -/
def stamp (corr : Int) (s : State) : Int := 64 * (s.time.now.toNat : Int) + (s.time.frac.toNat / 2 ^ 26 : Nat) + corr

/-- TIME_FLIT_SEND: every 125 µs; on the up-link with a request, stamped as t1, and with the reply that is due: the arrival of the
request and the departure of this flit. A request that was not answered counts as a sample dropped. -/
def execTimeFlitSend (l : Nat) (corr : Int) (s : State) : Res :=
  let k := linkOf s l
  need (hasLink s l) (k.state == .up && k.timeTimer == some 0)
    (let up := isUpLink s l
     let t := stamp corr s
     let s1 := modLink l (fun k => { k with timeTimer := some 125000, t1 := if up then some t else none, reqArrival := none }) s
     let s2 := if k.t1.isSome then { s1 with time := { s1.time with cntSampleDrop := satAdd s1.time.cntSampleDrop 1 } } else s1
     emit (.timeFlit l (k.mk' 0 [] false) (announced s) up (k.reqArrival.map fun a => (a, t))) s2)

/-- A sample: discarded where the link was disturbed or the delay is off the mean by more than 2 ns, else kept (13 R277, R278). -/
def sample (l : Nat) (t1 t2 t3 t4 : Int) (s : State) : State :=
  let o := ((t4 - t3) - (t2 - t1)) / 2
  let d := ((t4 - t3) + (t2 - t1)) / 2
  let n : Int := s.time.delays.length
  let sum := s.time.delays.foldl (· + ·) 0
  if (linkOf s l).disturbed.isSome || (n != 0 && 128 * n < (d * n - sum).natAbs) then
    { s with time := { s.time with cntSampleDrop := satAdd s.time.cntSampleDrop 1 } }
  else
    let kept := (o :: s.time.samples).take 64
    let s1 := { s with time := { s.time with
        samples := kept, delays := (d :: s.time.delays).take 16, lastO := BitVec.ofInt 32 o } }
    let s2 := discipline l o s1
    let lock := kept.length == 64 && kept.all fun x => x.natAbs ≤ 128
    let s3 := { s2 with time := { s2.time with locked := lock } }
    if lock && !s.time.locked then lnkEv 0xA1 l s3.time.rootDev.toNat 0 s3 else s3

/-- TIME_FLIT: the announcement, the request and the reply that it carries. -/
def execTimeFlit (l : Nat) (fl : Flit) (fec : Fec) (info : TimeInfo) (s : State) : Res :=
  need (hasLink s l) true (if !takesFlits s l false then s
    else if !fecGood fec then
      let s1 := flitIn l fl fec id s
      if (linkOf s l).t1.isSome then
        modLink l (fun k => { k with t1 := none }) { s1 with time := { s1.time with cntSampleDrop := satAdd s1.time.cntSampleDrop 1 } }
      else s1
    else flitIn l fl fec (fun t =>
      let r : RootInfo := { dev := info.root, ppsLocked := info.ppsLocked, prio := info.prio, hops := info.hops }
      let t1 := chooseRoot { t with time := { t.time with
        anns := (t.time.anns.filter fun (k, _, _) => k != l) ++ [(l, r, some 4000000)] } }
      let t2 := if info.request then modLink l (fun k => { k with reqArrival := some (stamp info.corr s) }) t1 else t1
      match info.reply, (linkOf t2 l).t1 with
      | some (b, c), some a =>
        let t3 := modLink l (fun k => { k with t1 := none }) t2
        if isUpLink t3 l then sample l a b c (stamp info.corr s) t3 else t3
      | _, _ => t2) s)

/-- ROOT_ANNOUNCE_TIMEOUT: nothing heard on a link for 4 ms. -/
def execRootAnnounceTimeout (l : Nat) (s : State) : Res :=
  need (hasLink s l) (s.time.anns.any fun (k, _, t) => k == l && t == some 0)
    (chooseRoot { s with time := { s.time with anns := s.time.anns.filter fun (k, _, _) => k != l } })

/-! ## PPS (13 R279) -/

/-- Offset of the timebase from the nearest whole second, ns. -/
def secondErr (s : State) : Int :=
  let r := s.time.now.toNat % 1000000000
  if r < 500000000 then (r : Int) else (r : Int) - 1000000000

/-- PPS_IN_EDGE. -/
def execPpsInEdge (s : State) : Res :=
  always (if !s.time.ppsInEn then s else
    let e := secondErr s
    let run := if e.natAbs ≤ 20 then min (s.time.ppsRun + 1) 8 else 0
    let s1 := { s with time := { s.time with
        ppsTimer := some 1100000000, ppsRun := run, ppsInLocked := s.time.ppsInLocked || run == 8 } }
    let s2 := if s1.time.role == 1 then discipline 0 (e * 64) s1 else s1
    chooseRoot s2)

/-- PPS_IN_TIMEOUT. -/
def execPpsInTimeout (s : State) : Res :=
  need true (s.time.ppsTimer == some 0)
    (chooseRoot (lnkEv 0xA3 0 s.time.rootDev.toNat 0 { s with time := { s.time with ppsTimer := none, ppsRun := 0, ppsInLocked := false } }))

/-- The count stands within 2 ns after a whole second. -/
def atSecond (now : Word) : Bool := now.toNat % 1000000000 ≤ 2

/-- PPS_OUT_RISE: once for each whole second that the count reaches. -/
def execPpsOutRise (s : State) : Res :=
  need true (atSecond s.time.now && !s.time.ppsDone)
    { s with
      pins := { s.pins with ppsOut := true }
      time := { s.time with ppsDone := true, ppsOutTimer := some (1000000 * s.time.ppsWidth.toNat) } }

/-- PPS_OUT_FALL. -/
def execPpsOutFall (s : State) : Res :=
  need true (s.time.ppsOutTimer == some 0)
    { s with pins := { s.pins with ppsOut := false }, time := { s.time with ppsOutTimer := none } }

/-! ## Token rates (01 R387, T1-4) -/

/-- TRATE_INTERVAL_END, at a whole multiple of 10 µs: `tokens` is the replica path's count over the interval, none where the field core
was off throughout. -/
def execTrateIntervalEnd (f tokens : Nat) (s : State) : Res :=
  need (f < 4) (s.trate.getD f {}).due
    (let r := if (s.trate.getD f {}).lastOn == 0 then 0 else min (tokens / 10) 0xFFFF
     { s with trate := s.trate.modify f fun t => { t with
        due := false
        rate := BitVec.ofNat 16 r
        rateMin := BitVec.ofNat 16 (min t.rateMin.toNat r)
        rateMax := BitVec.ofNat 16 (max t.rateMax.toNat r) } })

/-- A write of 1 to DEV.TRATE[f].clear. -/
def trateClear (f : Nat) (s : State) : State :=
  { s with trate := s.trate.modify f fun t => { t with rateMin := 0xFFFF, rateMax := 0 } }

end Sys2Proof.Machine
end

