-- ==== Sys2Proof/Machine/StepStart.lean ====
section
/-! DEFINITION. The start of a step (06 R123) with all that happens at it: RW-L registers latched (18 T18-4), statistics and lists
cleared, state copies prepared, snapshots armed, held posts applied, timeouts armed, empty buckets announced. -/

namespace Sys2Proof.Machine

open Sys2Proof

/-! ## Latch points (18 R369, T18-4) -/

/-- DEV.RDX.CFG. -/
def latchRdx (s : State) : State :=
  match s.rdx.cfgPend with
  | none => s
  | some w => { s with rdx := { s.rdx with
      cfgPend := none, sealTmo := BitVec.ofNat 16 (field w 15 0), logBitmap := bit w 16
      tagwaitBwd := BitVec.ofNat 16 (field w 47 32), tagwaitUpd := BitVec.ofNat 16 (field w 63 48) } }

/-- Raise a timeout to its floor: counted and logged with both values (10 R236). -/
def raise (old floor : Nat) (set : State → State) (s : State) : State :=
  if floor ≤ old then s
  else cmtEv 0 0x7A (self s) 0 (old ||| floor <<< 32) (set { s with cmt := { s.cmt with cntTmoRaised := satAdd s.cmt.cntTmoRaised 1 } })

/-- CMT.TMO, with its floors. -/
def latchTmo (s : State) : State :=
  let s1 := match s.cmt.tmoPend with
    | none => s
    | some w => { s with cmt := { s.cmt with
        tmoPend := none, collTmo := BitVec.ofNat 20 (field w 19 0), stepTmo := BitVec.ofNat 20 (field w 51 32) } }
  let floor := s1.cmt.maxHops.toNat * 40 + 1000
  let s2 := raise s1.cmt.collTmo.toNat floor (fun t => { t with cmt := { t.cmt with collTmo := BitVec.ofNat 20 floor } }) s1
  raise s2.cmt.stepTmo.toNat 1000 (fun t => { t with cmt := { t.cmt with stepTmo := 1000 } }) s2

/-- PWR.SHAPE with its clamps, and PWR.VSTEP (15 T15-7, T15-10, R318). -/
def latchPwr (s : State) : State :=
  let s1 := match s.pwr.shapePend with
    | none => s
    | some w =>
      let limit := max 400 (min 2200 (field w 43 32))
      { s with pwr := { s.pwr with
          shapePend := none, slew := BitVec.ofNat 10 (max 20 (min 1000 (field w 9 0)))
          floorW := BitVec.ofNat 11 (min (min 1680 limit) (field w 26 16)), limitW := BitVec.ofNat 12 limit } }
  match s1.pwr.vPend with
  | none => s1
  | some w => { s1 with pwr := { s1.pwr with
      vPend := none, vmax := BitVec.ofNat 3 (field w 2 0), vmin := BitVec.ofNat 3 (field w 5 3) } }

/-- BIST.SLICE_CFG; with a new period the slices count anew from here (log entry 35). -/
def latchBist (s : State) : State :=
  match s.bist.cfgPend with
  | none => s
  | some w =>
    let p := BitVec.ofNat 16 (field w 15 0)
    let b := { s.bist with cfgPend := none, periodMin := p, stagger := bit w 16 }
    { s with bist := if p == s.bist.periodMin then b else { b with since := 0, sliceK := 0 } }

/-- A stream's PROG. -/
def Stream.latch (k : Stream) : Stream :=
  match k.progPend with
  | none => k
  | some p => { k with prog := p, progPend := none }

/-- A thallus's ODT_BASE and its streams' PROG. -/
def Thallus.latch (t : Thallus) : Thallus :=
  let t1 := { t with strm := t.strm.map Stream.latch }
  match t.odtPend with
  | none => t1
  | some b => { t1 with odtBase := b, odtPend := none }

/-- Every RW-L register takes its pending copy. -/
def latchAll (s : State) : State :=
  latchBist (latchPwr (latchTmo (latchRdx { s with
    thl := s.thl.map Thallus.latch, snap := { s.snap with ctrlPend := none } })))

/-! ## Watch windows (14 R291, R292) -/

/-- A post of a watch window to an enabled thallus; at the clamp of a field that is off it is held and wakes the field (15 R307, R308). -/
def wwPeg (n p amount : Nat) (s : State) : State :=
  if (sleeping s (thlAddr n) 1).isSome then
    want (thlAddr n) { s with prun := { s.prun with posts := s.prun.posts ++ [(n, p, amount)] } }
  else postPeg n p amount 6 3 0 s

/-- A window posts an amount to its peg, on one thallus or on all; `nMatch` is the number of matches that post. To an absent thallus it
is an access to an absent unit: DESIGN CHOICE, word 2 is the address of the trigger word (log entry 72). -/
def wwPost (k : Nat) (w : WatchWin) (amount nMatch : Nat) (s : State) : State :=
  let counted (t : State) : State := { t with pci := { t.pci with cntWwPosts := satAdd t.pci.cntWwPosts nMatch } }
  if w.allThalli then
    counted (((List.range s.thl.length).filter fun n => (resolve s (thlAddr n)).isSome).foldl
      (fun t n => wwPeg n w.peg.toNat amount t) s)
  else if (resolve s (thlAddr w.thallus.toNat)).isSome then counted (wwPeg w.thallus.toNat w.peg.toNat amount s)
  else absentEv (.watch k w.thallus.toNat) (w.trig.toNat * 8) s

/-- Held amounts of the starting step are posted, and older ones are discarded. -/
def wwStep (s : State) : State :=
  s.pci.ww.zipIdx.foldl (fun t (w, k) =>
    match w.pend with
    | none => t
    | some (amount, tag) =>
      let t1 := if tag ≤ s.cmt.step then { t with pci := { t.pci with ww := t.pci.ww.modify k fun x => { x with pend := none, pendN := 0 } } } else t
      if tag == s.cmt.step then wwPost k w amount.toNat w.pendN t1 else t1) s

/-! ## STEP_START -/

/-- A stream at step start: tag registers clear, the program counter from PROG; forward and update run, backward waits (06 R123). -/
def Stream.begin (q : Nat) (k : Stream) : Stream :=
  { prog := k.prog, progPend := k.progPend, pc := k.prog.toNat * 8, cause := k.cause, skip := k.skip, cntInstr := k.cntInstr, cntWaitNs := k.cntWaitNs
    cntHoldNs := k.cntHoldNs, dbg := { k.dbg with stepEngine := none, skipBp := false }
    state := if q == 1 then .barrier else .running }

/-- A thallus at step start. -/
def Thallus.begin (t : Thallus) : Thallus :=
  { t with
    peg := List.replicate 64 0, pegSat := 0, epochOpen := false
    strm := t.strm.zipIdx.map fun (k, q) => k.begin q
    core := t.core.map fun c => { c with dmaLost := false }
    eng := t.eng.map fun e => { e with raised15 := false, dead := false } }

/-- learned_l goes from the copy in force into the next copy (05 R101); a read that returns no data leaves the next copy as it is (log
entry 55). -/
def copyLearned (s : State) : State :=
  (layerDirs s).foldl (fun t (l, d) =>
    match readMem .unit (curState t l d + 16) 4 t with
    | (t1, none) => t1
    | (t1, some bs) => writeMem .unit (nextState t1 l d + 16) bs t1) s

/-- The commit unit at step start: its timeouts armed (10 R225, R226, R235). A class recorded since the last step's DONE, or its flip,
belongs to this step (10 T10-6). -/
def cmtBegin (s : State) : State :=
  let early := s.crun.early
  { s with
    cmt := { s.cmt with
      state := if early then .settling else .running
      poisoned := false, excluded := false
      worstRec := if early then s.cmt.worstRec else s.crun.worst }
    crun := { s.crun with
      startDue := false, reported := false, barrierOpen := false
      reports := if early then s.crun.reports else []
      lateDecide := if early then s.crun.lateDecide else none
      stepTimer := some (stepNs s)
      rootTimer := if s.cmt.root then some (stepNs s + collNs s) else none
      decisionTimer := if s.cmt.root then none else some (stepNs s + 3 * collNs s) } }

/-- Links that await a step start become willing (13 R266). -/
def linksWilling (s : State) : State := (List.range 32).foldl (fun t l => if hasLink t l then becomeWilling l t else t) s

/-- The start of a step. -/
def stepBegin (s : State) : State :=
  let s1 := latchAll s
  let s2 := clearStats (govClear (rdxClear { s1 with
    thl := s1.thl.map Thallus.begin, dbg := { s1.dbg with haltLogged := false }, prun := { s1.prun with floorLogged := false } }))
  let s3 := wwStep (cmtBegin s2)
  settle (announceEmpty (linksWilling (armSnap (copyLearned s3))))

/-- STEP_START, by firmware (16 R346): due at job load, after a commit flip, and at the RELEASE of a retry or skip (18 R369). -/
def execStepStart (s : State) : Res := need true (s.crun.startDue && jobLoaded s && !fwHalted s) (stepBegin s)

end Sys2Proof.Machine
end

