-- ==== Sys2Proof/Machine/CommitRows.lean ====
section
/-! DEFINITION. The rows of the commit unit (10): readiness, REPORT, DECIDE, quiescence, DONE, RELEASE, and its timeouts. -/

namespace Sys2Proof.Machine

open Sys2Proof

/-! ## Readiness and the ready REPORT (10 R224 to R226) -/

/-- The root decides on the folded ready REPORT (10 R226). -/
def rootDecide (t : Token) (s : State) : State :=
  if t.nDev != s.cmt.nJob.toNat then
    decideAs ⟨3, 0x7B, self s⟩ false t (cmtEv 3 0x7B (self s) 0 t.nDev s)
  else if s.cmt.dropMax.toNat < t.nDropped then
    let cls := if s.cmt.dropMax.toNat < t.nPoisoned then 2 else 1
    decideAs ⟨cls, 0x77, self s⟩ false t (cmtEv cls 0x77 (self s) 0 (t.nDropped ||| t.nPoisoned <<< 16) s)
  else decideAs {} true t s

/-- A ready device that holds a ready REPORT from every child reports, or decides as the root. -/
def tryReport (s : State) : State :=
  if s.cmt.state != .gathering || !((children s).all fun c => s.crun.reports.any (·.1 == c)) then s
  else
    let t := s.crun.reports.foldl (fun x (_, y) => x.fold y) (ownToken 1 {} true s)
    if s.cmt.root then (if fwHalted s then s else rootDecide t s)
    else sendToken s.cmt.parent.toNat t { s with cmt := { s.cmt with state := .reported }, crun := { s.crun with reported := true } }

/-- The conditions of 10 R224; in the step after a snapshot also 11 R245: the fill has ended. -/
def readyNow (s : State) : Bool :=
  s.cmt.state == .running && jobLoaded s && !s.crun.startDue && streamsDone s && s.gov.done && s.crun.worst.cls == 0 &&
    (s.rdx.bkts.all fun k => k.completed || !k.touched) && !(s.snap.phase == 2 && !s.srun.fillDone)

/-- DEVICE_READY: firmware copies the state of buckets that did not complete (09 R215), and the device gathers. -/
def execDeviceReady (s : State) : Res :=
  need true (readyNow s && !fwHalted s)
    (let s1 := copyScales s
     settle (tryReport { s1 with cmt := { s1.cmt with state := .gathering }, crun := { s1.crun with stepTimer := none } }))

/-! ## Tokens that arrive (10 R222) -/

/-- A token that is not of this job or step is discarded with cause 0x7C. -/
def foreign (src : Nat) (s : State) : State := cmtEv 0 0x7C src 0 0 s

/-- A token arrives and is acknowledged; it acts where its job and step compare equal. -/
def tokenIn (src : Nat) (w0 w1 : Word) (step : State → Nat) (live : State → Bool) (f : Token → State → State) (s : State) : State :=
  let t : Token := ⟨w0, w1⟩
  let s1 := ackCommit src w0 w1 s
  if !jobLoaded s || t.jobTag != s.crun.jobTag.toNat || t.step != step s || !live s then foreign src s1 else settle (f t s1)

/-- A not-ready REPORT goes to the parent unchanged; one of the next step waits with the new step's messages for the RELEASE
(10 R225, R229). -/
def passReport (t : Token) (s : State) : State :=
  if afterFlip s then { s with crun := { s.crun with heldReports := s.crun.heldReports ++ [t] } }
  else sendToken s.cmt.parent.toNat t s

/-- REPORT (10 R225): a not-ready one goes on unchanged, or makes the root decide; a ready one is held. -/
def execReport (src : Nat) (w0 w1 : Word) (s : State) : Res :=
  need true ((⟨w0, w1⟩ : Token).kind == 1)
    (tokenIn src w0 w1 (·.cmt.step.toNat) (fun _ => true) (fun t s =>
      let open_ := s.cmt.state == .running || s.cmt.state == .gathering
      if !t.flag then
        let s1 := { s with cmt := { s.cmt with worstRec := worse s.cmt.worstRec t.rec' } }
        if s.cmt.root then
          (if !open_ then s
          else if fwHalted s then { s1 with crun := { s1.crun with worst := worse s1.crun.worst t.rec', act := true } }
          else decideAbort t.rec' s1)
        else if s.cmt.state == .idle then s else passReport t s1
      else if (children s).contains src && !s.crun.reports.any (·.1 == src) then
        tryReport { s with crun := { s.crun with reports := s.crun.reports ++ [(src, t)] } }
      else s) s)

/-- DECIDE at a device below the root; one that overtakes the RELEASE of the step before waits for it (13 R270). -/
def decideIn (t : Token) (s : State) : State :=
  match s.cmt.state with
  | .running | .gathering | .reported => if s.cmt.root then s else actDecide t s
  | .settling => { s with crun := { s.crun with lateDecide := some t } }
  | _ => s

/-- DECIDE_COMMIT (10 R228). -/
def execDecideCommit (src : Nat) (w0 w1 : Word) (s : State) : Res :=
  need true ((⟨w0, w1⟩ : Token).kind == 2 && (⟨w0, w1⟩ : Token).flag)
    (tokenIn src w0 w1 (·.cmt.step.toNat) (fun _ => true) decideIn s)

/-- DECIDE_ABORT (10 R231). -/
def execDecideAbort (src : Nat) (w0 w1 : Word) (s : State) : Res :=
  need true ((⟨w0, w1⟩ : Token).kind == 2 && !(⟨w0, w1⟩ : Token).flag)
    (tokenIn src w0 w1 (·.cmt.step.toNat) (fun _ => true) decideIn s)

/-! ## RELEASE (10 R229, R230, T10-3) -/

/-- Remote DMA descriptors held by 10 R229 go on. -/
def liftDma (s : State) : State :=
  (List.range s.thl.length).foldl (fun t n => (List.range 4).foldl (fun t ch =>
    (List.range (dmaOf t n ch).length).foldl (fun t k => dmaSend n ch k t) t) t) s

/-- A replay step that ends by commit or skip ends the replay (11 R257). -/
def endReplay (settled : Nat) (s : State) : State :=
  match s.srun.verify with
  | some (step, _, _) => if step.toNat == settled then { s with srun := { s.srun with verify := none } } else s
  | none => s

/-- RELEASE goes to the children; its event, the counters and the run counters. -/
def releaseNote (t : Token) (s : State) : State :=
  let s2 := cmtEv 0 (if t.flag then 0x70 else 0x71) t.dev 0 t.w0.toNat (toChildren t s)
  let c := s2.cmt
  { s2 with
    cmt := { c with
      worstRec := worse c.worstRec t.rec'
      lastOutcome := BitVec.ofNat 2 t.cls, lastCommitted := t.flag
      cntRetry := if t.cls == 1 then satAdd c.cntRetry 1 else c.cntRetry
      cntSkip := if t.cls == 2 then satAdd c.cntSkip 1 else c.cntSkip
      cntRestart := if t.cls == 3 then satAdd c.cntRestart 1 else c.cntRestart
      retryRun := if t.flag || t.cls == 2 then 0 else if t.cls == 1 then satAdd c.retryRun 1 else c.retryRun
      skipRun := if t.flag then 0 else if t.cls == 2 then satAdd c.skipRun 1 else c.skipRun
      step := if t.cls == 2 then c.step + 1 else c.step }
    crun := { s2.crun with
      decide := none, quiet := false, doneSent := false, doneRec := {}, dones := [], doneTimer := none, releaseTimer := none } }

/-- RELEASE of a step that commits: the device is running, what the step held goes on, a late DECIDE acts. -/
def releaseCommit (settled : Nat) (s : State) : State :=
  let s4 := endReplay settled { s with cmt := { s.cmt with state := .running }, crun := { s.crun with early := false } }
  let late := s4.crun.lateDecide
  let s5 := s.crun.heldReports.foldl (fun u d => sendToken s.cmt.parent.toNat d u)
    (liftDma (liftRed { s4 with crun := { s4.crun with lateDecide := none, heldReports := [] } }))
  match late with
  | some d => if d.step == s5.cmt.step.toNat then actDecide d s5 else s5
  | none => s5

/-- RELEASE of a retry or a skip: the next attempt starts when due. -/
def releaseAgain (t : Token) (settled : Nat) (s : State) : State :=
  let s4 := if t.cls == 2 then endReplay settled s else s
  { s4 with cmt := { s4.cmt with state := .running }, crun := { s4.crun with early := false, startDue := true, lateDecide := none } }

/-- What RELEASE does on every device. -/
def releaseAct (t : Token) (s : State) : State :=
  if t.cls == 3 then stopAll (releaseNote t s)
  else if t.flag then releaseCommit (settledStep s) (releaseNote t s)
  else releaseAgain t (settledStep s) (releaseNote t s)

/-- RELEASE at a device below the root. -/
def execRelease (src : Nat) (w0 w1 : Word) (s : State) : Res :=
  need true ((⟨w0, w1⟩ : Token).kind == 4)
    (tokenIn src w0 w1 settledStep (fun s => s.cmt.state == .settling && s.crun.decide.isSome && s.crun.doneSent) releaseAct s)

/-! ## Quiescence and DONE (10 R227, R230) -/

/-- The root's RELEASE (10 T10-1): it covers the devices of `cover`. -/
def releaseAs (r : ClassRec) (flag : Bool) (cover : Token) (s : State) : State :=
  releaseAct (mkToken 4 r flag (settledStep s) cover.nDev cover.nDropped cover.nPoisoned s.crun.jobTag.toNat) s

/-- The root takes an outcome and releases (10 T10-3). -/
def rootOutcome (flag : Bool) (r : ClassRec) (cover : Token) (s : State) : State :=
  let go (cls : Nat) (r : ClassRec) (s : State) : State := releaseAs { r with cls := cls } flag cover s
  if flag then (if r.cls == 3 then go 3 r s else go 0 {} s)
  else if r.cls == 1 then
    if s.cmt.retryRun < s.cmt.retryMax then go 1 r s else go 3 ⟨3, 0x78, self s⟩ (cmtEv 3 0x78 r.dev 0 0 s)
  else if r.cls == 2 then
    if s.cmt.skipRun < s.cmt.skipMax then go 2 r s else go 3 ⟨3, 0x79, self s⟩ (cmtEv 3 0x79 r.dev 0 0 s)
  else go 3 r s

/-- The DONE of this device with those that it holds folded in: the worst class from the step's start (10 R222, R230). -/
def doneToken (flag : Bool) (s : State) : Token :=
  s.crun.dones.foldl (fun x (_, y) => x.fold y)
    (mkToken 3 (if flag then s.crun.doneRec else s.crun.worst) false (settledStep s) 1 (b2n s.crun.settDropped)
      (b2n s.crun.settPoisoned) s.crun.jobTag.toNat)

/-- A quiet device that holds DONE from every child sends its own, or as the root releases. A class recorded after an abort's DONE
belongs to the next attempt (10 T10-6). -/
def tryDone (s : State) : State :=
  match s.crun.decide with
  | none => s
  | some d =>
    if s.crun.doneSent || !s.crun.quiet || !((children s).all fun c => s.crun.dones.any (·.1 == c)) then s
    else
      let t := doneToken d.flag s
      let worst := if d.flag then s.crun.worst else {}
      if s.cmt.root then
        if fwHalted s then s
        else rootOutcome d.flag (if d.flag then t.rec' else worse d.rec' t.rec') t { s with crun := { s.crun with worst := worst } }
      else
        sendToken s.cmt.parent.toNat t { s with
          cmt := { s.cmt with state := .settling }
          crun := { s.crun with doneSent := true, worst := worst, releaseTimer := some (3 * collNs s) } }

/-- The device is quiet for the step being settled (10 R227). -/
def quietNow (s : State) : Bool :=
  match s.crun.decide with
  | none => false
  | some d =>
    !s.crun.quiet && !s.crun.doneSent &&
      (s.lnk.txns ++ s.lnk.waiting).all (fun x => match x.owner with
        | .step | .dma _ _ => false
        | _ => true) &&
      ((d.flag && !s.crun.startDue) ||
        (s.thl.all (fun t => t.eng.all (·.passes.isEmpty) && t.dma.all (·.isEmpty) && t.runs.isEmpty) &&
          s.rdx.bkts.all fun k => k.completed || !k.touched))

/-- DEVICE_QUIET. -/
def execDeviceQuiet (s : State) : Res :=
  need true (quietNow s) (settle (tryDone { s with crun := { s.crun with quiet := true } }))

/-- DONE. -/
def execDone (src : Nat) (w0 w1 : Word) (s : State) : Res :=
  need true ((⟨w0, w1⟩ : Token).kind == 3)
    (tokenIn src w0 w1 settledStep (fun s => s.crun.decide.isSome) (fun t s =>
      if (children s).contains src && !s.crun.dones.any (·.1 == src) then
        tryDone { s with crun := { s.crun with dones := s.crun.dones ++ [(src, t)] } }
      else s) s)

/-! ## Timeouts -/

/-- Lowest child of which a list holds no token. -/
def missingChild (s : State) (held : List (Nat × Token)) : Nat :=
  ((children s).filter fun c => !held.any (·.1 == c)).min?.getD (self s)

/-- ROOT_DECISION_TIMEOUT (10 R226). -/
def execRootDecisionTimeout (s : State) : Res :=
  need true (s.crun.rootTimer == some 0 && s.cmt.root && !fwHalted s && (s.cmt.state == .running || s.cmt.state == .gathering))
    (settle (cmtFault 0x74 (missingChild s s.crun.reports) 0 0 { s with crun := { s.crun with rootTimer := none } }))

/-- The device stops on a lost token (10 R226, R230, R392). -/
def lostToken (cause : Nat) (s : State) : State :=
  stopAll (cmtEv 3 cause s.cmt.parent.toNat 0 0 { s with cmt := { s.cmt with worstRec := worse s.cmt.worstRec ⟨3, cause, self s⟩ } })

/-- DECISION_WAIT_EXPIRED. -/
def execDecisionWaitExpired (s : State) : Res :=
  need true (s.crun.decisionTimer == some 0 && s.cmt.state == .reported) (lostToken 0x75 s)

/-- DONE_WAIT_EXPIRED (10 R230): the root takes the outcome restart. -/
def execDoneWaitExpired (s : State) : Res :=
  need true (s.crun.doneTimer == some 0 && s.cmt.root && !fwHalted s && s.crun.decide.isSome)
    (let flag := (s.crun.decide.getD default).flag
     let s1 := cmtFault 0x74 (missingChild s s.crun.dones) 0 0 s
     releaseAs ⟨3, 0x74, self s⟩ flag (doneToken flag s) s1)

/-- RELEASE_WAIT_EXPIRED. -/
def execReleaseWaitExpired (s : State) : Res :=
  need true (s.crun.releaseTimer == some 0 && s.cmt.state == .settling && s.crun.doneSent) (lostToken 0x76 s)

/-- A halt whose class was left out is recorded again with its class (10 R225). -/
def recordHalt (k : Stream) (s : State) : State :=
  let (w0, w1, w2, w3) := k.haltPay
  let cause := k.cause.toNat
  if k.haltDue && k.state == .halted then
    recordClass (classOf cause) cause (logAt w1 0 (classOf cause) cause w0.toNat w2.toNat w3.toNat s)
  else s

/-- STEP_TIMEOUT (10 R235): before the device is ready; cause 0x72 only where no class has been recorded. -/
def execStepTimeout (s : State) : Res :=
  need true (s.crun.stepTimer == some 0)
    (let s0 := { s with crun := { s.crun with stepTimer := none } }
     let s1 := if s.crun.worst.cls == 0 then cmtFault 0x72 (self s) 0 0 s0 else s0
     let s2 := s.thl.foldl (fun t h => h.strm.foldl (fun t k => recordHalt k t) t) s1
     settle { s2 with thl := s2.thl.map fun h => { h with strm := h.strm.map fun k => { k with haltDue := false } } })

end Sys2Proof.Machine
end

