-- ==== Sys2Proof/Machine/SnapRows.lean ====
section
/-! DEFINITION. The rows of the snapshot engine (11): requests, sealing, mirror, drain, push. -/

namespace Sys2Proof.Machine

open Sys2Proof

/-- SNAP_PERIOD_ELAPSED (11 R240): since the last snapshot was armed, or since job load. -/
def execSnapPeriodElapsed (s : State) : Res :=
  need true (s.srun.periodTimer == some 0 && jobLoaded s)
    { s with snap := { s.snap with pend := true }, srun := { s.srun with periodTimer := none } }

/-- A write of CMT.SNAP.CTRL (11 T11-8): a 1 makes a request pending, which stays until a step start arms it. -/
def snapCtrlWrite (x : Wr) (s : State) : State :=
  { s with snap := { s.snap with
      pend := s.snap.pend || x.sets 0
      ctrlPend := if jobLoaded s && bit x.mask 0 then some (bit x.data 0) else s.snap.ctrlPend } }

/-- SNAP_FILL_DONE (11 R245 steps 1 and 2). -/
def execSnapFillDone (s : State) : Res := need true (s.snap.phase == 2 && !fwHalted s && !s.srun.fillDone) (settle (snapFill s))

/-- SNAP_HEADER_WRITE (11 R245 steps 3 and 4, R247). -/
def execSnapHeaderWrite (s : State) : Res :=
  need true (s.snap.phase == 2 && !fwHalted s && s.srun.fillDone && (s.srun.barrier || s.srun.noWait)) (settle (snapHeader s))

/-- A mirror write has stayed without acknowledgement for the limit (11 R250). -/
def mirrorLate (s : State) : Bool :=
  s.srun.mirLost == some 0 ||
    s.lnk.txns.any fun x => x.owner == .mirror && 1000000 * s.snap.mirTmo.toNat ≤ x.age

/-- MIRROR_ACK_TIMEOUT. -/
def execMirrorAckTimeout (s : State) : Res := need true (s.snap.mirror == 1 && !fwHalted s && mirrorLate s) (mirrorAbandon s)

/-- DRAIN_FLUSH_COMPLETE (14 R297): the completion record, then the event. -/
def execDrainFlushComplete (s : State) : Res :=
  need true (s.snap.drain == 1 && !fwHalted s && s.srun.drainStage == 1)
    (let slot := s.snap.targetSlot
     let hdr := wordsOf (peek s (slotBase s slot) 88)
     let rec_ : List Word := [
        BitVec.ofNat 64 (field (wordAt hdr 2) 63 32 ||| field (wordAt hdr 2) 31 0 <<< 32),
        BitVec.ofNat 64 (field (wordAt hdr 10) 31 0), 0, 0, 0, 0, 0, 0]
     let s0 := probe (slotBase s slot) 88 s
     let s1 := emit (.hostWrite (4096 * s.snap.drainAddr.toNat + slotBytes s) (bytesOfWords rec_) false) { s0 with
        snap := { s0.snap with drain := 2 }, srun := { s0.srun with drainStage := 0 }
        pci := { s0.pci with cntOutBytes := satAdd s0.pci.cntOutBytes 64 } }
     snapPhase (snapEv 0x85 (b2n slot) 0 0 s1))

/-- A write of CMT.SNAP.PUSH (11 T11-11). -/
def pushWrite (x : Wr) (s : State) : State :=
  rwk x [(15, 0)] (s.snap.pushState == 1) (fun t =>
    let dst := x.merge t.snap.pushDev 0
    let slot := x.flag t.snap.pushSlot 14
    if x.sets 15 then pushStart dst slot t else { t with snap := { t.snap with pushDev := dst, pushSlot := slot } }) s

end Sys2Proof.Machine
end

