-- ==== Sys2Proof/Machine/RegList.lean ====
section
/-! DEFINITION. Registers as data, and the blocks that a job page's register list may name (14 R288): DEV.GOV, DEV.RDX, CMT with its
windows and snapshots, PROG, ODT_BASE, HBM.SCRUB, LNK.RT and PCI.WW. -/

namespace Sys2Proof.Machine

open Sys2Proof

/-- A register in a state: what a read returns, its RW-K fields with whether their block is in use (18 T18-3), its RW-L fields
with the pending copy (18 R369), and what a write that is not ignored does. -/
structure Reg where
  val : Word
  locks : List (Nat × Nat) := []
  inUse : Bool := false
  latched : List (Nat × Nat) := []
  pend : Option Word := none
  put : Wr → State → State := fun _ s => s

/-- A register value from its fields: (lowest bit, value). -/
def pack (fs : List (Nat × Nat)) : Word := BitVec.ofNat 64 (fs.foldl (fun x (lo, v) => x ||| v <<< lo) 0)

/-- A register with RO fields only. -/
def Reg.ro (w : Word) : Reg := { val := w }

/-- A register whose RW-K fields are busy while a job is loaded. -/
def Reg.k (s : State) (w : Word) (locks : List (Nat × Nat)) (put : Wr → State → State) : Reg :=
  { val := w, locks := locks, inUse := jobLoaded s, put := put }

/-- A counter at the offset of its place in a list of counters from `base`, 8 bytes apart. -/
def counterAt (base : Nat) (cs : List Word) (o : Nat) : Option Reg :=
  if base ≤ o && o % 8 == 0 then (cs[(o - base) / 8]?).map Reg.ro else none

/-- The pending copy after a write of RW-L bits: over the copy that is pending, or over the value in force (18 R369). -/
def Wr.over (x : Wr) (base : Word) (latched : List (Nat × Nat)) : Word :=
  let m : Word := latched.foldl (fun m (hi, lo) => m ||| BitVec.ofNat 64 ((2 ^ (hi + 1 - lo) - 1) <<< lo)) 0
  ((base &&& ~~~x.mask) ||| (x.data &&& x.mask)) &&& m

/-! ## DEV.GOV (05 T5-9) -/

def govReg (s : State) (o : Nat) : Option Reg :=
  let g := s.gov
  match o with
  | 0x00 => some (.k s (pack [(0, b2n g.scope), (1, b2n g.enable), (32, g.shdSeed.toNat)]) [(1, 0), (63, 32)] fun x t =>
      { t with gov := { t.gov with
          scope := x.flag t.gov.scope 0, enable := x.flag t.gov.enable 1, shdSeed := x.merge t.gov.shdSeed 32 } })
  | 0x08 => some (.k s (pack [(12, g.ltabBase.toNat), (48, g.nLayersM1.toNat)]) [(43, 12), (59, 48)] fun x t =>
      { t with gov := { t.gov with ltabBase := x.merge t.gov.ltabBase 12, nLayersM1 := x.merge t.gov.nLayersM1 48 } })
  | 0x10 => some (.k s (pack [(7, g.lcntBase.toNat)]) [(43, 7)] fun x t =>
      { t with gov := { t.gov with lcntBase := x.merge t.gov.lcntBase 7 } })
  | 0x18 => some (.ro (pack [(0, b2n g.busy), (1, b2n s.cmt.epoch), (2, b2n g.exchWait), (32, g.lastStep.toNat)]))
  | _ => counterAt 0x20 [g.cntWiden, g.cntNarrow, g.cntReconv, g.cntRlogLost, g.cntDormWarn, g.cntFallback, g.cntShadow,
      g.cntCfgRetry] o

/-! ## DEV.RDX (09 T9-9) -/

/-- Free tags of the pools: backward 0 to 63, update 64 to 127, shared 128 to 255 (09 R198). -/
def freeTags (s : State) (lo hi : Nat) : Nat := ((s.rdx.tags.drop lo).take (hi - lo)).filter (·.isNone) |>.length

/-- A stream `q` of some thallus is held at BOPEN. -/
def tagHeld (s : State) (q : Nat) : Bool :=
  s.thl.any fun t => let k := t.strm.getD q {}; k.state == .held && k.why == .tag

def rdxCfg (s : State) : Word :=
  pack [(0, s.rdx.sealTmo.toNat), (16, b2n s.rdx.logBitmap), (32, s.rdx.tagwaitBwd.toNat), (48, s.rdx.tagwaitUpd.toNat)]

def rdxReg (s : State) (o : Nat) : Option Reg :=
  let r := s.rdx
  match o with
  | 0x00 =>
    let l := [(16, 0), (63, 32)]
    some { val := rdxCfg s, latched := l, pend := r.cfgPend, put := fun x t =>
      let w := x.over (t.rdx.cfgPend.getD (rdxCfg t)) l
      let t1 := { t with rdx := { t.rdx with cfgPend := some w } }
      if jobLoaded t then t1 else latchRdx t1 }
  | 0x08 => some (.k s (pack [(12, r.btabBase.toNat), (44, r.nBucketsM1.toNat)]) [(55, 12)] fun x t =>
      { t with rdx := { t.rdx with btabBase := x.merge t.rdx.btabBase 12, nBucketsM1 := x.merge t.rdx.nBucketsM1 44 } })
  | 0x10 => some (.k s (pack [(6, r.gtabBase.toNat), (44, r.nGroupsM1.toNat)]) [(51, 6)] fun x t =>
      { t with rdx := { t.rdx with gtabBase := x.merge t.rdx.gtabBase 6, nGroupsM1 := x.merge t.rdx.nGroupsM1 44 } })
  | 0x18 => some (.k s (pack [(12, r.clistBase.toNat)]) [(43, 12)] fun x t =>
      { t with rdx := { t.rdx with clistBase := x.merge t.rdx.clistBase 12 } })
  | 0x20 => some (.ro (pack [(0, freeTags s 0 64), (8, freeTags s 64 128), (16, freeTags s 128 256),
      (24, b2n (tagHeld s 1)), (25, b2n (tagHeld s 2))]))
  | _ => counterAt 0x40 [r.cntBuckets, r.cntEsc, r.cntLate, r.cntDropped, r.cntStale, r.cntNonfinite, r.cntTagwait, r.cntRelax,
      r.cntTxBytes, r.cntRxBytes] o

/-! ## CMT (10 T10-8) -/

def tmoVal (s : State) : Word :=
  pack [(0, s.cmt.collTmo.toNat), (32, s.cmt.stepTmo.toNat), (56, s.cmt.maxHops.toNat)]

/-- CMT.TMO takes its pending copy at once; its floors come at the first step start (18 T18-4). -/
def tmoNow (s : State) : State :=
  match s.cmt.tmoPend with
  | none => s
  | some w => { s with cmt := { s.cmt with
      tmoPend := none, collTmo := BitVec.ofNat 20 (field w 19 0), stepTmo := BitVec.ofNat 20 (field w 51 32) } }

def cmtStat (s : State) : Word :=
  let c := s.cmt
  let st := match c.state with
    | .idle => 0 | .running => 1 | .gathering => 2 | .reported => 3 | .aborting => 4 | .settling => 5 | .stopped => 6
  pack [(0, st), (4, c.worstRec.cls), (8, c.worstRec.cause), (16, c.worstRec.dev), (32, c.lastOutcome.toNat),
    (34, b2n c.lastCommitted), (35, b2n c.epoch), (36, b2n c.poisoned), (37, b2n c.excluded), (40, c.retryRun.toNat),
    (48, c.skipRun.toNat)]

def cmtReg (s : State) (o : Nat) : Option Reg :=
  let c := s.cmt
  match o with
  | 0x00 => some (.k s (pack [(0, c.nJob.toNat), (16, c.dropMax.toNat), (32, c.retryMax.toNat), (40, c.skipMax.toNat),
      (48, b2n c.haltHold)]) [(14, 0), (29, 16), (48, 32)] fun x t =>
      { t with cmt := { t.cmt with
          nJob := x.merge t.cmt.nJob 0, dropMax := x.merge t.cmt.dropMax 16, retryMax := x.merge t.cmt.retryMax 32
          skipMax := x.merge t.cmt.skipMax 40, haltHold := x.flag t.cmt.haltHold 48 } })
  | 0x08 =>
    let l := [(19, 0), (51, 32)]
    some { val := tmoVal s, latched := l, pend := c.tmoPend, put := fun x t =>
      let w := x.over (t.cmt.tmoPend.getD (tmoVal t)) l
      let t1 := { t with cmt := { t.cmt with tmoPend := some w } }
      if jobLoaded t then t1 else tmoNow t1 }
  | 0x10 => some (.k s (pack [(0, c.parent.toNat), (14, b2n c.root), (16, c.nChildren.toNat)]) [(14, 0), (22, 16)] fun x t =>
      { t with cmt := { t.cmt with
          parent := x.merge t.cmt.parent 0, root := x.flag t.cmt.root 14, nChildren := x.merge t.cmt.nChildren 16 } })
  | 0x18 => some (.k s (pack [(6, c.childBase.toNat)]) [(43, 6)] fun x t =>
      { t with cmt := { t.cmt with childBase := x.merge t.cmt.childBase 6 } })
  | 0x20 => some (.ro (cmtStat s))
  | 0x28 => some (.ro (pack [(0, c.step.toNat)]))
  | _ => counterAt 0x40 [c.cntCommit, c.cntRetry, c.cntSkip, c.cntRestart, c.cntDropped, c.cntLate, c.cntTmoRaised] o

/-! ## CMT.SNAP (11 T11-7) -/

def snapStat (s : State) : Word :=
  let n := s.snap
  pack [(0, n.phase.toNat), (2, b2n n.pend), (3, b2n n.latestValid), (4, b2n n.latestSlot), (5, b2n n.targetSlot),
    (6, n.mirror.toNat), (8, n.drain.toNat), (10, n.replay.toNat), (12, b2n n.disarmed), (16, n.latestStep.toNat)]

/-- The snapshot registers change by `f`. -/
def modSnap (f : SnapReg → SnapReg) (s : State) : State := { s with snap := f s.snap }

/-- Offsets 0x08 to 0x40. -/
def snapReg1 (s : State) (o : Nat) : Option Reg :=
  let n := s.snap
  match o with
  | 0x08 => some (.k s (pack [(0, n.periodS.toNat), (16, b2n n.mirrorEn), (17, b2n n.drainEn), (24, n.mirGbps.toNat),
      (32, n.drainGbps.toNat), (40, n.mirTmo.toNat)]) [(17, 0), (55, 24)] fun x => modSnap fun n => { n with
        periodS := x.merge n.periodS 0
        mirrorEn := x.flag n.mirrorEn 16, drainEn := x.flag n.drainEn 17
        mirGbps := x.merge n.mirGbps 24, drainGbps := x.merge n.drainGbps 32
        mirTmo := x.merge n.mirTmo 40 })
  | 0x10 => some (.k s (pack [(12, n.slot0.toNat)]) [(43, 12)] fun x => modSnap fun n => { n with slot0 := x.merge n.slot0 12 })
  | 0x18 => some (.k s (pack [(12, n.slot1.toNat)]) [(43, 12)] fun x => modSnap fun n => { n with slot1 := x.merge n.slot1 12 })
  | 0x20 => some (.k s (pack [(12, n.map.toNat)]) [(43, 12)] fun x => modSnap fun n => { n with map := x.merge n.map 12 })
  | 0x28 => some (.k s (pack [(0, n.partner.toNat)]) [(13, 0)] fun x => modSnap fun n =>
      { n with partner := x.merge n.partner 0 })
  | 0x30 => some (.k s (pack [(12, n.pslot0.toNat)]) [(43, 12)] fun x => modSnap fun n => { n with pslot0 := x.merge n.pslot0 12 })
  | 0x38 => some (.k s (pack [(12, n.pslot1.toNat)]) [(43, 12)] fun x => modSnap fun n => { n with pslot1 := x.merge n.pslot1 12 })
  | 0x40 => some (.k s (pack [(12, n.drainAddr.toNat)]) [(63, 12)] fun x => modSnap fun n =>
      { n with drainAddr := x.merge n.drainAddr 12 })
  | _ => none

def snapReg (s : State) (o : Nat) : Option Reg :=
  let n := s.snap
  match o with
  | 0x00 => some {
      val := pack [(0, b2n n.pend)], latched := [(0, 0)], pend := n.ctrlPend.map fun b => pack [(0, b2n b)]
      put := snapCtrlWrite }
  | 0x48 => some (.k s (pack [(6, n.rbmpBase.toNat), (44, n.rbmpStride.toNat)]) [(55, 6)] fun x => modSnap fun n =>
      { n with rbmpBase := x.merge n.rbmpBase 6, rbmpStride := x.merge n.rbmpStride 44 })
  | 0x50 => some (.ro (snapStat s))
  | 0x58 => some (.ro (pack [(0, n.lossCrc.toNat), (32, n.lossStep.toNat)]))
  | 0x60 => some { val := pack [(0, n.pushDev.toNat), (14, b2n n.pushSlot), (16, n.pushState.toNat)], put := pushWrite }
  | 0x68 => some {
      val := pack [(12, n.pushAddr.toNat)], locks := [(43, 12)], inUse := n.pushState == 1
      put := fun x => modSnap fun n => { n with pushAddr := x.merge n.pushAddr 12 } }
  | _ =>
    match snapReg1 s o with
    | some r => some r
    | none => counterAt 0x80 [s.srun.cntSnap, s.srun.cntAbandon, s.srun.cntHeld, s.srun.cntFillLines, s.srun.cntTapBytes,
        s.srun.cntMirrorBytes, s.srun.cntDrainBytes] o

/-! ## CMT.WIN (06 T6-10) -/

def modWin (k : Nat) (f : Win → Win) (s : State) : State := { s with win := s.win.modify k f }

def winReg (s : State) (k o : Nat) : Option Reg :=
  let w := s.win.getD k {}
  match o with
  | 0x00 => some (.k s (pack [(0, b2n w.en), (8, w.spanOff.toNat), (24, w.sizeM1.toNat)]) [(0, 0), (39, 8)] fun x =>
      modWin k fun w => { w with en := x.flag w.en 0, spanOff := x.merge w.spanOff 8, sizeM1 := x.merge w.sizeM1 24 })
  | 0x08 => some (.k s (pack [(21, w.copy0.toNat)]) [(43, 21)] fun x => modWin k fun w => { w with copy0 := x.merge w.copy0 21 })
  | 0x10 => some (.k s (pack [(21, w.copy1.toNat)]) [(43, 21)] fun x => modWin k fun w => { w with copy1 := x.merge w.copy1 21 })
  | _ => none

/-! ## Single registers -/

/-- THL[n].ODT_BASE (04 T4-16). -/
def odtReg (s : State) (n : Nat) : Reg :=
  let t := thlOf s n
  let l := [(23, 14)]
  { val := pack [(14, t.odtBase.toNat)], latched := l, pend := t.odtPend.map fun b => pack [(14, b.toNat)]
    put := fun x u =>
      let old := (thlOf u n).odtPend.getD (thlOf u n).odtBase
      let new := x.merge old 14
      if !x.touches 23 14 then u
      else if jobLoaded u then modThl n (fun t => { t with odtPend := some new }) u
      else modThl n (fun t => { t with odtBase := new }) u }

/-- THL[n].STRM[s].PROG (06 T6-6). -/
def progReg (s : State) (n q : Nat) : Reg :=
  let k := strmOf s n q
  { val := pack [(3, k.prog.toNat)], latched := [(43, 3)], pend := k.progPend.map fun b => pack [(3, b.toNat)]
    put := fun x u =>
      let old := (strmOf u n q).progPend.getD (strmOf u n q).prog
      let new := x.merge old 3
      if !x.touches 43 3 then u
      else if jobLoaded u then modStrm n q (fun k => { k with progPend := some new }) u
      else modStrm n q (fun k => { k with prog := new }) u }

/-- HBM.SCRUB (07 T7-6). -/
def scrubReg (s : State) : Reg :=
  .k s (pack [(0, s.scrubPeriod.toNat)]) [(7, 0)] fun x t => { t with scrubPeriod := x.merge t.scrubPeriod 0 }

/-- LNK.RT (13 T13-7). -/
def rtReg (s : State) : Reg := { val := pack [(6, s.lnk.rtBase.toNat)], put := rtWrite }

/-- PCI.WW[k] (14 T14-8). -/
def modWw (k : Nat) (f : WatchWin → WatchWin) (s : State) : State := { s with pci := { s.pci with ww := s.pci.ww.modify k f } }

def wwReg (s : State) (k o : Nat) : Option Reg :=
  let w := s.pci.ww.getD k {}
  match o with
  | 0 => some (.k s (pack [(0, b2n w.en), (1, b2n w.stepMode), (2, b2n w.allThalli), (3, w.thallus.toNat), (11, w.peg.toNat),
      (32, w.amount.toNat)]) [(16, 0), (63, 32)] fun x => modWw k fun w => { w with
        en := x.flag w.en 0, stepMode := x.flag w.stepMode 1, allThalli := x.flag w.allThalli 2
        thallus := x.merge w.thallus 3, peg := x.merge w.peg 11, amount := x.merge w.amount 32 })
  | 8 => some (.k s (pack [(3, w.trig.toNat)]) [(43, 3)] fun x => modWw k fun w => { w with trig := x.merge w.trig 3 })
  | _ => none

/-- The registers that a job page's register list may name (14 R288), by BAR0 offset. -/
def jobReg (s : State) (off : Nat) : Option Reg :=
  if 0x1000 ≤ off && off < 0x2000 then govReg s (off - 0x1000)
  else if 0x2000 ≤ off && off < 0x2100 then cmtReg s (off - 0x2000)
  else if 0x2100 ≤ off && off < 0x2800 then snapReg s (off - 0x2100)
  else if 0x2800 ≤ off && off < 0x2A00 then winReg s ((off - 0x2800) / 0x20) ((off - 0x2800) % 0x20)
  else if off == 0x3F08 then some (scrubReg s)
  else if 0x5000 ≤ off && off < 0x6000 then rdxReg s (off - 0x5000)
  else if off == 0x7010 then some (rtReg s)
  else if 0x8100 ≤ off && off < 0x8200 then wwReg s ((off - 0x8100) / 0x10) ((off - 0x8100) % 0x10)
  else if 0x01800000 ≤ off && off < 0x02000000 then
    let n := (off - 0x01800000) / 0x1000
    let o := (off - 0x01800000) % 0x1000
    if !hasThl s n then none
    else if o == 0x800 then some (odtReg s n)
    else if 0x900 ≤ o && o < 0x9C0 && (o - 0x900) % 0x40 == 8 then some (progReg s n ((o - 0x900) / 0x40))
    else none
  else none

/-- RW-L registers take their pending copies at once, as they do with no job loaded (18 T18-4); those of the shaper and of the
slices wait for their own points. -/
def latchIdle (s : State) : State :=
  tmoNow (latchRdx { s with thl := s.thl.map Thallus.latch, snap := { s.snap with ctrlPend := none } })

end Sys2Proof.Machine
end

