-- ==== Sys2Proof/Machine/HostLog.lean ====
section
/-! DEFINITION. What the device writes to host memory (14): the event log ring and its interrupts, time publications, the PTM pair;
and outbound errors. -/

namespace Sys2Proof.Machine

open Sys2Proof

/-- Log a host interface event (14 T14-9). -/
def hostEv (cause : Nat) (req : BitVec 16) (w2 w3 : Nat) (s : State) : State := logEv 6 0 cause (req.toNat <<< 8) w2 w3 s

/-! ## MSI-X (14 R295) -/

/-- Entry `v` of the MSI-X table: masked until software writes it. -/
def msixEntry (s : State) (v : Nat) : BitVec 128 :=
  match s.port.msix.find? (·.1 == v) with
  | some (_, e) => e
  | none => BitVec.ofNat 128 (2 ^ 96)

/-- The vector may not be sent: it is masked in its table entry or for the function, MSI-X is not enabled, or the device may not write to
the host (14 R295; log entry 41). -/
def msixMasked (s : State) (v : Nat) : Bool :=
  bit (msixEntry s v) 96 || s.port.msixMask || !s.port.msixOn || !s.port.busMaster

/-- Signal a vector, or set its pending bit while it is masked. -/
def signal (v : Nat) (s : State) : State :=
  if msixMasked s v then
    if s.port.pba.contains v then s else { s with port := { s.port with pba := s.port.pba ++ [v] } }
  else emit (.msix v) s

/-- Software writes entry `v`: a pending vector is signalled on unmask. -/
def msixWrite (v : Nat) (e : BitVec 128) (s : State) : State :=
  let s1 := { s with port := { s.port with msix := (s.port.msix.filter (·.1 != v)) ++ [(v, e)] } }
  if s1.port.pba.contains v && !msixMasked s1 v then
    emit (.msix v) { s1 with port := { s1.port with pba := s1.port.pba.filter (· != v) } }
  else s1

/-! ## The ring (14 R293, R294) -/

/-- The 64 bytes of a record with its sequence number. -/
def recBytes (seq : W32) (r : LogRec) : List Byte :=
  bytesOfWords [
    pack [(0, seq.toNat), (32, r.cause.toNat), (40, r.source.toNat), (44, r.cls.toNat), (48, r.jobTag.toNat)],
    r.w0, r.w1, r.w2, r.w3, 0, 0, 0]

/-- An urgent record (14 R295): causes 0x70, 0x71, 0xB0 to 0xB3, every stream halt, every record of class 3. -/
def urgent (r : LogRec) : Bool :=
  [0x70, 0x71, 0xB0, 0xB1, 0xB2, 0xB3].contains r.cause.toNat || r.cls == 3 ||
    ((r.source == 0 || r.source == 7) && bit r.w0 23)

/-- The record that tells of a loss (14 R294). -/
def lossRec (s : State) : LogRec :=
  { cause := 0xB6, source := 6, cls := 0, jobTag := if jobLoaded s then s.crun.jobTag else 0
    w0 := 0xB6, w1 := s.time.now, w2 := 0, w3 := BitVec.ofNat 64 s.log.lost }

/-- Records of a batch of `k`, after the record of a loss where there was one. -/
def batch (s : State) (k : Nat) : List LogRec :=
  if s.log.lost == 0 then s.log.buf.take k else lossRec s :: s.log.buf.take (k - 1)

/-- Free records of the ring. -/
def ringRoom (s : State) : Nat := 2 ^ s.pci.logSize.toNat - (s.pci.logProd - s.pci.logCons).toNat

/-- A batch of `k` records can be written. -/
def logReady (s : State) (k : Nat) : Bool :=
  s.pci.logEn && s.port.busMaster && s.port.linkUp && !s.port.inD3 && s.pwr.state != 4 &&
    0 < k && k ≤ s.log.buf.length + (if s.log.lost == 0 then 0 else 1) && k ≤ ringRoom s

/-- Write a batch and the producer index, then signal under PCI.LOG_CFG (14 R294, R295). -/
def logOut (k : Nat) (s : State) : State :=
  let rs := batch s k
  let base := 4096 * s.pci.logBase.toNat
  let s1 := rs.zipIdx.foldl (fun t (r, i) =>
    let at_ := (s.pci.logProd.toNat + i) % 2 ^ s.pci.logSize.toNat
    emit (.hostWrite (base + 64 * at_) (recBytes (s.log.nextSeq + BitVec.ofNat 32 i) r) false) t) s
  let prod := s.pci.logProd + BitVec.ofNat 32 k
  let s2 := emit (.hostWrite (s.pci.logProdAddr.toNat * 8) (bytesOf 8 prod.toNat) false) s1
  let unsig := s.log.unsignalled + k
  let s3 := { s2 with
    pci := { s2.pci with logProd := prod, cntOutBytes := satAdd s2.pci.cntOutBytes (64 * k + 8) }
    log := { s2.log with
      buf := s2.log.buf.drop (if s.log.lost == 0 then k else k - 1), lost := 0
      nextSeq := s2.log.nextSeq + BitVec.ofNat 32 k
      unsignalled := unsig
      irqTimer := if s.log.unsignalled == 0 then some (1000 * s.pci.irqUs.toNat) else s.log.irqTimer } }
  let quiet (t : State) : State := { t with log := { t.log with unsignalled := 0, irqTimer := none } }
  if rs.any urgent then quiet (signal s.pci.urgentVec.toNat s3)
  else if s.pci.irqCount.toNat ≤ unsig then quiet (signal s.pci.logVec.toNat s3)
  else s3

/-- LOG_WRITE: a batch of `k` records. -/
def execLogWrite (k : Nat) (s : State) : Res := need true (logReady s k) (logOut k s)

/-- LOG_IRQ_TIMER: irq_us after the first unsignalled record. -/
def execLogIrqTimer (s : State) : Res :=
  need true (s.log.irqTimer == some 0 && s.log.unsignalled != 0)
    (signal s.pci.logVec.toNat { s with log := { s.log with unsignalled := 0, irqTimer := none } })

/-! ## Time (14 R298, R299) -/

/-- A timer of a period in ms. -/
def msTimer (p : BitVec 16) : Timer := if p == 0 then none else some (1000000 * p.toNat)

/-- The 64 bytes of a time publication (14 T14-4). -/
def pubBytes (seq : Word) (s : State) : List Byte :=
  bytesOfWords [seq, s.time.now,
    pack [(0, s.time.frac.toNat), (32, s.time.role.toNat), (34, b2n s.time.locked), (35, b2n s.time.ppsInLocked)],
    s.pci.ptmLocal, s.pci.ptmMaster, pack [(0, s.pci.ptmDelay.toNat)], pack [(0, s.time.adj.toNat)], 0]

/-- TIME_PUBLISH: word 0 odd, then the whole record with the next, even value; skipped while Bus Master Enable is clear. -/
def execTimePublish (s : State) : Res :=
  need true (s.port.pubTimer == some 0)
    (let s1 := { s with port := { s.port with pubTimer := msTimer s.pci.pubPeriod } }
     if s.pci.pubPeriod == 0 || !s.port.busMaster || s.pwr.state == 4 then s1
     else
       let a := s.pci.pubAddr.toNat * 64
       let q := s.port.pubSeq + 1
       emit (.hostWrite a (pubBytes (q + 1) s) false) (emit (.hostWrite a (bytesOf 8 q.toNat) false) { s1 with
          port := { s1.port with pubSeq := q + 1 }, pci := { s1.pci with cntOutBytes := satAdd s1.pci.cntOutBytes 72 } }))

/-- PTM_DIALOG: its result, `none` where it failed. -/
def execPtmDialog (r : Option PtmResult) (s : State) : Res :=
  need true (s.port.ptmTimer == some 0 && s.port.ptmEn)
    (let s1 := { s with port := { s.port with ptmTimer := msTimer s.pci.ptmPeriod } }
     match r with
     | some x => { s1 with pci := { s1.pci with ptmLocal := x.local_, ptmMaster := x.master, ptmDelay := BitVec.ofNat 32 x.delay } }
     | none => { s1 with pci := { s1.pci with cntPtmFail := satAdd s1.pci.cntPtmFail 1 } })

/-- OUTBOUND_ERROR (14 R296). -/
def execOutboundError (addr : Word) (drain : Bool) (s : State) : Res :=
  always (let s1 := hostEv 0xB7 0 0 addr.toNat s
          if drain then drainAbandon s1 else s1)

end Sys2Proof.Machine
end

