-- ==== Sys2Proof/Machine/PowerOps.lean ====
section
/-! DEFINITION. Power states (15 R304 to R309): device power states, field cores and stacks going on and off, load steps that wait for
their admission. Log entries 31 and 32. -/

namespace Sys2Proof.Machine

open Sys2Proof

/-- The device power state that the job and the field cores give (15 T15-2), outside PS4. -/
def psNow (s : State) : Nat :=
  let used := (List.range 4).filter (fieldUsed s)
  if jobLoaded s then 0
  else if used.all (fun f => !fieldIsOn s f) then 3
  else if used.all (fieldIsOn s) then 1
  else 2

/-- Enter a power state; each transition logs cause 0xC0 (15 R306). -/
def enterPs (p : Nat) (s : State) : State :=
  if s.pwr.state.toNat == p then s
  else pwrEv 0xC0 s.pwr.state.toNat p 0 0 { s with pwr := { s.pwr with state := BitVec.ofNat 3 p } }

/-- The state follows the job and the field cores; while a load wakes the fields the device goes straight to PS0 (15 T15-3). -/
def pwrUpdate (s : State) : State := if s.pwr.state == 4 || s.pci.loading.isSome then s else enterPs (psNow s) s

/-- A thallus after its domain was reset: memories and latches clear, registers kept (15 R304, R307). -/
def Thallus.powerUp (t : Thallus) : Thallus :=
  { t with
    strm := t.strm.map Stream.reset
    core := t.core.map Core.reset
    runs := [], epochOpen := false, dma := List.replicate 4 []
    eng := t.eng.map fun e => { e with
      passes := [], acc := [], act := [], loadFailed := [], loadBusy := false, ovlpHold := false, dead := false } }

/-- Clear the stores and scratch of logical thallus `n`: zero with valid check bits. -/
def clearStores (n : Nat) (s : State) : State :=
  let here (a : Nat) : Bool :=
    (storeBase + 0x1000000 * n ≤ a && a < storeBase + 0x1000000 * (n + 1)) ||
      (scratchBase + 0x80000 * n ≤ a && a < scratchBase + 0x80000 * (n + 1))
  { s with mem := { s.mem with
      bytes := s.mem.bytes.filter fun (a, _) => !here a
      badWords := s.mem.badWords.filter fun w => !here (w * 8) } }

/-- The thalli of a field lose their memories and latches, which power-up also clears (15 R304, R307). -/
def clearField (f : Nat) (s : State) : State :=
  ((List.range s.thl.length).filter fun n => fieldOf s n == f).foldl (fun t n => clearStores n (modThl n Thallus.powerUp t)) s

/-- Peg posts that were held at the clamp of field `f` are made (15 R307). -/
def heldPosts (f : Nat) (s : State) : State :=
  let mine := s.prun.posts.filter fun (n, _, _) => fieldOf s n == f
  mine.foldl (fun t (n, p, amount) => postPeg n p amount 6 3 0 t)
    { s with prun := { s.prun with posts := s.prun.posts.filter fun x => !mine.contains x } }

/-- A field core has power good: reset, cleared, its clamps released (15 R307); its stacks are active. -/
def fieldUp (f : Nat) (s : State) : State :=
  if fieldIsOn s f then s
  else
    let s1 := clearField f s
    heldPosts f (touchField f true (touchField f false { s1 with
      pwr := { s1.pwr with fieldOn := setBit4 s1.pwr.fieldOn f true, hbmActive := setBit4 s1.pwr.hbmActive f true }
      prun := { s1.prun with
        clamped := setBit4 s1.prun.clamped f false, waking := setBit4 s1.prun.waking f false
        hbmWaking := setBit4 s1.prun.hbmWaking f false } }))

/-- The stacks of a field leave self-refresh. -/
def hbmUp (f : Nat) (s : State) : State :=
  touchField f false { s with
    pwr := { s.pwr with hbmActive := setBit4 s.pwr.hbmActive f true }
    prun := { s.prun with hbmWaking := setBit4 s.prun.hbmWaking f false } }

/-- A field core goes off: clamps engaged, switch opened, its latches and memories lost, its stacks in self-refresh. -/
def fieldDown (f : Nat) (s0 : State) : State :=
  let s := clearField f s0
  { s with
    pwr := { s.pwr with fieldOn := setBit4 s.pwr.fieldOn f false, hbmActive := setBit4 s.pwr.hbmActive f false }
    prun := { s.prun with
      clamped := setBit4 s.prun.clamped f true, offPend := setBit4 s.prun.offPend f false
      idle := s.prun.idle.set f none, hbmIdle := s.prun.hbmIdle.set f none } }

/-- The domains that a job load still has to wake: field cores with an enabled thallus, and stacks of the other fields or of cores that
are on (15 T15-2, T15-3). -/
def loadSleeps (s : State) : List Admit :=
  (List.range 4).filterMap fun f =>
    if fieldUsed s f && !fieldIsOn s f then some (.field f)
    else if !hbmIsActive s f then some (.hbm f)
    else none

/-! ## Going off -/

/-- No request into or out of a field core is in progress (15 R307): no pass, DMA, run or load, and no slice in it. -/
def fieldQuiet (s : State) (f : Nat) : Bool :=
  (List.range s.thl.length).all fun n => fieldOf s n != f ||
    (let t := thlOf s n
     t.eng.all (fun e => e.passes.isEmpty && !e.loadBusy && !e.sliceHold) && t.dma.all (·.isEmpty) && t.runs.isEmpty)

/-- A request waits for the field or its stacks. -/
def fieldWanted (s : State) (f : Nat) : Bool :=
  s.prun.wants.any fun a => ((resolve s a).bind (sleeper s)).any fun d => d.fieldIdx == f

/-- Links out of service for PS4, their enables kept (15 R306). -/
def linksOff (s : State) : State :=
  (List.range 32).foldl (fun t l =>
    if hasLink t l && (linkOf t l).state != .disabled then
      sendCtl l .disable (loseTxns l (fun k => { k with state := .disabled, width := 0, trainTimer := none }) t)
    else t) s

/-- Enabled links train again on leaving PS4. -/
def linksOn (s : State) : State :=
  (List.range 32).foldl (fun t l => if hasLink t l && (linkOf t l).enable && (linkOf t l).state == .disabled then train l t else t) s

/-- Field cores that wait to go off do so once they are quiet, and PS4 is entered once all are off (15 R307, 17 R361). -/
def obeyOff (s : State) : State :=
  if jobLoaded s || s.pci.loading.isSome then s
  else
    let s1 := (List.range 4).foldl (fun t f =>
      if t.prun.offPend.getLsbD f && fieldIsOn t f && fieldQuiet t f then fieldDown f t else t) s
    if s1.prun.sleepPend && s1.prun.waking == 0 && s1.pwr.cur == 0 && (List.range 4).all fun f => !fieldIsOn s1 f then
      enterPs 4 (linksOff { s1 with
        pwr := { s1.pwr with hbmActive := 0 }
        prun := { s1.prun with sleepPend := false, hbmIdle := List.replicate 4 none } })
    else pwrUpdate s1

/-- Ask for PS4, which the device enters at voltage step V0 (15 T15-2, T15-3). -/
def goSleep (s : State) : State :=
  if s.pwr.state == 4 then s
  else obeyOff { s with
    pwr := { s.pwr with vtarget := if jobLoaded s then s.pwr.vtarget else 0 }
    prun := { s.prun with
      sleepPend := true, offPend := s.pwr.fieldOn ||| s.prun.waking
      loadSteps := if s.pci.loading.isSome then s.prun.loadSteps else s.prun.loadSteps.filter fun (_, a, _) => a == .slice } }

/-- Something wakes the device domain from PS4 (15 T15-3). -/
def leaveSleep (s : State) : State :=
  if s.pwr.state == 4 then { s with prun := { s.prun with leaving := true } }
  else { s with prun := { s.prun with sleepPend := false } }

end Sys2Proof.Machine
end

