-- ==== Sys2Proof/Machine/Job.lean ====
section
/-! DEFINITION. Loading and unloading a job (14 R288 to R290), with the job-load checks of the other chapters and restore (11 R254).
Log entry 33. -/

namespace Sys2Proof.Machine

open Sys2Proof

/-! ## Unload (14 R290) -/

/-- A snapshot in progress is abandoned: armed or sealing (11 R247, R248), mirror and drain (11 R249). -/
def snapUnload (s : State) : State :=
  let s1 := if s.snap.phase == 2 then { s with snap := { s.snap with phase := 1 } } else s
  let s2 := mirrorAbandon (drainAbandon (abandonSnap false s1))
  { s2 with
    snap := { s2.snap with replay := 0, disarmed := false }
    srun := { s2.srun with fillDone := false, barrier := false, noWait := false, verify := none, periodTimer := none } }

/-- Firmware retrains every degraded link, and links that await a step start become willing (13 R265, R266). -/
def linksUnload (s : State) : State :=
  (List.range 32).foldl (fun t l =>
    if !hasLink t l then t
    else if (linkOf t l).state == .up && (linkOf t l).width != 1 then ask 1 (.link l) t
    else becomeWilling l t) s

/-- The unload of a loaded job. -/
def unload (req : BitVec 16) (s : State) : State :=
  let s1 := snapUnload (govClear (clearPegs (rdxClear (stopWork s))))
  let s2 := hostEv 0xB3 req 0 0 s1
  let s3 := { s2 with
    cmt := { s2.cmt with state := .idle, poisoned := false, excluded := false }
    crun := {}
    gov := { s2.gov with cfgUse := [], rlogUsed := [] }
    sec := { s2.sec with meas := s2.sec.meas.set 4 0 }
    pci := { s2.pci with jobState := 0 }
    pwr := { s2.pwr with vtarget := 0 } }
  linksUnload (pwrUpdate (latchIdle ((List.range 4).foldl (fun t f =>
    if fieldIsOn t f then touchField f true (touchField f false t) else t) s3)))

/-- The unload command: without a job it does nothing. -/
def jobUnload (req : BitVec 16) (s : State) : State := if jobLoaded s then unload req s else s

/-! ## The page and its register list (14 R288) -/

/-- An entry of the register list: the register's BAR0 offset and the value. -/
def listEntry (s : State) (a i : Nat) : Nat × Word :=
  (field (peekWord s (a + 16 * i)) 25 3 * 8, peekWord s (a + 16 * i + 8))

/-- The bytes of the register list (16 T16-5, measurement 5). -/
def listBytes (s : State) (page : Nat) : List Byte :=
  peek s (field (peekWord s (page + 24)) 43 0) (16 * field (peekWord s (page + 24)) 63 48)

/-- Write the list's registers in list order; no lock applies (14 R289 step 3). -/
def writeList (s0 : State) (a : Nat) (n : Nat) (s : State) : State :=
  (List.range n).foldl (fun t i =>
    let (off, v) := listEntry s0 a i
    match jobReg t off with
    | some r => r.put { who := .host 0, off := off, data := v } t
    | none => t) s

/-! ## Checks -/

/-- Why a load is refused: the cause, the failing index for JOB_STAT (log entry 33), and what word 0 of its event names (a layer and
direction, or a bucket). -/
structure Refuse where
  cause : Nat
  index : Nat
  w : Nat := 0
deriving DecidableEq, Repr, Inhabited

/-- The event of a refused load. -/
def refuseEv (r : Refuse) (page : Nat) (s : State) : State :=
  if r.cause == 0x24 then logEv 1 0 0x24 r.w s.cmt.step.toNat r.index s
  else if r.cause == 0x34 then logEv 0 0 0x34 (engW0 0 0 3 0 false) 0 0 s
  else if r.cause == 0x64 then rdxEv 0 0x64 r.w (self s) 0 s
  else if r.cause == 0x7B then cmtEv 3 0x7B (self s) 0 0 s
  else if r.cause == 0x8C then snapEv 0x8C 0 s.snap.partner.toNat r.index s
  else if r.cause == 0x30 then logEv 0 0 0x30 (engW0 0 0 3 0 false) (page + 8) 8 s
  else snapEv 0x87 0 0 r.index s

/-- Ladder formats (05 R104). -/
def ladderOk (c : Nat) : Bool := c ≤ 0x07 || (0x10 ≤ c && c ≤ 0x14)

/-- Rung `i + 1` is strictly wider than rung `i`. -/
def rungWider (a b : Nat) : Bool := precBits a < precBits b || (precBits a == precBits b && ladderEmax a < ladderEmax b)

/-- The failing word of one direction, if any, as an offset in words from the start of the layer entry (05 R104, T5-13). -/
def dirBad (s : State) (l d : Nat) (ws : List Word) : Option Nat :=
  let c := readConf ((ws.drop (8 + 8 * d)).take 8)
  let fs := c.fmts.take (c.rungsM1 + 1)
  let x := dirState s (stateAddr s l d 0)
  if fs.any (fun f => !ladderOk f) || (c.mode != 2 && fs.any isMx) || (c.mode == 2 && fs.any fun f => !isMx f) ||
      (List.zip fs (fs.drop 1)).any (fun (a, b) => !rungWider a b) then some (8 + 8 * d)
  else if c.rungsM1 < x.rung || c.depth < x.histN then some (0x20 + 0x10 * d)
  else if x.eOut < -40 || 40 < x.eOut then some (0x21 + 0x10 * d)
  else none

/-- The direction and the failing word of a layer, if any. -/
def layerBad (s : State) (l : Nat) : Option (Nat × Nat) :=
  let ws := peekWords s (layerAddr s l) 24
  if !bit (wordAt ws 0) 32 then none
  else if bit (wordAt ws 0) 0 then some (0, 0)
  else
    match dirBad s l 0 ws with
    | some o => some (0, o)
    | none => (dirBad s l 1 ws).map fun o => (1, o)

/-- The layer table. -/
def layerReads (s : State) : List (Nat × Nat) := (List.range (nLayers s)).map fun l => (layerAddr s l, 1024)

/-- Formats (05 R104), cause 0x24. -/
def checkFormats (s : State) : Option Refuse :=
  ((List.range (nLayers s)).findSome? fun l => (layerBad s l).map fun o => (l, o)).map fun (l, d, o) =>
    { cause := 0x24, index := o, w := l <<< 8 ||| d <<< 20 ||| rungBits s l d }

/-- Two ranges overlap. -/
def cross (a b : Nat × Nat) : Bool := a.1 < b.1 + b.2 && b.1 < a.1 + a.2 && a.2 != 0 && b.2 != 0

/-- Some two entries of a list of ranges overlap. -/
def anyCross : List (Nat × Nat) → Bool
  | [] => false
  | r :: rs => rs.any (cross r) || anyCross rs

/-- The HBM ranges of all window copies. -/
def copyRanges (s : State) : List (Nat × Nat) :=
  (enWins s).flatMap fun (_, w) => [(w.copyBase false, w.bytes), (w.copyBase true, w.bytes)]

/-- Epoch windows (06 R136), cause 0x34. -/
def checkWindows (s : State) : Option Refuse :=
  let spans := (enWins s).map fun (_, w) => (w.start, w.bytes)
  if anyCross spans || anyCross (copyRanges s) || (copyRanges s).any fun r => hbmBytes s < r.1 + r.2 then
    some { cause := 0x34, index := 0 }
  else none

/-- A list names an identifier twice. -/
def repeats : List Nat → Bool
  | [] => false
  | x :: xs => xs.contains x || repeats xs

/-- Members of group `g`. -/
def groupDevs (s : State) (g : Nat) : List Nat :=
  let a := s.rdx.gtabBase.toNat * 64 + 16 * g
  let la := field (peekWord s (a + 8)) 43 0
  (List.range (field (peekWord s a) 14 0)).map fun i => natOf (peek s (la + 2 * i) 2) % 16384

/-- A group is refused (09 R193). -/
def groupBad (s : State) (g : Nat) : Bool :=
  let w := peekWord s (s.rdx.gtabBase.toNat * 64 + 16 * g)
  let n := field w 14 0
  n == 0 || 16384 < n || repeats (groupDevs s g) || (bit w 30 && (groupDevs s g)[field w 29 16]? != some (self s))

/-- A bucket is refused (09 R192). -/
def bucketBad (s : State) (b : Nat) : Bool := bktElems s b == 0 || bktShard s b == 0 || bktShard s b % 32 != 0

/-- The group table with the lists it names, and the bucket table. -/
def groupReads (s : State) : List (Nat × Nat) :=
  (List.range (s.rdx.nGroupsM1.toNat + 1)).flatMap (fun g =>
    let a := s.rdx.gtabBase.toNat * 64 + 16 * g
    [(a, 16), (field (peekWord s (a + 8)) 43 0, 2 * field (peekWord s a) 14 0)]) ++
  (List.range (nBuckets s)).map fun b => (bktAddr s b, 128)

/-- Groups and buckets, cause 0x64. -/
def checkGroups (s : State) : Option Refuse :=
  match (List.range (s.rdx.nGroupsM1.toNat + 1)).find? (groupBad s) with
  | some g => some { cause := 0x64, index := g }
  | none => ((List.range (nBuckets s)).find? (bucketBad s)).map fun b => { cause := 0x64, index := b, w := b }

/-- The list of children in the commit tree (10 R221). -/
def childList (s : State) : List Nat :=
  (List.range s.cmt.nChildren.toNat).map fun i => natOf (peek s (s.cmt.childBase.toNat * 64 + 2 * i) 2) % 16384

/-- What is read for it. -/
def treeReads (s : State) : List (Nat × Nat) := [(s.cmt.childBase.toNat * 64, 2 * s.cmt.nChildren.toNat)]

/-- The commit tree (10 R221), cause 0x7B. -/
def checkTree (s : State) : Option Refuse :=
  if 64 < s.cmt.nChildren.toNat || (childList s).contains (self s) || (!s.cmt.root && s.cmt.parent.toNat == self s) then
    some { cause := 0x7B, index := 0 }
  else none

/-- Snapshot configuration (11 R252), cause 0x8C, with the failing register's BAR0 offset. -/
def checkSnap (s : State) : Option Refuse :=
  let slot0 := (4096 * s.snap.slot0.toNat, slotBytes s)
  let slot1 := (4096 * s.snap.slot1.toNat, slotBytes s)
  let map := (4096 * s.snap.map.toNat, mapBytes s)
  let bad (r : Nat × Nat) (others : List (Nat × Nat)) : Bool :=
    others.any (cross r) || (copyRanges s).any (cross r) || hbmBytes s < r.1 + r.2
  let fail (o : Nat) : Option Refuse := some { cause := 0x8C, index := 0x2100 + o }
  if bad slot0 [slot1, map] then fail 0x10
  else if bad slot1 [map] then fail 0x18
  else if bad map [] then fail 0x20
  else if s.snap.mirrorEn && !s.part.mirror then fail 0x08
  else if s.snap.partner.toNat == self s then fail 0x28
  else if s.snap.drainEn && s.snap.drainAddr == 0 then fail 0x40
  else none

/-- Sequence length (06 R145), cause 0x30 with the offset in the job page. -/
def checkSeq (s : State) (page : Nat) : Option Refuse :=
  if 2097152 < field (peekWord s (page + 8)) 53 32 then some { cause := 0x30, index := 8 } else none

/-! ## Restore (11 R254) -/

/-- Contents of a range of HBM copied to another. -/
def moveRange (src dst n : Nat) (s0 s : State) : State :=
  let s1 := zeroPhys dst n s
  s0.mem.bytes.foldl (fun t (a, b) => if src ≤ a && a < src + n then poke (dst + (a - src)) [b] t else t) s1

/-- The first check of Table 11-4 that the image at `a` fails, or check 6 for a replay under another release (11 R256). -/
def restoreBad (s : State) (page a : Nat) : Option Nat :=
  let hdr := peek s a 88
  let ws := wordsOf hdr
  let w := winBytes s
  let st := 256 * nLayers s + 8 * nBuckets s
  if (badIn s a 88).isSome || !headerValid hdr then some 1
  else if field (wordAt ws 1) 15 0 != field (peekWord s (page + 8)) 15 0 then some 2
  else if field (wordAt ws 9) 31 0 != layoutCrc s || field (wordAt ws 1) 29 25 != (enWins s).length ||
      field (wordAt ws 4) 43 32 != s.gov.nLayersM1.toNat || field (wordAt ws 4) 55 44 != s.rdx.nBucketsM1.toNat then some 3
  else if field (wordAt ws 1) 24 17 != s.thl.length then some 4
  else if (badIn s (a + 4096) (w + st)).isSome || field (wordAt ws 6) 31 0 != crc32c (peek s (a + 4096) w) ||
      field (wordAt ws 6) 63 32 != crc32c (peek s (a + 4096 + w) st) then some 5
  else if bit (peekWord s (page + 8)) 17 && field (wordAt ws 4) 31 0 != s.sec.fwRelease.toNat then some 6
  else none

/-- What the restore checks read: the header, and the image where the header passes. -/
def restoreReads (s : State) (page : Nat) : List (Nat × Nat) :=
  let a := field (peekWord s (page + 16)) 43 0
  if !bit (peekWord s (page + 8)) 16 then []
  else match restoreBad s page a with
    | some 1 | some 2 | some 3 | some 4 => [(a, 88)]
    | _ => [(a, 88), (a + 4096, winBytes s + 256 * nLayers s + 8 * nBuckets s)]

/-- Restore, where the job page asks for it. -/
def checkRestore (s : State) (page : Nat) : Option Refuse :=
  if !bit (peekWord s (page + 8)) 16 then none
  else (restoreBad s page (field (peekWord s (page + 16)) 43 0)).map fun k =>
    { cause := 0x87, index := k }

/-- Copy a checked image into place and record what it says. -/
def restore (page : Nat) (s : State) : State :=
  let a := field (peekWord s (page + 16)) 43 0
  let ws := wordsOf (peek s a 88)
  let w := winBytes s
  let s1 := (enWins s).foldl (fun t (k, win) => moveRange (a + imageOff s k) (win.copyBase false) win.bytes s t) s
  let s2 := (List.range (nLayers s)).foldl (fun t l =>
    writeMem .unit (stateAddr s l 0 0) (peek s (a + 4096 + w + 256 * l) 256) t) s1
  let s3 := (List.range (nBuckets s)).foldl (fun t b =>
    writeMem .unit (bktAddr s b + 32) (peek s (a + 4096 + w + 256 * nLayers s + 8 * b) 8) t) s2
  let slot1 := a == slotBase s true
  let isLocal := slot1 || a == slotBase s false
  let step := BitVec.ofNat 32 (field (wordAt ws 2) 31 0)
  let replay := bit (peekWord s (page + 8)) 17
  snapEv 0x88 (b2n slot1) 0 0 { s3 with
    cmt := { s3.cmt with step := step }
    snap := { s3.snap with
      latestValid := isLocal, latestSlot := isLocal && slot1, latestStep := if isLocal then step else 0
      replay := if replay then 1 else 0 }
    srun := { s3.srun with
      verify := if replay then some (step, bit (wordAt ws 0) 41, BitVec.ofNat 32 (field (wordAt ws 7) 63 32)) else none } }

/-! ## Load (14 R289) -/

/-- A refused load: its event, JOB_STAT, no job loaded. -/
def refuseLoad (cause index : Nat) (flag : Bool) (s : State) : State :=
  pwrUpdate { s with pci := { s.pci with
    jobState := if jobLoaded s then s.pci.jobState else 4
    jobCause := BitVec.ofNat 8 cause, jobIndex := BitVec.ofNat 32 index, jobFlag := flag } }

/-- Refusal with cause 0xB2: word 3 of its event. -/
def refusePage (req : BitVec 16) (page index : Nat) (flag : Bool) (s : State) : State :=
  refuseLoad 0xB2 index flag (hostEv 0xB2 req page (index ||| (b2n flag) <<< 32) s)

/-- Magic or version is wrong. -/
def pageHead (s : State) (page : Nat) : Bool :=
  field (peekWord s page) 31 0 != 0x4F5A4A50 || field (peekWord s page) 39 32 != 1

/-- Devices of the job that this device knows: group members, parent, children. -/
def jobDevs (s : State) : List Nat :=
  (List.range (s.rdx.nGroupsM1.toNat + 1)).flatMap (groupDevs s) ++ childList s ++ (if s.cmt.root then [] else [s.cmt.parent.toNat])

/-- CMT.TMO.max_hops (10 R236, 13 R272). -/
def jobHops (s : State) : Nat := (jobDevs s).foldl (fun m d => max m (entryHops (rtEntry s d))) 0

/-- Bucket state copies and digests that firmware writes (09 R192). -/
def initBuckets (s : State) : State :=
  (List.range (nBuckets s)).foldl (fun t b =>
    let w1 := bktWord s b 1
    let e := field w1 39 32
    let dg := crc32c (bytesOf 8 (field (bktWord s b 0) 42 0) ++ bytesOf 8 w1.toNat)
    writeWords (bktAddr s b + 32) [BitVec.ofNat 64 e, BitVec.ofNat 64 e, BitVec.ofNat 64 dg] t) s

/-- Load the activation image into every engine (04 R88), up to the first load that fails (04 R389); answers whether none did. -/
def loadActs (a : Nat) (s : State) : State × Bool :=
  if a == 0 then (s, true)
  else
    ((List.range s.thl.length).flatMap fun n => (List.range 4).map fun m => (n, m)).foldl (fun (t, ok) (n, m) =>
      if ok then actLoadEnd n m (modEng n m (fun e => { e with actBase := BitVec.ofNat 38 (a / 64), actSlot := 0 }) t)
      else (t, false)) (s, true)

/-- The memory cause of a failed read of the activation image at `a` (04 R389): HBM, or a store. -/
def actCause (s : State) (a : Nat) : Nat := if (resolve s a).any isHbm then 0x43 else 0x42

/-- Entry `i` of the register list at `a` fails: its read returns no data (07 R161), or it names no register that a list may name. -/
def entryBad (a i : Nat) (s : State) : State × Bool :=
  match readMem .unit (a + 16 * i) 16 s with
  | (s1, none) => (s1, true)
  | (s1, some _) => (s1, (jobReg s1 (listEntry s1 a i).1).isNone)

/-- Step 2 of a load: the first header word or list entry that fails, in order (14 R289); an uncorrectable header fails as word 0 (log
entry 33). -/
def pageCheck (page : Nat) (s : State) : State × Option (Nat × Bool) :=
  match readMem .unit page 64 s with
  | (s1, none) => (s1, some (0, false))
  | (s1, some _) =>
    let w3 := peekWord s1 (page + 24)
    if pageHead s1 page then (s1, some (0, false))
    else if field w3 3 0 != 0 then (s1, some (3, false))
    else (List.range (field w3 63 48)).foldl (fun (t, r) i =>
      if r.isSome then (t, r)
      else match entryBad (field w3 43 0) i t with
        | (t1, bad) => (t1, if bad then some (i, true) else none)) (s1, none)

/-- Step 3 of a load: the defaults and the register list are written, a routing load under way ends (14 R289). -/
def loadRegs (page : Nat) (s : State) : State :=
  let w3 := peekWord s (page + 24)
  let s1 := writeList s (field w3 43 0) (field w3 63 48) { s with
    gov := { s.gov with scope := true, enable := true, shdSeed := 0 } }
  if s1.lnk.rtBusy then rtLoad s1 else s1

/-- The checks of a load in their order, each with the memory that firmware reads for it. -/
def loadChecks (page : Nat) (s : State) : List (List (Nat × Nat) × Option Refuse) :=
  [(layerReads s, checkFormats s), ([], checkWindows s), (groupReads s, checkGroups s), (treeReads s, checkTree s), ([], checkSnap s),
    ([], checkSeq s page), (restoreReads s page, checkRestore s page)]

/-- The first check of a load that fails, with the events of the reads up to it (00 R4, 07 R154, R161). -/
def loadCheck (page : Nat) (s : State) : State × Option Refuse :=
  (loadChecks page s).foldl (fun (t, r) (rs, c) => if r.isSome then (t, r) else (probes rs t, c)) (s, none)

/-- What a load sets once its checks pass. -/
def loadInit (page : Nat) (s : State) : State :=
  initBuckets { s with
    cmt := { s.cmt with
      step := BitVec.ofNat 32 (field (peekWord s (page + 40)) 31 0)
      epoch := false, state := .running, worstRec := {}, poisoned := false, excluded := false, retryRun := 0, skipRun := 0
      maxHops := BitVec.ofNat 8 (jobHops s) }
    crun := { jobTag := BitVec.ofNat 16 (field (peekWord s (page + 8)) 15 0), startDue := true, kids := childList s }
    gov := { s.gov with cfgUse := (List.range (nLayers s)).map fun l => (l, peekWords s (layerAddr s l) 24) }
    snap := { s.snap with phase := 0, latestValid := false, latestSlot := false, latestStep := 0, mirror := 0, drain := 0, replay := 0 }
    srun := { s.srun with seq := 0, periodTimer := snapPeriod s, verify := none } }

/-- The job is loaded. -/
def loadDone (req : BitVec 16) (page : Nat) (s : State) : State :=
  settle (pwrUpdate (hostEv 0xB0 req page 0 (adjLoaded { s with
    pci := { s.pci with jobState := 2 }
    sec := { s.sec with meas := s.sec.meas.set 4 (digest (listBytes s page)) }
    pwr := { s.pwr with vtarget := s.pwr.vmax }
    prun := { s.prun with compatRamp := false, offPend := 0, sleepPend := false } })))

/-- The activation image, restore where the page asks for it, and the end of the load. -/
def loadRest (req : BitVec 16) (page : Nat) (s : State) : State :=
  let a := field (peekWord s (page + 32)) 43 0
  match loadActs a s with
  | (s1, false) => refusePage req page (actCause s1 a) false s1
  | (s1, true) =>
    let s2 := loadInit page s1
    loadDone req page (if bit (peekWord s (page + 8)) 16 then restore page s2 else s2)

/-- Steps 3 to 6 of a load whose page is good: register list, checks, restore, and the job is loaded. -/
def loadJob (req : BitVec 16) (page : Nat) (s : State) : State :=
  match loadCheck page (loadRegs page s) with
  | (s1, some r) => refuseLoad r.cause r.index false (refuseEv r page s1)
  | (s1, none) => loadRest req page s1

/-- The checks of a load and all that follows, in a device that is awake. -/
def loadNow (req : BitVec 16) (page : Nat) (s : State) : State :=
  match pageCheck page s with
  | (s1, some (i, f)) => refusePage req page i f s1
  | (s1, none) => loadJob req page s1

/-- A load under way goes on once every domain that it needs is awake; firmware asks for their wakes, and does nothing while its core
is halted (15 T15-3, 16 R346). -/
def loadGo (s : State) : State :=
  match s.pci.loading with
  | none => s
  | some (req, page) =>
    if fwHalted s then s
    else
      match loadSleeps s with
      | [] => loadNow req page { s with pci := { s.pci with loading := none } }
      | ds => ds.foldl (fun t d => ask 1 d t) s

/-- The load command; while a load is under way another does nothing (log entry 33). -/
def jobLoad (req : BitVec 16) (page : Nat) (s : State) : State :=
  if s.pci.loading.isSome then s
  else if jobLoaded s then refuseLoad 0xB1 0 false (hostEv 0xB1 req page 0 s)
  else if s.bist.unusable then refusePage req page 0xF3 false s
  else if s.sec.fwState == 1 then refusePage req page 0xD6 false s
  else if s.dbg.level == 3 then refusePage req page 0 false s
  else
    loadGo { s with
      pci := { s.pci with loading := some (req, page), jobState := 1 }
      prun := { s.prun with offPend := 0, sleepPend := false } }

end Sys2Proof.Machine
end

