-- ==== Sys2Proof/Machine/Boot.lean ====
section
/-! DEFINITION. The firmware image, boot, recovery and the stored image's update (16 R325 to R333). Log entry 34. -/

namespace Sys2Proof.Machine

open Sys2Proof

/-- Log a security event (16 T16-13). -/
def secEv (cause reason w3 : Nat) (s : State) : State :=
  logEv 10 0 cause (reason <<< 8 ||| s.dbg.level.toNat <<< 12) (if jobLoaded s then s.cmt.step.toNat else 0) w3 s

/-! ## Image checks (16 T16-1, T16-3) -/

/-- Little-endian field of an image header. -/
def imgField (img : List Byte) (off n : Nat) : Nat := natOf ((img.drop off).take n)

def imgKeyIdx (img : List Byte) : Nat := imgField img 6 2
def imgRelease (img : List Byte) : Nat := imgField img 8 4
def imgSvn (img : List Byte) : Nat := imgField img 12 4
def imgLen (img : List Byte) : Nat := imgField img 16 4
def imgBody (img : List Byte) : List Byte := (img.drop 1024).take (imgLen img)

/-- SHA-256 of header bytes 64 to 451. -/
def imgKeyHash (img : List Byte) : BitVec 256 := digest ((img.drop 64).take 388)

/-- The first check that an image fails, as its reason, or `none` where it is valid. -/
def imgBad (p : Part) (img : List Byte) : Option Nat :=
  let len := imgLen img
  let entry := imgField img 20 4
  if imgField img 0 4 != 0x4F5A4657 || imgField img 4 2 != 1 then some 2
  else if len == 0 || 12581888 < len || entry % 4 != 0 || len ≤ entry || beNat ((img.drop 448).take 4) != 65537 ||
      ((img.drop 896).take 128).any (· != 0) then some 3
  else if 3 < imgKeyIdx img || p.revoked.getLsbD (imgKeyIdx img) then some 4
  else if imgKeyHash img != p.keyHash.getD (imgKeyIdx img) 0 then some 5
  else if imgSvn img < p.minSvn then some 6
  else if !pssVerify ((img.drop 64).take 384) ((img.drop 448).take 4) ((img.drop 512).take 384) (sha256 (img.take 512)) then some 7
  else if sha256 (imgBody img) != (img.drop 32).take 32 then some 8
  else none

/-! ## Boot (16 R327) -/

/-- Enter or stay in recovery with a reason (16 R328). -/
def recover (reason : Nat) (s : State) : State :=
  secEv 0xD1 reason 0 { s with sec := { s.sec with stage := 1, reason := BitVec.ofNat 4 reason } }

/-- fw_release and svn as word 3 of an event. -/
def fwWord (img : List Byte) : Nat := imgRelease img ||| (imgSvn img % 128) <<< 32

/-- Steps 5 to 7 of Table 16-2: unwrap the identity key, record the measurements, jump to the entry. -/
def startImage (img : List Byte) (redelivered : Bool) (s : State) : State :=
  let key := Config.unwrapKey s.part.wrapKey s.part.vaultArray
  ask 1 (.group 0 1) { s with
    rst := .selftest
    sec := { s.sec with
      stage := 3, fromRecovery := redelivered, runImage := img
      fwRelease := BitVec.ofNat 32 (imgRelease img), svn := BitVec.ofNat 7 (imgSvn img), keyIdx := BitVec.ofNat 2 (imgKeyIdx img)
      keyRegs := key, engineRegs := key, wrapLatch := s.part.wrapKey, vaultLoaded := key != 0
      meas := [s.part.romDigest, digest (img.take 896), 0, 0, 0] } }

/-- BOOT_ROM: the flash answered or not (check 1). After a cut in programming the flash's content is unspecified, and the boot finds
reason 1, 2, 7 or 8 (R330). -/
def execBootRom (flashOk : Bool) (s : State) : Res :=
  need true (s.rst == .booting && s.sec.stage == 0)
    (let s1 := { s with sec := { s.sec with flashOk := flashOk } }
     if s.sec.strap then recover 9 s1
     else if !flashOk then recover 1 s1
     else if s.part.flashCut then recover ([1, 2, 7, 8].getD (Config.cutReason s.nonce % 4) 1) { s1 with nonce := s.nonce + 1 }
     else
       match imgBad s.part s.part.image with
       | some r => recover r s1
       | none => startImage s.part.image false s1)

/-! ## Recovery (16 R328, R329) -/

/-- Bytes of the staging region. -/
def stagingBytes : Nat := 0x1000000

/-- The image in the staging region. -/
def stagedImage (s : State) : List Byte :=
  let at_ (n : Nat) : List Byte := (List.range n).map fun i => Sparse.get s.sec.staging i
  at_ (1024 + min (natOf ((List.range 4).map fun i => Sparse.get s.sec.staging (16 + i))) 12581888)

/-- A write of SEC.RECOV.go = 1 in recovery: from here to the verdict SEC.BOOT reads verifying and the staging region is closed. -/
def recovGo (s : State) : State := if s.sec.stage == 1 then { s with sec := { s.sec with stage := 2 } } else s

/-- The verdict on the staged image: it runs or is refused. It falls as time passes (log entry 34). -/
def recovVerdict (s : State) : State :=
  if s.sec.stage != 2 then s
  else
    let img := stagedImage s
    match imgBad s.part img with
    | some r => recover r s
    | none => startImage img true (secEv 0xD2 0 (fwWord img) s)

/-! ## The stored image (16 R330, R331) -/

/-- Length of the stored image at an address. -/
def imgSpan (s : State) (a : Nat) : Nat := 1024 + min (natOf (peek s (a + 16) 4)) 12581888

/-- The sleeping domain that the copy of the image meets: its header, then its body. -/
def copySleeps (s : State) (a : Nat) : Option (Admit × Nat) :=
  match sleeping s a 1024 with
  | some x => some x
  | none => sleeping s a (imgSpan s a)

/-- Copy the image into the staging region and check it; a good one is programmed. The copy waits for memory that sleeps (15 R307,
R308), and for firmware (R346). -/
def fwCopy (s : State) : State :=
  let a := 4096 * s.sec.fwAddr.toNat
  if !s.sec.copying || fwHalted s then s
  else
    match copySleeps s a with
    | some (_, b) => want b s
    | none =>
      let (s0, img) := look a (imgSpan s a) s
      let s1 := { s0 with sec := { s0.sec with staging := Sparse.sets [] 0 img, copying := false } }
      match imgBad s.part img with
      | some r => secEv 0xD4 r 0 { s1 with sec := { s1.sec with fwState := 3, fwReason := BitVec.ofNat 4 r } }
      | none => s1

/-- cmd = 1. -/
def fwProgram (s : State) : State :=
  fwCopy { s with sec := { s.sec with fwState := 1, fwReason := 0, copying := true } }

/-- cmd = 2: raise min_svn to the running svn, unless the stored image would then be refused; the flash is read now, and its answer is
a free value. -/
def fwAdvance (s0 : State) : State :=
  let s := { s0 with nonce := s0.nonce + 1 }
  let img := s.part.image
  if !Config.flashAnswers s0.nonce || s.part.flashCut || (imgBad s.part img).isSome || imgSvn img < s.sec.svn.toNat ||
      s.sec.svn.toNat ≤ s.part.minSvn then
    secEv 0xD6 0 0 { s with sec := { s.sec with fwState := 3, fwReason := 0 } }
  else
    secEv 0xD5 0 s.sec.svn.toNat { s with
      part := { s.part with minSvn := s.sec.svn.toNat }, sec := { s.sec with fwState := 2, fwReason := 0 } }

/-! ## Commands to firmware -/

/-- retest: entries of origin 2 and 3 leave both flash copies (17 R358). -/
def hmapRetest (s : State) : State :=
  let strip (m : FlashMap) : FlashMap := { m with entries := m.entries.filter fun e => e.origin < 2 }
  { s with part := { s.part with mapA := strip s.part.mapA, mapB := strip s.part.mapB } }

/-- Firmware obeys a command. -/
def fwObey (c : FwCmd) (s : State) : State :=
  match c with
  | .load req page => jobLoad req page s
  | .unload req => jobUnload req s
  | .program => fwProgram s
  | .advance => fwAdvance s
  | .retest => hmapRetest s

/-- A command that firmware cannot obey now: its core is halted (16 R346), or another command of SEC.FW runs. -/
def fwBusy (s : State) : FwCmd → Bool
  | .program | .advance => fwHalted s || s.sec.fwState == 1
  | _ => fwHalted s

/-- A command is given: obeyed at once, or kept until firmware can obey it (log entry 34). -/
def fwTell (c : FwCmd) (s : State) : State :=
  if fwBusy s c then { s with fwCmds := s.fwCmds ++ [c] } else fwObey c s

/-- Firmware obeys the commands that wait, in their order, as far as it can. -/
def fwDrain (s : State) : State :=
  s.fwCmds.foldl (fun t c => fwTell c t) { s with fwCmds := [] }

/-- FW_PROGRAM_DONE: the flash has been programmed and reads back, or not. -/
def execFwProgramDone (flashOk : Bool) (s : State) : Res :=
  need true (s.sec.fwState == 1 && !s.sec.copying && !fwHalted s)
    (fwDrain (let img := stagedImage s
     if flashOk then
       secEv 0xD3 0 (fwWord img) { s with
         part := { s.part with image := img, flashCut := false }, sec := { s.sec with fwState := 2 } }
     else
       secEv 0xD4 1 0 { s with
         part := { s.part with image := Config.flashAfterCut s.nonce }
         nonce := s.nonce + 1
         sec := { s.sec with fwState := 3, fwReason := 1 } }))

/-- A write of SEC.FW: the address, then the command. -/
def fwWrite (x : Wr) (s : State) : State :=
  let s1 := { s with sec := { s.sec with fwAddr := x.merge s.sec.fwAddr 12 } }
  let cmd := if x.touches 49 48 then field x.data 49 48 else 0
  if cmd == 1 then fwTell .program s1
  else if cmd == 2 then fwTell .advance s1
  else s1

/-- SEC.FW. -/
def fwReg (s : State) : Reg :=
  .k s (pack [(12, s.sec.fwAddr.toNat), (50, s.sec.fwState.toNat), (56, s.sec.fwReason.toNat)]) [(43, 12), (49, 48)] fwWrite

end Sys2Proof.Machine
end

