-- ==== Sys2Proof/Machine/SelfTest.lean ====
section
/-! DEFINITION. Start-up self-test, the health map and in-operation slices (17). Log entry 35. -/

namespace Sys2Proof.Machine

open Sys2Proof

/-- Log a self-test event (17 T17-6). -/
def bistEv (cause entry w3 : Nat) (s : State) : State :=
  logEv 12 0 cause ((entry % 2 ^ 32) <<< 8) (if jobLoaded s then s.cmt.step.toNat else 0) w3 s

/-! ## What a start finds (17 R353, T17-2) -/

/-- Fused units as map entries, origin 0 (17 R362, example). -/
def fusedEntries (p : Part) : List HmapEntry :=
  let e (kind unit : Nat) : HmapEntry := ⟨kind, unit, 0, 0, 0, 0, true, 0, 0⟩
  p.fusedThalli.map (e 1) ++ p.fusedStacks.map (e 5) ++ p.fusedLinks.map (e 7)

/-- A memory bank with more failing columns than its 8 spare columns, and a stack with more than 64 failing rows, cannot be repaired (17
R351, T17-2). -/
def spareColumns : Nat := 8
def spareRows : Nat := 64

/-- Map entries of a finding of this start's tests, origin 1, at time `t`. -/
def foundOne (x : TestFail) (t : Nat) : List HmapEntry :=
  let e (kind unit sub row reason : Nat) : HmapEntry := ⟨kind, unit, sub, row, 1, reason, true, 0, t⟩
  match x with
  | .rows p m f rows => rows.map fun r => e 2 p (8 * m + f) r 0
  | .frondOther p m f => [e 3 p (8 * m + f) 0 0]
  | .thallus p mem => [e 1 p 0 0 (b2n mem)]
  | .columns p _ n => if n ≤ spareColumns then [] else [e 1 p 0 0 1]
  | .fieldUnit f => [e 8 f 0 0 0]
  | .stack k => [e 5 k 0 0 2]
  | .stackRows k n => if n ≤ spareRows then [] else [e 5 k 0 0 1]
  | .lanes l lanes => ((List.range 8).filter (bit lanes)).map fun i => e 6 l i 0 3
  | .link l => [e 7 l 0 0 0]

def foundEntries (fails : List (TestFail × Word)) : List HmapEntry := fails.flatMap fun (x, t) => foundOne x t.toNat

/-- What the soft repair latches take of a finding: failing columns that spare columns replace (17 R351). -/
def repairOf : TestFail → List (Nat × Nat × Nat)
  | .columns p b n => if n ≤ spareColumns then [(p, b, n)] else []
  | _ => []

/-- The field whose groups test what a finding concerns (17 R357). -/
def failField : TestFail → Nat
  | .rows p _ _ _ | .frondOther p _ _ | .thallus p _ | .columns p _ _ => p / 38
  | .fieldUnit f => f
  | .stack k | .stackRows k _ => k / 3
  | .lanes l _ | .link l => l / 8

/-- Failed physical rows of a frond, the spare row as 32. -/
def failedRows (es : List HmapEntry) (p sub : Nat) : List Nat :=
  ((es.filter fun e => e.kind == 2 && e.unit == p && e.sub == sub).map (·.row)).eraseDups

/-- A frond that cannot be repaired (03 R65): two or more failed rows (one of them may be the spare that would be in use). -/
def frondLost (es : List HmapEntry) (p sub : Nat) : Bool := 2 ≤ (failedRows es p sub).length

/-- Physical thallus `p` is disabled. -/
def thallusLost (es : List HmapEntry) (p : Nat) : Bool :=
  es.any (fun e => e.unit == p && (e.kind == 1 || e.kind == 3 || e.kind == 4)) || (List.range 32).any (frondLost es p)

/-- Physical stack `k` is disabled. -/
def stackLost (es : List HmapEntry) (k : Nat) : Bool := es.any fun e => e.kind == 5 && e.unit == k

/-- Link `l` is disabled: its own logic, or lanes in both halves. -/
def linkLost (es : List HmapEntry) (l : Nat) : Bool :=
  let lanes (lo : Nat) : Bool := es.any fun e => e.kind == 6 && e.unit == l && lo ≤ e.sub && e.sub < lo + 4
  es.any (fun e => e.kind == 7 && e.unit == l) || (lanes 0 && lanes 4)

/-- Lanes of a link that failed. -/
def lanesBad (es : List HmapEntry) (l : Nat) : BitVec 8 :=
  (es.filter fun e => e.kind == 6 && e.unit == l).foldl (fun m e => m ||| BitVec.ofNat 8 (1 <<< e.sub)) 0

/-- A field unit has failed: the device is unusable (17 R354). -/
def deviceLost (es : List HmapEntry) : Bool := es.any (·.kind == 8)

/-- A frond's registers after start-up (03 T3-10). -/
def frondStart (es : List HmapEntry) (p sub : Nat) : Frond :=
  match failedRows es p sub with
  | [r] => if r == 32 then { spareBad := true } else { spareInUse := true, failedRow := BitVec.ofNat 5 r }
  | _ => {}

/-- A thallus after start-up. -/
def thallusStart (es : List HmapEntry) (p : Nat) : Thallus :=
  { eng := (List.range 4).map fun m => { frond := (List.range 8).map fun f => frondStart es p (8 * m + f) } }

/-- The map as firmware reads it at a start (17 R353, R356): its entries, whose units are excluded, and the state of
BIST.START.hmap. -/
def readMap (s : State) : List HmapEntry × Nat :=
  let p := s.part
  let kept := ((mapCur p).entries.filter fun e => 1 ≤ e.origin).map fun e => { e with excluded := true }
  if !s.sec.flashOk || (!p.mapA.good && !p.mapB.good) then ([], 2)
  else (kept, if p.mapA.good && p.mapB.good then 0 else 1)

/-- The part of a finding that the start's tests can make: fused units, and units and rows that the map lists, are not tested (17 R352,
R353). -/
def tested (es : List HmapEntry) (x : TestFail) : Option TestFail :=
  let here (b : Bool) : Option TestFail := if b then none else some x
  match x with
  | .rows p m f rows =>
    let new := rows.filter fun r => !(failedRows es p (8 * m + f)).contains r
    if thallusLost es p || new.isEmpty then none else some (.rows p m f new)
  | .frondOther p _ _ | .thallus p _ | .columns p _ _ => here (thallusLost es p)
  | .fieldUnit f => here (es.any fun e => e.kind == 8 && e.unit == f)
  | .stack k | .stackRows k _ => here (stackLost es k)
  | .lanes l lanes =>
    let new := lanes &&& ~~~(lanesBad es l)
    if linkLost es l || new == 0 then none else some (.lanes l new)
  | .link l => here (linkLost es l)

/-- The flash after self-test: the map with what was found, its two copies mended where one was bad (17 R358). -/
def partAfter (hm : Nat) (old found : List HmapEntry) (s : State) : Part :=
  if hm == 2 && !s.sec.flashOk then s.part else mapWrite (old ++ found) (if hm == 1 then mapWrite old s.part else s.part)

/-- Self-test is complete (17 R355): the map, the capability registers, the logical numbering, the power state, and the boot's
event (16 T16-2 step 7). -/
def selftestDone (s : State) : State :=
  let (old, hm) := readMap s
  let found := foundEntries s.bist.found
  let es := fusedEntries s.part ++ old ++ found
  let lost := deviceLost es
  let phys := if lost then [] else (List.range 152).filter fun p => !thallusLost es p
  let counts := (List.range 4).map fun f => (phys.filter fun p => p / 38 == f).length
  let stks := if lost then [] else (List.range 12).filter fun k => !stackLost es k
  let links := if lost then [] else (List.range 32).filter fun l => !linkLost es l
  let mask (xs : List Nat) : Nat := xs.foldl (fun m k => m ||| 2 ^ k) 0
  let (shown, full) := capEntries false es
  let s1 := { s with
    rst := .running
    part := partAfter hm old found s
    caps := { s.caps with
      thlField := counts, stackEn := BitVec.ofNat 12 (mask stks), linkEn := BitVec.ofNat 32 (mask links), thlPhys := phys }
    thl := phys.map (thallusStart es)
    lnk := { s.lnk with link := s.lnk.link.zipIdx.map fun (k, l) => { k with enable := links.contains l, laneBad := lanesBad es l } }
    sec := { s.sec with stage := 4 }
    bist := { s.bist with
      startMs := BitVec.ofNat 16 ((s.time.now.toNat - s.bist.startNs) / 1000000)
      hmapState := BitVec.ofNat 2 hm, hmapFull := full, unusable := lost, hmap := shown } }
  let s2 := if hm == 0 then s1 else bistEv 0xF4 0 0 s1
  let s4 := if lost then bistEv 0xF3 0 0 s2 else s2
  let s5 := bistEv 0xF0 0 (phys.length ||| stks.length <<< 8 ||| links.length <<< 12) s4
  let s6 := if s.caps.compat then s5 else (List.range 4).foldl (fun t f => fieldDown f t) s5
  let s7 := { s6 with
    pwr := { s6.pwr with state := BitVec.ofNat 3 (psNow s6) }
    bist := { s6.bist with since := 0, sliceK := 0 } }
  secEv 0xD0 0 (fwWord s.sec.runImage) s7

/-- What a group of field `f` finds: recorded with the time, repaired where it can be, and each unit that is unusable logged (17 R351,
R364). -/
def groupFinds (f : Nat) (fails : List TestFail) (s : State) : State :=
  let es := fusedEntries s.part ++ (readMap s).1 ++ foundEntries s.bist.found
  let new := ((fails.filter fun x => failField x == f).filterMap (tested es)).map fun x => (x, s.time.now)
  (foundEntries new).foldl (fun t e => bistEv 0xF1 (hmapWord0 e) 0 t)
    { s with bist := { s.bist with
        found := s.bist.found ++ new, repairs := s.bist.repairs ++ new.flatMap fun (x, _) => repairOf x } }

/-- The next group asks for its admission (17 R352). -/
def nextGroup (f phase : Nat) (s : State) : State :=
  ask 1 (.group f phase) { s with bist := { s.bist with nextField := f, nextPhase := phase } }

/-- SELFTEST_GROUP: an admitted group of a field's phase has ended; `last` ends the phase (17 T17-1). -/
def execSelftestGroup (f phase : Nat) (last : Bool) (fails : List TestFail) (s : State) : Res :=
  need (f < 4) (s.rst == .selftest && s.bist.groupOn && s.bist.nextField == f && s.bist.nextPhase == phase)
    (let s1 := if phase == 1 then fieldUp f s else s
     let s2 := groupFinds f fails { s1 with bist := { s1.bist with groupOn := false } }
     if !last then nextGroup f phase s2
     else if phase < 6 then nextGroup f (phase + 1) s2
     else if f < 3 then nextGroup (f + 1) 1 s2
     else selftestDone s2)

/-! ## The health map in operation (17 R358) -/

/-- BIST.HMAP_CTRL. -/
def hmapCtrl (s : State) : Reg :=
  .k s (pack [(0, s.bist.hmap.length)]) [(9, 9)] fun x t => if x.sets 9 then fwTell .retest t else t

/-! ## Slices (17 R359 to R362) -/

/-- The next slice `k` is due: t0 + (k + f) × period_min × 60 s / N has passed, with N engines and f = (dev_id mod 256) / 256 where slices
are staggered (R360). -/
def sliceTime (s : State) : Bool :=
  let f := if s.bist.stagger then s.lnk.devId.toNat % 256 else 0
  s.bist.periodMin != 0 &&
    (256 * s.bist.sliceK + f) * (60000000000 * s.bist.periodMin.toNat) ≤ 256 * (4 * s.thl.length) * s.bist.since

/-- The next engine in order. -/
def nextEngine (s : State) (n m : Nat) : Nat × Nat :=
  if m < 3 then (n, m + 1) else (if n + 1 < s.thl.length then n + 1 else 0, 0)

/-- SLICE_DUE: the engine is held, or the slice is skipped. -/
def execSliceDue (s : State) : Res :=
  need true (s.rst == .running && sliceTime s && s.bist.target.isNone && !s.thl.isEmpty && !fwHalted s)
    (let s0 := if jobLoaded s then s else latchBist s
     let n := s0.bist.nextThl.toNat
     let m := s0.bist.nextEng.toNat
     let (n', m') := nextEngine s0 n m
     let s1 := { s0 with bist := { s0.bist with
        nextThl := BitVec.ofNat 8 n', nextEng := BitVec.ofNat 2 m', sliceK := s0.bist.sliceK + 1 } }
     let skip (why : Nat) : State :=
       bistEv 0xF5 0 (n ||| m <<< 8 ||| why <<< 10) { s1 with bist := { s1.bist with cntSliceSkip := satAdd s1.bist.cntSliceSkip 1 } }
     if s0.bist.periodMin == 0 then skip 2
     else if !fieldIsOn s0 (fieldOf s0 n) then skip 0
     else if s0.pwr.therm != 0 then skip 1
     else modEng n m (fun e => { e with sliceHold := true }) { s1 with bist := { s1.bist with target := some (n, m) } })

/-- Once the engine reads stopped, the slice asks for admission. -/
def sliceAsk (s : State) : State :=
  match s.bist.target with
  | some (n, m) =>
    if engStopped (engOf s n m) && !s.bist.sliceWait && !s.bist.sliceBusy then
      ask 2 .slice { s with bist := { s.bist with sliceWait := true } }
    else s
  | none => s

/-- Record a slice failure in the map and log it. -/
def sliceRecord (kind n sub row : Nat) (s : State) : State :=
  let e := hmapNow s kind (physOf s n) sub row 2 0
  hmapRecord e (bistEv 0xF2 (hmapWord0 e) 0 s)

/-- Withdraw a frond that is not withdrawn yet. -/
def withdrawOnce (n m f : Nat) (s : State) : State :=
  if (engOf s n m).withdrawn.getLsbD f then s else withdraw n m f 3 0 0 s

/-- The frond that a finding of a slice lies in. -/
def failFrond : SliceFail → Option Nat
  | .row f _ | .spare f | .frondOther f => some f
  | .engine => none

/-- What a failure found by a slice does until the next start; a frond with more than one failed part is `many`, beyond repair by its
spare row (R362). -/
def sliceFail (n m : Nat) (many : Nat → Bool) (x : SliceFail) (s : State) : State :=
  match x with
  | .row f r =>
    let k := frondOf s n m f
    let s1 := withdrawOnce n m f (sliceRecord 2 n (8 * m + f) r s)
    if k.spareInUse || k.spareBad || many f then s1 else modFrond n m f (fun k => { k with pendingRepair := true }) s1
  | .spare f =>
    let s1 := modFrond n m f (fun k => { k with spareBad := true }) (sliceRecord 2 n (8 * m + f) 32 s)
    if (frondOf s n m f).spareInUse then withdrawOnce n m f s1 else s1
  | .frondOther f => withdrawOnce n m f (sliceRecord 3 n (8 * m + f) 0 s)
  | .engine => (List.range 8).foldl (fun t f => withdrawOnce n m f t) (sliceRecord 4 n (8 * m) 0 s)

/-- SLICE_END. -/
def execSliceEnd (fails : List SliceFail) (s : State) : Res :=
  match s.bist.target with
  | some (n, m) =>
    need true s.bist.sliceBusy
      (let many (f : Nat) : Bool := 1 < (fails.filter fun x => failFrond x == some f).length
       let s1 := fails.foldl (fun t x => sliceFail n m many x t) s
       let s2 := { s1 with bist := { s1.bist with
          sliceBusy := false, target := none, cntSlices := satAdd s1.bist.cntSlices 1
          cntSliceFail := satAdd s1.bist.cntSliceFail (min 1 fails.length) } }
       obeyOff (modEng n m (fun e => { e with sliceHold := false }) s2))
  | none => need true false s

end Sys2Proof.Machine
end

