-- ==== Sys2Proof/Machine/Regs.lean ====
section
/-! DEFINITION. Every register of Table 18-6 outside the DBG block, by its BAR0 offset (18 R372), with the writes that have no row
of their own. Log entries 36 and 37. -/

namespace Sys2Proof.Machine

open Sys2Proof

/-! ## Device blocks (00 T0-2, 01 T1-4, 18 T18-7) -/

def capId (s : State) : Word :=
  pack [(0, s.part.variant.toNat), (8, s.part.stepping.toNat), (16, b2n s.caps.compat), (24, 0x4C)]

def capUnits (s : State) : Word :=
  pack [(0, s.thl.length), (8, 32 * s.thl.length), (24, popCount s.caps.stackEn), (28, popCount s.caps.linkEn),
    (40, b2n s.part.fp64), (41, b2n s.part.dist), (42, b2n s.part.mirror)]

def capFields (s : State) : Word :=
  pack ((List.range 4).map fun f => (8 * f, s.caps.thlField.getD f 0))

def trateReg (s : State) (f : Nat) : Reg :=
  let t := s.trate.getD f {}
  { val := pack [(0, t.rate.toNat), (16, t.rateMin.toNat), (32, t.rateMax.toNat)]
    put := fun x u => if x.sets 48 then trateClear f u else u }

def devReg (s : State) (off : Nat) : Option Reg :=
  match off with
  | 0x000 => some (.ro (capId s))
  | 0x008 => some (.ro (capUnits s))
  | 0x010 => some (.ro (capFields s))
  | 0x200 => some (.ro s.reg.cntIgnored)
  | 0x208 => some (.ro (pack [(3, s.reg.offset.toNat), (26, b2n s.reg.dbg), (27, s.reg.cause.toNat)]))
  | _ => if 0x100 ≤ off && off < 0x120 && off % 8 == 0 then some (trateReg s ((off - 0x100) / 8)) else none

/-! ## HBM (07 T7-4) -/

def hbmReg (s : State) (k o : Nat) : Option Reg :=
  let h := s.hbm.getD k {}
  if !s.caps.stackEn.getLsbD k then none
  else
    match o with
    | 0x00 => some (.ro h.cntCorr)
    | 0x08 => some (.ro h.cntRetry)
    | 0x10 => some (.ro h.cntUncorr)
    | 0x18 => some (.ro (pack [(0, h.lastAddr.toNat), (44, h.lastPch.toNat), (50, b2n h.byScrub), (51, h.poison.length)]))
    | _ => none

def hbmMap (s : State) : Word :=
  pack ((0, s.caps.stackEn.toNat) :: (List.range 4).map fun f =>
    (16 + 2 * f, ((List.range 3).filter fun i => s.caps.stackEn.getLsbD (3 * f + i)).length))

/-! ## Links and time (13 T13-7) -/

def linkReg (s : State) (l o : Nat) : Option Reg :=
  let k := linkOf s l
  let st := match k.state with
    | .disabled => 0 | .training => 1 | .up => 2 | .down => 3 | .ready => 4
  if !hasLink s l then none
  else
    match o with
    | 0x00 => some { val := pack [(0, b2n k.enable)], put := linkCtrlWrite l }
    | 0x08 => some (.ro (pack [(0, st), (3, k.width.toNat), (5, k.laneOk.toNat), (13, k.peerDev.toNat), (27, k.peerLink.toNat),
        (32, b2n k.peerValid), (33, k.epReplays.toNat)]))
    | _ => counterAt 0x10 [k.cntTxFlits, k.cntRxFlits, k.cntFecCorr, k.cntFecUncorr, k.cntReplay, k.cntExhaust, k.cntDegrade,
        k.cntTxBytes, k.cntRxBytes] o

/-- A write of LNK.DEVID: a valid identifier lets enabled links train (13 R266), and the root is chosen again. -/
def devIdPut (x : Wr) (s : State) : State :=
  let s1 := { s with lnk := { s.lnk with devId := x.merge s.lnk.devId 0, devValid := x.flag s.lnk.devValid 14 } }
  let s2 := if s1.lnk.devValid && !s.lnk.devValid then
      (List.range 32).foldl (fun t l =>
        if hasLink t l && (linkOf t l).enable && ((linkOf t l).state == .disabled || (linkOf t l).state == .down) then train l t else t) s1
    else s1
  chooseRoot s2

def lnkReg (s : State) (o : Nat) : Option Reg :=
  let k := s.lnk
  match o with
  | 0x00 =>
    let busy := jobLoaded s || k.link.any fun x => x.state == .training || x.state == .up || x.state == .ready
    some { val := pack [(0, k.devId.toNat), (14, b2n k.devValid)], locks := [(14, 0)], inUse := busy, put := devIdPut }
  | 0x08 => some (.ro (pack [(0, s.caps.linkEn.toNat),
      (32, ((List.range 32).filter (linkUp s)).foldl (fun m l => m ||| 2 ^ l) 0)]))
  | 0x18 => some (.ro (pack [(0, k.rtMaxHops.toNat), (8, b2n k.rtLoaded), (9, b2n k.rtBusy)]))
  | 0x20 => some (.k s (pack [(0, k.ackTmo.toNat), (16, k.degradeThr.toNat)]) [(47, 0)] fun x t =>
      { t with lnk := { t.lnk with ackTmo := x.merge t.lnk.ackTmo 0, degradeThr := x.merge t.lnk.degradeThr 16 } })
  | _ => counterAt 0x40 [k.cntLost, k.cntUnroutable, k.cntLateAck] o

def timeReg (s : State) (o : Nat) : Option Reg :=
  let k := s.time
  match o with
  | 0x00 => some (.ro k.now)
  | 0x08 => some (.ro (pack [(0, k.fracLatch.toNat)]))
  | 0x10 => some (.k s (pack [(0, k.prio.toNat), (8, b2n k.ppsInEn), (16, k.ppsWidth.toNat)]) [(8, 0), (23, 16)] fun x t =>
      chooseRoot { t with time := { t.time with
        prio := x.merge t.time.prio 0, ppsInEn := x.flag t.time.ppsInEn 8, ppsWidth := x.merge t.time.ppsWidth 16 } })
  | 0x18 => some { val := k.setReg, put := timeSet }
  | 0x20 => some (.ro (pack [(0, k.role.toNat), (2, b2n k.locked), (3, b2n k.ppsInLocked), (4, k.rootDev.toNat), (18, k.hops.toNat),
      (24, k.upLink.toNat), (32, k.lastO.toNat)]))
  | 0x28 => some (.ro (pack [(0, k.adj.toNat)]))
  | _ => counterAt 0x40 [k.cntStep, k.cntRootChange, k.cntSampleDrop] o

/-! ## PCI (14 T14-5) -/

def modPci (f : Pci → Pci) (s : State) : State := { s with pci := f s.pci }

/-- The requester ID as an event holds it. -/
def whoReq (w : Who) : BitVec 16 := BitVec.ofNat 16 (whoId w)

/-- A write of PCI.JOB: the page, then the command (14 T14-6). -/
def jobPut (x : Wr) (s : State) : State :=
  let s1 := modPci (fun p => { p with jobPage := x.merge p.jobPage 12 }) s
  let cmd := if x.touches 49 48 then field (x.data &&& x.mask) 49 48 else 0
  if cmd == 1 then fwTell (.load (whoReq x.who) (4096 * s1.pci.jobPage.toNat)) s1
  else if cmd == 2 then fwTell (.unload (whoReq x.who)) s1
  else s1

/-- A write of PCI.PUB_CFG takes effect at the next publication; the first period starts the timer. -/
def pubPut (x : Wr) (s : State) : State :=
  let s1 := modPci (fun p => { p with pubPeriod := x.merge p.pubPeriod 0 }) s
  if s.port.pubTimer.isNone then { s1 with port := { s1.port with pubTimer := msTimer s1.pci.pubPeriod } } else s1

def pciReg1 (s : State) (o : Nat) : Option Reg :=
  let p := s.pci
  match o with
  | 0x00 => some (.k s (pack [(30, p.bar2Base.toNat)]) [(43, 30)] fun x => modPci fun p => { p with bar2Base := x.merge p.bar2Base 30 })
  | 0x08 => some { val := pack [(12, p.jobPage.toNat)], put := jobPut }
  | 0x10 => some (.ro (pack [(0, p.jobState.toNat), (8, p.jobCause.toNat), (16, p.jobIndex.toNat), (48, b2n p.jobFlag)]))
  | 0x18 => some (.k s (pack [(12, p.logBase.toNat)]) [(63, 12)] fun x => modPci fun p => { p with logBase := x.merge p.logBase 12 })
  | 0x20 => some (.k s (pack [(0, b2n p.logEn), (1, p.logSize.toNat), (8, p.irqCount.toNat), (16, p.irqUs.toNat), (32, p.logVec.toNat),
      (48, p.urgentVec.toNat)]) [(5, 0), (42, 8), (58, 48)] fun x => modPci fun p =>
      { p with logEn := x.flag p.logEn 0, logSize := x.merge p.logSize 1, irqCount := x.merge p.irqCount 8
               irqUs := x.merge p.irqUs 16, logVec := x.merge p.logVec 32, urgentVec := x.merge p.urgentVec 48 })
  | 0x28 => some (.k s (pack [(3, p.logProdAddr.toNat)]) [(63, 3)] fun x => modPci fun p =>
      { p with logProdAddr := x.merge p.logProdAddr 3 })
  | 0x30 => some { val := pack [(0, p.logCons.toNat)], put := fun x => modPci fun p => { p with logCons := x.merge p.logCons 0 } }
  | 0x38 => some (.ro (pack [(0, p.logProd.toNat)]))
  | 0x40 => some (.k s (pack [(6, p.pubAddr.toNat)]) [(63, 6)] fun x => modPci fun p => { p with pubAddr := x.merge p.pubAddr 6 })
  | 0x48 => some { val := pack [(0, p.pubPeriod.toNat)], put := pubPut }
  | _ => none

def pciReg (s : State) (o : Nat) : Option Reg :=
  let p := s.pci
  match o with
  | 0x50 => some (.k s (pack [(0, p.ptmPeriod.toNat)]) [(15, 0)] fun x t =>
      let t1 := modPci (fun p => { p with ptmPeriod := x.merge p.ptmPeriod 0 }) t
      { t1 with port := { t1.port with ptmTimer := msTimer t1.pci.ptmPeriod } })
  | 0x58 => some (.ro p.ptmLocal)
  | 0x60 => some (.ro p.ptmMaster)
  | 0x68 => some (.ro (pack [(0, p.ptmDelay.toNat)]))
  | 0x70 => some (.k s (pack [(0, p.rdTmo.toNat)]) [(15, 0)] fun x => modPci fun p => { p with rdTmo := x.merge p.rdTmo 0 })
  | 0x78 => some (.ro (pack [(0, p.speed.toNat), (3, p.width.toNat), (8, b2n p.flit)]))
  | _ =>
    match pciReg1 s o with
    | some r => some r
    | none => counterAt 0x80 [p.cntRdTmo, p.cntPoisoned, p.cntLogLost, p.cntPtmFail, p.cntWwPosts, p.cntWwStale, p.cntInBytes,
        p.cntOutBytes] o

/-! ## PWR (15 T15-7) -/

def modPwr (f : Pwr → Pwr) (s : State) : State := { s with pwr := f s.pwr }

/-- What a write of PWR.CTRL asks of the field cores (15 T15-3, T15-8): PS4; every core off; or each core off or on as field_off
gives. In compat mode only field_off takes a core off (15 R322). -/
def obeyCtrl (s : State) : State :=
  if s.pwr.target == 4 then goSleep s
  else
    obeyOff ((List.range 4).foldl (fun t f =>
      let off := t.pwr.fieldOff.getLsbD f || (t.pwr.target == 3 && !t.caps.compat)
      if off then { t with prun := { t.prun with
        offPend := setBit4 t.prun.offPend f true
        loadSteps := if t.pci.loading.isSome then t.prun.loadSteps
          else t.prun.loadSteps.filter fun (p, a, _) => !(p == 1 && a == .field f) } }
      else
        let t1 := { t with prun := { t.prun with offPend := setBit4 t.prun.offPend f false } }
        if fieldUsed t1 f && !fieldIsOn t1 f then ask 1 (.field f) t1 else t1)
      { s with prun := { s.prun with sleepPend := false } })

/-- A write of PWR.CTRL; a target other than 1, 3 and 4 is ignored with cause 0x02 (18 R370). -/
def pwrCtrlPut (x : Wr) (s : State) : State :=
  let t := x.merge s.pwr.target 0
  if x.touches 2 0 && t != 1 && t != 3 && t != 4 then ignoreWrite x 0x02 s
  else
    let s1 := modPwr (fun p => { p with
      target := t, fieldOff := x.merge p.fieldOff 4, autoSleep := x.flag p.autoSleep 8, idleMs := x.merge p.idleMs 16 }) s
    if x.touches 7 0 then obeyCtrl s1 else s1

def pwrCtrl (s : State) : Reg :=
  let p := s.pwr
  .k s (pack [(0, p.target.toNat), (4, p.fieldOff.toNat), (8, b2n (p.autoSleep && !s.caps.compat)), (16, p.idleMs.toNat)])
    [(2, 0), (8, 4), (31, 16)] pwrCtrlPut

def shapeVal (p : Pwr) : Word := pack [(0, p.slew.toNat), (16, p.floorW.toNat), (32, p.limitW.toNat)]

def pwrReg1 (s : State) (o : Nat) : Option Reg :=
  let p := s.pwr
  match o with
  | 0x00 => some (pwrCtrl s)
  | 0x08 => some (.ro (pack [(0, p.state.toNat), (3, p.fieldOn.toNat), (7, p.hbmActive.toNat), (11, b2n s.caps.compat),
      (12, b2n p.ceiling), (13, b2n p.floorActive), (14, b2n p.floorUnmet), (15, p.therm.toNat), (17, b2n p.avsFault)]))
  | 0x10 =>
    let l := [(9, 0), (26, 16), (43, 32)]
    some { val := shapeVal p, latched := l, pend := p.shapePend, put := fun x =>
      modPwr fun p => { p with shapePend := some (x.over (p.shapePend.getD (shapeVal p)) l) } }
  | 0x18 =>
    let l := [(5, 0)]
    let now (p : Pwr) : Word := pack [(0, p.vmax.toNat), (3, p.vmin.toNat)]
    some { val := now p ||| pack [(8, p.cur.toNat), (11, p.vtarget.toNat)], latched := l, pend := p.vPend, put := fun x u =>
      if x.touches 5 0 then modPwr (fun p => { p with vPend := some (x.over (p.vPend.getD (now p)) l) }) u else u }
  | 0x20 => some (.k s (pack [(0, p.warnC.toNat), (16, p.tjMax.toNat)]) [(6, 0)] fun x => modPwr fun p =>
      { p with warnC := BitVec.ofNat 7 (max 85 (min 105 (x.merge p.warnC 0).toNat)) })
  | 0x28 => some (.ro (pack [(0, p.estW.toNat), (16, p.coreW.toNat), (32, p.ballastW.toNat)]))
  | 0x30 => some (.k s (pack [(0, p.smbAddr.toNat), (7, b2n p.arpEn), (8, b2n p.wakeEn)]) [(8, 0)] fun x => modPwr fun p =>
      { p with smbAddr := x.merge p.smbAddr 0, arpEn := x.flag p.arpEn 7, wakeEn := x.flag p.wakeEn 8 })
  | _ => none

def pwrReg (s : State) (o : Nat) : Option Reg :=
  let r := s.prun
  match pwrReg1 s o with
  | some x => some x
  | none => counterAt 0x40 (r.res ++ r.fieldRes ++ [r.cntWakeAccess, r.cntWakeSmb, r.cntVstep, r.cntBallastNs, r.cntGateNs,
      r.cntThermNs, r.cntAvsErr]) o

/-! ## SEC (16 T16-11) and BIST (17 T17-5) -/

def secReg (s : State) (o : Nat) : Option Reg :=
  let k := s.sec
  match o with
  | 0x00 => some (.ro (pack [(0, k.stage.toNat), (8, k.reason.toNat), (12, b2n k.fromRecovery), (13, b2n k.strap)]))
  | 0x08 => some (.ro (pack [(0, k.fwRelease.toNat), (32, k.svn.toNat), (40, k.keyIdx.toNat)]))
  | 0x10 => some (.ro (pack [(0, s.part.minSvn), (8, s.part.revoked.toNat), (12, b2n s.part.ownerHash.isSome), (13, s.part.dbgMax)]))
  | 0x18 => some { val := 0, locks := [(0, 0)], inUse := k.stage == 2 || k.stage == 3
                   put := fun x t => if x.sets 0 then recovGo t else t }
  | 0x20 => some (fwReg s)
  | 0x28 => some (.ro (pack [(0, b2n k.vaultLoaded), (1, b2n k.vaultCleared)]))
  | 0x30 => some (.ro (s.part.serial.truncate 64))
  | 0x38 => some (.ro ((s.part.serial >>> 64).truncate 64))
  | _ => counterAt 0x40 [k.cntSpdm, k.cntSign, k.cntRecovDiscard] o

def bistCfg (b : Bist) : Word := pack [(0, b.periodMin.toNat), (16, b2n b.stagger)]

/-- A write of BIST.SLICE_CFG goes pending to the next step start or slice; with no slice to come it takes effect at once (log entry
37). -/
def slicePut (x : Wr) (s : State) : State :=
  if !x.touches 16 0 then s
  else
    let w := x.over (s.bist.cfgPend.getD (bistCfg s.bist)) [(16, 0)]
    let s1 := { s with bist := { s.bist with cfgPend := some w } }
    if !jobLoaded s && s.bist.periodMin == 0 then latchBist s1 else s1

def bistReg (s : State) (o : Nat) : Option Reg :=
  let b := s.bist
  match o with
  | 0x00 => some { val := bistCfg b, latched := [(16, 0)], pend := b.cfgPend, put := slicePut }
  | 0x08 => some (.ro (pack [(0, b2n b.sliceBusy), (1, b2n b.sliceWait), (2, b.nextThl.toNat), (10, b.nextEng.toNat)]))
  | 0x10 => some (.ro (pack [(0, b.startMs.toNat), (16, b.hmapState.toNat), (18, b2n b.hmapFull), (19, b2n b.unusable)]))
  | 0x18 => some (hmapCtrl s)
  | _ =>
    if 0x100 ≤ o && o < 0x1100 && o % 8 == 0 then
      match b.hmap[(o - 0x100) / 16]? with
      | some e => some (.ro (if o % 16 == 0 then BitVec.ofNat 64 (hmapWord0 e) else BitVec.ofNat 64 e.time))
      | none => some (.ro 0)
    else counterAt 0x40 [b.cntSlices, b.cntSliceFail, b.cntSliceSkip, b.cntSliceNs] o

/-! ## Thalli (03 T3-9, 04 T4-12, 06 T6-6, 07 T7-4, 08 T8-6) -/

def frdReg (s : State) (n o : Nat) : Option Reg :=
  let m := o / 0x100
  let f := o % 0x100 / 0x20
  let k := frondOf s n m f
  if !hasEng s n m then none
  else
    match o % 0x20 with
    | 0x00 => some (.ro (pack [(0, b2n k.spareInUse), (1, k.failedRow.toNat), (6, b2n k.spareBad), (8, b2n k.spareInUse),
        (16, k.faultCount.toNat), (32, b2n k.pendingRepair)]))
    | 0x08 => some (.ro k.nancmp)
    | 0x10 => some (.ro k.isat)
    | _ => none

/-- THL[n].ENG[m].PASSQ_STAT (04 T4-14). -/
def passqStat (e : Engine) : Word :=
  let inF := ((List.range 8).map (frondCount e)).foldl (· + ·) 0
  pack [(0, queued e), (5, inF), (10, b2n (engStopped e)), (11, b2n e.loadBusy), (12, b2n (headHeld e)), (13, b2n e.faulted),
    (16, e.withdrawn.toNat), (32, e.cntPasses.toNat % 2 ^ 32)]

def engReg (s : State) (n m o : Nat) : Option Reg :=
  let e := engOf s n m
  match o with
  | 0x00 => some { val := pack [(0, b2n e.preempt)], put := fun x => modEng n m fun e => { e with preempt := x.flag e.preempt 0 } }
  | 0x08 => some (.ro (passqStat e))
  | 0x10 => some { val := pack [(6, e.actBase.toNat), (44, e.actSlot.toNat)], put := actLoadWrite n m }
  | _ => counterAt 0x20 [e.cntPasses, e.cntReissue, e.cntHoldOvlp, e.cntOutElem, e.cntEccCorr] o

def strmCode : StrmState → Nat
  | .idle => 0 | .running => 1 | .pegWait => 2 | .held => 3 | .halted => 4 | .barrier => 5 | .draining => 6 | .done => 7

def strmReg (s : State) (n q o : Nat) : Option Reg :=
  let k := strmOf s n q
  match o with
  | 0x00 => some { val := pack [(1, b2n k.skip)], put := strmCtrlWrite n q }
  | 0x08 => some (progReg s n q)
  | 0x10 => some (.ro (pack [(0, strmCode k.state), (8, k.cause.toNat), (16, k.waitPeg.toNat), (22, b2n s.cmt.poisoned),
      (23, k.pc / 8 % 2 ^ 41)]))
  | 0x18 => some (.ro (pack ((List.range 8).map fun i => (8 * i, (k.treg.getD i 0).toNat))))
  | 0x38 => some (.ro (pack [(0, k.tval.toNat)]))
  | _ => counterAt 0x20 [k.cntInstr, k.cntWaitNs, k.cntHoldNs] o

def coreCode : CoreState → Nat
  | .idle => 0 | .running => 1 | .pegWait => 2 | .barrier => 3 | .held => 4 | .faulted => 5 | .stopping => 6

/-- MAR[n].CORE[c].CSTAT: a written 1 clears the bit (08 T8-8). -/
def coreReg (s : State) (n c o : Nat) : Option Reg :=
  let k := coreOf s n c
  match o with
  | 0x00 => some (.ro (pack [(0, coreCode k.state), (8, k.cause.toNat), (16, k.waitPeg.toNat), (23, k.pc / 8 % 2 ^ 41)]))
  | 0x08 => some { val := pack [(0, k.cstat.toNat), (16, k.ordCount.toNat)], put := fun x => modCore n c fun k =>
      { k with cstat := k.cstat &&& ~~~(BitVec.ofNat 5 ((x.data &&& x.mask).toNat)) } }
  | 0x10 => some (.ro k.cntInstr)
  | 0x18 => some (.ro k.cntOrd)
  | _ => none

def thlReg (s : State) (n o : Nat) : Option Reg :=
  let t := thlOf s n
  if !hasThl s n then none
  else if o < 0x400 then engReg s n (o / 0x100) (o % 0x100)
  else if o == 0x800 then some (odtReg s n)
  else if 0x900 ≤ o && o < 0x9C0 then strmReg s n ((o - 0x900) / 0x40) ((o - 0x900) % 0x40)
  else if 0xA00 ≤ o && o < 0xB00 then counterAt 0xA00 [t.cntEccCorr, t.cntConflict, t.cntRdBytes, t.cntWrBytes, t.cntRefused] o
  else if 0xB00 ≤ o && o < 0xC00 then coreReg s n ((o - 0xB00) / 0x20) ((o - 0xB00) % 0x20)
  else if 0xC00 ≤ o && o < 0xE00 && o % 8 == 0 then some (.ro (pack [(0, pegOf s n ((o - 0xC00) / 8))]))
  else none

/-! ## The map (18 T18-1, T18-6) -/

/-- The register at an 8-byte aligned BAR0 offset outside the DBG block, `none` for a hole. -/
def regAt (s : State) (off : Nat) : Option Reg :=
  if off % 8 != 0 then none
  else if off < 0x1000 then devReg s off
  else if off == 0x3F00 then some (.ro (hbmMap s))
  else if 0x4000 ≤ off && off < 0x4300 then hbmReg s ((off - 0x4000) / 0x40) ((off - 0x4000) % 0x40)
  else if 0x6000 ≤ off && off < 0x7000 then linkReg s ((off - 0x6000) / 0x80) ((off - 0x6000) % 0x80)
  else if 0x7000 ≤ off && off < 0x7800 && off != 0x7010 then lnkReg s (off - 0x7000)
  else if 0x7800 ≤ off && off < 0x8000 then timeReg s (off - 0x7800)
  else if 0x8000 ≤ off && off < 0x8100 then pciReg s (off - 0x8000)
  else if 0x9000 ≤ off && off < 0xA000 then pwrReg s (off - 0x9000)
  else if 0xA000 ≤ off && off < 0xB000 then secReg s (off - 0xA000)
  else if 0xC000 ≤ off && off < 0xE000 then bistReg s (off - 0xC000)
  else if 0x01000000 ≤ off && off < 0x01800000 then
    let n := (off - 0x01000000) / 0x1000
    if hasThl s n then frdReg s n (off % 0x1000) else none
  else if 0x01800000 ≤ off && off < 0x02000000 then thlReg s ((off - 0x01800000) / 0x1000) (off % 0x1000)
  else jobReg s off

/-- The offset lies in the DBG block or its window. -/
def inDbg (off : Nat) : Bool := (0xB000 ≤ off && off < 0xC000) || (0xE000 ≤ off && off < 0xF190)

/-! ## Accesses (18 R365 to R370) -/

/-- The bits of a 64-bit register that an access of 4 or 8 bytes covers. -/
def accMask (off size : Nat) : Word :=
  if size == 8 then BitVec.allOnes 64 else if off % 8 == 0 then 0x00000000FFFFFFFF else 0xFFFFFFFF00000000

/-- The value an access of 4 or 8 bytes returns of a register's value. -/
def accPart (off size : Nat) (w : Word) : Word :=
  if size == 8 then w else if off % 8 == 0 then w &&& 0xFFFFFFFF else w >>> 32

/-- The written value in its place in the register. -/
def accData (off size : Nat) (v : Word) : Word := if size == 8 || off % 8 == 0 then v else v <<< 32

/-! ## MSI-X table and pending bit array (14 T14-1) -/

def inMsix (off : Nat) : Bool := 0x03F00000 ≤ off && off < 0x03F08000
def inPba (off : Nat) : Bool := 0x03F80000 ≤ off && off < 0x03F80100

/-- A write into the MSI-X table. -/
def msixPut (off size : Nat) (v : Word) (s : State) : State :=
  let i := (off - 0x03F00000) / 16
  let sh := 8 * (off % 16)
  let m : BitVec 128 := BitVec.ofNat 128 ((2 ^ (8 * size) - 1) <<< sh)
  msixWrite i ((msixEntry s i &&& ~~~m) ||| (BitVec.ofNat 128 (v.toNat <<< sh) &&& m)) s

/-- The pending bits as bytes from an offset of the array. -/
def pbaAt (s : State) (off size : Nat) : Nat :=
  ((List.range (8 * size)).filter fun i => s.port.pba.contains (8 * off + i)).foldl (fun x i => x ||| 2 ^ i) 0

/-! ## Register space as a whole -/

/-- A write of a register (18 T18-2). -/
def putReg (who : Who) (off size : Nat) (v : Word) (s : State) : State :=
  let a := off / 8 * 8
  match regAt s a with
  | none => holeEv who off s
  | some r =>
    let x : Wr := { who := who, off := a, mask := accMask off size, data := accData off size v }
    rwk x r.locks r.inUse (r.put x) s

/-- The pending view of a register (18 R369). -/
def pendView (r : Reg) : Word := if r.latched.isEmpty then BitVec.allOnes 64 else r.pend.getD (BitVec.allOnes 64)

/-- A write into register space: registers, pending views, the MSI-X table, holes. -/
def spaceWrite (who : Who) (off size : Nat) (v : Word) (s : State) : State :=
  if inMsix off then msixPut off size v s
  else if inPba off then s
  else if 0x02000000 ≤ off || inDbg off then holeEv who off s else putReg who off size v s

/-- A read of register space; a read of TIME.NOW latches the fraction (13 R275). -/
def spaceRead (who : Who) (off size : Nat) (s : State) : State × Word :=
  let base := if 0x02000000 ≤ off then off - 0x02000000 else off
  let hole : State × Word := (holeEv who off s, 0)
  if inMsix off then (s, BitVec.ofNat 64 ((msixEntry s ((off - 0x03F00000) / 16)).toNat >>> (8 * (off % 16))))
  else if inPba off then (s, BitVec.ofNat 64 (pbaAt s (off - 0x03F80000) size))
  else if inDbg base || 0x03F00000 ≤ off then hole
  else
    match regAt s (base / 8 * 8) with
    | none => hole
    | some r =>
      if 0x02000000 ≤ off then (s, accPart off size (pendView r))
      else if off / 8 * 8 == 0x7800 then
        ({ s with time := { s.time with fracLatch := s.time.frac } }, accPart off size r.val)
      else (s, accPart off size r.val)

end Sys2Proof.Machine
end

