-- ==== Sys2Proof/Machine/HostPort.lean ====
section
/-! DEFINITION. The host port (14 R283 to R292): BAR0 and BAR2 accesses, requests that wait in the bridge, watch windows, poisoned and
late reads; and the register rows, which are BAR0 writes. Log entry 38. -/

namespace Sys2Proof.Machine

open Sys2Proof

/-! ## Watch windows (14 R291, R292) -/

/-- A match of window `k`: post, hold for the next step with the number of matches that it sums, or discard. -/
def wwMatch (k : Nat) (s : State) : State :=
  let w := s.pci.ww.getD k {}
  if !w.stepMode then wwPost k w w.amount.toNat 1 s
  else
    match read32 (.watch k 0) (w.trig.toNat * 8) s with
    | (s1, none) => s1
    | (s1, some t) =>
      if t == s1.cmt.step then wwPost k w w.amount.toNat 1 s1
      else if t == s1.cmt.step + 1 then
        let (held, n) := match w.pend with
          | some (a, tag) => if tag == t then (satAdd a w.amount.toNat, w.pendN + 1) else (w.amount, 1)
          | none => (w.amount, 1)
        modWw k (fun w => { w with pend := some (held, t), pendN := n }) s1
      else modPci (fun p => { p with cntWwStale := satAdd p.cntWwStale 1 }) s1

/-- Windows of which a write of `n` bytes at `a` writes a byte of the trigger word; a write to an absent unit writes none (00 R4). -/
def wwHits (s : State) (a n : Nat) : List Nat :=
  (s.pci.ww.zipIdx.filter fun (w, _) => w.en && a < w.trig.toNat * 8 + 8 && w.trig.toNat * 8 < a + n &&
    (resolve s (w.trig.toNat * 8)).isSome).map (·.2)

/-! ## BAR2 (14 R283, R286, R287) -/

/-- An access beyond memory: register space, reserved ranges and absent units (14 R283). -/
def bar2Absent (a : Nat) : Bool :=
  match regionOf a with
  | .regs | .reserved => true
  | _ => false

/-- Bytes received in memory writes. -/
def countIn (n : Nat) (s : State) : State := modPci (fun p => { p with cntInBytes := satAdd p.cntInBytes n }) s

/-- A write through BAR2 that has reached its memory: it lands, and watch windows match. -/
def bar2Put (req : BitVec 16) (a : Nat) (bs : List Byte) (s : State) : State :=
  if bar2Absent a then absentEv (.host req) a s
  else
    let s1 := touchMem a bs.length (writeMem (.host req) a bs s)
    match regionOf a with
    | .cur | .nxt => s1
    | _ => settle ((wwHits s1 a bs.length).foldl (fun t k => wwMatch k t) s1)

/-- The first uncorrectable byte of a range of device addresses. -/
def firstBad (s : State) (a n : Nat) : Option (Nat × Nat) :=
  (List.range n).findSome? fun i => (resolve s (a + i)).bind fun p => if s.mem.bad p then some (a + i, p) else none

/-- A read through BAR2: data, or a poisoned completion (14 R286). -/
def bar2Get (req : BitVec 16) (a n : Nat) (s : State) : State :=
  if bar2Absent a then emit (.compl .ok (List.replicate n 0)) (absentEv (.host req) a s)
  else
    let s := touchMem a n s
    match firstBad s a n with
    | some (b, p) =>
      let s1 := if isHbm p then noteUncorr p false s else s
      emit (.compl .poisoned (List.replicate n 0xFF)) (hostEv 0xB4 req b 0
        (modPci (fun q => { q with cntPoisoned := satAdd q.cntPoisoned 1 }) s1))
    | none =>
      match readMem (.host req) a n s with
      | (s1, some bs) => emit (.compl .ok bs) s1
      | (s1, none) => s1

/-! ## BAR0 (14 R284) -/

/-- A BAR0 access is 4 or 8 bytes and naturally aligned. -/
def bar0Ok (off size : Nat) : Bool := (size == 4 || size == 8) && off % size == 0 && off < 0x04000000

/-- A BAR0 write that has reached register space. -/
def bar0Put (req : BitVec 16) (off size : Nat) (v : Word) (s : State) : State :=
  if !bar0Ok off size then hostEv 0xB8 req off 0 s else spaceWrite (.host req) off size v s

/-- A BAR0 read that has reached register space. -/
def bar0Get (req : BitVec 16) (off size : Nat) (s : State) : State :=
  if !bar0Ok off size then emit (.compl .unsupported []) (hostEv 0xB8 req off 0 s)
  else
    let (s1, w) := spaceRead (.host req) off size s
    emit (.compl .ok (bytesOf size w.toNat)) s1

/-! ## Recovery (16 R328, R329) -/

/-- BAR0 and BAR2 have the restrictions of recovery. -/
def restricted (s : State) : Bool := s.sec.stage == 1 || s.sec.stage == 2 || (s.sec.stage == 3 && s.sec.fromRecovery)

/-- The register answers in recovery: DEV.CAP.ID, the SEC block and the PCI Express structures (MSI-X). -/
def recovReg (off : Nat) : Bool := off / 8 * 8 == 0 || (0xA000 ≤ off && off < 0xB000) || inMsix off || inPba off

/-- A request in recovery: staging region, DEV.CAP.ID, SEC; everything else is an absent unit. -/
def recovDo (h : HeldReq) (s : State) : State :=
  match h.kind with
  | .write bs =>
    if h.addr < stagingBytes then
      if s.sec.stage == 2 then { s with sec := { s.sec with cntRecovDiscard := satAdd s.sec.cntRecovDiscard 1 } }
      else { s with sec := { s.sec with staging := Sparse.sets s.sec.staging h.addr (bs.take (stagingBytes - h.addr)) } }
    else absentEv (.host h.req) h.addr s
  | .read n =>
    if h.addr < stagingBytes then emit (.compl .ok ((List.range n).map fun i => Sparse.get s.sec.staging (h.addr + i))) s
    else emit (.compl .ok (List.replicate n 0)) (absentEv (.host h.req) h.addr s)
  | .regWrite size v =>
    if bar0Ok h.addr size && !recovReg h.addr then holeEv (.host h.req) h.addr s else bar0Put h.req h.addr size v s
  | .regRead size =>
    if bar0Ok h.addr size && !recovReg h.addr then
      emit (.compl .ok (List.replicate size 0)) (holeEv (.host h.req) h.addr s)
    else bar0Get h.req h.addr size s

/-! ## The bridge (01 R21, 14 R285, R287) -/

def HeldKind.posted : HeldKind → Bool
  | .write _ | .regWrite _ _ => true
  | _ => false

/-- An earlier request still waits: the bridge never reorders its entries (R21). -/
def behind (s : State) : Bool := !s.port.held.isEmpty

def hold (h : HeldReq) (s : State) : State := { s with port := { s.port with held := s.port.held ++ [h] } }

/-- An action under the windows and the epoch pointer with which the request entered the address path. -/
def HeldReq.under (h : HeldReq) (act : State → State) (s : State) : State :=
  match h.view with
  | none => act s
  | some (w, e) =>
    let t := act { s with win := w, cmt := { s.cmt with epoch := e } }
    { t with win := s.win, cmt := { t.cmt with epoch := s.cmt.epoch } }

/-- A BAR2 request with its device address: it waits at the clamp of a domain that sleeps, else it is done. -/
def bar2Act (h : HeldReq) (n : Nat) (act : State → State) (s : State) : State :=
  let gated := match regionOf h.addr with
    | .cur | .nxt => if h.kind.posted then none else sleeping s h.addr n
    | .regs | .reserved => none
    | _ => sleeping s h.addr n
  match gated with
  | some (_, b) => hold { h with view := if h.kind.posted then none else some (s.win, s.cmt.epoch) } (want b s)
  | none => act s

def bar2Do (h : HeldReq) (n : Nat) (act : State → State) (s : State) : State := h.under (bar2Act h n act) s

/-- A BAR2 request has its device address by the base in force as it enters the device's address path (14 R283). -/
def HeldReq.enter (s : State) (h : HeldReq) : HeldReq :=
  match h.kind with
  | .read _ | .write _ => { h with addr := s.pci.bar2Base.toNat * 2 ^ 30 + h.addr, entered := true }
  | _ => h

/-- A host request in a running device: held behind earlier requests, while the device sleeps, or at a sleeping domain. -/
def submit (h : HeldReq) (s : State) : State :=
  if restricted s then recovDo h s
  else if behind s then hold h s
  else if s.pwr.state == 4 then hold h (leaveSleep s)
  else
    let g := if h.entered then h else h.enter s
    match g.kind with
    | .write bs => bar2Do g bs.length (bar2Put g.req g.addr bs) s
    | .read n => bar2Do g n (bar2Get g.req g.addr n) s
    | .regWrite size v => bar0Put g.req g.addr size v s
    | .regRead size => bar0Get g.req g.addr size s

/-- Requests that wait are tried again, in arrival order. -/
def retryHeld (s : State) : State :=
  s.port.held.foldl (fun t h => submit h t) { s with port := { s.port with held := [] } }

/-- The host reaches the device: the link is up and the device answers memory requests (15 R321, 16 R328). -/
def reachable (s : State) : Bool := s.port.linkUp && (s.rst == .running || restricted s)

/-- The function answers configuration requests (15 R321, 16 R328). -/
def cfgAnswers (s : State) : Bool := up s || restricted s

/-- The link is up, where the device is not held in reset; an inbound TLP wakes the device from PS4 (15 T15-3). -/
def tlpIn (s : State) : State :=
  let s1 := { s with port := { s.port with linkUp := true }, pins := { s.pins with pcieRefclkOk := true } }
  if up s1 then leaveSleep s1 else s1

/-- The device is held in reset: no link, and no answer. -/
def noLink (s : State) : Bool := s.rst == .held || s.rst == .ramping

/-- The request lies within its BAR: BAR2 has the size chosen by its Resizable BAR capability (14 T14-1); what is beyond is no request to
this function. -/
def inBar (s : State) (addr : Nat) : HeldKind → Bool
  | .read n => addr + n ≤ 2 ^ s.port.bar2Log2
  | .write bs => addr + bs.length ≤ 2 ^ s.port.bar2Log2
  | _ => true

/-- A memory request arrives from the link. -/
def hostArrive (req : BitVec 16) (addr : Nat) (kind : HeldKind) (s : State) : State :=
  let t : Timer := if kind.posted then none else some (1000 * s.pci.rdTmo.toNat)
  let n := match kind with
    | .write bs => bs.length
    | .regWrite size _ => size
    | _ => 0
  if reachable s && inBar s addr kind then submit { req := req, addr := addr, entered := false, kind := kind, timer := t } (countIn n s)
  else if s.port.linkUp && !kind.posted then emit (.compl .unsupported []) s
  else s

/-- BAR2_WRITE. -/
def execBar2Write (req : BitVec 16) (off : Nat) (bs : List Byte) (s : State) : Res := always (hostArrive req off (.write bs) s)

/-- BAR2_READ. -/
def execBar2Read (req : BitVec 16) (off len : Nat) (s : State) : Res := always (hostArrive req off (.read len) s)

/-- HOST_READ_TIMEOUT (14 R285): the oldest held read that has waited for rd_tmo_us; what waits behind it may go on. -/
def execHostReadTimeout (s : State) : Res :=
  match s.port.held.find? fun h => !h.kind.posted && h.timer == some 0 with
  | none => need true false s
  | some h =>
    need true true
      (retryHeld (emit (.compl .abort []) (hostEv 0xB5 h.req (if h.entered then h else h.enter s).addr 0
        (modPci (fun p => { p with cntRdTmo := satAdd p.cntRdTmo 1 }) { s with port := { s.port with held := s.port.held.erase h } }))))

end Sys2Proof.Machine
end

