-- ==== Sys2Proof/Machine/Spdm.lean ====
section
/-! DEFINITION. The SPDM responder and PLDM (16 R334 to R338), and what firmware takes up when it runs again (16 R346). Log entry
42. -/

namespace Sys2Proof.Machine

open Sys2Proof

/-- Firmware runs: started, not in retention, not debug halted. -/
def fwRuns (s : State) : Bool := up s && s.pwr.state != 4 && !fwHalted s

def spdmOf (s : State) : Transport → Spdm
  | .doe => s.sec.doe
  | .mctp => s.sec.mctp

def modSpdm (t : Transport) (f : Spdm → Spdm) (s : State) : State :=
  match t with
  | .doe => { s with sec := { s.sec with doe := f s.sec.doe } }
  | .mctp => { s with sec := { s.sec with mctp := f s.sec.mctp } }

/-- Answer a request, which is counted. -/
def respond (t : Transport) (r : SpdmResp) (s : State) : State :=
  emit (.spdm t r) { s with sec := { s.sec with cntSpdm := satAdd s.sec.cntSpdm 1 } }

def spdmError (t : Transport) (e : SpdmErr) (s : State) : State := respond t (.error e) s

/-- Signed answers are refused: secrets cleared, or no key was unwrapped (R333, R337). -/
def noSign (s : State) : Bool := s.sec.vaultCleared || !s.sec.vaultLoaded

/-- The refusal of a signed answer, logged once per transport. -/
def refuseSign (t : Transport) (s : State) : State :=
  let s1 := if (spdmOf s t).refusedLogged then s else modSpdm t (fun p => { p with refusedLogged := true }) (secEv 0xD7 0 0 s)
  spdmError t .unspecified s1

/-- A signature by the identity key over a transcript; it is counted (R333). -/
def signNow (kind : Nat) (parts : List Nat) (s : State) : State × BitVec 3072 :=
  ({ s with sec := { s.sec with cntSign := satAdd s.sec.cntSign 1 }, nonce := s.nonce + 1 },
    Config.sign s.sec.engineRegs (Config.transcript kind parts) s.nonce)

/-- Measurement `i` (T16-5): 3 and 4 as they stand now. -/
def measurement (s : State) (i : Nat) : BitVec 256 :=
  if i == 3 then
    digest (Config.measured 3 [s.sec.svn.toNat, s.part.minSvn, s.sec.keyIdx.toNat, s.part.revoked.toNat, b2n s.sec.strap,
      b2n s.sec.fromRecovery, s.dbg.level.toNat, b2n (noSign s)])
  else if i == 4 then digest (Config.measured 4 [(capId s).toNat, (capUnits s).toNat, (capFields s).toNat])
  else s.sec.meas.getD (i - 1) 0

/-! ## Answers -/

/-- Forget the sessions of a transport with their keys. -/
def endSessions (t : Transport) (s : State) : State :=
  let mine (k : Nat) : Bool := k % 2 == (if t == .mctp then 1 else 0)
  modSpdm t (fun p => { p with sessions := [] })
    { s with sec := { s.sec with sessionKeys := s.sec.sessionKeys.filter fun (k, _) => !mine k } }

/-- Key of a session in the list of session keys. -/
def sessKey (t : Transport) (id : Nat) : Nat := 2 * id + (if t == .mctp then 1 else 0)

def ansVersion (t : Transport) (s : State) : State :=
  respond t (.version 0x12)
    (modSpdm t (fun p => { p with version := true, caps := false, algs := false, keyEx := false }) (endSessions t s))

/-- What the responder supports (T16-4). -/
def spdmCaps : List SpdmCap := [.cert, .chal, .measSig, .keyEx, .encrypt, .mac, .hbeat, .keyUpd]

def ansCapabilities (t : Transport) (s : State) : State :=
  if !(spdmOf s t).version then spdmError t .unexpectedRequest s
  else respond t (.capabilities spdmCaps 16) (modSpdm t (fun p => { p with caps := true }) s)

/-- Algorithms offered, by the order of T16-4: 0 RSASSA-PSS 3072, 1 SHA-256, 2 ffdhe3072, 3 AES-256-GCM. -/
def ansAlgorithms (t : Transport) (offered : List Nat) (s : State) : State :=
  if !(spdmOf s t).caps then spdmError t .unexpectedRequest s
  else if !offered.contains 0 || !offered.contains 1 then spdmError t .invalidRequest s
  else respond t (.algorithms ((List.range 4).filter offered.contains))
    (modSpdm t (fun p => { p with algs := true, keyEx := offered.contains 2 && offered.contains 3 }) s)

/-- A request that needs the negotiation to have ended. -/
def negotiated (t : Transport) (act : State → State) (s : State) : State :=
  if (spdmOf s t).algs then act s else spdmError t .unexpectedRequest s

def ansDigests (t : Transport) (s : State) : State :=
  negotiated t (respond t (.digests (Config.standardBody 2 0))) s

/-- The certificate chain of slot 0 (R332): the serial stands in it as 16 octets, the first the highest (log entry 42). -/
def certChain (p : Part) : List Byte := p.certIssuer ++ p.certHead ++ (bytesOf 16 p.serial.toNat).reverse ++ p.certTail

def ansCertificate (t : Transport) (slot off len : Nat) (s : State) : State :=
  let chain := certChain s.part
  negotiated t (fun s => if slot != 0 || chain.length ≤ off then spdmError t .invalidRequest s
    else respond t (.certificate ((chain.drop off).take len)) s) s

def ansChallenge (t : Transport) (slot : Nat) (nonce : BitVec 256) (s : State) : State :=
  negotiated t (fun s =>
    if slot != 0 then spdmError t .invalidRequest s
    else if noSign s then refuseSign t s
    else
      let (s1, sig) := signNow 0 [nonce.toNat] s
      respond t (.challengeAuth sig) s1) s

/-- Index 0 asks for the number of blocks, 0xFF for all of them. -/
def ansMeasurements (t : Transport) (i : Nat) (sig : Bool) (nonce : BitVec 256) (s : State) : State :=
  negotiated t (fun s =>
    let blocks : List (Nat × BitVec 256) :=
      if i == 0 then [(0, 5)] else if i == 0xFF then [1, 2, 3, 4, 5].map fun k => (k, measurement s k) else [(i, measurement s i)]
    if 5 < i && i != 0xFF then spdmError t .invalidRequest s
    else if !sig then respond t (.measurements blocks none) s
    else if noSign s then refuseSign t s
    else
      let (s1, g) := signNow 1 (nonce.toNat :: blocks.map fun b => b.2.toNat) s
      respond t (.measurements blocks (some g)) s1) s

def ansKeyExchange (t : Transport) (slot exchange : Nat) (s : State) : State :=
  negotiated t (fun s =>
    if slot != 0 then spdmError t .invalidRequest s
    else if !(spdmOf s t).keyEx then spdmError t .unsupportedRequest s
    else if noSign s then refuseSign t s
    else if 2 ≤ (spdmOf s t).sessions.length then spdmError t .sessionLimit s
    else
      let id := (spdmOf s t).nextId
      let (s1, g) := signNow 2 [exchange] s
      respond t (.keyExchange id g)
        (modSpdm t (fun p => { p with sessions := p.sessions ++ [{ id := id }], nextId := id + 1 })
          { s1 with sec := { s1.sec with sessionKeys := s1.sec.sessionKeys ++ [(sessKey t id, exchange)] } })) s

/-- The session, open or not. -/
def session (s : State) (t : Transport) (id : Nat) : Option Session := (spdmOf s t).sessions.find? fun x => x.id == id

def isOpen (s : State) (t : Transport) (id : Nat) : Bool := (session s t id).any fun x => x.open_

def modSession (t : Transport) (id : Nat) (f : Session → Session) (s : State) : State :=
  modSpdm t (fun p => { p with sessions := p.sessions.map fun x => if x.id == id then f x else x }) s

def dropSession (t : Transport) (id : Nat) (s : State) : State :=
  modSpdm t (fun p => { p with sessions := p.sessions.filter fun x => x.id != id })
    { s with sec := { s.sec with sessionKeys := s.sec.sessionKeys.filter fun (k, _) => k != sessKey t id } }

def ansFinish (t : Transport) (id : Nat) (verifies : Bool) (s : State) : State :=
  match session s t id with
  | none => spdmError t .invalidRequest s
  | some x =>
    if x.open_ then spdmError t .unexpectedRequest s
    else if verifies then respond t (.finish id) (modSession t id (fun x => { x with open_ := true }) s)
    else spdmError t .invalidRequest (dropSession t id s)

/-- A request inside an open session. -/
def inSession (t : Transport) (id : Nat) (act : State → State) (s : State) : State :=
  if isOpen s t id then act s else spdmError t .invalidRequest s

def ansHeartbeat (t : Transport) (id : Nat) (s : State) : State := inSession t id (respond t (.heartbeat id)) s

/-- Operation 1 updates one key, 2 both, 3 verifies. -/
def ansKeyUpdate (t : Transport) (id op : Nat) (s : State) : State :=
  inSession t id (fun s =>
    if op == 1 || op == 2 then respond t (.keyUpdate id) (modSession t id (fun x => { x with keyGen := x.keyGen + 1 }) s)
    else if op == 3 then respond t (.keyUpdate id) s
    else spdmError t .invalidRequest s) s

def ansEndSession (t : Transport) (id : Nat) (s : State) : State :=
  inSession t id (fun s => respond t (.endSession id) (dropSession t id s)) s

/-- IDE_KM: only over DOE, inside a secured session. -/
def ansIdeKm (t : Transport) (sess : Option Nat) (slot : Nat) (key : BitVec 256) (go : Bool) (s : State) : State :=
  match t, sess with
  | .doe, some id =>
    inSession .doe id (fun s => respond .doe (.ideKm slot) { s with sec := { s.sec with
      ideKeys := (s.sec.ideKeys.filter fun (k, _) => k != slot) ++ [(slot, key)]
      ideSecure := s.sec.ideSecure || go } }) s
  | _, _ => spdmError t .unsupportedRequest s

/-- The values that PLDM reports (R338). -/
def pldmSensors (s : State) : List Nat :=
  s.prun.fieldC ++ [s.pwr.estW.toNat, s.pwr.coreW.toNat, s.pwr.state.toNat, s.pwr.therm.toNat, s.pci.jobState.toNat,
    (cmtStat s).toNat % 8]

/-- PLDM answers types 0 and 2. -/
def ansPldm (type cmd : Nat) (s : State) : State :=
  if type == 0 then emit (.pldm (Config.pldmBody 0 cmd [])) s
  else if type == 2 then emit (.pldm (Config.pldmBody 2 cmd (pldmSensors s))) s
  else s

/-- The answer to a request that a transport holds. -/
def answer (i : Instr) (s : State) : State :=
  match i with
  | .getVersion t => ansVersion t s
  | .getCapabilities t => ansCapabilities t s
  | .negotiateAlgorithms t o => ansAlgorithms t o s
  | .getDigests t => ansDigests t s
  | .getCertificate t k o n => ansCertificate t k o n s
  | .challenge t k n => ansChallenge t k n s
  | .getMeasurements t i g n => ansMeasurements t i g n s
  | .keyExchange t k x => ansKeyExchange t k x s
  | .finish t k v => ansFinish t k v s
  | .heartbeat t k => ansHeartbeat t k s
  | .keyUpdate t k o => ansKeyUpdate t k o s
  | .endSession t k => ansEndSession t k s
  | .vendorDefinedIdeKm t k n key g => ansIdeKm t k n key g s
  | .pldmRequest ty c => ansPldm ty c s
  | _ => s

/-! ## Arrival -/

/-- Take up the request that a transport holds. -/
def takeHeld (t : Transport) (s : State) : State :=
  match (spdmOf s t).held with
  | some i => answer i (modSpdm t (fun p => { p with held := none }) s)
  | none => s

/-- Requests, a load and a copy that waited for a domain go on (15 R307). -/
def wakeGo (s : State) : State := fwCopy (loadGo (retryHeld s))

/-- Firmware runs again: requests that it holds, the root's decision, the mirror, and the commands and the load that wait for it. -/
def fwGoes (s : State) : State :=
  if fwRuns s then wakeGo (fwDrain (settle (imageAcked (tryDone (tryReport (takeHeld .mctp (takeHeld .doe s))))))) else s

/-- A request arrives at a transport: answered, held while firmware does not run, or Busy (R336). Before the device is ready, DOE
receives Configuration Request Retry Status. -/
def request (t : Transport) (i : Instr) (act : State → State) (s : State) : State :=
  if !up s then
    if t == .doe && !noLink s then
      let s1 := tlpIn s
      if cfgAnswers s1 then s1 else emit (.cfg .retry 0) s1
    else s
  else
    let s1 := if t == .doe then tlpIn s else s
    if (spdmOf s1 t).held.isSome then spdmError t .busy s1
    else if fwRuns s1 then act s1
    else modSpdm t (fun p => { p with held := some i }) s1

/-- GET_VERSION to END_SESSION (T16-4). -/
def execGetVersion (t : Transport) (s : State) : Res := always (request t (.getVersion t) (ansVersion t) s)
def execGetCapabilities (t : Transport) (s : State) : Res := always (request t (.getCapabilities t) (ansCapabilities t) s)
def execNegotiateAlgorithms (t : Transport) (o : List Nat) (s : State) : Res :=
  always (request t (.negotiateAlgorithms t o) (ansAlgorithms t o) s)
def execGetDigests (t : Transport) (s : State) : Res := always (request t (.getDigests t) (ansDigests t) s)
def execGetCertificate (t : Transport) (slot off len : Nat) (s : State) : Res :=
  always (request t (.getCertificate t slot off len) (ansCertificate t slot off len) s)
def execChallenge (t : Transport) (slot : Nat) (nonce : BitVec 256) (s : State) : Res :=
  always (request t (.challenge t slot nonce) (ansChallenge t slot nonce) s)
def execGetMeasurements (t : Transport) (i : Nat) (sig : Bool) (nonce : BitVec 256) (s : State) : Res :=
  always (request t (.getMeasurements t i sig nonce) (ansMeasurements t i sig nonce) s)
def execKeyExchange (t : Transport) (slot exchange : Nat) (s : State) : Res :=
  always (request t (.keyExchange t slot exchange) (ansKeyExchange t slot exchange) s)
def execFinish (t : Transport) (id : Nat) (verifies : Bool) (s : State) : Res :=
  always (request t (.finish t id verifies) (ansFinish t id verifies) s)
def execHeartbeat (t : Transport) (id : Nat) (s : State) : Res := always (request t (.heartbeat t id) (ansHeartbeat t id) s)
def execKeyUpdate (t : Transport) (id op : Nat) (s : State) : Res :=
  always (request t (.keyUpdate t id op) (ansKeyUpdate t id op) s)
def execEndSession (t : Transport) (id : Nat) (s : State) : Res := always (request t (.endSession t id) (ansEndSession t id) s)

/-- VENDOR_DEFINED_IDE_KM. -/
def execVendorDefinedIdeKm (t : Transport) (sess : Option Nat) (slot : Nat) (key : BitVec 256) (go : Bool) (s : State) : Res :=
  always (request t (.vendorDefinedIdeKm t sess slot key go) (ansIdeKm t sess slot key go) s)

/-- PLDM_REQUEST over MCTP (R338). -/
def execPldmRequest (type cmd : Nat) (s : State) : Res := always (request .mctp (.pldmRequest type cmd) (ansPldm type cmd) s)

end Sys2Proof.Machine
end

