-- ==== Sys2Proof/Machine/Power.lean ====
section
/-! DEFINITION. The rows of 15: sleep and wake, SMBus, the core voltage over AVSBus, the load shaper, the thermal monitor. Log entries
31, 32 and 39. -/

namespace Sys2Proof.Machine

open Sys2Proof

/-- The device domain runs: started, or in start-up self-test, and not in PS4. -/
def awake (s : State) : Bool := (s.rst == .running || s.rst == .selftest) && s.pwr.state != 4

/-! ## Going off and waking (15 R306 to R309) -/

/-- FIELD_IDLE_SLEEP: automatic sleep of a field core (R309). -/
def execFieldIdleSleep (f : Nat) (s : State) : Res :=
  need (f < 4)
    (up s && !jobLoaded s && s.pci.loading.isNone && s.pwr.autoSleep && !s.caps.compat && fieldIsOn s f &&
      (s.prun.idle.getD f none).any (idleNs s ≤ ·) && fieldQuiet s f && !fieldWanted s f)
    (pwrUpdate (fieldDown f s))

/-- HBM_IDLE_SELF_REFRESH: stacks that have had no request for 1 ms (R309, T15-2). -/
def execHbmIdleSelfRefresh (f : Nat) (s : State) : Res :=
  need (f < 4)
    (up s && !jobLoaded s && s.pci.loading.isNone && hbmIsActive s f && s.prun.hbmIdle.getD f none == some 0 && !fieldWanted s f)
    { s with
      pwr := { s.pwr with hbmActive := setBit4 s.pwr.hbmActive f false }
      prun := { s.prun with hbmIdle := s.prun.hbmIdle.set f none } }

/-- The addresses wanted that lie in a sleeping domain. -/
def wantsIn (s : State) (d : Admit) : List Nat := s.prun.wants.filter fun a => (resolve s a).bind (sleeper s) == some d

/-- WAKE_ON_ACCESS (R308); where the domain is awake by now, the held request proceeds. In compat mode a field that is off is an absent
unit and holds no request (15 T15-6), and only stacks in self-refresh wake. -/
def execWakeOnAccess (a : Nat) (s : State) : Res :=
  match (resolve s a).bind (sleeper s) with
  | none =>
    need true (up s && s.prun.wants.contains a)
      (retryHeld { s with prun := { s.prun with wants := s.prun.wants.filter (· != a) } })
  | some d =>
    let gone := wantsIn s d
    let s1 := { s with prun := { s.prun with wants := s.prun.wants.filter fun b => !gone.contains b } }
    need true (up s && s.prun.wants.contains a)
      (ask 0 d (if askedFor s1 d then s1 else pwrEv 0xC1 0 0 d.fieldIdx a
        { s1 with prun := { s1.prun with cntWakeAccess := satAdd s1.prun.cntWakeAccess 1 } }))

/-- The device domain has left retention (R306, R310). -/
def deviceUp (s : State) : State :=
  let s1 := { s with
    prun := { s.prun with leaving := false, smbTimer := none }
    pins := { s.pins with smbSclHeld := false } }
  fwGoes (retryHeld (linksOn (enterPs 3 s1)))

/-- FIELD_WAKE_COMPLETE: field core `f`, or the device domain for `f` = 4. -/
def execFieldWakeComplete (f : Nat) (s : State) : Res :=
  if f == 4 then need true (s.pwr.state == 4 && s.prun.leaving) (deviceUp s)
  else need (f < 4) (up s && s.prun.waking.getLsbD f) (wakeGo (obeyOff (fieldUp f s)))

/-- HBM_SELF_REFRESH_EXIT (R308). -/
def execHbmSelfRefreshExit (f : Nat) (s : State) : Res :=
  need (f < 4) (up s && s.prun.hbmWaking.getLsbD f) (wakeGo (hbmUp f s))

/-- A load under way ends with no job loaded (log entry 33). -/
def loadCancel (s : State) : State :=
  if s.pci.loading.isSome then pwrUpdate { s with pci := { s.pci with loading := none, jobState := 0 } } else s

/-- D3HOT_ENTRY (R306): first an unload, then PS4. -/
def execD3hotEntry (s : State) : Res :=
  need true (up s && !s.port.inD3)
    (goSleep (jobUnload 0 (loadCancel { s with port := { s.port with inD3 := true } })))

/-- D0_ENTRY (R306). -/
def execD0Entry (s : State) : Res :=
  need true (up s && s.port.inD3) (leaveSleep { s with port := { s.port with inD3 := false } })

/-- L1_EXIT by the root port (T15-3). -/
def execL1Exit (s : State) : Res := need true (up s && s.port.linkUp) (leaveSleep s)

/-! ## SMBus (15 R310) -/

/-- SMBUS_WAKE: an address byte. In PS4 a match acknowledges, stretches the clock and wakes; outside PS4 the detector is idle. -/
def execSmbusWake (addr : BitVec 7) (s : State) : Res :=
  let hit := s.pwr.wakeEn && (addr == s.pwr.smbAddr || (s.pwr.arpEn && addr == 0x61))
  always
    (if s.prun.smbNackNext then emit (.smbAck false) { s with prun := { s.prun with smbNackNext := false } }
    else if !up s || s.pwr.state != 4 then s
    else if !hit || s.pins.smbSclHeld then s
    else
      let s1 := pwrEv 0xC2 0 0 0 0 { s with prun := { s.prun with
        cntWakeSmb := satAdd s.prun.cntWakeSmb 1, smbTimer := some 20000000 } }
      leaveSleep (emit (.smbAck true) { s1 with pins := { s1.pins with smbSclHeld := true } }))

/-- SMBUS_STRETCH_TIMEOUT. -/
def execSmbusStretchTimeout (s : State) : Res :=
  need true (s.prun.smbTimer == some 0 && s.pins.smbSclHeld)
    { s with
      prun := { s.prun with smbTimer := none, smbNackNext := true }
      pins := { s.pins with smbSclHeld := false } }

/-! ## Core voltage (15 R311 to R314) -/

/-- Voltage of a step in mV (01 T1-3). -/
def stepMv (v : Nat) : Nat := [620, 655, 685, 720, 750, 785, 815, 850].getD v 0

/-- vmin, which above vmax acts as vmax. -/
def vminNow (s : State) : Nat := min s.pwr.vmin.toNat s.pwr.vmax.toNat

/-- The regulator's answer is within 10 mV of the step. -/
def avsOk (s : State) (mv : Option Nat) : Bool :=
  match mv with
  | none => false
  | some v => v ≤ stepMv s.pwr.cur.toNat + 10 && stepMv s.pwr.cur.toNat ≤ v + 10

/-- An AVSBus fault (R312). -/
def avsFault (mv : Option Nat) (s : State) : State :=
  pwrEv 0xC3 0 0 0 (s.pwr.cur.toNat ||| (mv.getD 0 % 65536) <<< 16)
    { s with
      pwr := { s.pwr with avsFault := true }
      prun := { s.prun with cntAvsErr := satAdd s.prun.cntAvsErr 1, avsRetryTimer := some 100000000 } }

/-- Before a step change the shaper predicts the load after it (R313). Up: the gates tighten by the rise that is predicted, and the
updates open them again at the slew limit. Down: ballast takes the place of the fall that is predicted, and the updates let it go at the
limit. -/
def stepPrep (new : Nat) (s : State) : State :=
  let next := Config.stepLoad s.pwr.cur.toNat new s.prun.load
  if s.pwr.cur.toNat < new then
    { s with prun := { s.prun with
        gates := s.prun.gates.zipIdx.map fun (g, i) => min g (Config.gateTokens i new (s.prun.lim.ceil - (next - s.prun.load))) } }
  else
    let ballast := s.prun.ballast + (s.prun.load - next)
    { s with
      pwr := { s.pwr with ballastW := BitVec.ofNat 12 (min 4095 (ballast / 100)) }
      prun := { s.prun with ballast := ballast } }

/-- VSTEP_CHANGE: one step toward the target, 1 ms or more after the change before it; at warning or worse no step up (R320). -/
def execVstepChange (dir : Bool) (s : State) : Res :=
  let cur := s.pwr.cur
  let new := if dir then cur + 1 else cur - 1
  let s1 := stepPrep new.toNat s
  need true
    (awake s && !fwHalted s && s.prun.avsTimer.isNone && s.prun.vGap.getD 0 == 0 &&
      (if dir then cur < s.pwr.vtarget && !s.pwr.avsFault && s.pwr.therm == 0 else s.pwr.vtarget < cur))
    (emit (.avsWrite new.toNat) { s1 with
      pwr := { s1.pwr with cur := new }
      prun := { s1.prun with cntVstep := satAdd s.prun.cntVstep 1, avsTimer := some 200000, vGap := some 1000000 } })

/-- AVS_TRANSITION_DONE: the voltage read back, or no answer. -/
def execAvsTransitionDone (mv : Option Nat) (s : State) : Res :=
  let s1 := { s with prun := { s.prun with avsTimer := none } }
  need true (awake s && !fwHalted s && s.prun.avsTimer.isSome) (if avsOk s mv then s1 else avsFault mv s1)

/-- AVS_RETRY, every 100 ms after a fault. -/
def execAvsRetry (mv : Option Nat) (s : State) : Res :=
  need true (awake s && !fwHalted s && s.pwr.avsFault && s.prun.avsRetryTimer == some 0)
    (let s1 := emit (.avsWrite s.pwr.cur.toNat) s
     if avsOk s mv then { s1 with
        pwr := { s1.pwr with avsFault := false }, prun := { s1.prun with avsRetryTimer := none } }
     else avsFault mv s1)

/-! ## Load shaper (15 R316 to R319) -/

/-- Slew limit in W/ms, which is also its change in units of 10 mW per 10 µs. -/
def slewNow (s : State) : Nat := if s.prun.compatRamp then 50 else s.pwr.slew.toNat

/-- Newest temperature is above the warning threshold. -/
def tooWarm (s : State) : Bool := s.prun.temps.head?.any fun (_, c) => s.pwr.warnC.toNat < c

/-- Fronds of engine `m` that may take a ballast pass (R319): not withdrawn, with no real pass and none to accept, on an engine that is
neither pre-empted nor under self-test. -/
def ballastOf (s : State) (n m : Nat) : Nat :=
  let e := engOf s n m
  if e.preempt || e.sliceHold || (dispNow s n m).starts then 0
  else ((List.range 8).filter fun f => !e.withdrawn.getLsbD f && frondCount e f == 0).length

def ballastFronds (s : State) : Nat :=
  ((List.range s.thl.length).flatMap fun n =>
    if fieldIsOn s (fieldOf s n) then (List.range 4).map fun m => ballastOf s n m else []).foldl (· + ·) 0

/-- The limits of an update (R316 to R318, R320). Critical: the load is cut toward idle at 1,000 W/ms. Warning: it falls at the slew limit
until Tj ≤ warn_c. -/
def limits (x : Measure) (s : State) : Limits :=
  let st := slewNow s
  let load := s.prun.load
  let cap := 100 * (s.pwr.limitW.toNat + (x.demand - Config.powerEstimate x.activity s.prun.calib))
  let floor := if jobLoaded s && s.pwr.therm == 0 then 100 * s.pwr.floorW.toNat else 0
  if s.pwr.therm == 2 || s.prun.tripped then ⟨max (min Config.idleLoad (load + st)) (load - 1000), load - 1000, 0, 0, cap⟩
  else if s.pwr.therm == 1 && tooWarm s then ⟨min (load - st) cap, load - st, 0, 0, cap⟩
  else ⟨min (load + st) cap, load - st, min floor (load + st), floor, cap⟩

/-- The voltage step that the shaper wants (R314): at critical it is V0, whatever vmin says (T15-5; log entry 39). -/
def wantStep (x : Measure) (s : State) : State :=
  let est := Config.powerEstimate x.activity s.prun.calib
  let low := est * 10 < s.pwr.limitW.toNat * 9
  let lowT : Timer := if low then some (s.prun.lowTimer.getD 10000000) else none
  let hot := s.pwr.limitW.toNat ≤ est || (s.pwr.therm == 1 && tooWarm s)
  let cur := s.pwr.cur.toNat
  let set (t : Nat) (lowered : Bool) : State := { s with
    pwr := { s.pwr with vtarget := BitVec.ofNat 3 t }, prun := { s.prun with lowTimer := lowT, lowered := lowered } }
  if s.pwr.therm == 2 then set 0 true
  else if !jobLoaded s then set 0 false
  else if hot then set (min cur (max (vminNow s) (cur - 1))) true
  else if s.pwr.therm == 1 then set (min cur s.pwr.vmax.toNat) true
  else if s.prun.lowered && lowT != some 0 then set (max (vminNow s) (min cur s.pwr.vmax.toNat)) true
  else set s.pwr.vmax.toNat false

/-- The next load step in order of priority, then of arrival. -/
def firstAdmit (xs : List (Nat × Admit × Nat)) : Option (Nat × Admit × Nat) :=
  xs.foldl (fun b x => match b with
    | none => some x
    | some y => if x.1 < y.1 then some x else some y) none

/-- A load step is admitted: its domain begins to wake, or its slice, retrain or group begins. -/
def admitted (d : Admit) (s : State) : State :=
  match d with
  | .field f => { s with prun := { s.prun with waking := setBit4 s.prun.waking f true } }
  | .hbm f => { s with prun := { s.prun with hbmWaking := setBit4 s.prun.hbmWaking f true } }
  | .slice => { s with bist := { s.bist with sliceBusy := true, sliceWait := false } }
  | .link l => if (linkOf s l).enable then train l s else s
  | .group _ _ => { s with bist := { s.bist with groupOn := true } }

/-- A step of `w` W fits (R317): under the ceiling with the 30 W that R316 allows a step that is met at once (17 R352), where it is not
ramped; and under the core-rail limit. -/
def fits (l : Limits) (d : Admit) (w : Nat) (s : State) : Bool :=
  (d.ramped || s.prun.load + 100 * w ≤ l.ceil + 3000) && s.prun.load + 100 * w ≤ l.cap

/-- Admit the next step that cannot be gated, one at a time and only where it fits (R317). -/
def admitNext (l : Limits) (s : State) : State :=
  if s.prun.settleTimer.getD 0 != 0 then s
  else
    let s1 := { s with prun := { s.prun with settleTimer := none } }
    match firstAdmit s.prun.loadSteps with
    | none => s1
    | some (p, d, w) =>
      if s.prun.tripped || s.pwr.therm == 2 || (s.pwr.therm == 1 && tooWarm s) || !fits l d w s then s1
      else
        admitted d { s1 with prun := { s1.prun with
          loadSteps := s1.prun.loadSteps.erase (p, d, w), settleTimer := some (1000000 * w / slewNow s) } }

/-- Gates, ballast and load of one update, and what PWR shows of them. Ballast always meets the slew limit (R316); the floor only as far
as the fronds allow (R318). After a trip every gate stays closed and the load falls to idle (19 R383). -/
def setLoad (x : Measure) (l : Limits) (s : State) : State :=
  let trip := s.prun.tripped
  let demand := if trip then min (100 * x.demand) Config.idleLoad else 100 * x.demand
  let real := min demand l.ceil
  let slew := l.slewMin - real
  let most := 100 * Config.ballastMax s.pwr.cur.toNat (ballastFronds s)
  let ballast := max slew (min (l.floorMin - real) most)
  let load := real + ballast
  let unmet := load < l.floorMin
  let s1 := { s with
    pwr := { s.pwr with
      ceiling := l.ceil < demand
      floorActive := slew < ballast
      floorUnmet := s.pwr.floorUnmet || unmet
      estW := BitVec.ofNat 12 (min 4095 (load / 100)), ballastW := BitVec.ofNat 12 (min 4095 (ballast / 100)) }
    prun := { s.prun with
      load := load, ballast := ballast, lim := l
      gates := (List.range 5).map fun i => if trip then 0 else Config.gateTokens i s.pwr.cur.toNat l.ceil
      floorLogged := s.prun.floorLogged || unmet } }
  if unmet && !s.prun.floorLogged then pwrEv 0xC6 0 0 0 0 s1 else s1

/-- SHAPER_UPDATE, at each whole multiple of 10 µs. With the puppeteer core halted the last limits and the step are held, and only the
critical cut and the trip act (16 R346). -/
def execShaperUpdate (x : Measure) (s : State) : Res :=
  let s0 := { s with prun := { s.prun with shapeDue := false } }
  need true (awake s && s.prun.shapeDue)
    (if fwHalted s then setLoad x (if s.pwr.therm == 2 || s.prun.tripped then limits x s else s.prun.lim) s0
    else
      let s1 := sliceAsk (if jobLoaded s then s0 else latchPwr s0)
      let l := limits x s1
      admitNext l (setLoad x l (wantStep x s1)))

/-- SHAPER_CALIBRATE. -/
def execShaperCalibrate (coreW : Nat) (s : State) : Res :=
  need true (awake s && !fwHalted s)
    { s with
      pwr := { s.pwr with coreW := BitVec.ofNat 12 (min 4095 coreW) }
      prun := { s.prun with calib := coreW } }

/-! ## Thermal monitor (15 R320, 19 R383) -/

/-- The level after a sample of `c` °C. -/
def thermNext (s : State) (c : Nat) : Nat :=
  let warn := s.pwr.warnC.toNat
  let below : Nat := if c + 5 < warn then 0 else 1
  if 110 ≤ c then 2
  else match s.pwr.therm.toNat with
    | 0 => if warn ≤ c then 1 else 0
    | 1 => below
    | _ => if 105 ≤ c then 2 else below

/-- Hottest sensor of the last 1 ms. -/
def hottest (ts : List (Nat × Nat)) : Nat := ts.foldl (fun m x => max m x.2) 0

/-- A trip: THERMTRIP_N asserted and every gate closed (R320, 19 R383). -/
def tripAt (c : Nat) (s : State) : State :=
  if c < 125 then s
  else { s with prun := { s.prun with tripped := true, gates := List.replicate 5 0 }, pins := { s.pins with thermtripN := false } }

/-- THERMAL_SAMPLE: the hottest junction of each field. In a device held in reset only the trip acts. -/
def execThermalSample (temps : List Int) (s0 : State) : Res :=
  need (temps != []) true
    (let c := temps.foldl (fun m t => max m t.toNat) 0
     let s := tripAt c s0
     if s.rst == .held then s else
     let ts := (0, c) :: s.prun.temps
     let lvl := thermNext s c
     let s1 := { s with
        pwr := { s.pwr with
          therm := BitVec.ofNat 2 lvl, tjMax := BitVec.ofNat 8 (min 255 (hottest ts))
          vtarget := if lvl == 2 then 0 else s.pwr.vtarget }
        prun := { s.prun with temps := ts, fieldC := temps.map Int.toNat, lowered := s.prun.lowered || lvl == 2 }
        pins := { s.pins with thermAlertN := lvl == 0 } }
     if lvl == s.pwr.therm.toNat then s1
     else
       match lvl with
       | 0 => pwrEv 0xC8 0 0 0 0 s1
       | 1 => pwrEv 0xC4 0 0 0 s1.pwr.tjMax.toNat s1
       | _ => pwrEv 0xC5 0 0 0 s1.pwr.tjMax.toNat s1)

end Sys2Proof.Machine
end

