-- ==== Sys2Proof/Machine/Reset.lean ====
section
/-! DEFINITION. Resets and the PCI Express function (15 R321, 19 R378 to R383, 14 R282, R296, R301): PERST_N, PWR_OK, reference clocks,
Function Level Reset, configuration requests, DOE Discovery. Log entries 2, 40 and 41. -/

namespace Sys2Proof.Machine

open Sys2Proof

/-! ## Device reset -/

/-- The core is reset: every register and memory at its reset value. The part, the flash, the pins, a thermal trip (19 R383) and the
TAP (16 R339) stay. Programming that was under way leaves the flash unspecified (16 R330). -/
def deviceReset (s : State) : State :=
  { pending := s.pending
    part := if s.sec.fwState == 1 && !s.sec.copying then { s.part with image := Config.flashAfterCut s.nonce, flashCut := true }
      else s.part
    pins := { s.pins with smbSclHeld := false, ppsOut := false, thermAlertN := true }
    refclkLost := s.refclkLost
    refclkTimer := s.refclkTimer
    prun := { tripped := s.prun.tripped, gates := List.replicate 5 (if s.prun.tripped then 0 else 240) }
    dbg := {
      nonceIdx := s.nonce + 1, ir := s.dbg.ir, boundary := s.dbg.boundary, pinDrive := s.dbg.pinDrive, lastStatus := s.dbg.lastStatus, lastRead := s.dbg.lastRead }
    nonce := s.nonce + 2
    out := s.out }

/-- The host link drops at once (15 R321): what waits at the port is gone. -/
def linkDrop (s : State) : State := { s with port := { s.port with linkUp := false, held := [] } }

/-- The core begins its ramp to idle, or is reset at once where every gate is closed by a trip (15 R321, 19 R383). -/
def rampDown (s : State) : State :=
  if s.rst == .held then s
  else if s.prun.tripped then deviceReset s
  else { s with rst := .ramping }

/-- Straps are sampled, the regulator's transition rate is set, and the boot ROM runs (15 R311, R321, 16 R327, 19 R380). -/
def startBoot (s0 : State) : State :=
  let l := Config.hostLink s0.nonce
  let s := emit (.avsRate 1) s0
  { s with
    rst := .booting
    caps := { s.caps with compat := s.pins.compatMode }
    sec := { s.sec with strap := !s.pins.fwRecovN }
    pwr := { s.pwr with smbAddr := BitVec.ofNat 7 (0x58 + s.pins.smbAddr.toNat) }
    prun := { s.prun with compatRamp := s.pins.compatMode }
    bist := { s.bist with startNs := s.time.now.toNat }
    pci := { s.pci with speed := l.extractLsb' 0 3, width := l.extractLsb' 3 5, flit := l.getLsbD 8 }
    port := { s.port with linkUp := true }
    nonce := s.nonce + 1 }

/-- PERST_ASSERT. -/
def execPerstAssert (s : State) : Res :=
  always (if s.pins.perstN then rampDown (linkDrop { s with pins := { s.pins with perstN := false } }) else s)

/-- RESET_RAMP_DONE, once the load has come down to idle: the core is reset; where PERST_N has risen during the ramp, the device
starts. -/
def execResetRampDone (s : State) : Res :=
  need true (s.rst == .ramping && s.prun.load ≤ Config.idleLoad)
    (let s1 := deviceReset s
     if s1.pins.perstN && s1.pins.pwrOk && !s1.refclkLost then startBoot s1 else s1)

/-- REFCLK has not been lost, or has run for 100 µs again since (19 R382: no row tells of its return, so it is a free value once 100 µs
have passed). -/
def refclkRuns (s : State) : Bool := !s.refclkLost || (s.refclkTimer == some 0 && Config.refclkBack s.nonce)

/-- PERST_DEASSERT. With TEST_EN high the device boots into a manufacturing mode, which the manual does not describe (19 T19-5). -/
def execPerstDeassert (s : State) : Res :=
  let s1 := { s with
    nonce := s.nonce + 1, pins := { s.pins with perstN := true }, dbg := { s.dbg with pinDrive := .normal } }
  if s.pins.perstN then .next s
  else if s.pins.pwrOk && s.rst == .held && refclkRuns s then
    if s.pins.testEn then .fault .manufacturingMode
    else .next (startBoot { s1 with refclkLost := false, refclkTimer := none, pins := { s1.pins with refclkOk := true } })
  else .next s1

/-- PWR_OK_RISE (19 R378). -/
def execPwrOkRise (s : State) : Res := always { s with pins := { s.pins with pwrOk := true } }

/-- PWR_OK_FALL: reset at once, with no ramp (19 R379). -/
def execPwrOkFall (s : State) : Res :=
  let s1 := { s with pins := { s.pins with pwrOk := false } }
  always (if s.rst == .held then s1 else deviceReset (linkDrop s1))

/-- Every link goes down, and what is in flight on it is lost. -/
def linksDown (s : State) : State :=
  (List.range 32).foldl (fun t l =>
    if hasLink t l && (linkOf t l).state != .disabled then
      loseTxns l (fun k => { k with state := .down, width := 0, trainTimer := none }) t
    else t) s

/-- REFCLK_LOSS while PWR_OK is high (19 R382). -/
def execRefclkLoss (s : State) : Res :=
  need true s.pins.pwrOk
    (rampDown (linksDown (linkDrop { s with
      refclkLost := true, refclkTimer := some 100000, pins := { s.pins with refclkOk := false } })))

/-- PCIE_REFCLK_LOSS: the host link drops; the core is not reset (19 R382). -/
def execPcieRefclkLoss (s : State) : Res := always (linkDrop { s with pins := { s.pins with pcieRefclkOk := false } })

/-! ## The function (14 R282, R296, R301) -/

/-- Pending vectors that are no longer masked are signalled. -/
def signalPending (s : State) : State := s.port.pba.foldl (fun t v => msixWrite v (msixEntry t v) t) s

/-- A configuration register as read. What 14 T14-1 gives stands in it, at the offsets of a type 0 header (PRESUMED: log entry 41): Bus
Master Enable, the class code, one function of type 0, BAR0 of 64 MiB (64 bits, not prefetchable), BAR2 of the size chosen (64 bits,
prefetchable), no INTx. The rest is a free value. -/
def cfgValue (s : State) (off : Nat) : W32 :=
  let w := BitVec.ofNat 32 (natOf ((Config.standardBody 1 off).take 4))
  match off with
  | 0x04 => (w &&& ~~~(4#32)) ||| (if s.port.busMaster then 4 else 0)
  | 0x08 => 0x12000000 ||| (w &&& 0xFF)
  | 0x0C => w &&& 0xFF00FFFF
  | 0x10 => (w &&& 0xFC000000) ||| 4
  | 0x18 => (w &&& 0xC0000000 &&& ~~~(BitVec.ofNat 32 (2 ^ s.port.bar2Log2 - 1))) ||| 0xC
  | 0x1C => w &&& ~~~(BitVec.ofNat 32 ((2 ^ s.port.bar2Log2 - 1) / 2 ^ 32))
  | 0x3C => w &&& 0xFFFF00FF
  | _ => w

/-- A configuration write takes effect. -/
def cfgPut (r : CfgReq) (s : State) : State :=
  match r with
  | .read _ | .other _ _ => s
  | .busMaster on =>
    let s1 := { s with port := { s.port with busMaster := on } }
    if on then signalPending s1
    else drainAbandon s1
  | .msixCtl on mask => signalPending { s with port := { s.port with msixOn := on, msixMask := mask } }
  | .ptm on => { s with port := { s.port with ptmEn := on } }
  | .bar2Size k => if 30 ≤ k && k ≤ 40 then { s with port := { s.port with bar2Log2 := k } } else s

/-- FUNCTION_LEVEL_RESET: an unload, then the registers of 14 T14-5 and the function's own configuration. -/
def execFunctionLevelReset (s : State) : Res :=
  always
    (if noLink s || !cfgAnswers s then s
    else
      let s1 := jobUnload 0 (tlpIn s)
      { s1 with
        pci := { speed := s1.pci.speed, width := s1.pci.width, flit := s1.pci.flit }
        port := { linkUp := true, pubSeq := s1.port.pubSeq }
        log := { s1.log with unsignalled := 0, irqTimer := none } })

/-- CONFIGURATION_REQUEST. -/
def execConfigurationRequest (r : CfgReq) (s : State) : Res :=
  always
    (if noLink s then s
    else
      let s1 := tlpIn s
      if !cfgAnswers s1 then emit (.cfg .retry 0) s1
      else
        match r with
        | .read off => emit (.cfg .ok (cfgValue s1 off)) s1
        | _ => emit (.cfg .ok 0) (cfgPut r s1))

/-- DOE_DISCOVERY: protocol `index` of the DOE instance (0 Discovery, 1 CMA/SPDM, 2 secured CMA/SPDM) and the next index. -/
def execDoeDiscovery (index : Nat) (s : State) : Res :=
  always
    (if noLink s then s
    else
      let s1 := tlpIn s
      if !cfgAnswers s1 then emit (.cfg .retry 0) s1
      else emit (.doe (if index < 3 then [index, (index + 1) % 3] else [])) s1)

end Sys2Proof.Machine
end

