-- ==== Sys2Proof/Machine/Debug.lean ====
section
/-! DEFINITION. The debug port (16 R339 to R347): the TAP, DBG_ACCESS with the DBG block and its register window, unlock levels,
halting, resuming and stepping targets. Log entries 14, 43 and 44. -/

namespace Sys2Proof.Machine

open Sys2Proof

/-! ## Targets (16 R344, T16-9) -/

/-- The selected target exists and its level is in force. -/
def tgtOk (s : State) : Bool :=
  let d := s.dbg
  match d.tgtKind.toNat with
  | 0 => 2 ≤ d.level.toNat
  | 1 => 1 ≤ d.level.toNat && hasThl s d.tgtThl.toNat
  | 2 => 1 ≤ d.level.toNat && hasStrm s d.tgtThl.toNat d.tgtIdx.toNat
  | _ => false

/-- State of the selected target. -/
def tgtOf (s : State) : DbgTgt :=
  let n := s.dbg.tgtThl.toNat
  let i := s.dbg.tgtIdx.toNat
  match s.dbg.tgtKind.toNat with
  | 0 => s.dbg.pup
  | 1 => (coreOf s n i).dbg
  | 2 => (strmOf s n i).dbg
  | _ => {}

/-- pc of the selected target. -/
def tgtPc (s : State) : Nat :=
  let n := s.dbg.tgtThl.toNat
  let i := s.dbg.tgtIdx.toNat
  match s.dbg.tgtKind.toNat with
  | 0 => s.dbg.pupPc.toNat
  | 1 => (coreOf s n i).pc
  | 2 => (strmOf s n i).pc
  | _ => 0

def modTgt (f : DbgTgt → DbgTgt) (s : State) : State :=
  let n := s.dbg.tgtThl.toNat
  let i := s.dbg.tgtIdx.toNat
  match s.dbg.tgtKind.toNat with
  | 0 => { s with dbg := { s.dbg with pup := f s.dbg.pup } }
  | 1 => modCore n i (fun k => { k with dbg := f k.dbg }) s
  | 2 => modStrm n i (fun k => { k with dbg := f k.dbg }) s
  | _ => s

/-- The puppeteer core's registers as it halts, at breakpoint `bp` where that is the reason. -/
def pupHalt (reason bp : Nat) (s : State) : State :=
  { s with
    dbg := { s.dbg with
      pup := s.dbg.pup.halt reason bp
      pupRegs := (List.range 64).map (Config.pupReg s.nonce)
      pupPc := Config.pupReg s.nonce 64, pupStatus := Config.pupReg s.nonce 65 }
    nonce := s.nonce + 1 }

/-- Halt the selected target on command. -/
def tgtHalt (s : State) : State :=
  if (tgtOf s).halted then s
  else if s.dbg.tgtKind == 0 then
    let s1 := pupHalt 1 0 s
    haltEv (tgtWord 0 s.dbg.tgtThl.toNat s.dbg.tgtIdx.toNat) (tgtPc s1) s1
  else
    haltEv (tgtWord s.dbg.tgtKind.toNat s.dbg.tgtThl.toNat s.dbg.tgtIdx.toNat) (tgtPc s) (modTgt (DbgTgt.halt 1 0) s)

/-- The address breakpoint that the running puppeteer core meets: where it stands is a free value (R344). -/
def pupBp (s : State) : Option Nat :=
  s.dbg.bp.findIdx? fun b => bit b 44 && field b 46 45 == 0 && field b 43 3 * 8 == (Config.pupReg s.nonce 64).toNat

/-- The puppeteer core halts at an address breakpoint; after a resume from one its next instruction is not tested. -/
def pupBreak (s : State) : State :=
  if !up s || s.pwr.state == 4 || fwHalted s then s
  else
    match pupBp s with
    | some i =>
      if s.dbg.pup.skipBp then { s with dbg := { s.dbg with pup := { s.dbg.pup with skipBp := false } } }
      else
        let s1 := pupHalt 2 i s
        haltEv (tgtWord 0 0 0) s1.dbg.pupPc.toNat s1
    | none => s

/-- Resume: the instruction at a breakpoint is not tested again (16 R345). -/
def DbgTgt.resume (d : DbgTgt) : DbgTgt :=
  if d.halted then { mode := 0, skipBp := d.reason == 2 || d.reason == 3 } else d

def tgtResume (s : State) : State :=
  if !(tgtOf s).halted then s
  else
    let s1 := modTgt DbgTgt.resume s
    if s.dbg.tgtKind == 0 then fwGoes s1 else s1

/-- Step: a core runs one instruction, a stream one pass; the puppeteer core's instruction leaves registers that are not given. -/
def tgtStep (s : State) : State :=
  if !(tgtOf s).halted then s
  else if s.dbg.tgtKind == 0 then pupHalt 4 0 s
  else modTgt (fun d => { d with mode := 3, skipBp := d.reason == 2 || d.reason == 3, stepEngine := none }) s

/-! ## Unlocking (16 R341 to R343) -/

/-- Bytes of DBG.BUF. -/
def bufBytes (s : State) (off n : Nat) : List Byte := (List.range n).map fun i => Sparse.get s.dbg.buf (off + i)

/-- The message that an unlock signs: nonce, serial and level. -/
def unlockMsg (s : State) (level : Nat) : List Byte :=
  bytesOf 32 (Config.nonce s.dbg.nonceIdx).toNat ++ bytesOf 16 s.part.serial.toNat ++ bytesOf 1 level

/-- The first condition of Table 16-8 that fails, reason 6 for the conditions of the level. -/
def unlockBad (s : State) (level : Nat) (vendor : Bool) : Option Nat :=
  let hash := if vendor then some s.part.vendorHash else s.part.ownerHash
  if 16 ≤ s.dbg.failures.toNat then some 1
  else if level == 0 || s.part.dbgMax < level then some 2
  else if !vendor && (1 < level || s.part.ownerHash.isNone) then some 3
  else if hash != some (digest (bufBytes s 0 388)) then some 4
  else if !s.dbg.nonceReady ||
      !pssVerify (bufBytes s 0 384) (bufBytes s 384 4) (bufBytes s 512 384) (sha256 (unlockMsg s level)) then some 5
  else if 2 ≤ level && (jobLoaded s || s.sec.ideSecure) then some 6
  else none

/-- Refuse an unlock: cause 0xE1; the next nonce is readable after 1 s. -/
def unlockRefuse (reason : Nat) (s : State) : State :=
  dbgEv 0xE1 reason 0 0 { s with dbg := { s.dbg with
    failures := BitVec.ofNat 5 (min 16 (s.dbg.failures.toNat + 1)), nonceReady := false, nonceTimer := some 1000000000 } }

/-- Clear every secret (R343). -/
def clearSecrets (s : State) : State :=
  let gone (p : Spdm) : Spdm := { p with sessions := [] }
  { s with sec := { s.sec with
      doe := gone s.sec.doe, mctp := gone s.sec.mctp, sessionKeys := [], ideKeys := []
      engineRegs := 0, keyRegs := 0, wrapLatch := 0 } }

/-- A fresh nonce. -/
def newNonce (s : State) : State :=
  { s with dbg := { s.dbg with nonceIdx := s.nonce, nonceReady := true, nonceTimer := none }, nonce := s.nonce + 1 }

/-- The level rises where the request is above it: cause 0xE0. -/
def levelUp (level : Nat) (s : State) : State :=
  if s.dbg.level.toNat < level then dbgEv 0xE0 0 0 0 { s with dbg := { s.dbg with level := BitVec.ofNat 2 level } } else s

/-- A write of DBG.UNLOCK with go = 1; `clearOk` tells whether the cleared registers read back as zero. -/
def unlock (v : Word) (clearOk : Bool) (s : State) : State :=
  let level := field v 1 0
  match unlockBad s level (bit v 2) with
  | some r => unlockRefuse r s
  | none =>
    if 2 ≤ level && s.dbg.level.toNat < level then
      let s1 := clearSecrets s
      if !clearOk then unlockRefuse 6 s1
      else
        let s2 := dbgEv 0xE2 0 0 0 { s1 with sec := { s1.sec with vaultCleared := true } }
        let s3 := if level == 3 then jobUnload 0 s2 else s2
        newNonce (levelUp level s3)
    else newNonce (levelUp level s)

/-- relock (R342): breakpoints cleared, targets resumed, level 0. Level 3 is left only by a reset. -/
def relock (s : State) : State :=
  if s.dbg.level == 3 then s
  else
    let s1 := { s with
      thl := s.thl.map fun t => { t with
        strm := t.strm.map fun q => { q with dbg := q.dbg.resume }
        core := t.core.map fun k => { k with dbg := k.dbg.resume } }
      dbg := { s.dbg with
        bp := List.replicate 16 0, pbp := List.replicate 4 {}, pup := s.dbg.pup.resume, level := 0 } }
    let s2 := dbgEv 0xE4 0 0 0 s1
    if fwHalted s then fwGoes s2 else s2

/-! ## The DBG block (16 T16-11) -/

def levelReg (s : State) : Word :=
  pack [(0, s.dbg.level.toNat), (8, s.dbg.failures.toNat), (13, b2n (16 ≤ s.dbg.failures.toNat))]

def nonceWord (s : State) (i : Nat) : Word :=
  let n := if s.dbg.nonceReady then Config.nonce s.dbg.nonceIdx else Config.noNonce s.dbg.nonceIdx
  BitVec.ofNat 64 (n.toNat >>> (64 * i))

def pbpWord (b : Pbp) : Word :=
  pack [(0, b.layer.toNat), (12, b2n b.dir), (13, b2n b.dirAny), (14, b.thallus.toNat), (22, b2n b.thallusAny), (23, b2n b.en)]

def tstat (s : State) : Word :=
  let d := tgtOf s
  pack [(0, d.mode.toNat), (4, d.reason.toNat), (8, d.bpIndex.toNat), (20, tgtPc s % 2 ^ 44)]

def modDbg (f : Dbg → Dbg) (s : State) : State := { s with dbg := f s.dbg }

/-- A register of the DBG block: its value and a write of it, `none` for a hole. -/
def dbgReg (s : State) (o : Nat) : Option (Word × (Word → State → State)) :=
  match o with
  | 0x00 => some (levelReg s, fun _ t => t)
  | 0x08 => some (pack [(0, s.dbg.unlockLevel.toNat), (2, b2n s.dbg.unlockKey)], fun v t =>
      let t1 := modDbg (fun d => { d with unlockLevel := BitVec.ofNat 2 (field v 1 0), unlockKey := bit v 2 }) t
      if bit v 4 then relock t1 else if bit v 3 then unlock v true t1 else t1)
  | 0x30 => some (pack [(0, b2n s.dbg.freezeTmo)], fun v => modDbg fun d => { d with freezeTmo := bit v 0 })
  | 0x38 => some (BitVec.ofNat 64 (tgtWord s.dbg.tgtKind.toNat s.dbg.tgtThl.toNat s.dbg.tgtIdx.toNat), fun v => modDbg fun d =>
      { d with tgtKind := BitVec.ofNat 2 (field v 1 0), tgtThl := BitVec.ofNat 8 (field v 9 2), tgtIdx := BitVec.ofNat 3 (field v 12 10) })
  | 0x40 => some (0, fun v t => if !tgtOk t then t else match field v 1 0 with
      | 1 => tgtHalt t
      | 2 => tgtResume t
      | 3 => tgtStep t
      | _ => t)
  | 0x48 => some (tstat s, fun _ t => t)
  | _ =>
    if 0x10 ≤ o && o < 0x30 then some (nonceWord s ((o - 0x10) / 8), fun _ t => t)
    else if 0x80 ≤ o && o < 0x100 then
      let i := (o - 0x80) / 8
      some (s.dbg.bp.getD i 0, fun v => modDbg fun d =>
        { d with bp := d.bp.set i (BitVec.ofNat 64 (field v 57 3 <<< 3)) })
    else if 0x100 ≤ o && o < 0x120 then
      let i := (o - 0x100) / 8
      some (pbpWord (s.dbg.pbp.getD i {}), fun v => modDbg fun d => { d with pbp := d.pbp.set i {
          layer := BitVec.ofNat 12 (field v 11 0), dir := bit v 12, dirAny := bit v 13, thallus := BitVec.ofNat 8 (field v 21 14)
          thallusAny := bit v 22, en := bit v 23 } })
    else if 0x400 ≤ o && o < 0x800 then
      some (BitVec.ofNat 64 (natOf (bufBytes s (o - 0x400) 8)), fun v => modDbg fun d =>
        { d with buf := Sparse.sets d.buf (o - 0x400) (bytesOf 8 v.toNat) })
    else none

/-! ## The register window (16 T16-9) -/

/-- Word `i` of a vector of bits. -/
def wordIn {w : Nat} (x : BitVec w) (i : Nat) : Word := BitVec.ofNat 64 (x.toNat >>> (64 * i))

/-- The vector with word `i` replaced. -/
def setWord {w : Nat} (x : BitVec w) (i : Nat) (v : Word) : BitVec w :=
  (x &&& ~~~(BitVec.ofNat w (0xFFFFFFFFFFFFFFFF <<< (64 * i)))) ||| BitVec.ofNat w (v.toNat <<< (64 * i))

/-- Register `k` of a core: its value and a write of it; writes of g0 and p0 are discarded (08 R167). -/
def coreWin (c : Core) (k : Nat) : Option (Word × (Word → Core → Core)) :=
  if k < 32 then some (c.g.getD k 0, fun v c => if k == 0 then c else { c with g := c.g.set k v })
  else if k < 544 then
    let r := (k - 32) / 16
    let i := (k - 32) % 16
    some (wordIn (c.v.getD r 0) i, fun v c => { c with v := c.v.modify r fun x => setWord x i v })
  else if k < 560 then
    let r := (k - 544) / 2
    let i := (k - 544) % 2
    let all : Word := BitVec.allOnes 64
    some (if r == 0 then all else wordIn (c.p.getD r 0) i, fun v c =>
      if r == 0 then c else { c with p := c.p.modify r fun x => setWord x i v })
  else if k == 560 then some (BitVec.ofNat 64 c.pc, fun v c => { c with pc := v.toNat % 2 ^ 44 })
  else if k == 561 then
    some (c.cstatWord, fun v c => { c with cstat := BitVec.ofNat 5 (field v 4 0), ordCount := BitVec.ofNat 10 (field v 25 16) })
  else none

/-- TREG as a word: register 0 in the low byte. -/
def tregWord (q : Stream) : Word := BitVec.ofNat 64 (natOf q.treg)

/-- Register `k` of a stream. -/
def strmWin (q : Stream) (k : Nat) : Option (Word × (Word → Stream → Stream)) :=
  match k with
  | 0 => some (BitVec.ofNat 64 q.pc, fun v q => { q with pc := v.toNat % 2 ^ 44 })
  | 1 => some (tregWord q, fun v q => { q with treg := bytesOf 8 v.toNat })
  | _ => none

/-- Register `k` of the selected target. -/
def winAtK (s : State) (k : Nat) : Option (Word × (Word → State → State)) :=
  let n := s.dbg.tgtThl.toNat
  let i := s.dbg.tgtIdx.toNat
  match s.dbg.tgtKind.toNat with
  | 0 =>
    if k < 64 then some (s.dbg.pupRegs.getD k 0, fun v => modDbg fun d => { d with pupRegs := d.pupRegs.set k v })
    else if k == 64 then some (s.dbg.pupPc, fun v => modDbg fun d => { d with pupPc := v })
    else if k == 65 then some (s.dbg.pupStatus, fun v => modDbg fun d => { d with pupStatus := v })
    else none
  | 1 => (coreWin (coreOf s n i) k).map fun (w, put) => (w, fun v => modCore n i (put v))
  | 2 => (strmWin (strmOf s n i) k).map fun (w, put) => (w, fun v => modStrm n i (put v))
  | _ => none

/-! ## DBG_ACCESS (16 R340) -/

/-- What an access of 8 bytes reaches. -/
inductive Reach where
  /-- Status 1: not taken. -/
  | busy
  /-- A sleeping domain, at an address: not taken, and it is woken. -/
  | asleep (a : Nat)
  /-- Status 2. -/
  | denied
  /-- Status 3. -/
  | bad
  | dbg (off : Nat)
  | win (k : Nat)
  | reg (off : Nat)
  | mem
deriving DecidableEq, Repr, Inhabited

/-- What level 0 reaches of register space: DBG.LEVEL, UNLOCK, NONCE, BUF, and DEV.CAP (16 T16-7). -/
def level0 (off : Nat) : Bool :=
  off < 0x18 || (0xB000 ≤ off && off < 0xB030) || (0xB400 ≤ off && off < 0xB800)

def reach (s : State) (a : Nat) (write : Bool) : Reach :=
  let off := a - regBase
  if a % 8 != 0 || regionOf a == .reserved then .bad
  else if noLink s || s.pwr.state == 4 then .busy
  else if regionOf a == .regs then
    if s.dbg.level == 0 && !level0 off then .denied
    else if 0xB000 ≤ off && off < 0xC000 then
      if off == 0xB040 && write && s.dbg.tgtKind == 0 && s.dbg.level.toNat < 2 then .denied else .dbg (off - 0xB000)
    else if 0xE000 ≤ off && off < 0xF190 then
      if s.dbg.tgtKind == 0 && s.dbg.level.toNat < 2 then .denied
      else if !tgtOk s || !(tgtOf s).halted then .bad
      else .win ((off - 0xE000) / 8)
    else .reg off
  else if s.dbg.level == 0 then .denied
  else
    let gated := match regionOf a with
      | .cur | .nxt => if write then none else sleeping s a 8
      | _ => sleeping s a 8
    match gated with
    | some (_, b) => .asleep b
    | none => .mem

/-- The result of a command: its status and read data, for the next scan. -/
def answered (status : BitVec 4) (data : Word) (s : State) : State := modDbg (fun d => { d with lastStatus := status, lastRead := data }) s

/-- A read command. -/
def dbgRead (a : Nat) (s : State) : State :=
  match reach s a false with
  | .busy => answered 1 0 s
  | .asleep b => answered 1 0 (want b s)
  | .denied => answered 2 0 s
  | .bad => answered 3 0 s
  | .dbg o => match dbgReg s o with
    | some (w, _) => answered 0 w s
    | none => answered 0 0 (holeEv .debug (0xB000 + o) s)
  | .win k => match winAtK s k with
    | some (w, _) => answered 0 w s
    | none => answered 0 0 (holeEv .debug (0xE000 + 8 * k) s)
  | .reg off =>
    let (s1, w) := spaceRead .debug off 8 s
    answered 0 w s1
  | .mem => match readMem .debug a 8 (touchMem a 8 s) with
    | (s1, some bs) => answered 0 (BitVec.ofNat 64 (natOf bs)) s1
    | (s1, none) => answered 0 (peekWord s a) (settle s1)

/-- A write command. -/
def dbgWrite (a : Nat) (v : Word) (s : State) : State :=
  match reach s a true with
  | .busy => answered 1 0 s
  | .asleep b => answered 1 0 (want b s)
  | .denied => answered 2 0 s
  | .bad => answered 3 0 s
  | .dbg o => match dbgReg s o with
    | some (_, put) => answered 0 0 (put v s)
    | none => answered 0 0 (holeEv .debug (0xB000 + o) s)
  | .win k => match winAtK s k with
    | some (_, put) => answered 0 0 (put v s)
    | none => answered 0 0 (holeEv .debug (0xE000 + 8 * k) s)
  | .reg off => answered 0 0 (spaceWrite .debug off 8 v s)
  | .mem => answered 0 0 (settle (writeMem .debug a (bytesOf 8 v.toNat) (touchMem a 8 s)))

/-- A scan of DBG_ACCESS: the result of the command before it is shifted out. -/
def dbgScan (act : State → State) (s : State) : State :=
  act (emit (.tdo (s.dbg.lastStatus.toNat ||| s.dbg.lastRead.toNat <<< 48))
    (modDbg (fun d => { d with ir := 0x20, pinDrive := .normal }) s))

/-- DBG_ACCESS_READ and DBG_ACCESS_WRITE. The read row carries the command: 1 reads, 0 is none and leaves the last result, any other but
a write is a bad command, status 3 (R340). -/
def execDbgAccessRead (scan : Nat) (s : State) : Res :=
  always (dbgScan (if scan % 16 == 1 then dbgRead (scan / 16) else if scan % 16 == 0 then id else answered 3 0) s)
def execDbgAccessWrite (a : Nat) (v : Word) (s : State) : Res := always (dbgScan (dbgWrite a v) s)

/-- DBG_UNLOCK: a write of DBG.UNLOCK with go = 1; `clearOk` as the read-back of R343 finds. -/
def execDbgUnlock (v : Word) (clearOk : Bool) (s : State) : Res :=
  need true (bit v 3 && !bit v 4)
    (dbgScan (fun s => match reach s (regBase + 0xB008) true with
      | .dbg _ => answered 0 0 (unlock v clearOk (modDbg (fun d =>
          { d with unlockLevel := BitVec.ofNat 2 (field v 1 0), unlockKey := bit v 2 }) s))
      | _ => answered 1 0 s) s)

/-- DBG_RELOCK: a write of DBG.UNLOCK with relock = 1. -/
def execDbgRelock (s : State) : Res := always (dbgScan (dbgWrite (regBase + 0xB008) 0x10) s)

/-- DBG_NONCE_REFRESH (R342). -/
def execDbgNonceRefresh (s : State) : Res := need true (s.dbg.nonceTimer == some 0) (newNonce s)

/-- DBG_HALT, DBG_RESUME and DBG_STEP: writes of DBG.TCMD. -/
def execDbgHalt (s : State) : Res := always (dbgScan (dbgWrite (regBase + 0xB040) 1) s)
def execDbgResume (s : State) : Res := always (dbgScan (dbgWrite (regBase + 0xB040) 2) s)
def execDbgStep (s : State) : Res := always (dbgScan (dbgWrite (regBase + 0xB040) 3) s)

/-! ## The other TAP instructions (16 T16-6) -/

/-- What the instruction register captures and shifts out (R339). -/
def irCapture : Nat := 0x01

/-- Load the instruction register, whose capture is shifted out, and shift out of a data register; the pins are the device's own unless
the instruction drives them. -/
def tapInstr (code : BitVec 8) (tdo : Nat) (s : State) : State :=
  emit (.tdo tdo) (emit (.tdo irCapture) (modDbg (fun d => { d with ir := code, pinDrive := .normal }) s))

/-- The output pins are driven from the boundary register, or not at all. -/
def drivePins (p : PinDrive) (s : State) : State :=
  emit (.pins (if p == .boundary then some s.dbg.boundary else none)) (modDbg (fun d => { d with pinDrive := p }) s)

/-- Levels of the low-speed signals. -/
def pinLevels (p : Pins) : List Bool :=
  [p.perstN, p.pwrOk, p.compatMode, p.fwRecovN, p.smbAddr.getLsbD 0, p.smbAddr.getLsbD 1, p.smbAddr.getLsbD 2, p.testEn, p.ppsOut,
    p.thermtripN, p.thermAlertN, p.smbSclHeld]

/-- IDCODE: bits [31:28] follow the stepping digit. -/
def execIdcode (s : State) : Res := always (tapInstr 0x01 (0x0C4D50B5 ||| (s.part.stepping.toNat % 16) <<< 28) s)

/-- SAMPLE/PRELOAD. -/
def execSamplePreload (preload : Nat) (s : State) : Res :=
  always (modDbg (fun d => { d with boundary := preload }) (tapInstr 0x02 (Config.boundaryBits (pinLevels s.pins)) s))

/-- EXTEST, CLAMP and HIGHZ: only while PERST_N is asserted, otherwise BYPASS. -/
def execExtest (drive : Nat) (s : State) : Res :=
  always (if s.pins.perstN then tapInstr 0x03 0 s
    else drivePins .boundary (modDbg (fun d => { d with boundary := drive })
      (drivePins .boundary (tapInstr 0x03 (Config.boundaryBits (pinLevels s.pins)) s))))
def execClamp (s : State) : Res := always (if s.pins.perstN then tapInstr 0x04 0 s else drivePins .boundary (tapInstr 0x04 0 s))
def execHighz (s : State) : Res := always (if s.pins.perstN then tapInstr 0x05 0 s else drivePins .highz (tapInstr 0x05 0 s))

/-- DBG_STATUS. -/
def execDbgStatus (s : State) : Res := always (tapInstr 0x21 ((levelReg s).toNat % 2 ^ 32) s)

/-- SCAN_SEL: the scan chains at level 3 with secrets cleared, otherwise BYPASS. -/
def execScanSel (shift : Nat) (s : State) : Res :=
  always (if s.dbg.level == 3 && s.sec.vaultCleared then
      tapInstr 0x30 (Config.scanOut s.nonce shift) { s with nonce := s.nonce + 1 }
    else tapInstr 0x30 0 s)

/-- BYPASS, and every code that Table 16-6 does not list. -/
def execBypass (code : BitVec 8) (s : State) : Res :=
  need true (!([0x01, 0x02, 0x03, 0x04, 0x05, 0x20, 0x21, 0x30] : List Nat).contains code.toNat) (tapInstr code 0 s)

/-- TAP_RESET resets the TAP only. -/
def execTapReset (s : State) : Res :=
  always (modDbg (fun d => { d with ir := 0x01, lastStatus := 0, lastRead := 0, pinDrive := .normal }) s)

end Sys2Proof.Machine
end

