-- ==== Sys2Proof/Machine/MarFloat.lean ====
section
/-! DEFINITION. Scalar floating point (08 T8-3, opcodes 0x20 to 0x26; 08 R174, 02 R46) and branches (opcodes 0x30 to 0x37). -/

namespace Sys2Proof.Machine

open Sys2Proof

/-- FP32 with imm[0] = 0, FP64 with imm[0] = 1. -/
def fmtOfImm (w : Word) : Fmt := if bit w 32 then fp64 else fp32

/-- A scalar result: FP64 fills the register, the bits above an FP32 result are free (log entry 20). -/
def scalarOut (f : Fmt) (x : Nat) : Word := if f.width == 64 then BitVec.ofNat 64 x else widen 32 x

/-- rd ← op(g[ra], g[rb]) in the selected format. -/
def floatOp (n c : Nat) (w : Word) (f : Fmt → Nat → Nat → Nat) (s : State) : Res :=
  regInstr n c w true (fun k =>
    let t := fmtOfImm w
    k.gW (fD w) (scalarOut t (f t ((k.gR (fA w)).toNat % 2 ^ t.width) ((k.gR (fB w)).toNat % 2 ^ t.width)))) s

def execFadd (n c : Nat) (w : Word) (s : State) : Res := floatOp n c w Fmt.addB s
def execFsub (n c : Nat) (w : Word) (s : State) : Res := floatOp n c w Fmt.subB s
def execFmul (n c : Nat) (w : Word) (s : State) : Res := floatOp n c w Fmt.mulB s
def execFdiv (n c : Nat) (w : Word) (s : State) : Res := floatOp n c w Fmt.divB s
def execFsqrt (n c : Nat) (w : Word) (s : State) : Res := floatOp n c w (fun t a _ => t.sqrtB a) s
def execFmin (n c : Nat) (w : Word) (s : State) : Res := floatOp n c w (fun t => t.minmaxB false) s
def execFmax (n c : Nat) (w : Word) (s : State) : Res := floatOp n c w (fun t => t.minmaxB true) s

/-- A target `off` words of 8 bytes from an address. -/
def branchTo (base : Nat) (off : Int) : Nat := wrapNat 44 ((base : Int) + 8 * off)

/-- Set the pc after an instruction that branches. -/
def Core.jump (target : Nat) (k : Core) : Core :=
  { k with pc := target, state := .running, cntInstr := satAdd k.cntInstr 1 }

/-- A conditional branch on g[ra] and g[rb] (DEDUCED operands, log entry 21). -/
def branchOp (n c : Nat) (w : Word) (p : Word → Word → Bool) (s : State) : Res :=
  coreInstr n c w true (modCore n c fun k =>
    k.jump (if p (k.gR (fA w)) (k.gR (fB w)) then branchTo k.pc (fImm w) else (k.pc + 8) % 2 ^ 44)) s

def execBeq (n c : Nat) (w : Word) (s : State) : Res := branchOp n c w (· == ·) s
def execBne (n c : Nat) (w : Word) (s : State) : Res := branchOp n c w (· != ·) s
def execBlt (n c : Nat) (w : Word) (s : State) : Res := branchOp n c w (fun a b => a.toInt < b.toInt) s
def execBge (n c : Nat) (w : Word) (s : State) : Res := branchOp n c w (fun a b => b.toInt ≤ a.toInt) s
def execBltu (n c : Nat) (w : Word) (s : State) : Res := branchOp n c w (fun a b => a.toNat < b.toNat) s
def execBgeu (n c : Nat) (w : Word) (s : State) : Res := branchOp n c w (fun a b => b.toNat ≤ a.toNat) s

/-- JAL: the return address is the next instruction's. -/
def execJal (n c : Nat) (w : Word) (s : State) : Res :=
  coreInstr n c w true (modCore n c fun k =>
    (k.gW (fD w) (BitVec.ofNat 64 ((k.pc + 8) % 2 ^ 44))).jump (branchTo k.pc (fImm w))) s

/-- JALR: to g[ra] + 8 × imm, 8-byte aligned, with the return address in rd (PRESUMED, log entry 21). -/
def execJalr (n c : Nat) (w : Word) (s : State) : Res :=
  coreInstr n c w true (modCore n c fun k =>
    (k.gW (fD w) (BitVec.ofNat 64 ((k.pc + 8) % 2 ^ 44))).jump (branchTo (k.gR (fA w)).toNat (fImm w) / 8 * 8)) s

end Sys2Proof.Machine
end

