-- ==== Sys2Proof/Machine/MarGather.lean ====
section
/-! DEFINITION. Gather, scatter, scatter-add and the run's barrier (08 R178 to R183). -/

namespace Sys2Proof.Machine

open Sys2Proof

/-- Number of elements of an indexed instruction. -/
def ixCount (w : Word) : Nat := if fEw w == 64 then 16 else 32

/-- Active elements with their checked addresses; the first failing one faults the instruction (08 R178). -/
def ixAddrs (n c : Nat) (w : Word) (k : Core) : Nat ⊕ List (Nat × Nat) :=
  let sz := fEw w / 8
  let act := (List.range (ixCount w)).filter fun i => (k.pR (fPg w)).testBit i
  let chk := act.map fun i =>
    (i, checkAddr n c (fFa w % 2 == 1) ((k.gR (fGx w)).toNat + elemAt (k.vR (fA w)) 32 i * sz) sz sz)
  match chk.findSome? fun (_, r) => match r with
      | .inl cause => some cause
      | .inr _ => none with
  | some cause => .inl cause
  | none => .inr (chk.filterMap fun (i, r) => match r with
      | .inr a => some (i, a)
      | .inl _ => none)

/-- Load the active elements in ascending order; `none` at an uncorrectable one. -/
def gatherGo (ag : Agent) (sz : Nat) : List (Nat × Nat) → State → State × Option (List (Nat × Nat))
  | [], s => (s, some [])
  | (i, a) :: xs, s =>
    match readMem ag a sz s with
    | (s1, none) => (s1, none)
    | (s1, some bs) =>
      match gatherGo ag sz xs s1 with
      | (s2, none) => (s2, none)
      | (s2, some r) => (s2, some ((i, natOf bs) :: r))

/-- VGATHER (08 R178). -/
def execVgather (n c : Nat) (w : Word) (s : State) : Res :=
  coreInstr n c w true (fun t =>
    match ixAddrs n c w (coreOf t n c) with
    | .inl cause => coreFault n c cause w t
    | .inr as =>
      match gatherGo (coreAgent t n c w) (fEw w / 8) as t with
      | (t1, none) => classed (coreHold n c t1)
      | (t1, some r) =>
        classed (coreNext n c (fun k =>
          let old := k.vR (fD w)
          k.vW (fD w) (packElems (fEw w) ((List.range (1024 / fEw w)).map fun i =>
            match r.find? (·.1 == i) with
            | some (_, x) => x
            | none => if ixCount w ≤ i then elemAt old (fEw w) i else if fPz w then 0 else elemAt old (fEw w) i))) t1)) s

/-- VSCATTER (08 R179): ascending lanes, so the higher lane's value remains. -/
def execVscatter (n c : Nat) (w : Word) (s : State) : Res :=
  coreInstr n c w true (fun t =>
    let k := coreOf t n c
    match ixAddrs n c w k with
    | .inl cause => coreFault n c cause w t
    | .inr as =>
      classed (coreNext n c id (as.foldl (fun u (i, a) =>
        writeMem (coreAgent t n c w) a (bytesOf (fEw w / 8) (elemAt (k.vR (fB w)) (fEw w) i)) u) t))) s

/-- One add: FP32 with RNE, or INT32 wrapping (08 R180). -/
def add32 (isInt : Bool) (old v : Nat) : Nat := if isInt then (old + v) % 2 ^ 32 else fp32.addB old v

/-- One indivisible read-modify-write add at an address (08 R180, 07 R391). -/
def addAt (ag : Agent) (isInt : Bool) (a v : Nat) (s : State) : State :=
  match resolve s a with
  | none => absentEv ag a s
  | some p =>
    if s.mem.bad p then badRead ag a p s
    else writePiece ag a (bytesOf 4 (add32 isInt (natOf (s.mem.gets p 4)) v)) s

/-- The arithmetic and the element width that VSCADD accepts. -/
def scaddLegal (w : Word) : Bool := fEw w == 32 && (fFb w == 0x07 || fFb w == 0x0C)

/-- Unordered adds (08 R180): ascending lanes of the instruction. -/
def scaddNow (n c : Nat) (w : Word) (as : List (Nat × Nat)) (t : State) : State :=
  let k := coreOf t n c
  classed (coreNext n c id (as.foldl (fun u (i, a) =>
    addAt (coreAgent t n c w) (fFb w == 0x0C) a (elemAt (k.vR (fB w)) 32 i) u) t))

/-- Ordered adds (08 R181, R183): the contributions are held unapplied; more than 512 fault before any is issued. -/
def scaddHold (n c : Nat) (w : Word) (as : List (Nat × Nat)) (t : State) : State :=
  let k := coreOf t n c
  if 512 < k.ordCount.toNat + as.length then coreFault n c 0x54 w t
  else
    let cs : List Contrib := as.map fun (i, a) =>
      ⟨k.oseq.toNat, c, i, a, BitVec.ofNat 32 (elemAt (k.vR (fB w)) 32 i), fFb w == 0x0C⟩
    let r := runIdx t n c
    coreNext n c (fun k => { k with oseq := k.oseq + 1, ordCount := k.ordCount + BitVec.ofNat 10 as.length })
      (modThl n (fun h => { h with runs := h.runs.modify r fun u => { u with contribs := u.contribs ++ cs } }) t)

/-- fa[1]: the scatter-add is ordered (08 R180, R181). -/
def fOrdered (w : Word) : Bool := bit w 35

/-- The scatter-add that the word names. -/
def scadd (n c : Nat) (w : Word) (t : State) : State :=
  match ixAddrs n c w (coreOf t n c) with
  | .inl cause => coreFault n c cause w t
  | .inr as => if fOrdered w then scaddHold n c w as t else scaddNow n c w as t

/-- VSCADD, unordered: the row of words with fa[1] = 0. -/
def execVscaddUnordered (n c : Nat) (w : Word) (s : State) : Res := coreInstr n c w (scaddLegal w) (scadd n c w) s

/-- VSCADD, ordered: the row of words with fa[1] = 1. -/
def execVscaddOrdered (n c : Nat) (w : Word) (s : State) : Res := coreInstr n c w (scaddLegal w) (scadd n c w) s

/-- A core arrives at its run's barrier; `stop` when by STOP (08 R182). -/
def arrive (n c : Nat) (stop : Bool) (s : State) : State :=
  let b : BitVec 8 := BitVec.ofNat 8 (2 ^ c)
  let r := runIdx s n c
  modThl n (fun h => { h with runs := h.runs.modify r fun u =>
      if stop then { u with stopped := u.stopped ||| b } else { u with atBarrier := u.atBarrier ||| b } })
    (modCore n c (fun k => { k with ordCount := 0 }) s)

/-- OSYNC (08 R182): the core waits at the barrier. -/
def execOsync (n c : Nat) (w : Word) (s : State) : Res :=
  coreInstr n c w true (fun t =>
    modCore n c (fun k => { k with state := .barrier, cntInstr := satAdd k.cntInstr 1 }) (arrive n c false t)) s

/-- Key order of ordered contributions: q, then c, then i (08 R182). -/
def Contrib.before (a b : Contrib) : Bool :=
  a.q < b.q || (a.q == b.q && (a.c < b.c || (a.c == b.c && a.i ≤ b.i)))

def insertContrib (x : Contrib) : List Contrib → List Contrib
  | [] => [x]
  | y :: ys => if x.before y then x :: y :: ys else y :: insertContrib x ys

def sortContribs (xs : List Contrib) : List Contrib := xs.foldr insertContrib []

/-- The owner core of an address among the cores of the mask (08 R181). -/
def ownerCore (mask : BitVec 8) (a : Nat) : Nat :=
  let cs := (List.range 8).filter fun i => mask.getLsbD i
  cs.getD (a / 64 % cs.length) 0

/-- Every core of the run has arrived. -/
def Run.allArrived (r : Run) : Bool := (r.atBarrier ||| r.stopped) &&& r.mask == r.mask

/-- OSYNC_BARRIER_COMPLETE (08 R182): the held contributions are applied in key order by their owners, and every core in OSYNC
continues. -/
def execOsyncBarrierComplete (n k : Nat) (s : State) : Res :=
  let r := (thlOf s n).runs.getD k {}
  need (hasThl s n) (k < (thlOf s n).runs.length && !r.isUpd && r.allArrived && (r.atBarrier != 0 || !r.contribs.isEmpty))
    (let s1 := (sortContribs r.contribs).foldl (fun u x =>
        let o := ownerCore r.mask x.addr
        modCore n o (fun k => { k with cntOrd := satAdd k.cntOrd 1 })
          (addAt (.core n o r.stream (coreOf u n o).pc 0) x.isInt x.addr x.val.toNat u)) s
     classed (modThl n (fun h => { h with
        runs := h.runs.modify k fun u => { u with contribs := [], atBarrier := 0 }
        core := h.core.zipIdx.map fun (q, c) =>
          if r.atBarrier.getLsbD c && q.state == .barrier then { q with state := .running, pc := (q.pc + 8) % 2 ^ 44 } else q }) s1))

end Sys2Proof.Machine
end

