-- ==== Sys2Proof/Machine/MarInt.lean ====
section
/-! DEFINITION. The 64-bit integer instructions (08 T8-3, opcodes 0x01 to 0x13; 08 R174 for division). -/

namespace Sys2Proof.Machine

open Sys2Proof

/-- Shift of a value of `w` bits; the count `k` below `w` is exact, any other is free. `op` 0 left, 1 logical right,
2 arithmetic right. -/
def shiftBy (op w x k : Nat) : Nat :=
  if k < w then
    match op with
    | 0 => (x * 2 ^ k) % 2 ^ w
    | 1 => x % 2 ^ w / 2 ^ k
    | _ => wrapNat w (signed w x / (2 ^ k : Nat))
  else Config.shiftOver op w x k % 2 ^ w

/-- Signed division at width `w`: by zero all ones; truncated; the most negative by -1 wraps (08 R174). -/
def sdivW (w a b : Nat) : Nat :=
  if b % 2 ^ w == 0 then 2 ^ w - 1 else wrapNat w (Int.tdiv (signed w a) (signed w b))

/-- Unsigned division at width `w`. -/
def udivW (w a b : Nat) : Nat := if b % 2 ^ w == 0 then 2 ^ w - 1 else (a % 2 ^ w) / (b % 2 ^ w)

/-- Signed remainder at width `w`: by zero the dividend. -/
def sremW (w a b : Nat) : Nat :=
  if b % 2 ^ w == 0 then a % 2 ^ w else wrapNat w (Int.tmod (signed w a) (signed w b))

/-- High half of a product. -/
def mulHigh (a b : Word) : Word :=
  if a.msb || b.msb then Config.mulhHigh a b else BitVec.ofNat 64 (a.toNat * b.toNat / 2 ^ 64)

/-- rd ← op(g[ra], g[rb]). -/
def regOp (n c : Nat) (w : Word) (f : Word → Word → Word) (s : State) : Res :=
  regInstr n c w true (fun k => k.gW (fD w) (f (k.gR (fA w)) (k.gR (fB w)))) s

/-- rd ← op(g[ra], sign-extended imm). -/
def immOp (n c : Nat) (w : Word) (f : Word → Word → Word) (s : State) : Res :=
  regInstr n c w true (fun k => k.gW (fD w) (f (k.gR (fA w)) (BitVec.ofInt 64 (fImm w)))) s

def natOp (f : Nat → Nat → Nat) (a b : Word) : Word := BitVec.ofNat 64 (f a.toNat b.toNat)

/-- ADD (08 T8-3). The row also takes an opcode that Table 8-3 does not list, which faults (08 R173, log entry 7). -/
def execAdd (n c : Nat) (w : Word) (s : State) : Res :=
  regInstr n c w (fOp w == 0x01) (fun k => k.gW (fD w) (k.gR (fA w) + k.gR (fB w))) s
def execSub (n c : Nat) (w : Word) (s : State) : Res := regOp n c w (· - ·) s
def execMul (n c : Nat) (w : Word) (s : State) : Res := regOp n c w (· * ·) s
/-- MULH: free where signed and unsigned readings differ (log entry 20). -/
def execMulh (n c : Nat) (w : Word) (s : State) : Res := regOp n c w mulHigh s
def execDiv (n c : Nat) (w : Word) (s : State) : Res := regOp n c w (natOp (sdivW 64)) s
def execDivu (n c : Nat) (w : Word) (s : State) : Res := regOp n c w (natOp (udivW 64)) s
def execRem (n c : Nat) (w : Word) (s : State) : Res := regOp n c w (natOp (sremW 64)) s
def execAnd (n c : Nat) (w : Word) (s : State) : Res := regOp n c w (· &&& ·) s
def execOr (n c : Nat) (w : Word) (s : State) : Res := regOp n c w (· ||| ·) s
def execXor (n c : Nat) (w : Word) (s : State) : Res := regOp n c w (· ^^^ ·) s
def execShl (n c : Nat) (w : Word) (s : State) : Res := regOp n c w (natOp (shiftBy 0 64)) s
def execShr (n c : Nat) (w : Word) (s : State) : Res := regOp n c w (natOp (shiftBy 1 64)) s
def execSra (n c : Nat) (w : Word) (s : State) : Res := regOp n c w (natOp (shiftBy 2 64)) s
def execSlt (n c : Nat) (w : Word) (s : State) : Res :=
  regOp n c w (fun a b => BitVec.ofNat 64 (b2n (a.toInt < b.toInt))) s
def execSltu (n c : Nat) (w : Word) (s : State) : Res :=
  regOp n c w (fun a b => BitVec.ofNat 64 (b2n (a.toNat < b.toNat))) s
def execAddi (n c : Nat) (w : Word) (s : State) : Res := immOp n c w (· + ·) s
def execAndi (n c : Nat) (w : Word) (s : State) : Res := immOp n c w (· &&& ·) s
def execOri (n c : Nat) (w : Word) (s : State) : Res := immOp n c w (· ||| ·) s
/-- LUI: the immediate in the upper half (PRESUMED, log entry 21). -/
def execLui (n c : Nat) (w : Word) (s : State) : Res :=
  regInstr n c w true (fun k => k.gW (fD w) (BitVec.ofInt 64 (fImm w * 2 ^ 32))) s

end Sys2Proof.Machine
end

