-- ==== Sys2Proof/Machine/MarMem.lean ====
section
/-! DEFINITION. Marionette loads and stores (08 T8-3, opcodes 0x40 to 0x45; 08 R171, R172). An access takes effect whole when its
command runs (log entry 6). A load that meets an uncorrectable location gets no data and holds the core (log entry 22). -/

namespace Sys2Proof.Machine

open Sys2Proof

/-- Load `n` bytes at an effective address and give them to the core. -/
def loadOp (n c : Nat) (w : Word) (bytes al : Nat) (f : List Byte → Core → Core) (s : State) : State :=
  let k := coreOf s n c
  match checkAddr n c (fGsp w) (effAddr (k.gR (fA w)) (fImm w)) bytes al with
  | .inl cause => coreFault n c cause w s
  | .inr a =>
    match readMem (coreAgent s n c w) a bytes s with
    | (s1, none) => classed (coreHold n c s1)
    | (s1, some bs) => classed (coreNext n c (f bs) s1)

/-- Store at an effective address: the groups (offset, bytes) of the active elements, in ascending order. -/
def storeOp (n c : Nat) (w : Word) (bytes al : Nat) (gs : Core → List (Nat × List Byte)) (s : State) : State :=
  let k := coreOf s n c
  match checkAddr n c (fGsp w) (effAddr (k.gR (fA w)) (fImm w)) bytes al with
  | .inl cause => coreFault n c cause w s
  | .inr a => classed (coreNext n c id ((gs k).foldl (fun t (o, bs) => writeMem (coreAgent s n c w) (a + o) bs t) s))

/-- Runs of active elements of `sz` bytes: consecutive active elements are written as one run, so that a whole line is one
access. -/
def activeRuns (sz : Nat) (pred : Nat) : Nat → Nat → List Byte → List (Nat × List Byte)
  | _, 0, _ => []
  | i, fuel + 1, bs =>
    if pred.testBit i then
      match activeRuns sz pred (i + 1) fuel (bs.drop sz) with
      | (o, cs) :: rest => if o == (i + 1) * sz then (i * sz, bs.take sz ++ cs) :: rest else (i * sz, bs.take sz) :: (o, cs) :: rest
      | [] => [(i * sz, bs.take sz)]
    else activeRuns sz pred (i + 1) fuel (bs.drop sz)

/-- LD: the bits above a narrow value are free (log entry 20). A predicate is not taken (08 R173). -/
def execLd (n c : Nat) (w : Word) (s : State) : Res :=
  coreInstr n c w (fMpg w == 0) (loadOp n c w (fSize w) (fSize w) fun bs k =>
    k.gW (fD w) (if fSize w == 8 then BitVec.ofNat 64 (natOf bs) else widen (8 * fSize w) (natOf bs))) s

def execSt (n c : Nat) (w : Word) (s : State) : Res :=
  coreInstr n c w (fMpg w == 0) (storeOp n c w (fSize w) (fSize w) fun k =>
    [(0, bytesOf (fSize w) (k.gR (fD w)).toNat)]) s

def execVld (n c : Nat) (w : Word) (s : State) : Res :=
  coreInstr n c w (fMpg w == 0) (loadOp n c w 128 64 fun bs k => k.vW (fD w) (natOf bs)) s

/-- VST writes only the bytes of active elements; the size field is the element width. -/
def execVst (n c : Nat) (w : Word) (s : State) : Res :=
  coreInstr n c w true (storeOp n c w 128 64 fun k =>
    activeRuns (fSize w) (k.pR (fMpg w)) 0 (128 / fSize w) (bytesOf 128 (k.vR (fD w)))) s

/-- PLD: the predicate register is numbered by the low three bits of rt. -/
def execPld (n c : Nat) (w : Word) (s : State) : Res :=
  coreInstr n c w (fMpg w == 0) (loadOp n c w 16 16 fun bs k => k.pW (fD w % 8) (natOf bs)) s

def execPst (n c : Nat) (w : Word) (s : State) : Res :=
  coreInstr n c w true (storeOp n c w 16 16 fun k =>
    activeRuns (fSize w) (k.pR (fMpg w)) 0 (16 / fSize w) (bytesOf 16 (k.pR (fD w % 8)))) s

end Sys2Proof.Machine
end

