-- ==== Sys2Proof/Machine/MarVec.lean ====
section
/-! DEFINITION. Vector arithmetic, logic, compare, select, permute, moves, reductions and predicate logic (08 T8-3, opcodes 0x50 to
0x67). The readings of fields that 08 does not state are in log entries 20 and 21. -/

namespace Sys2Proof.Machine

open Sys2Proof

/-- How an arithmetic instruction reads its elements: fb names a float format, or an integer format for integers at ew. -/
inductive VKind where
  | flt (f : Fmt)
  | int (w : Nat)
deriving DecidableEq, Repr, Inhabited

def vkindOf (w : Word) : Option VKind :=
  match fFb w with
  | 0x05 => some (.flt bf16)
  | 0x06 => some (.flt fp16)
  | 0x07 => some (.flt fp32)
  | 0x08 => some (.flt fp64)
  | 0x09 | 0x0A | 0x0B | 0x0C => some (.int (fEw w))
  | _ => none

def VKind.width : VKind → Nat
  | .flt f => f.width
  | .int w => w

/-- Elementwise with the governing predicate: `f` gives element `i` from elements `i` of va and vb. -/
def vecMap (w : Word) (ew : Nat) (f : Nat → Nat → Nat → Nat) (k : Core) : Core :=
  let n := 1024 / ew
  let a := k.vR (fA w)
  let b := k.vR (fB w)
  k.vW (fD w) (mergeV ew n (k.vR (fD w)) (k.pR (fPg w)) (fPz w) ((List.range n).map fun i => f i (elemAt a ew i) (elemAt b ew i)))

/-- Arithmetic in the selected kind. -/
def vecArith (n c : Nat) (w : Word) (ff : Fmt → Nat → Nat → Nat) (fi : Option (Nat → Nat → Nat → Nat)) (s : State) : Res :=
  let legal := match vkindOf w with
    | some (.flt _) => true
    | some (.int _) => fi.isSome
    | none => false
  regInstr n c w legal (fun k => match vkindOf w, fi with
    | some (.flt f), _ => vecMap w f.width (fun _ => ff f) k
    | some (.int e), some g => vecMap w e (fun _ => g e) k
    | _, _ => k) s

/-- Signed minimum or maximum at width `w`, an operand's bits unchanged. -/
def intMinMax (mx : Bool) (w a b : Nat) : Nat :=
  if (if mx then signed w a < signed w b else signed w b < signed w a) then b else a

def execVadd (n c : Nat) (w : Word) (s : State) : Res := vecArith n c w Fmt.addB (some fun e a b => (a + b) % 2 ^ e) s
def execVsub (n c : Nat) (w : Word) (s : State) : Res := vecArith n c w Fmt.subB (some fun e a b => (a + 2 ^ e - b) % 2 ^ e) s
def execVmul (n c : Nat) (w : Word) (s : State) : Res := vecArith n c w Fmt.mulB (some fun e a b => a * b % 2 ^ e) s
def execVdiv (n c : Nat) (w : Word) (s : State) : Res := vecArith n c w Fmt.divB (some sdivW) s
def execVsqrt (n c : Nat) (w : Word) (s : State) : Res := vecArith n c w (fun f a _ => f.sqrtB a) none s
def execVmin (n c : Nat) (w : Word) (s : State) : Res := vecArith n c w (fun f => f.minmaxB false) (some (intMinMax false)) s
def execVmax (n c : Nat) (w : Word) (s : State) : Res := vecArith n c w (fun f => f.minmaxB true) (some (intMinMax true)) s
/-- VABS: a NaN result is canonical (02 R34); the most negative integer wraps to itself. -/
def execVabs (n c : Nat) (w : Word) (s : State) : Res :=
  vecArith n c w (fun f a _ => f.enc .rne (f.decode a).abs) (some fun e a _ => (signed e a).natAbs % 2 ^ e) s

/-- Elementwise at ew. -/
def vecLogic (n c : Nat) (w : Word) (f : Nat → Nat → Nat → Nat) (s : State) : Res :=
  regInstr n c w true (vecMap w (fEw w) fun _ => f (fEw w)) s

def execVand (n c : Nat) (w : Word) (s : State) : Res := vecLogic n c w (fun _ a b => a &&& b) s
def execVor (n c : Nat) (w : Word) (s : State) : Res := vecLogic n c w (fun _ a b => a ||| b) s
def execVxor (n c : Nat) (w : Word) (s : State) : Res := vecLogic n c w (fun _ a b => a ^^^ b) s
def execVshl (n c : Nat) (w : Word) (s : State) : Res := vecLogic n c w (shiftBy 0) s
def execVshr (n c : Nat) (w : Word) (s : State) : Res := vecLogic n c w (shiftBy 1) s

/-- Element width of a comparison: that of the float format, else ew. -/
def cmpWidth (w : Word) : Nat :=
  match vkindOf w with
  | some t => t.width
  | none => fEw w

/-- VCMP: bit i of p[pd] is the comparison of elements i, whose relation 08 does not name (log entry 20); an inactive bit is
0 with pz, else kept; bits beyond the elements are 0. -/
def execVcmp (n c : Nat) (w : Word) (s : State) : Res :=
  regInstr n c w (vkindOf w).isSome (fun k =>
    let e := cmpWidth w
    let a := k.vR (fA w)
    let b := k.vR (fB w)
    let old := k.pR (fPd w)
    k.pW (fPd w) (bitsNat ((List.range (1024 / e)).map fun i =>
      if (k.pR (fPg w)).testBit i then Config.vcmp w (elemAt a e i) (elemAt b e i) else if fPz w then false else old.testBit i))) s

/-- VSEL: va where the predicate is set, vb elsewhere (PRESUMED order, log entry 21). -/
def execVsel (n c : Nat) (w : Word) (s : State) : Res :=
  regInstr n c w true (fun k =>
    let e := fEw w
    let a := k.vR (fA w)
    let b := k.vR (fB w)
    k.vW (fD w) (packElems e ((List.range (1024 / e)).map fun i => if (k.pR (fPg w)).testBit i then elemAt a e i else elemAt b e i))) s

/-- VPERM: element i is element vb[i] of va; an index beyond the last lane gives a free value (log entry 20). -/
def execVperm (n c : Nat) (w : Word) (s : State) : Res :=
  regInstr n c w true (fun k =>
    vecMap w (fEw w) (fun _ _ ix =>
      if ix < 1024 / fEw w then elemAt (k.vR (fA w)) (fEw w) ix else Config.permOver (fEw w) ix % 2 ^ fEw w) k) s

/-- VBCAST: the low bits of g[gx] to all lanes. -/
def execVbcast (n c : Nat) (w : Word) (s : State) : Res :=
  regInstr n c w true (fun k => vecMap w (fEw w) (fun _ _ _ => (k.gR (fGx w)).toNat % 2 ^ fEw w) k) s

/-- The lane of VMOVG and VMOVV (log entry 20). -/
def laneOf (w : Word) (k : Core) : Nat := Config.lane w (k.gR (fGx w)) % (1024 / fEw w)

/-- VMOVG: a lane of va to g[gd]. -/
def execVmovg (n c : Nat) (w : Word) (s : State) : Res :=
  regInstr n c w (fPg w == 0) (fun k =>
    let x := elemAt (k.vR (fA w)) (fEw w) (laneOf w k)
    k.gW (fGd w) (if fEw w == 64 then BitVec.ofNat 64 x else widen (fEw w) x)) s

/-- VMOVV: g[gx] to a lane of vd; the other lanes stay. -/
def execVmovv (n c : Nat) (w : Word) (s : State) : Res :=
  regInstr n c w (fPg w == 0) (fun k =>
    let e := fEw w
    let old := k.vR (fD w)
    k.vW (fD w) (packElems e ((List.range (1024 / e)).map fun i =>
      if i == laneOf w k then (k.gR (fGx w)).toNat % 2 ^ e else elemAt old e i))) s

/-- The operation of VREDUCE and VSEGRED by fa: 0 add, 1 min, 2 max (08 R184; for VREDUCE DEDUCED, log entry 21). -/
def foldOp (t : VKind) (op a b : Nat) : Nat :=
  match t, op with
  | .flt f, 0 => f.addB a b
  | .flt f, 1 => f.minmaxB false a b
  | .flt f, _ => f.minmaxB true a b
  | .int w, 0 => (a + b) % 2 ^ w
  | .int w, 1 => intMinMax false w a b
  | .int w, _ => intMinMax true w a b

/-- VREDUCE: the whole vector in ascending lane order, RNE at each add, into g[gd] (log entry 21). -/
def execVreduce (n c : Nat) (w : Word) (s : State) : Res :=
  regInstr n c w ((vkindOf w).isSome && fFa w < 3 && fPg w == 0) (fun k =>
    match vkindOf w with
    | none => k
    | some t =>
      let x := match elems t.width (1024 / t.width) (k.vR (fA w)) with
        | [] => 0
        | y :: ys => ys.foldl (foldOp t (fFa w)) y
      k.gW (fGd w) (if t.width == 64 then BitVec.ofNat 64 x else widen t.width x)) s

/-- Predicate logic over 1,024/ew bits: the sources are those that the instruction names (log entry 20). -/
def predOp (n c : Nat) (w : Word) (f : Bool → Bool → Bool) (s : State) : Res :=
  regInstr n c w true (fun k =>
    let a := k.pR (Config.predSrc w 0 % 8)
    let b := k.pR (Config.predSrc w 1 % 8)
    k.pW (fPd w) (bitsNat ((List.range (1024 / fEw w)).map fun i => f (a.testBit i) (b.testBit i)))) s

def execPand (n c : Nat) (w : Word) (s : State) : Res := predOp n c w (fun a b => a && b) s
def execPor (n c : Nat) (w : Word) (s : State) : Res := predOp n c w (fun a b => a || b) s
def execPnot (n c : Nat) (w : Word) (s : State) : Res := predOp n c w (fun a _ => !a) s

/-- PCNT: the count of set bits among the elements into g[gd]. -/
def execPcnt (n c : Nat) (w : Word) (s : State) : Res :=
  regInstr n c w true (fun k =>
    let a := k.pR (Config.predSrc w 0 % 8)
    k.gW (fGd w) (BitVec.ofNat 64 ((List.range (1024 / fEw w)).filter fun i => a.testBit i).length)) s

end Sys2Proof.Machine
end

