-- ==== Sys2Proof/Machine/MarSeg.lean ====
section
/-! DEFINITION. Segmented scan, intersection and merge (08 R184 to R186). -/

namespace Sys2Proof.Machine

open Sys2Proof

/-- FP32, FP64 or INT32 of VSEGRED. -/
def segKind (w : Word) : Option VKind :=
  match fFb w with
  | 0x07 => some (.flt fp32)
  | 0x08 => some (.flt fp64)
  | 0x0C => some (.int 32)
  | _ => none

/-- The scan (08 R184): elements with their segment starts, from a carry. -/
def segScan (op : Nat → Nat → Nat) : Nat → List (Nat × Bool) → List Nat × Nat
  | acc, [] => ([], acc)
  | acc, (x, st) :: xs =>
    let a := if st then x else op acc x
    let (ys, z) := segScan op a xs
    (a :: ys, z)

/-- VSEGRED (08 R184). -/
def execVsegred (n c : Nat) (w : Word) (s : State) : Res :=
  regInstr n c w ((segKind w).isSome && fFa w < 3) (fun k =>
    match segKind w with
    | none => k
    | some t =>
      let m := 1024 / t.width
      let st := k.pR (fPg w)
      let xs := (elems t.width m (k.vR (fA w))).zipIdx.map fun (x, i) => (x, st.testBit i)
      let (ys, acc) := segScan (foldOp t (fFa w)) ((k.gR (fGx w)).toNat % 2 ^ t.width) xs
      let k1 := (k.vW (fD w) (packElems t.width ys)).gW (fGx w) (if t.width == 64 then BitVec.ofNat 64 acc else widen 32 acc)
      if fPd w == 0 then k1
      else k1.pW (fPd w) (bitsNat ((List.range m).map fun i => i == m - 1 || st.testBit (i + 1)))) s

/-- Order key of VISECT and VMERGE (08 R185, R186): unsigned, signed with fa[0], float with fa[2] (NaN above all, all NaNs
equal, -0 below +0). -/
def sortKey (flt sgn : Bool) (w x : Nat) : Int :=
  if flt then
    let f := if w == 64 then fp64 else fp32
    let top : Int := (2 ^ (w - 1) : Nat)
    match f.decode x with
    | .nan => top
    | _ => if x / 2 ^ (w - 1) == 1 then -1 - ((x % 2 ^ (w - 1) : Nat) : Int) else (x : Int)
  else if sgn then signed w x
  else (x : Int)

/-- Number of keys given in g[gx], clamped to n. -/
def keyCount (g : Word) (lo n : Nat) : Nat := min (field g (lo + 7) lo) n

/-- ew is 32 or 64, and no predicate is taken. -/
def keysLegal (w : Word) : Bool := (fEw w == 32 || fEw w == 64) && fPg w == 0

/-- VISECT (08 R185). -/
def execVisect (n c : Nat) (w : Word) (s : State) : Res :=
  regInstr n c w (keysLegal w) (fun k =>
    let e := fEw w
    let m := 1024 / e
    let a := (elems e m (k.vR (fA w))).take (keyCount (k.gR (fGx w)) 0 m)
    let b := (elems e m (k.vR (fB w))).take (keyCount (k.gR (fGx w)) 8 m)
    let key := sortKey false (fFa w % 2 == 1) e
    let (xs, ca, cb) : List Nat × Nat × Nat :=
      match a.getLast?, b.getLast? with
      | some x, some y =>
        let lim := min (key x) (key y)
        (a.filter fun x => key x ≤ lim && b.contains x, (a.filter fun x => key x ≤ lim).length, (b.filter fun x => key x ≤ lim).length)
      | _, _ => ([], 0, 0)
    let k1 := (k.vW (fD w) (packElems e xs)).gW (fGd w) (BitVec.ofNat 64 (xs.length + 256 * ca + 65536 * cb))
    if fPd w == 0 then k1 else k1.pW (fPd w) (2 ^ xs.length - 1)) s

/-- At most `fuel` steps of the stable merge: keys with payloads, and how many came from each side (08 R186). -/
def mergeGo (key : Nat → Int) : Nat → List (Nat × Nat) → List (Nat × Nat) → List (Nat × Nat) × Nat × Nat
  | 0, _, _ => ([], 0, 0)
  | fuel + 1, a, b =>
    match a, b with
    | [], [] => ([], 0, 0)
    | x :: xs, [] => let (r, i, j) := mergeGo key fuel xs []; (x :: r, i + 1, j)
    | [], y :: ys => let (r, i, j) := mergeGo key fuel [] ys; (y :: r, i, j + 1)
    | x :: xs, y :: ys =>
      if key x.1 ≤ key y.1 then let (r, i, j) := mergeGo key fuel xs (y :: ys); (x :: r, i + 1, j)
      else let (r, i, j) := mergeGo key fuel (x :: xs) ys; (y :: r, i, j + 1)

/-- VMERGE (08 R186): with fa[1] the payloads are in the odd registers of the pairs, which must then be even-numbered. -/
def execVmerge (n c : Nat) (w : Word) (s : State) : Res :=
  let pay := bit w 35
  regInstr n c w (keysLegal w && (!pay || (fA w % 2 == 0 && fB w % 2 == 0 && fD w % 2 == 0))) (fun k =>
    let e := fEw w
    let m := 1024 / e
    let src (r cnt : Nat) : List (Nat × Nat) := ((elems e m (k.vR r)).zip (elems e m (k.vR (r + 1)))).take cnt
    let (r, ca, cb) := mergeGo (sortKey (bit w 36) (bit w 34) e) m
      (src (fA w) (keyCount (k.gR (fGx w)) 0 m)) (src (fB w) (keyCount (k.gR (fGx w)) 8 m))
    let k1 := k.vW (fD w) (packElems e (r.map (·.1)))
    let k2 := if pay then k1.vW (fD w + 1) (packElems e (r.map (·.2))) else k1
    let k3 := k2.gW (fGd w) (BitVec.ofNat 64 (r.length + 256 * ca + 65536 * cb))
    if fPd w == 0 then k3 else k3.pW (fPd w) (2 ^ r.length - 1)) s

end Sys2Proof.Machine
end

