-- ==== Sys2Proof/Machine/MarSys.lean ====
section
/-! DEFINITION. Pegs, DMA, fences, the end of a run, time and status of the marionette cores (08 T8-3, opcodes 0x78 to 0x7E; 08
R170, R172, R187, R188). -/

namespace Sys2Proof.Machine

open Sys2Proof

/-- Every access and every channel 3 descriptor of the core has completed (08 R172). Accesses complete with their command. -/
def coreQuiet (s : State) (n c : Nat) : Bool :=
  (dmaOf s n 3).all (fun d => d.core != some c) && !(coreOf s n c).dmaLost

/-- MPEGPOST (08 R187): with fence = 1 held as FENCE holds; remote names a thallus of the device (06 R129). To an absent thallus it is an
access to an absent unit: DESIGN CHOICE, word 2 is the address of the instruction (log entry 72). -/
def execMpegpost (n c : Nat) (w : Word) (s : State) : Res :=
  coreInstr n c w true (fun t =>
    if bit w 14 && !coreQuiet t n c then coreHold n c t
    else
      let m := if bit w 15 then field w 23 16 else n
      let t1 := coreNext n c id t
      if m < t.thl.length then classed (postPeg m (field w 13 8) (field w 63 32) 5 3 0 t1)
      else absentEv (coreAgent t n c w) (coreOf t n c).pc t1) s

/-- MPEGWAIT (08 R187): the target is immediate, or with treg = 1 a general register's low half. -/
def execMpegwait (n c : Nat) (w : Word) (s : State) : Res :=
  coreInstr n c w true (fun t =>
    let k := coreOf t n c
    let target : W32 := if bit w 14 then (k.gR (field w 36 32)).setWidth 32 else BitVec.ofNat 32 (field w 63 32)
    if target.toNat ≤ pegOf t n (field w 13 8) then coreNext n c id t
    else
      let us := field w 31 16
      modCore n c (fun k => { k with
        state := .pegWait, waitPeg := BitVec.ofNat 6 (field w 13 8), waitTarget := target
        waitTimer := if us == 0 then none else some (1000 * us), cntInstr := satAdd k.cntInstr 1 }) t) s

/-- MPEGWAIT_TIMEOUT (08 R187): the core faults with cause 0x53. -/
def execMpegwaitTimeout (n c : Nat) (s : State) : Res :=
  let k := coreOf s n c
  need (hasCore s n c) (k.state == .pegWait && k.waitTimer == some 0 && !k.dbg.halted) (coreFault n c 0x53 k.instr s)

/-- MDMA (08 R188): the descriptor at g[ra] on channel 3; a full queue holds the core. -/
def execMdma (n c : Nat) (w : Word) (s : State) : Res :=
  coreInstr n c w true (fun t =>
    if 16 ≤ (dmaOf t n 3).length then coreHold n c t
    else
      coreNext n c id (modDma n 3 (fun q => q ++ [{ addr := ((coreOf t n c).gR (fA w)).toNat, core := some c }]) t)) s

/-- FENCE (08 R172). -/
def execFence (n c : Nat) (w : Word) (s : State) : Res :=
  coreInstr n c w true (fun t => if coreQuiet t n c then coreNext n c id t else coreHold n c t) s

/-- STOP (08 R170): the core arrives at the barrier and is stopping. -/
def execStop (n c : Nat) (w : Word) (s : State) : Res :=
  coreInstr n c w true (fun t =>
    modCore n c (fun k => { k with state := .stopping, cntInstr := satAdd k.cntInstr 1 }) (arrive n c true t)) s

/-- CORE_RUN_END (08 R170): what the core issued has completed, its ordered contributions included. -/
def execCoreRunEnd (n c : Nat) (s : State) : Res :=
  let r := runIdx s n c
  let u := (thlOf s n).runs.getD r {}
  need (hasCore s n c) ((coreOf s n c).state == .stopping && !(coreOf s n c).dbg.halted && coreQuiet s n c && r < (thlOf s n).runs.length &&
      u.contribs.all fun x => x.c != c)
    (modThl n (fun h => { h with
        runs := h.runs.modify r fun u => { u with ended := u.ended ||| BitVec.ofNat 8 (2 ^ c) }
        core := h.core.modify c fun k => { k with state := .idle } }) s)

/-- A run or update ends: its peg is posted once (06 R126, R127). -/
def endRun (n k : Nat) (s : State) : State :=
  let r := (thlOf s n).runs.getD k {}
  settle (postPeg n r.peg 1 3 3 0 (modThl n (fun h => { h with runs := h.runs.eraseIdx k }) s))

/-- MRUN_COMPLETE (08 R170): every core of the mask has ended. -/
def execMrunComplete (n k : Nat) (s : State) : Res :=
  let r := (thlOf s n).runs.getD k {}
  need (hasThl s n) (k < (thlOf s n).runs.length && !r.isUpd && r.ended &&& r.mask == r.mask && r.contribs.isEmpty) (endRun n k s)

/-- TIMERD: the timebase in ns. -/
def execTimerd (n c : Nat) (w : Word) (s : State) : Res :=
  coreInstr n c w true (fun t => coreNext n c (fun k => k.gW (fD w) t.time.now) t) s

/-- MCSR: CSTAT to rd, then the bits set in imm[4:0] are cleared. -/
def execMcsr (n c : Nat) (w : Word) (s : State) : Res :=
  regInstr n c w true (fun k =>
    { k.gW (fD w) k.cstatWord with cstat := k.cstat &&& ~~~(BitVec.ofNat 5 (field w 36 32)) }) s

end Sys2Proof.Machine
end

