-- ==== Sys2Proof/Machine/RegRows.lean ====
section
/-! DEFINITION. The rows that are accesses to one register, by the host or a peer through BAR0 (14 R284, 18 R366 to R370) or by the debug
port through DBG_ACCESS (16 R340). Log entry 38. -/

namespace Sys2Proof.Machine

open Sys2Proof

/-- A write of a register by the host, a peer or the debug port, whose commands are of 8 bytes (16 R340). -/
def regWrite (who : Who) (off size : Nat) (v : Word) (s : State) : State :=
  match who with
  | .host id => hostArrive id off (.regWrite size v) s
  | .debug => dbgScan (if size == 8 then dbgWrite (regBase + off) v else answered 3 0) s

/-- A read of a register. -/
def regRead (who : Who) (off size : Nat) (s : State) : State :=
  match who with
  | .host id => hostArrive id off (.regRead size) s
  | .debug => dbgScan (if size == 8 then dbgRead (regBase + off) else answered 3 0) s

/-- REGISTER_WRITE (18 R366 to R370). -/
def execRegisterWrite (who : Who) (off size : Nat) (v : Word) (s : State) : Res := always (regWrite who off size v s)

/-- REGISTER_READ. -/
def execRegisterRead (who : Who) (off size : Nat) (s : State) : Res := always (regRead who off size s)

/-- ENG_PREEMPT_SET and ENG_PREEMPT_CLEAR: writes of CTRL.preempt (18 R368). -/
def execEngPreemptSet (n m : Nat) (s : State) : Res := need (m < 4) true (regWrite (.host 0) (engOff n m) 8 1 s)
def execEngPreemptClear (n m : Nat) (s : State) : Res := need (m < 4) true (regWrite (.host 0) (engOff n m) 8 0 s)

/-- ACT_LOAD_START: a write of ACT_LOAD with start = 1 (04 R88). -/
def execActLoadStart (n m : Nat) (data : Word) (who : Who) (s : State) : Res :=
  need (m < 4) (bit data 48) (regWrite who (engOff n m + 0x10) 8 data s)

/-- STREAM_RESUME: resume without skip (06 R135). -/
def execStreamResume (n q : Nat) (who : Who) (s : State) : Res := need (q < 3) true (regWrite who (strmOff n q) 8 1 s)

/-- STREAM_RESUME_SKIP. -/
def execStreamResumeSkip (n q : Nat) (who : Who) (s : State) : Res := need (q < 3) true (regWrite who (strmOff n q) 8 3 s)

/-- SNAP_REQUEST: CMT.SNAP.CTRL.request written 1 (11 R240). -/
def execSnapRequest (s : State) : Res := always (regWrite (.host 0) 0x2100 8 1 s)

/-- SNAP_PUSH (11 R253). -/
def execSnapPush (data : Word) (who : Who) (s : State) : Res := always (regWrite who 0x2160 8 data s)

/-- LINK_RETRAIN and LINK_ENABLE_WRITE: writes of LNK[l].CTRL (13 R265, R266). -/
def execLinkRetrain (l : Nat) (data : Word) (who : Who) (s : State) : Res :=
  need (l < 32) (bit data 1) (regWrite who (lnkOff l) 8 data s)
def execLinkEnableWrite (l : Nat) (data : Word) (who : Who) (s : State) : Res := need (l < 32) true (regWrite who (lnkOff l) 8 data s)

/-- ROUTE_TABLE_LOAD: LNK.RT with load = 1 (13 R272). -/
def execRouteTableLoad (data : Word) (who : Who) (s : State) : Res := need true (bit data 44) (regWrite who 0x7010 8 data s)

/-- TIME_SET (13 R275). -/
def execTimeSet (v : Word) (who : Who) (s : State) : Res := always (regWrite who 0x7818 8 v s)

/-- TIME_NOW_READ (13 R275). -/
def execTimeNowRead (s : State) : Res := always (regRead (.host 0) 0x7800 8 s)

/-- TRATE_CLEAR: DEV.TRATE[f].clear written 1 (18 R367). -/
def execTrateClear (f : Nat) (s : State) : Res := need (f < 4) true (regWrite (.host 0) (0x100 + 8 * f) 8 (1 <<< 48) s)

/-- JOB_LOAD: PCI.JOB with a page and cmd = 1 (14 R289). -/
def execJobLoad (req : BitVec 16) (page : Nat) (s : State) : Res :=
  need true (page % 4096 == 0 && page < 2 ^ 44) (regWrite (.host req) 0x8008 8 (BitVec.ofNat 64 (page ||| 1 <<< 48)) s)

/-- JOB_UNLOAD: PCI.JOB with cmd = 2 (14 R290). -/
def execJobUnload (req : BitVec 16) (s : State) : Res := always (regWrite (.host req) 0x8008 8 (2 <<< 48) s)

/-- LOG_CONS_WRITE (14 R294). -/
def execLogConsWrite (v : Word) (s : State) : Res := always (regWrite (.host 0) 0x8030 8 v s)

/-- PWR_TARGET_WRITE and FIELD_OFF_WRITE: writes of PWR.CTRL (15 R306). -/
def execPwrTargetWrite (v : Word) (who : Who) (s : State) : Res := always (regWrite who 0x9000 8 v s)
def execFieldOffWrite (v : Word) (who : Who) (s : State) : Res := always (regWrite who 0x9000 8 v s)

/-- RECOV_GO: SEC.RECOV.go written 1 (16 R329). -/
def execRecovGo (s : State) : Res := always (regWrite (.host 0) 0xA018 8 1 s)

/-- FW_PROGRAM and FW_ADVANCE_SVN: SEC.FW with cmd = 1 and cmd = 2 (16 R330, R331). -/
def execFwProgram (v : Word) (who : Who) (s : State) : Res := need true (field v 49 48 == 1) (regWrite who 0xA020 8 v s)
def execFwAdvanceSvn (v : Word) (who : Who) (s : State) : Res := need true (field v 49 48 == 2) (regWrite who 0xA020 8 v s)

/-- HMAP_RETEST: BIST.HMAP_CTRL.retest written 1 (17 R358). -/
def execHmapRetest (who : Who) (s : State) : Res := always (regWrite who 0xC018 8 (1 <<< 9) s)

end Sys2Proof.Machine
end

