-- ==== Sys2Proof/Machine/Update.lean ====
section
/-! DEFINITION. The optimiser update UPD (06 R141 to R143). -/

namespace Sys2Proof.Machine

open Sys2Proof

/-! ## The descriptor (06 T6-4) and its check (06 R141) -/

def udNBlk (d : List Word) : Nat := field (wordAt d 0) 31 0
def udFmt (d : List Word) (k : Nat) : Nat := if k == 0 then field (wordAt d 0) 36 32 else field (wordAt d 0) 41 37
def udAddr (d : List Word) (i : Nat) : Nat := field (wordAt d i) 43 0

/-- A working copy's format is one that UPD writes. -/
def wfmtOk (c : Nat) : Bool := [0x05, 0x06, 0x07, 0x10, 0x11, 0x12, 0x13, 0x14, 0x1F].contains c

/-- Words of the addresses that the update uses and that must lie in the current alias. -/
def usedAddrs (d : List Word) : List Nat :=
  [2, 3, 4, 5, 6, 7, 12] ++
  ([0, 1].flatMap fun k =>
    if udFmt d k == 0x1F then [] else if isMx (udFmt d k) then [8 + 2 * k, 9 + 2 * k] else [8 + 2 * k])

/-- The descriptor's own check. -/
def descOk (d : List Word) : Bool :=
  wfmtOk (udFmt d 0) && wfmtOk (udFmt d 1) &&
    (usedAddrs d).all fun i => curBase ≤ udAddr d i && udAddr d i < nextBase && udAddr d i % 64 == 0

/-- The check on the update parameter block (06 T6-5). -/
def upbOk (u : List Word) : Bool := scaleOk (BitVec.ofNat 32 (field (wordAt u 4) 31 0)) && field (wordAt u 0) 63 32 != 0

/-! ## Inputs -/

/-- The bytes of one block: gradient, M48 planes, moments with their scales. -/
structure UpdIn where
  g : List W32
  w : List W32
  wx : Nat
  m : Nat
  ms : Nat
  r : Nat
  rs : Nat
deriving DecidableEq, Repr, Inhabited

/-- Read a list of (address, length), stopping at an uncorrectable one, whose region is answered. -/
def readList (ag : Agent) : List (Nat × Nat) → State → State × Except Bool (List (List Byte))
  | [], s => (s, .ok [])
  | (a, n) :: rest, s =>
    match readMem ag a n s with
    | (s1, none) => (s1, .error (match resolve s1 a with
        | some p => isHbm p
        | none => true))
    | (s1, some bs) =>
      match readList ag rest s1 with
      | (s2, .ok bss) => (s2, .ok (bs :: bss))
      | (s2, .error e) => (s2, .error e)

/-- Addresses of the inputs of block `b`. -/
def blockReads (d : List Word) (b : Nat) : List (Nat × Nat) :=
  [(udAddr d 1 + 128 * b, 128), (udAddr d 2 + 128 * b, 128), (udAddr d 3 + 64 * b, 64), (udAddr d 4 + 32 * b, 32),
    (udAddr d 5 + b, 1), (udAddr d 6 + 32 * b, 32), (udAddr d 7 + b, 1)]

/-- The inputs of a block from its reads. -/
def updIn (bss : List (List Byte)) : UpdIn :=
  let n (i : Nat) := natOf (bss.getD i [])
  { g := w32sOf (bss.getD 0 []), w := w32sOf (bss.getD 1 []), wx := n 2, m := n 3, ms := n 4, r := n 5, rs := n 6 }

/-- The inputs of every block. -/
def readBlocks (ag : Agent) (d : List Word) : List Nat → State → State × Except Bool (List UpdIn)
  | [], s => (s, .ok [])
  | b :: rest, s =>
    match readList ag (blockReads d b) s with
    | (s1, .error e) => (s1, .error e)
    | (s1, .ok bss) =>
      match readBlocks ag d rest s1 with
      | (s2, .ok xs) => (s2, .ok (updIn bss :: xs))
      | (s2, .error e) => (s2, .error e)

/-! ## The routine (06 R142) -/

/-- What the routine takes from the block and its schedule entry: FP32 patterns. -/
structure UpdPar where
  beta1 : Nat
  omb1 : Nat
  beta2 : Nat
  omb2 : Nat
  eps : Nat
  lr : Nat
  ibc1 : Nat
  isbc2 : Nat
  dcy : Nat
deriving DecidableEq, Repr, Inhabited

def updPar (u e : List Word) : UpdPar :=
  { beta1 := field (wordAt u 2) 31 0, omb1 := field (wordAt u 2) 63 32, beta2 := field (wordAt u 3) 31 0
    omb2 := field (wordAt u 3) 63 32, eps := field (wordAt u 4) 31 0, lr := field (wordAt e 0) 31 0
    ibc1 := field (wordAt e 0) 63 32, isbc2 := field (wordAt e 1) 31 0, dcy := field (wordAt e 1) 63 32 }

/-- One element: the new first moment, the new root of the second moment, and the new M48 weight pattern. -/
def updElem (p : UpdPar) (x : UpdIn) (i : Nat) : Nat × Nat × Nat :=
  let mul := fp32.mulB
  let add := fp32.addB
  let g := (x.g.getD i 0).toNat
  let m0 := elemVal 0x13 x.ms (elemAt x.m 8 i)
  let r0 := elemVal 0x13 x.rs (elemAt x.r 8 i)
  let m1 := add (fp32.enc .rne ((fp32.decode p.beta1).mul m0)) (mul p.omb1 g)
  let v1 := add (mul p.beta2 (fp32.enc .rne (r0.mul r0))) (mul p.omb2 (mul g g))
  let r1 := fp32.sqrtB v1
  let num := mul m1 p.ibc1
  let den := add (mul r1 p.isbc2) p.eps
  let dlt := mul p.lr (fp32.divB num den)
  let w0 := m48.decode (m48Pat (x.w.getD i 0).toNat (elemAt x.wx 16 i))
  let w1 := m48.enc .rne (w0.mul (fp32.decode p.dcy))
  let w2 := m48.enc .rne ((m48.decode w1).sub (fp32.decode dlt))
  (m1, r1, w2)

/-- What a block writes: (address in the current alias, bytes), and its conversion flags. -/
def updBlock (d : List Word) (p : UpdPar) (b : Nat) (x : UpdIn) : List (Nat × List Byte) × CFlags :=
  let es := (List.range 32).map (updElem p x)
  let ws := es.map fun (_, _, w) => w
  let mx (vals : List Nat) := convBlock 0x13 .rne false (vals.map fp32.decode)
  let m := mx (es.map fun (m, _, _) => m)
  let r := mx (es.map fun (_, r, _) => r)
  let pats (c : Nat × List (Nat × CFlags)) (w : Nat) : List Byte := bytesOf (4 * w) (packElems w (c.2.map (·.1)))
  let flags (c : Nat × List (Nat × CFlags)) : CFlags := (c.2.map (·.2)).foldl CFlags.or {}
  let copies := [0, 1].filterMap fun k =>
    let c := udFmt d k
    if c == 0x1F then none else some (k, c, convBlock c .rne false (ws.map m48.decode))
  ([(udAddr d 2 + 128 * b, bytesOf 128 (packElems 32 (ws.map (· / 65536)))),
    (udAddr d 3 + 64 * b, bytesOf 64 (packElems 16 (ws.map (· % 65536)))),
    (udAddr d 4 + 32 * b, pats m 8), (udAddr d 5 + b, [BitVec.ofNat 8 m.1]),
    (udAddr d 6 + 32 * b, pats r 8), (udAddr d 7 + b, [BitVec.ofNat 8 r.1])] ++
   copies.flatMap (fun (k, c, o) =>
      let w := codeWidth c
      [(udAddr d (8 + 2 * k) + 4 * w * b, pats o w)] ++ (if isMx c then [(udAddr d (9 + 2 * k) + b, [BitVec.ofNat 8 o.1])] else [])),
   copies.foldl (fun f (_, _, o) => f.or (flags o)) ((flags m).or (flags r)))

/-- The core of the mask that converts block `b`: the division is the routine's (06 R141). -/
def updCoreOf (s : State) (mask b : Nat) : Nat :=
  let cs := (List.range 8).filter fun c => Nat.testBit mask c
  cs.getD (Config.updCore s.nonce b % cs.length) 0

/-- Write a block's results to the next alias, as the core that converts it. -/
def writeBlock (n q c : Nat) (w0 : Word) (x : List (Nat × List Byte) × CFlags) (s : State) : State :=
  let s1 := x.1.foldl (fun t (a, bs) => writeMem (.core n c q 0 w0) (a + aliasSpan) bs t) s
  modCore n c (Core.orStat x.2 false) s1

/-- The writes of an update; `u` of the parameter block advances (06 R142). -/
def updWrites (n q mask : Nat) (w0 : Word) (d u : List Word) (p : UpdPar) (xs : List UpdIn) (s : State) : State :=
  let s1 := xs.zipIdx.foldl (fun t (x, b) => writeBlock n q (updCoreOf s mask b) w0 (updBlock d p b x) t) s
  let u1 := min (field (wordAt u 0) 31 0 + 1) 0xFFFFFFFF
  { writeMem (.core n (updCoreOf s mask 0) q 0 w0) (udAddr d 12 + aliasSpan) (bytesOf 4 u1) s1 with nonce := s.nonce + 1 }

/-! ## UPD and UPD_COMPLETE -/

/-- UPD after the mask has been found free. -/
def updBody (n q mask : Nat) (w0 w1 : Word) (s : State) : State :=
  let ag := strmAgent s n q
  let peg := field w0 21 16
  match readList ag [(field w1 43 0, 128)] s with
  | (s1, .error e) => haltMem n q e s1
  | (s1, .ok bss) =>
    let d := wordsOf (bss.getD 0 [])
    if !descOk d then haltAt n 0 q 0x37 w0 s1
    else
      match readList ag [(udAddr d 12, 64)] s1 with
      | (s2, .error e) => haltMem n q e s2
      | (s2, .ok uss) =>
        let u := wordsOf (uss.getD 0 [])
        if !upbOk u then haltAt n 0 q 0x37 w0 s2
        else if udNBlk d == 0 then classed (postPeg n peg 1 3 3 0 (strmNext n q 2 s2))
        else
          let i := min (field (wordAt u 0) 31 0) (field (wordAt u 0) 63 32 - 1)
          match readList ag [(field (wordAt u 1) 43 0 + 16 * i, 16)] s2 with
          | (s3, .error e) => haltMem n q e s3
          | (s3, .ok ess) =>
            match readBlocks ag d (List.range (udNBlk d)) s3 with
            | (s4, .error e) => haltMem n q e s4
            | (s4, .ok xs) =>
              let run : Run := { mask := BitVec.ofNat 8 mask, peg := peg, stream := q, isUpd := true }
              let s5 := modThl n (fun h => { h with
                runs := h.runs ++ [run]
                core := h.core.zipIdx.map fun (k, c) =>
                  if Nat.testBit mask c then k.start n c mask Config.updArg (Config.updEntry / 8 * 8 % 2 ^ 44) s4.cmt.step.toNat else k }) s4
              classed (strmNext n q 2 (updWrites n q mask w0 d u (updPar u (wordsOf (ess.getD 0 []))) xs s5))

/-- UPD (06 R141): reads, checks and computes at issue; a busy core of the mask holds the stream (01 R28). -/
def execUpd (n q : Nat) (w0 w1 : Word) (s : State) : Res :=
  strmInstr n q 2 w0 [2] (fun t =>
    let mask := field w0 15 8
    if mask == 0 then haltAt n 0 q 0x30 w0 t
    else if coresBusy t n mask then strmHold n q .bound t
    else updBody n q mask w0 w1 t) s

/-- UPD_COMPLETE: every block has been written; the cores end and the peg is posted once. -/
def execUpdComplete (n k : Nat) (s : State) : Res :=
  let r := (thlOf s n).runs.getD k {}
  let quiet := (List.range 8).all fun c => !r.mask.getLsbD c || !(coreOf s n c).dbg.halted
  need (hasThl s n) (k < (thlOf s n).runs.length && r.isUpd && quiet)
    (endRun n k (modThl n (fun h => { h with
      core := h.core.zipIdx.map fun (x, c) => if r.mask.getLsbD c then { x with state := .idle } else x }) s))

end Sys2Proof.Machine
end

