-- ==== Sys2Proof/Machine/Dispatch.lean ====
section
/-! DEFINITION. The dispatch: one arm per command, each one direct call of its meaning. -/

namespace Sys2Proof.Machine

open Sys2Proof

/-- The effect of a command on everything but the queue. -/
def exec (i : Instr) (s : State) : Host.Outcome State Fault Refusal :=
  match i with
  | .stepStart => Sys2Proof.Machine.execStepStart s
  | .issue n q w0 pw => Sys2Proof.Machine.execIssue n q w0 pw s
  | .pegwait n q w => Sys2Proof.Machine.execPegwait n q w s
  | .pegwaitTimeout n q => Sys2Proof.Machine.execPegwaitTimeout n q s
  | .pegPostEv n p amount agent => Sys2Proof.Machine.execPegPostEv n p amount agent s
  | .pegpost n q w => Sys2Proof.Machine.execPegpost n q w s
  | .pegpostFenceDone n q => Sys2Proof.Machine.execPegpostFenceDone n q s
  | .dma n q w0 w1 => Sys2Proof.Machine.execDma n q w0 w1 s
  | .bopen n q w => Sys2Proof.Machine.execBopen n q w s
  | .bcontrib n q w0 w1 w2 => Sys2Proof.Machine.execBcontrib n q w0 w1 w2 s
  | .markEndOfForward n q w0 w1 => Sys2Proof.Machine.execMarkEndOfForward n q w0 w1 s
  | .endOfForwardLossCheck n => Sys2Proof.Machine.execEndOfForwardLossCheck n s
  | .forwardBarrierOpen => Sys2Proof.Machine.execForwardBarrierOpen s
  | .markEnd n q w0 w1 => Sys2Proof.Machine.execMarkEnd n q w0 w1 s
  | .markTrace n q w0 w1 => Sys2Proof.Machine.execMarkTrace n q w0 w1 s
  | .epoch n q w => Sys2Proof.Machine.execEpoch n q w s
  | .upd n q w0 w1 => Sys2Proof.Machine.execUpd n q w0 w1 s
  | .updComplete n k => Sys2Proof.Machine.execUpdComplete n k s
  | .mrun n q w0 w1 => Sys2Proof.Machine.execMrun n q w0 w1 s
  | .mrunComplete n k => Sys2Proof.Machine.execMrunComplete n k s
  | .lset n q w0 w1 => Sys2Proof.Machine.execLset n q w0 w1 s
  | .brung n q w0 w1 w2 => Sys2Proof.Machine.execBrung n q w0 w1 w2 s
  | .jump n q w => Sys2Proof.Machine.execJump n q w s
  | .streamResume n q who => Sys2Proof.Machine.execStreamResume n q who s
  | .streamResumeSkip n q who => Sys2Proof.Machine.execStreamResumeSkip n q who s
  | .passDispatch n m => Sys2Proof.Machine.execPassDispatch n m s
  | .passDrainComplete n m f => Sys2Proof.Machine.execPassDrainComplete n m f s
  | .outputPathTile n m => Sys2Proof.Machine.execOutputPathTile n m s
  | .passComplete n m => Sys2Proof.Machine.execPassComplete n m s
  | .shadowCompare n m => Sys2Proof.Machine.execShadowCompare n m s
  | .statsRecordMerge n m => Sys2Proof.Machine.execStatsRecordMerge n m s
  | .frondFault n m f => Sys2Proof.Machine.execFrondFault n m f s
  | .drainParityError n m f => Sys2Proof.Machine.execDrainParityError n m f s
  | .accMemUncorrectable n m k => Sys2Proof.Machine.execAccMemUncorrectable n m k s
  | .engPreemptSet n m => Sys2Proof.Machine.execEngPreemptSet n m s
  | .engPreemptClear n m => Sys2Proof.Machine.execEngPreemptClear n m s
  | .actLoadStart n m data who => Sys2Proof.Machine.execActLoadStart n m data who s
  | .actLoadDone n m => Sys2Proof.Machine.execActLoadDone n m s
  | .governorRun => Sys2Proof.Machine.execGovernorRun s
  | .recordUp tag first blocks => Sys2Proof.Machine.execRecordUp tag first blocks s
  | .recordDown tag first blocks => Sys2Proof.Machine.execRecordDown tag first blocks s
  | .dmaDescriptorStart n ch => Sys2Proof.Machine.execDmaDescriptorStart n ch s
  | .dmaComplete n ch => Sys2Proof.Machine.execDmaComplete n ch s
  | .hbmScrubLine addr r => Sys2Proof.Machine.execHbmScrubLine addr r s
  | .add n c w => Sys2Proof.Machine.execAdd n c w s
  | .sub n c w => Sys2Proof.Machine.execSub n c w s
  | .mul n c w => Sys2Proof.Machine.execMul n c w s
  | .mulh n c w => Sys2Proof.Machine.execMulh n c w s
  | .div n c w => Sys2Proof.Machine.execDiv n c w s
  | .divu n c w => Sys2Proof.Machine.execDivu n c w s
  | .rem n c w => Sys2Proof.Machine.execRem n c w s
  | .and n c w => Sys2Proof.Machine.execAnd n c w s
  | .or n c w => Sys2Proof.Machine.execOr n c w s
  | .xor n c w => Sys2Proof.Machine.execXor n c w s
  | .shl n c w => Sys2Proof.Machine.execShl n c w s
  | .shr n c w => Sys2Proof.Machine.execShr n c w s
  | .sra n c w => Sys2Proof.Machine.execSra n c w s
  | .slt n c w => Sys2Proof.Machine.execSlt n c w s
  | .sltu n c w => Sys2Proof.Machine.execSltu n c w s
  | .addi n c w => Sys2Proof.Machine.execAddi n c w s
  | .andi n c w => Sys2Proof.Machine.execAndi n c w s
  | .ori n c w => Sys2Proof.Machine.execOri n c w s
  | .lui n c w => Sys2Proof.Machine.execLui n c w s
  | .fadd n c w => Sys2Proof.Machine.execFadd n c w s
  | .fsub n c w => Sys2Proof.Machine.execFsub n c w s
  | .fmul n c w => Sys2Proof.Machine.execFmul n c w s
  | .fdiv n c w => Sys2Proof.Machine.execFdiv n c w s
  | .fsqrt n c w => Sys2Proof.Machine.execFsqrt n c w s
  | .fmin n c w => Sys2Proof.Machine.execFmin n c w s
  | .fmax n c w => Sys2Proof.Machine.execFmax n c w s
  | .beq n c w => Sys2Proof.Machine.execBeq n c w s
  | .bne n c w => Sys2Proof.Machine.execBne n c w s
  | .blt n c w => Sys2Proof.Machine.execBlt n c w s
  | .bge n c w => Sys2Proof.Machine.execBge n c w s
  | .bltu n c w => Sys2Proof.Machine.execBltu n c w s
  | .bgeu n c w => Sys2Proof.Machine.execBgeu n c w s
  | .jal n c w => Sys2Proof.Machine.execJal n c w s
  | .jalr n c w => Sys2Proof.Machine.execJalr n c w s
  | .ld n c w => Sys2Proof.Machine.execLd n c w s
  | .st n c w => Sys2Proof.Machine.execSt n c w s
  | .vld n c w => Sys2Proof.Machine.execVld n c w s
  | .vst n c w => Sys2Proof.Machine.execVst n c w s
  | .pld n c w => Sys2Proof.Machine.execPld n c w s
  | .pst n c w => Sys2Proof.Machine.execPst n c w s
  | .vadd n c w => Sys2Proof.Machine.execVadd n c w s
  | .vsub n c w => Sys2Proof.Machine.execVsub n c w s
  | .vmul n c w => Sys2Proof.Machine.execVmul n c w s
  | .vdiv n c w => Sys2Proof.Machine.execVdiv n c w s
  | .vsqrt n c w => Sys2Proof.Machine.execVsqrt n c w s
  | .vmin n c w => Sys2Proof.Machine.execVmin n c w s
  | .vmax n c w => Sys2Proof.Machine.execVmax n c w s
  | .vabs n c w => Sys2Proof.Machine.execVabs n c w s
  | .vand n c w => Sys2Proof.Machine.execVand n c w s
  | .vor n c w => Sys2Proof.Machine.execVor n c w s
  | .vxor n c w => Sys2Proof.Machine.execVxor n c w s
  | .vshl n c w => Sys2Proof.Machine.execVshl n c w s
  | .vshr n c w => Sys2Proof.Machine.execVshr n c w s
  | .vcmp n c w => Sys2Proof.Machine.execVcmp n c w s
  | .vsel n c w => Sys2Proof.Machine.execVsel n c w s
  | .vperm n c w => Sys2Proof.Machine.execVperm n c w s
  | .vbcast n c w => Sys2Proof.Machine.execVbcast n c w s
  | .vmovg n c w => Sys2Proof.Machine.execVmovg n c w s
  | .vmovv n c w => Sys2Proof.Machine.execVmovv n c w s
  | .vreduce n c w => Sys2Proof.Machine.execVreduce n c w s
  | .pand n c w => Sys2Proof.Machine.execPand n c w s
  | .por n c w => Sys2Proof.Machine.execPor n c w s
  | .pnot n c w => Sys2Proof.Machine.execPnot n c w s
  | .pcnt n c w => Sys2Proof.Machine.execPcnt n c w s
  | .vcvt n c w => Sys2Proof.Machine.execVcvt n c w s
  | .vgather n c w => Sys2Proof.Machine.execVgather n c w s
  | .vscatter n c w => Sys2Proof.Machine.execVscatter n c w s
  | .vscaddUnordered n c w => Sys2Proof.Machine.execVscaddUnordered n c w s
  | .vscaddOrdered n c w => Sys2Proof.Machine.execVscaddOrdered n c w s
  | .osync n c w => Sys2Proof.Machine.execOsync n c w s
  | .osyncBarrierComplete n k => Sys2Proof.Machine.execOsyncBarrierComplete n k s
  | .vsegred n c w => Sys2Proof.Machine.execVsegred n c w s
  | .visect n c w => Sys2Proof.Machine.execVisect n c w s
  | .vmerge n c w => Sys2Proof.Machine.execVmerge n c w s
  | .mpegpost n c w => Sys2Proof.Machine.execMpegpost n c w s
  | .mpegwait n c w => Sys2Proof.Machine.execMpegwait n c w s
  | .mpegwaitTimeout n c => Sys2Proof.Machine.execMpegwaitTimeout n c s
  | .mdma n c w => Sys2Proof.Machine.execMdma n c w s
  | .fence n c w => Sys2Proof.Machine.execFence n c w s
  | .stop n c w => Sys2Proof.Machine.execStop n c w s
  | .coreRunEnd n c => Sys2Proof.Machine.execCoreRunEnd n c s
  | .timerd n c w => Sys2Proof.Machine.execTimerd n c w s
  | .mcsr n c w => Sys2Proof.Machine.execMcsr n c w s
  | .tagWaitDiag n q => Sys2Proof.Machine.execTagWaitDiag n q s
  | .announce tag kind count digest => Sys2Proof.Machine.execAnnounce tag kind count digest s
  | .sealDeadline b => Sys2Proof.Machine.execSealDeadline b s
  | .seal tag total att part parts members bits => Sys2Proof.Machine.execSeal tag total att part parts members bits s
  | .grant tag shard window => Sys2Proof.Machine.execGrant tag shard window s
  | .data tag offset shard window vals => Sys2Proof.Machine.execData tag offset shard window vals s
  | .dataEnd tag shard window sent => Sys2Proof.Machine.execDataEnd tag shard window sent s
  | .ring tag offset vals => Sys2Proof.Machine.execRing tag offset vals s
  | .esc tag => Sys2Proof.Machine.execEsc tag s
  | .result tag offset vals => Sys2Proof.Machine.execResult tag offset vals s
  | .shardSum tag shard sum => Sys2Proof.Machine.execShardSum tag shard sum s
  | .final tag sum => Sys2Proof.Machine.execFinal tag sum s
  | .collectiveTimeout b => Sys2Proof.Machine.execCollectiveTimeout b s
  | .deviceReady => Sys2Proof.Machine.execDeviceReady s
  | .report src w0 w1 => Sys2Proof.Machine.execReport src w0 w1 s
  | .decideCommit src w0 w1 => Sys2Proof.Machine.execDecideCommit src w0 w1 s
  | .decideAbort src w0 w1 => Sys2Proof.Machine.execDecideAbort src w0 w1 s
  | .deviceQuiet => Sys2Proof.Machine.execDeviceQuiet s
  | .done src w0 w1 => Sys2Proof.Machine.execDone src w0 w1 s
  | .release src w0 w1 => Sys2Proof.Machine.execRelease src w0 w1 s
  | .rootDecisionTimeout => Sys2Proof.Machine.execRootDecisionTimeout s
  | .decisionWaitExpired => Sys2Proof.Machine.execDecisionWaitExpired s
  | .doneWaitExpired => Sys2Proof.Machine.execDoneWaitExpired s
  | .releaseWaitExpired => Sys2Proof.Machine.execReleaseWaitExpired s
  | .stepTimeout => Sys2Proof.Machine.execStepTimeout s
  | .snapPeriodElapsed => Sys2Proof.Machine.execSnapPeriodElapsed s
  | .snapRequest => Sys2Proof.Machine.execSnapRequest s
  | .snapFillDone => Sys2Proof.Machine.execSnapFillDone s
  | .snapHeaderWrite => Sys2Proof.Machine.execSnapHeaderWrite s
  | .mirrorAckTimeout => Sys2Proof.Machine.execMirrorAckTimeout s
  | .drainFlushComplete => Sys2Proof.Machine.execDrainFlushComplete s
  | .snapPush data who => Sys2Proof.Machine.execSnapPush data who s
  | .dataFlit l fl fec => Sys2Proof.Machine.execDataFlit l fl fec s
  | .idleFlit l fl fec => Sys2Proof.Machine.execIdleFlit l fl fec s
  | .timeFlit l fl fec info => Sys2Proof.Machine.execTimeFlit l fl fec info s
  | .linkControlFlit l fl fec ctl => Sys2Proof.Machine.execLinkControlFlit l fl fec ctl s
  | .ackTimeout l => Sys2Proof.Machine.execAckTimeout l s
  | .replayExhausted l => Sys2Proof.Machine.execReplayExhausted l s
  | .laneFail l lane => Sys2Proof.Machine.execLaneFail l lane s
  | .linkTrainRetry l => Sys2Proof.Machine.execLinkTrainRetry l s
  | .linkTrained l lanes peerDev peerLink => Sys2Proof.Machine.execLinkTrained l lanes peerDev peerLink s
  | .linkRetrain l data who => Sys2Proof.Machine.execLinkRetrain l data who s
  | .linkEnableWrite l data who => Sys2Proof.Machine.execLinkEnableWrite l data who s
  | .write l t => Sys2Proof.Machine.execWrite l t s
  | .writeFin l t => Sys2Proof.Machine.execWriteFin l t s
  | .ack l t => Sys2Proof.Machine.execAck l t s
  | .nack l t => Sys2Proof.Machine.execNack l t s
  | .transactionTimeout tid => Sys2Proof.Machine.execTransactionTimeout tid s
  | .transactionForward l t => Sys2Proof.Machine.execTransactionForward l t s
  | .routeTableLoad data who => Sys2Proof.Machine.execRouteTableLoad data who s
  | .routeTableLoaded => Sys2Proof.Machine.execRouteTableLoaded s
  | .timeFlitSend l departure => Sys2Proof.Machine.execTimeFlitSend l departure s
  | .rootAnnounceTimeout l => Sys2Proof.Machine.execRootAnnounceTimeout l s
  | .timeSet v who => Sys2Proof.Machine.execTimeSet v who s
  | .timeNowRead => Sys2Proof.Machine.execTimeNowRead s
  | .ppsInEdge => Sys2Proof.Machine.execPpsInEdge s
  | .ppsInTimeout => Sys2Proof.Machine.execPpsInTimeout s
  | .ppsOutRise => Sys2Proof.Machine.execPpsOutRise s
  | .ppsOutFall => Sys2Proof.Machine.execPpsOutFall s
  | .trateIntervalEnd f tokens => Sys2Proof.Machine.execTrateIntervalEnd f tokens s
  | .trateClear f => Sys2Proof.Machine.execTrateClear f s
  | .bar2Write req offset bytes => Sys2Proof.Machine.execBar2Write req offset bytes s
  | .bar2Read req offset len => Sys2Proof.Machine.execBar2Read req offset len s
  | .hostReadTimeout => Sys2Proof.Machine.execHostReadTimeout s
  | .registerWrite who offset size value => Sys2Proof.Machine.execRegisterWrite who offset size value s
  | .jobLoad req page => Sys2Proof.Machine.execJobLoad req page s
  | .jobUnload req => Sys2Proof.Machine.execJobUnload req s
  | .logWrite k => Sys2Proof.Machine.execLogWrite k s
  | .logConsWrite v => Sys2Proof.Machine.execLogConsWrite v s
  | .logIrqTimer => Sys2Proof.Machine.execLogIrqTimer s
  | .timePublish => Sys2Proof.Machine.execTimePublish s
  | .ptmDialog r => Sys2Proof.Machine.execPtmDialog r s
  | .outboundError addr drain => Sys2Proof.Machine.execOutboundError addr drain s
  | .functionLevelReset => Sys2Proof.Machine.execFunctionLevelReset s
  | .d3hotEntry => Sys2Proof.Machine.execD3hotEntry s
  | .d0Entry => Sys2Proof.Machine.execD0Entry s
  | .pwrTargetWrite value who => Sys2Proof.Machine.execPwrTargetWrite value who s
  | .fieldOffWrite value who => Sys2Proof.Machine.execFieldOffWrite value who s
  | .fieldIdleSleep f => Sys2Proof.Machine.execFieldIdleSleep f s
  | .hbmIdleSelfRefresh f => Sys2Proof.Machine.execHbmIdleSelfRefresh f s
  | .wakeOnAccess addr => Sys2Proof.Machine.execWakeOnAccess addr s
  | .fieldWakeComplete f => Sys2Proof.Machine.execFieldWakeComplete f s
  | .smbusWake addr => Sys2Proof.Machine.execSmbusWake addr s
  | .smbusStretchTimeout => Sys2Proof.Machine.execSmbusStretchTimeout s
  | .vstepChange up => Sys2Proof.Machine.execVstepChange up s
  | .avsTransitionDone mv => Sys2Proof.Machine.execAvsTransitionDone mv s
  | .avsRetry mv => Sys2Proof.Machine.execAvsRetry mv s
  | .shaperUpdate x => Sys2Proof.Machine.execShaperUpdate x s
  | .shaperCalibrate coreW => Sys2Proof.Machine.execShaperCalibrate coreW s
  | .thermalSample temps => Sys2Proof.Machine.execThermalSample temps s
  | .perstAssert => Sys2Proof.Machine.execPerstAssert s
  | .resetRampDone => Sys2Proof.Machine.execResetRampDone s
  | .perstDeassert => Sys2Proof.Machine.execPerstDeassert s
  | .pwrOkRise => Sys2Proof.Machine.execPwrOkRise s
  | .pwrOkFall => Sys2Proof.Machine.execPwrOkFall s
  | .refclkLoss => Sys2Proof.Machine.execRefclkLoss s
  | .bootRom flashOk => Sys2Proof.Machine.execBootRom flashOk s
  | .recovGo => Sys2Proof.Machine.execRecovGo s
  | .fwProgram value who => Sys2Proof.Machine.execFwProgram value who s
  | .fwProgramDone flashOk => Sys2Proof.Machine.execFwProgramDone flashOk s
  | .fwAdvanceSvn value who => Sys2Proof.Machine.execFwAdvanceSvn value who s
  | .getVersion t => Sys2Proof.Machine.execGetVersion t s
  | .getCapabilities t => Sys2Proof.Machine.execGetCapabilities t s
  | .negotiateAlgorithms t offered => Sys2Proof.Machine.execNegotiateAlgorithms t offered s
  | .getDigests t => Sys2Proof.Machine.execGetDigests t s
  | .getCertificate t slot offset len => Sys2Proof.Machine.execGetCertificate t slot offset len s
  | .challenge t slot nonce => Sys2Proof.Machine.execChallenge t slot nonce s
  | .getMeasurements t index signed nonce => Sys2Proof.Machine.execGetMeasurements t index signed nonce s
  | .keyExchange t slot exchange => Sys2Proof.Machine.execKeyExchange t slot exchange s
  | .finish t session verifies => Sys2Proof.Machine.execFinish t session verifies s
  | .heartbeat t session => Sys2Proof.Machine.execHeartbeat t session s
  | .keyUpdate t session op => Sys2Proof.Machine.execKeyUpdate t session op s
  | .endSession t session => Sys2Proof.Machine.execEndSession t session s
  | .vendorDefinedIdeKm t session keySlot key go => Sys2Proof.Machine.execVendorDefinedIdeKm t session keySlot key go s
  | .pldmRequest type cmd => Sys2Proof.Machine.execPldmRequest type cmd s
  | .idcode => Sys2Proof.Machine.execIdcode s
  | .samplePreload preload => Sys2Proof.Machine.execSamplePreload preload s
  | .extest drive => Sys2Proof.Machine.execExtest drive s
  | .clamp => Sys2Proof.Machine.execClamp s
  | .highz => Sys2Proof.Machine.execHighz s
  | .dbgAccessRead scan => Sys2Proof.Machine.execDbgAccessRead scan s
  | .dbgAccessWrite addr value => Sys2Proof.Machine.execDbgAccessWrite addr value s
  | .dbgStatus => Sys2Proof.Machine.execDbgStatus s
  | .scanSel shift => Sys2Proof.Machine.execScanSel shift s
  | .bypass code => Sys2Proof.Machine.execBypass code s
  | .tapReset => Sys2Proof.Machine.execTapReset s
  | .dbgUnlock value clearOk => Sys2Proof.Machine.execDbgUnlock value clearOk s
  | .dbgRelock => Sys2Proof.Machine.execDbgRelock s
  | .dbgNonceRefresh => Sys2Proof.Machine.execDbgNonceRefresh s
  | .dbgHalt => Sys2Proof.Machine.execDbgHalt s
  | .dbgResume => Sys2Proof.Machine.execDbgResume s
  | .dbgStep => Sys2Proof.Machine.execDbgStep s
  | .selftestGroup field phase last fails => Sys2Proof.Machine.execSelftestGroup field phase last fails s
  | .sliceDue => Sys2Proof.Machine.execSliceDue s
  | .sliceEnd fails => Sys2Proof.Machine.execSliceEnd fails s
  | .hmapRetest who => Sys2Proof.Machine.execHmapRetest who s
  | .registerRead who offset size => Sys2Proof.Machine.execRegisterRead who offset size s
  | .configurationRequest r => Sys2Proof.Machine.execConfigurationRequest r s
  | .l1Exit => Sys2Proof.Machine.execL1Exit s
  | .pcieRefclkLoss => Sys2Proof.Machine.execPcieRefclkLoss s
  | .hbmSelfRefreshExit f => Sys2Proof.Machine.execHbmSelfRefreshExit f s
  | .doeDiscovery index => Sys2Proof.Machine.execDoeDiscovery index s

end Sys2Proof.Machine
end

