-- ==== Sys2Proof/Machine/Tick.lean ====
section
/-! DEFINITION. What the device does of itself as time passes: one nanosecond of the timebase (log entry 5). Timers run down to
`some 0`, where the row of a timeout finds them; duration accumulators advance; flits that are due leave; field cores that wait to go
off do so; physical upsets happen (log entry 4). -/

namespace Sys2Proof.Machine

open Sys2Proof

/-- The count of 2^-32 ns after a nanosecond of the island (13 R275: 1 ns and the adjustment). -/
def timeNext (s : State) : Int :=
  ((s.time.now.toNat * 2 ^ 32 + s.time.frac.toNat + 2 ^ 32 : Nat) : Int) + s.time.adj.toInt

/-- ns of the timebase that pass with it: 0, 1 or 2 (01 R23, R24: timers and accumulators count ns of the timebase). -/
def nsNext (s : State) : Nat := (timeNext s / 2 ^ 32).toNat - s.time.now.toNat

/-- The timebase passes a whole multiple of `m` ns. -/
def passes (s : State) (m : Nat) : Bool := s.time.now.toNat / m != (s.time.now.toNat + nsNext s) / m

/-- A timer `d` ns on. -/
def Timer.down (d : Nat) (t : Timer) : Timer := t.map (· - d)

/-- A timer that ends at 0. -/
def Timer.gone (d : Nat) (t : Timer) : Timer := t.bind fun k => if k ≤ d then none else some (k - d)

/-- A timer `d` ns on, unless it is frozen (01 R24, 16 R347). -/
def Timer.run (frozen : Bool) (d : Nat) (t : Timer) : Timer := if frozen then t else t.down d

/-- An accumulator of the time in which a condition holds (01 R23). -/
def addIf (b : Bool) (d : Nat) (w : Word) : Word := if b then satAdd w d else w

/-- The timebase (13 R275), its timers, and the second edges that PPS_OUT has still to make (13 R279). -/
def timeOn (s : State) : State :=
  let x := timeNext s
  let d := nsNext s
  { s with time := { s.time with
      now := BitVec.ofInt 64 (x / 2 ^ 32), frac := BitVec.ofInt 32 (x % 2 ^ 32)
      anns := s.time.anns.map fun (l, r, t) => (l, r, t.down d)
      ppsDone := s.time.ppsDone && atSecond (BitVec.ofInt 64 (x / 2 ^ 32))
      ppsTimer := s.time.ppsTimer.down d, ppsOutTimer := s.time.ppsOutTimer.down d } }

/-- Token rates (01 R387): the time that each field core is on, and the end of an interval of 10 µs. -/
def trateOn (s : State) : State :=
  let d := nsNext s
  { s with trate := s.trate.zipIdx.map fun (t, f) =>
      let on := t.onNs + (if fieldIsOn s f then d else 0)
      if passes s 10000 then { t with onNs := 0, lastOn := on, due := true } else { t with onNs := on } }

/-- A target is debug halted. -/
def anyHalted (s : State) : Bool :=
  s.dbg.pup.halted || s.thl.any fun t => t.strm.any (·.dbg.halted) || t.core.any (·.dbg.halted)

def Stream.on (fz : Bool) (d : Nat) (q : Stream) : Stream :=
  let f := fz || q.dbg.halted
  { q with
    waitTimer := q.waitTimer.run f d, tagTimer := q.tagTimer.run f d
    cntWaitNs := addIf (q.state == .pegWait) d q.cntWaitNs
    cntHoldNs := addIf (q.state == .held) d q.cntHoldNs }

/-- The units of a thallus; where a window of 100 ns begins, what its throttle gates have let through counts anew (01 R17). -/
def Thallus.on (fz win : Bool) (d : Nat) (t : Thallus) : Thallus :=
  { t with
    strm := t.strm.map (Stream.on fz d)
    core := t.core.map fun k => { k with
      waitTimer := k.waitTimer.run (fz || k.dbg.halted) d, gateBase := if win then k.cntInstr else k.gateBase }
    eng := t.eng.map fun e => { e with gateBase := if win then e.dispCount else e.gateBase }
    gateUsed := if win then 0 else t.gateUsed }

/-- Streams, cores, reduction, record exchange and commit unit. -/
def workOn (s : State) : State :=
  let fz := s.dbg.freezeTmo && anyHalted s
  let d := nsNext s
  let c := s.crun
  { s with
    thl := s.thl.map (Thallus.on fz (passes s 100) d)
    gov := { s.gov with exchTimer := s.gov.exchTimer.run fz d }
    rdx := { s.rdx with bkts := s.rdx.bkts.map fun b => { b with timer := b.timer.run fz d, sealTimer := b.sealTimer.run fz d } }
    crun := { c with
      decisionTimer := c.decisionTimer.run fz d, rootTimer := c.rootTimer.run fz d, doneTimer := c.doneTimer.run fz d
      releaseTimer := c.releaseTimer.run fz d, stepTimer := c.stepTimer.run fz d }
    srun := { s.srun with periodTimer := s.srun.periodTimer.down d, mirLost := s.srun.mirLost.down d } }

/-- A link: its timers; the gate's window of 100 ns, and the millisecond of 13 R265, begin anew. -/
def Link.on (win ms : Bool) (d : Nat) (k : Link) : Link :=
  { k with
    clk := k.clk + d, gateUsed := if win then 0 else k.gateUsed
    laneCorr := if ms then List.replicate 8 0 else k.laneCorr
    trainTimer := k.trainTimer.down d, rpTimer := k.rpTimer.gone d, epTimer := k.epTimer.down d, ackTimer := k.ackTimer.down d
    timeTimer := k.timeTimer.down d, disturbed := k.disturbed.gone d }

/-- Timers and ages of the links and of their transactions. -/
def linksOnNs (s : State) : State :=
  let d := nsNext s
  { s with lnk := { s.lnk with
      txns := s.lnk.txns.map fun x => { x with timer := x.timer.down d, age := x.age + d }
      evt94 := s.lnk.evt94.gone d, evt95 := s.lnk.evt95.gone d
      link := s.lnk.link.map (Link.on (passes s 100) (passes s 1000000) d) } }

/-- One flit of each link where one is due. -/
def pumpAll (s : State) : State := (List.range 32).foldl (fun t l => pump t.lnk.ackTmo.toNat l t) s

/-- Entries of 64 bytes that a request takes in the bridge (01 T1-5). -/
def HeldReq.entries (h : HeldReq) : Nat :=
  match h.kind with
  | .write bs => max 1 ((bs.length + 63) / 64)
  | _ => 1

/-- Requests in the bridge, of 64 entries; those beyond wait for credits at the root port, and have not arrived (01 R21, 14 R285). -/
def bridgeOn (d : Nat) : Nat → List HeldReq → List HeldReq
  | _, [] => []
  | room, h :: hs =>
    if h.entries ≤ room then { h with timer := h.timer.down d } :: bridgeOn d (room - h.entries) hs else h :: hs

/-- Host port and log. -/
def portOn (s : State) : State :=
  let d := nsNext s
  { s with
    port := { s.port with
      pubTimer := s.port.pubTimer.down d, ptmTimer := s.port.ptmTimer.down d, held := bridgeOn d 64 s.port.held }
    log := { s.log with irqTimer := s.log.irqTimer.down d } }

/-- Samples of the last 1 ms. -/
def recent (d : Nat) (ts : List (Nat × Nat)) : List (Nat × Nat) := (ts.filter fun (a, _) => a < 1000000).map fun (a, c) => (a + d, c)

/-- The load comes down to idle at 1,000 W/ms as the core goes into reset (15 R321): 10 W in 10 µs. -/
def rampLoad (load : Nat) : Nat := if load ≤ Config.idleLoad then load else max Config.idleLoad (load - 1000)

/-- Power: residencies, accumulators and timers; each 10 µs an update of the shaper falls due, or a step of the ramp. -/
def powerOn (s : State) : State :=
  let d := nsNext s
  let r := s.prun
  let ts := recent d r.temps
  let due := passes s 10000
  { s with
    pwr := { s.pwr with tjMax := if r.temps.isEmpty then s.pwr.tjMax else BitVec.ofNat 8 (min 255 (hottest ts)) }
    prun := { r with
      res := if up s then r.res.modify s.pwr.state.toNat fun w => satAdd w d else r.res
      fieldRes := r.fieldRes.zipIdx.map fun (w, f) => addIf (fieldIsOn s f) d w
      cntBallastNs := addIf (r.ballast != 0) d r.cntBallastNs, cntGateNs := addIf s.pwr.ceiling d r.cntGateNs
      cntThermNs := addIf (s.pwr.therm != 0) d r.cntThermNs
      load := if due && s.rst == .ramping then rampLoad r.load else r.load
      shapeDue := r.shapeDue || due
      temps := ts, settleTimer := r.settleTimer.down d, avsTimer := r.avsTimer.down d, avsRetryTimer := r.avsRetryTimer.down d
      vGap := r.vGap.down d, lowTimer := r.lowTimer.down d, smbTimer := r.smbTimer.down d
      idle := r.idle.map fun t => t.map (· + d), hbmIdle := r.hbmIdle.map (Timer.down d) } }

/-- Debug port and self-test. -/
def restOn (s : State) : State :=
  let d := nsNext s
  { s with
    dbg := { s.dbg with nonceTimer := s.dbg.nonceTimer.down d }
    bist := { s.bist with
      since := if up s then s.bist.since + d else s.bist.since, cntSliceNs := addIf s.bist.target.isSome d s.bist.cntSliceNs } }

/-- Everything that counts the time. -/
def clocksOn (s : State) : State := timeOn (trateOn (linksOnNs (workOn (portOn (powerOn (restOn s))))))

/-- A list with the new members added. -/
def addAll (xs ys : List Nat) : List Nat := ys.foldl (fun l y => if l.contains y then l else l ++ [y]) xs

/-- The physical upsets of the nanosecond (07 R154, R161; 04 R94; 07 T7-4), in memories that the part has. -/
def upset (u : Upset) (s : State) : State :=
  let words := u.words.filter fun w => match regionOf (w * 8) with
    | .store _ | .scratch _ _ => (resolve s (w * 8)).isSome
    | _ => false
  let s1 := { s with mem := { s.mem with
      badWords := addAll s.mem.badWords words
      badLines := addAll s.mem.badLines (u.lines.filter fun l => l * 64 < hbmBytes s) } }
  let s2 := u.storeCorr.foldl (fun t n => modThl n (fun k => { k with cntEccCorr := satAdd k.cntEccCorr 1 }) t) s1
  let s3 := u.conflicts.foldl (fun t n => modThl n (fun k => { k with cntConflict := satAdd k.cntConflict 1 }) t) s2
  let s4 := u.accCorr.foldl (fun t (n, m) => modEng n m (fun e => { e with cntEccCorr := satAdd e.cntEccCorr 1 }) t) s3
  let corr := u.hbmCorr.foldl (fun h k => h.modify k fun x => { x with cntCorr := satAdd x.cntCorr 1 }) s4.hbm
  { s4 with hbm := u.hbmRetry.foldl (fun h k => h.modify k fun x => { x with cntRetry := satAdd x.cntRetry 1 }) corr }

/-- Field cores and the device domain that wait to go off (15 R307). -/
def offOn (s : State) : State :=
  if up s && s.pwr.state != 4 && (s.prun.offPend != 0 || s.prun.sleepPend) then obeyOff s else s

/-- One nanosecond passes; held in reset, the device does nothing but wait for REFCLK. -/
def tick (s : State) : State :=
  if s.rst == .held then { s with refclkTimer := s.refclkTimer.down 1 }
  else
    pupBreak (recovVerdict (offOn (pumpAll (upset (Config.upsets s.nonce) { clocksOn s with nonce := s.nonce + 1 }))))

end Sys2Proof.Machine
end

