-- ==== Sys2Proof/Safety.lean ====
section
/-! DEFINITION. What the statements are about: the invariant of the state, what is fixed at manufacture, and when a unit takes its next
instruction undisturbed. -/

namespace Sys2Proof.Machine

open Sys2Proof

/-- What is written once, at manufacture (16 R332, 00 R2, R3): everything of the part but the flash and min_svn. -/
def Part.fixed (p : Part) : Part := { p with image := [], flashCut := false, minSvn := 0, mapA := {}, mapB := {} }

/-- The invariant of every state: memory is in canonical form, and the log buffers at most 4,096 records (14 R294). -/
def State.Inv (s : State) : Prop := s.mem.wf = true ∧ s.log.buf.length ≤ 4096

/-- Core `c` of thallus `n` is at its next instruction: it is there and ready, not frozen, and no breakpoint stops it. -/
abbrev CoreAt (s : State) (n c : Nat) : Prop :=
  hasCore s n c = true ∧ coreReady s n c = true ∧ (coreOf s n c).dbg.mode ≠ 3 ∧
    ((coreOf s n c).dbg.skipBp = true ∨ (coreOf s n c).state = .held ∨ bpAt s 1 n c (coreOf s n c).pc = none)

/-- Core `c` of thallus `n` takes its next instruction: it is at it, and its fetch finds the word. -/
abbrev CoreRuns (s : State) (n c : Nat) : Prop := CoreAt s n c ∧ fetchOk s n c = true

/-- Core `k` after the instruction word `w` whose effect on its registers is `f`: it goes on at `target`, one instruction counted. -/
def Core.goes (w : Word) (f : Core → Core) (target : Nat) (k : Core) : Core :=
  { f (k.taking w) with pc := target, state := .running, cntInstr := satAdd k.cntInstr 1 }

/-- Core `k` after an instruction that goes on at the next word. -/
def Core.after (w : Word) (f : Core → Core) (k : Core) : Core := k.goes w f ((k.pc + 8) % 2 ^ 44)

/-- Every instruction `mk n c w` with `ok w` completes: the next state differs in its core only, by `f w` and the pc and count. -/
def Completes (mk : Nat → Nat → Word → Instr) (ok : Word → Prop) (f : Word → Core → Core) : Prop :=
  ∀ n c w s, CoreRuns s n c → ok w → exec (mk n c w) s = .next (modCore n c (Core.after w (f w)) s)

/-- Reading `n` bytes at `a` meets present, correctable locations that hold `bs`. -/
def ReadsAs (s : State) (a n : Nat) (bs : List Byte) : Prop :=
  bs.length = n ∧ ∀ i < n, ∃ p, resolve s (a + i) = some p ∧ s.mem.bad p = false ∧ bs.getD i 0 = s.mem.get p

/-- The `n` bytes at `a` are memory itself, present and correctable: neither alias, and each its own physical address. -/
def Plain (s : State) (a n : Nat) : Prop :=
  ∀ i < n, regionOf (a + i) ≠ .cur ∧ regionOf (a + i) ≠ .nxt ∧ resolve s (a + i) = some (a + i) ∧ s.mem.bad (a + i) = false

/-- Stream `q` of thallus `n` takes its next instruction of `words` words: it is there and ready, not frozen, no breakpoint stops it, and
its fetch finds the words. -/
abbrev StrmTakes (s : State) (n q words : Nat) : Prop :=
  hasStrm s n q = true ∧ strmReady s n q = true ∧ (strmOf s n q).dbg.mode ≠ 3 ∧
    ((strmOf s n q).dbg.skipBp = true ∨ (strmOf s n q).state = .held ∨ bpAt s 2 n q (strmOf s n q).pc = none) ∧
    fetchLost s (strmOf s n q).pc words = none

/-- As `StrmTakes`, and the stream has not marked the end of forward. -/
abbrev StrmRuns (s : State) (n q words : Nat) : Prop := StrmTakes s n q words ∧ (strmOf s n q).marked = false

/-- A stream after an instruction of `words` words that goes on. -/
def Stream.after (words : Nat) (w : Word) (k : Stream) : Stream :=
  { k.taking w with state := .running, why := .none, pc := (k.pc + 8 * words) % 2 ^ 44, cntInstr := satAdd k.cntInstr 1 }

/-- rd ← f(g[ra], g[rb]), whatever the other fields of the word hold. -/
def BinOp (mk : Nat → Nat → Word → Instr) (f : Word → Word → Word) : Prop :=
  Completes mk (fun _ => True) fun w k => k.gW (fD w) (f (k.gR (fA w)) (k.gR (fB w)))

/-- rd ← f(g[ra], sign-extended imm). -/
def ImmOp (mk : Nat → Nat → Word → Instr) (f : Word → Word → Word) : Prop :=
  Completes mk (fun _ => True) fun w k => k.gW (fD w) (f (k.gR (fA w)) (BitVec.ofInt 64 (fImm w)))

/-- rd ← f of two FP32 or FP64 values, rounded once to nearest even (08 R174). -/
def FloatOp (mk : Nat → Nat → Word → Instr) (f : Fp → Fp → Fp) : Prop :=
  Completes mk (fun _ => True) fun w k =>
    let t := if bit w 32 then fp64 else fp32
    let x := t.enc .rne (f (t.decode ((k.gR (fA w)).toNat % 2 ^ t.width)) (t.decode ((k.gR (fB w)).toNat % 2 ^ t.width)))
    k.gW (fD w) (if bit w 32 then BitVec.ofNat 64 x else widen 32 x)

/-- rd ← the smaller or the larger of two FP32 or FP64 values (02 Table 2-7). -/
def PickOp (mk : Nat → Nat → Word → Instr) (mx : Bool) : Prop :=
  Completes mk (fun _ => True) fun w k =>
    let t := if bit w 32 then fp64 else fp32
    let x := t.minmaxB mx ((k.gR (fA w)).toNat % 2 ^ t.width) ((k.gR (fB w)).toNat % 2 ^ t.width)
    k.gW (fD w) (if bit w 32 then BitVec.ofNat 64 x else widen 32 x)

/-- `off` words of 8 bytes from `pc`, in 44 bits. -/
def wordsFrom (pc : Nat) (off : Int) : Nat := (((pc : Int) + 8 * off) % 2 ^ 44).toNat

/-- A branch goes to its offset where `p` holds of its operands, and to the next word otherwise. -/
def BranchOp (mk : Nat → Nat → Word → Instr) (p : Word → Word → Prop) [∀ a b, Decidable (p a b)] : Prop :=
  ∀ n c w s, CoreRuns s n c → exec (mk n c w) s = .next (modCore n c (fun k =>
    k.goes w id (if p (k.gR (fA w)) (k.gR (fB w)) then wordsFrom k.pc (fImm w) else (k.pc + 8) % 2 ^ 44)) s)

/-- An element-wise vector instruction: `f` of the format on a float kind, `g` of the width on an integer kind. -/
def VecOp (mk : Nat → Nat → Word → Instr) (f : Fmt → Nat → Nat → Nat) (g : Option (Nat → Nat → Nat → Nat)) : Prop :=
  (∀ t, Completes mk (fun w => vkindOf w = some (.flt t)) fun w k => vecMap w t.width (fun _ => f t) k) ∧
  (∀ h, g = some h → Completes mk (fun w => vkindOf w = some (.int (fEw w))) fun w k => vecMap w (fEw w) (fun _ => h (fEw w)) k)

/-- An element-wise vector instruction on the bits of its elements. -/
def LaneOp (mk : Nat → Nat → Word → Instr) (f : Nat → Nat → Nat → Nat) : Prop :=
  Completes mk (fun _ => True) fun w k => vecMap w (fEw w) (fun _ a b => f (fEw w) a b) k

/-- The address check of a core access passes and gives the device address `a`. -/
def Accesses (n c : Nat) (w : Word) (s : State) (bytes al a : Nat) : Prop :=
  checkAddr n c (fGsp w) (effAddr ((coreOf s n c).gR (fA w)) (fImm w)) bytes al = .inr a

/-- The state with other memory contents. -/
def withBytes (m : Sparse 8) (s : State) : State := { s with mem := { s.mem with bytes := m } }

/-- A load whose address passes: the bytes where memory is readable, 0 and an event where the unit is absent. -/
def LoadOp (mk : Nat → Nat → Word → Instr) (bytes al : Word → Nat) (f : Word → Nat → Core → Core) : Prop :=
  ∀ n c w s a, CoreRuns s n c → fMpg w = 0 → Accesses n c w s (bytes w) (al w) a →
    (∀ bs, ReadsAs s a (bytes w) bs →
      exec (mk n c w) s = .next (classed (modCore n c (Core.after w (f w (natOf bs))) s))) ∧
    (bytes w ≤ 64 → resolve s a = none →
      exec (mk n c w) s = .next (classed (modCore n c (Core.after w (f w 0)) (absentEv (coreAgent s n c w) a s))))

/-- A store whose address passes: the bytes of the access are stored where `f` gives one, every other byte of memory is unchanged. -/
def StoreOp (mk : Nat → Nat → Word → Instr) (ok : Word → Prop) (bytes al : Word → Nat) (f : Word → Core → Nat → Option Byte) : Prop :=
  ∀ n c w s a, CoreRuns s n c → ok w → Accesses n c w s (bytes w) (al w) a → Plain s a (bytes w) → s.mem.wf = true →
    ∃ m, exec (mk n c w) s = .next (classed (modCore n c (Core.after w id) (withBytes m s))) ∧
      ∀ x, Sparse.get m x = if a ≤ x ∧ x < a + bytes w then (f w (coreOf s n c) (x - a)).getD (s.mem.get x) else s.mem.get x

/-- What a core fault does (08 R189): the core is faulted at its instruction, class 3 is recorded, the event is logged, nothing else. -/
def FaultsWith (n c cause : Nat) (w : Word) (s t : State) : Prop :=
  t = settle (recordClass 3 cause (logEv 8 3 cause (engW0 n 0 (runStream s n c) c false) (coreOf s n c).pc w.toNat
    (modCore n c (fun k => { k.taking w with state := .faulted, cause := BitVec.ofNat 8 cause, waitTimer := none, waitPeg := 0 }) s)))

/-- A predicate instruction: bit i of pd is `f` of bit i of its sources, for every element. -/
def PredOp (mk : Nat → Nat → Word → Instr) (f : Bool → Bool → Bool) : Prop :=
  Completes mk (fun _ => True) fun w k => k.pW (fPd w) (bitsNat ((List.range (1024 / fEw w)).map fun i =>
    f ((k.pR (Config.predSrc w 0 % 8)).testBit i) ((k.pR (Config.predSrc w 1 % 8)).testBit i)))

/-- Where the address check of the access gives cause 0x51 or 0x52, the instruction faults with it. -/
def FaultOp (mk : Nat → Nat → Word → Instr) (ok : Word → Prop) (bytes al : Word → Nat) : Prop :=
  ∀ n c w s cause, CoreRuns s n c → ok w →
    checkAddr n c (fGsp w) (effAddr ((coreOf s n c).gR (fA w)) (fImm w)) (bytes w) (al w) = .inl cause →
    cause = 0x51 ∨ cause = 0x52 → ∃ t, exec (mk n c w) s = .next t ∧ FaultsWith n c cause w s t

/-- Where `p` holds of the word, the instruction faults with cause 0x50. -/
def IllegalWhen (mk : Nat → Nat → Word → Instr) (p : Word → Prop) : Prop :=
  ∀ n c w s, CoreRuns s n c → p w → ∃ t, exec (mk n c w) s = .next t ∧ FaultsWith n c 0x50 w s t

/-- The active elements of an indexed instruction with their device addresses. -/
def Lanes (n c : Nat) (w : Word) (s : State) (as : List (Nat × Nat)) : Prop := ixAddrs n c w (coreOf s n c) = .inr as

/-- Every active element lies in plain memory. -/
def lanePlain (w : Word) (s : State) (as : List (Nat × Nat)) : Prop := ∀ p ∈ as, Plain s p.2 (fEw w / 8)

/-- `n` bytes of sparse memory from `a`. -/
def getsOf (m : Sparse 8) (a n : Nat) : List Byte := (List.range n).map fun i => Sparse.get m (a + i)

/-- Stream `q` halts at its instruction with a cause (06 R135): its class, where one is recorded, the event, and nothing else but `f` on the stream. -/
def StrmHalts (n m q cause : Nat) (w3 : Word) (f : Stream → Stream) (s t : State) : Prop :=
  let cls := if s.cmt.haltHold then 0 else classOf cause
  t = settle (recordClass cls cause (logEv 0 cls cause (engW0 n m q 0 true) (strmOf s n q).pc w3.toNat
    (modStrm n q (fun k => { f k with
      state := .halted, cause := BitVec.ofNat 8 cause, waitTimer := none, waitPeg := 0, why := .none, haltDue := s.cmt.haltHold
      haltPay := (BitVec.ofNat 64 (engW0 n m q 0 true ||| cause), s.time.now, BitVec.ofNat 64 k.pc, w3) }) s)))

/-- Everything that the stream issued is done. -/
def StrmWorkDone (s : State) (n q : Nat) : Prop :=
  (∀ e ∈ (thlOf s n).eng, ∀ p ∈ e.passes, p.stream ≠ q) ∧ dmaOf s n q = [] ∧ (strmOf s n q).dmaLost = false ∧
    ∀ r ∈ (thlOf s n).runs, r.stream ≠ q

/-- The thallus a PEGPOST names, its own or another. -/
def postTarget (n : Nat) (w : Word) : Nat := if bit w 15 then field w 23 16 else n

/-- The pass at position `k` of engine `m` can enter a frond: nothing waits before it and nothing stops the engine. -/
def HeadWaits (s : State) (n m k : Nat) : Prop :=
  let e := engOf s n m
  k < e.passes.length ∧ (passAt s n m k).stage = .queued ∧ (passAt s n m k).descBad = false ∧
    (∀ j < k, (passAt s n m j).stage ≠ .queued) ∧
    (∀ p ∈ e.passes, p.stage ≠ .abandoned ∧ (∀ f, p.stage ≠ .reissue f) ∧ p.shadow ≠ .waiting) ∧
    e.preempt = false ∧ e.sliceHold = false ∧ e.loadBusy = false ∧ e.loadFailed = [] ∧ e.dead = false ∧ e.withdrawn ≠ 0xFF

/-- The footprint of an earlier pass overlaps that of pass `k`. -/
def Overlapped (s : State) (n m k : Nat) : Prop := ∃ j < k, footOverlap (passAt s n m j).pw (passAt s n m k).pw = true

/-- An element of a pass without activation whose mask is not stored in: its accumulator pattern and its mask bit. -/
def plainElem (p : PassWord) (e : Engine) (x : Pos) : Elem :=
  ⟨x, accPattern p e x, if p.maskMode = 1 then (match fp32.decode (accPattern p e x) with
    | .fin neg m _ => !neg && m != 0
    | .inf neg => !neg
    | .nan => false) else !(fp32.decode (accPattern p e x)).isZero⟩

/-- Pass `k` is abandoned by a device fault: nothing further is dispatched in the step. -/
def abandoned (n m k : Nat) (s : State) : State :=
  modEng n m (fun e => { e with
    dead := true, faulted := true, passes := e.passes.modify k fun p => { p with stage := .abandoned, shadow := .none, stats := none } }) s

/-- The event of a pass's device fault. -/
def passEvent (n m cause f : Nat) (p : Pass) (s : State) : State :=
  recordClass (classOf cause) cause (logEv 0 (classOf cause) cause (engW0 n m p.stream f false) p.issueAddr p.pw.w0.toNat s)

/-- The reduction units have counted the bytes of a message. -/
def redTaken (body : RedBody) (s : State) : State :=
  { s with rdx := { s.rdx with cntRxBytes := satAdd s.rdx.cntRxBytes (16 + 16 * redSlots body) } }

/-- A discarded message is counted. -/
def staled (s : State) : State := { s with rdx := { s.rdx with cntStale := satAdd s.rdx.cntStale 1 } }

/-- What a reduction message of a bucket meets before it acts; it is acknowledged once it has acted or is discarded (13 R270). -/
def BucketRow (i : Instr) (tag : Word) (body : RedBody) : Prop :=
  ∀ s, let b := field tag 11 0
    let src := field tag 25 12
    let t := redTaken body s
    let fresh := field tag 63 34 = s.cmt.step.toNat % 2 ^ 30
    (¬ fresh → exec i s = .next (ackRed tag body (staled t))) ∧
    (fresh → s.cmt.state ∉ [.running, .gathering, .reported, .settling] → exec i s = .next (ackRed tag body t)) ∧
    (fresh → s.cmt.state = .running → redOk s b src body = false → exec i s = .next (ackRed tag body (staled t))) ∧
    (fresh → s.cmt.state = .running → redOk s b src body = true →
      let u := openBkt b t
      let k := bktOf u b
      (k.timedOut = true → exec i s = .next (settle (ackRed tag body (lateData b src u)))) ∧
      (k.timedOut = false → k.completed = true → body.kind ≠ 0 → exec i s = .next (settle (ackRed tag body u))) ∧
      (k.timedOut = false → k.completed = false → mustWait u b tag body = true →
        exec i s = .next (settle (modBkt b (fun k => { k with waiting := k.waiting ++ [(tag, body)] }) u))) ∧
      (k.timedOut = false → k.completed = false ∨ body.kind = 0 → mustWait u b tag body = false →
        let v := ackRed tag body (redMsg b tag body u)
        exec i s = .next (settle (drainWait b (bktOf v b).waiting.length v))))

/-- Descriptor `k` of the channel is the one that starts next: it is the first not started, no remote one is under way, and the gate at the
DMA ports is open. -/
def StartsNext (s : State) (n ch k : Nat) : Prop :=
  let q := dmaOf s n ch
  hasDma s n ch = true ∧ k < q.length ∧ (q.getD k {}).started = false ∧ (∀ j < k, (q.getD j {}).started = true) ∧
    waitsFor (.dma n ch) s = false ∧ gateOpen s n (thlOf s n).gateUsed = true ∧ ∀ e ∈ q, e.remote = true → e.started = true → e.failed = false → e.finDone = true

/-- A descriptor that passes every check of 07 R157. -/
def DescPasses (s : State) (addr : Nat) (d : List Word) : Prop :=
  ddSrcRemote d = false ∧ addr % 64 = 0 ∧ ddOp d ≤ 1 ∧ 0 < ddRowBytes d ∧ 0 < ddRows d ∧ (1 < ddRows d → ddRowBytes d ≤ ddDstPitch d) ∧
    (ddRemote d = true → ddDev d ≠ self s) ∧
    ∀ i < ddRows d, (ddOp d = 1 ∨ rangeOk (ddSrc d + i * ddSrcPitch d) (ddRowBytes d) = true) ∧
      (if ddRemote d then remoteOk (ddDst d + i * ddDstPitch d) (ddRowBytes d) else rangeOk (ddDst d + i * ddDstPitch d) (ddRowBytes d)) = true

/-- A discarded flit is counted and named in a NAK, its corrected bytes may fail a lane, and nothing else changes. -/
def flitDiscarded (l : Nat) (fl : Flit) (fec : Fec) (s : State) : State :=
  let u := fecIn l fl fec s
  settle (laneCheck l (emit (.idleFlit l ((linkOf u l).mk' 0 [] true)) u))

/-- The roots a device chooses among: what its links announce, and itself where its priority value lets it be one. -/
def rootCandidates (s : State) : List RootInfo :=
  (liveAnns s).map (·.2) ++ if s.time.prio = 255 ∨ s.lnk.devValid = false then [] else [ownRoot s]

/-- The announcement of a time flit is the link's, for 4 ms. -/
def announcedOn (l : Nat) (i : TimeInfo) (s : State) : State :=
  { s with time := { s.time with anns := (s.time.anns.filter fun (k, _, _) => k != l) ++
      [(l, { dev := i.root, ppsLocked := i.ppsLocked, prio := i.prio, hops := i.hops }, some 4000000)] } }

/-- The device has finished its step (10 R224), and in the step after a snapshot the fill too (11 R245). -/
def StepFinished (s : State) : Prop :=
  s.cmt.state = .running ∧ jobLoaded s = true ∧ s.crun.startDue = false ∧ (∀ t ∈ s.thl, ∀ q ∈ t.strm, q.state = .done) ∧
    s.gov.done = true ∧ s.crun.worst.cls = 0 ∧ (∀ k ∈ s.rdx.bkts, k.completed = true ∨ k.touched = false) ∧
    (s.snap.phase = 2 → s.srun.fillDone = true)

/-- The device gathers its children's REPORT tokens. -/
def gathering (s : State) : State :=
  { copyScales s with cmt := { (copyScales s).cmt with state := .gathering }, crun := { (copyScales s).crun with stepTimer := none } }

/-- The device's own ready REPORT (10 T10-1). -/
def ownReport (s : State) : Token :=
  mkToken 1 {} true s.cmt.step.toNat 1 (b2n (s.cmt.poisoned || s.cmt.excluded)) (b2n s.cmt.poisoned) s.crun.jobTag.toNat

/-- The token is of this job and of the step that the device compares it with (10 R222). -/
abbrev Token.current (t : Token) (step : Nat) (s : State) : Prop :=
  jobLoaded s = true ∧ t.jobTag = s.crun.jobTag.toNat ∧ t.step = step

/-- Nothing of the step being settled is outstanding (10 R227). -/
def Quiet (s : State) (d : Token) : Prop :=
  s.crun.decide = some d ∧ s.crun.quiet = false ∧ s.crun.doneSent = false ∧
    (∀ x ∈ s.lnk.txns ++ s.lnk.waiting, x.owner ≠ .step ∧ ∀ n ch, x.owner ≠ .dma n ch) ∧
    ((d.flag = true ∧ s.crun.startDue = false) ∨
      ((∀ t ∈ s.thl, (∀ e ∈ t.eng, e.passes = []) ∧ (∀ q ∈ t.dma, q = []) ∧ t.runs = []) ∧
        ∀ k ∈ s.rdx.bkts, k.completed = true ∨ k.touched = false))

/-- A device has stopped: nothing starts of itself any more, in the reduction units and the record exchange either (10 R392). -/
def Stopped (s : State) : Prop :=
  s.cmt.state = .stopped ∧ s.crun.startDue = false ∧ s.crun.decisionTimer = none ∧ s.crun.doneTimer = none ∧
    s.crun.releaseTimer = none ∧ s.crun.stepTimer = none ∧ s.rdx.bkts = [] ∧ s.gov.exchTimer = none ∧ ∀ t ∈ s.thl, t.runs = []

/-- Every line of every enabled window's copy in force, and of the coverage map, can be read. -/
def WindowsReadable (s : State) : Prop :=
  (∀ l ∈ s.mem.badLines, ¬ (4096 * s.snap.map.toNat < l * 64 + 64 ∧ l * 64 < 4096 * s.snap.map.toNat + mapBytes s)) ∧
  ∀ p ∈ enWins s, ∀ l ∈ s.mem.badLines, ¬ (p.2.copyBase s.cmt.epoch < l * 64 + 64 ∧ l * 64 < p.2.copyBase s.cmt.epoch + p.2.bytes)

/-- Every line of the image can be read. -/
def ImageReadable (s : State) : Prop :=
  let p := slotBase s s.snap.targetSlot + 4096
  ∀ l ∈ s.mem.badLines, ¬ (p < l * 64 + 64 ∧ l * 64 < p + (imageBytes s - 4096))

/-- The device is up and reachable, awake, not in recovery, and nothing waits in its bridge. -/
def PortOpen (s : State) : Prop :=
  s.port.linkUp = true ∧ s.rst = .running ∧ restricted s = false ∧ s.pwr.state ≠ 4 ∧ s.port.held = []

/-- `n` bytes at an offset lie within BAR2 (14 R282). -/
def InBar2 (s : State) (off n : Nat) : Prop := off + n ≤ 2 ^ s.port.bar2Log2

/-- The device address of a BAR2 offset. -/
def bar2Addr (s : State) (off : Nat) : Nat := s.pci.bar2Base.toNat * 2 ^ 30 + off

/-- The timer of a period in ms, none for 0. -/
def everyMs (p : BitVec 16) : Timer := if p = 0 then none else some (1000000 * p.toNat)

/-- Nothing but the log and the record of the ignored write changes (18 R370). -/
def ignoredOnly (x : Wr) (cause : Nat) (s t : State) : Prop :=
  ∃ L n, t = { s with log := L, pci := { s.pci with cntLogLost := n }, reg := {
    cntIgnored := satAdd s.reg.cntIgnored 1, offset := BitVec.ofNat 23 (x.off / 8), dbg := isDebug x.who, cause := BitVec.ofNat 8 cause } }

/-- What the core's reset leaves: registers and memories at their reset values; the part (but an image that was being programmed), the
flash maps and a thermal trip stay (15 R321, 19 R383). -/
def CoreReset (s t : State) : Prop :=
  t.mem = {} ∧ t.thl = [] ∧ t.cmt = {} ∧ t.pci.jobState = ({} : Pci).jobState ∧ t.part.fixed = s.part.fixed ∧ t.part.minSvn = s.part.minSvn ∧
    (s.sec.fwState ≠ 1 → t.part = s.part) ∧ t.prun.tripped = s.prun.tripped ∧ t.dbg.level = 0 ∧ t.pending = s.pending

/-- The device has begun to start: straps sampled, the boot ROM runs (15 R321, 19 R380). -/
def BootBegins (s t : State) : Prop :=
  t.rst = .booting ∧ t.caps.compat = s.pins.compatMode ∧ t.sec.strap = !s.pins.fwRecovN ∧
    t.pwr.smbAddr = BitVec.ofNat 7 (0x58 + s.pins.smbAddr.toNat) ∧ t.port.linkUp = true

/-- The state of a device in self-test with the image of its start running. -/
def RunsImage (img : List Byte) (redelivered : Bool) (s t : State) : Prop :=
  t.rst = .selftest ∧ t.sec.stage = 3 ∧ t.sec.runImage = img ∧ t.sec.fromRecovery = redelivered ∧ t.part = s.part

/-- Firmware runs and the transport `t` holds no request. -/
def Hears (t : Transport) (s : State) : Prop :=
  s.rst = .running ∧ s.pwr.state ≠ 4 ∧ fwHalted s = false ∧ (spdmOf s t).held = none

/-- The state in which a request is answered: one over DOE has come over the PCI Express link. -/
def heard (t : Transport) (s : State) : State := if t == .doe then tlpIn s else s

/-- The response `r` is sent on `t` and counted (16 R336). -/
def responds (t : Transport) (r : SpdmResp) (u : State) : State :=
  { u with out := u.out ++ [.spdm t r], sec := { u.sec with cntSpdm := satAdd u.sec.cntSpdm 1 } }

/-- A command is a request on `t` (16 Table 16-4, R338). -/
def requestOn (t : Transport) : Instr → Bool
  | .getVersion u | .getCapabilities u | .negotiateAlgorithms u _ | .getDigests u | .getCertificate u _ _ _ | .challenge u _ _
  | .getMeasurements u _ _ _ | .keyExchange u _ _ | .finish u _ _ | .heartbeat u _ | .keyUpdate u _ _ | .endSession u _
  | .vendorDefinedIdeKm u _ _ _ _ => t == u
  | .pldmRequest _ _ => t == .mctp
  | _ => false

/-- One signature is made: counted, and its salt is fresh. -/
def signedOnce (u : State) : State := { u with sec := { u.sec with cntSign := satAdd u.sec.cntSign 1 }, nonce := u.nonce + 1 }

/-- ERROR Unspecified on `t`; cause 0xD7 is logged the first time (16 R337). -/
def RefusesToSign (t : Transport) (u v : State) : Prop :=
  v.out = u.out ++ [.spdm t (.error .unspecified)] ∧ v.sec.cntSign = u.sec.cntSign ∧ (spdmOf v t).refusedLogged = true ∧
    (spdmOf v t).sessions = (spdmOf u t).sessions ∧
    ((spdmOf u t).refusedLogged = true → v.log = u.log) ∧
    ((spdmOf u t).refusedLogged = false → u.log.buf.length < 4096 → ∃ r, v.log.buf = u.log.buf ++ [r] ∧ r.cause = 0xD7 ∧ r.source = 10 ∧ r.cls = 0)

/-- The TAP has taken the instruction `code`, its capture 0b00000001 shifted out, then `x` of a data register; the pins are the device's
own (16 R339). -/
def tapped (code : BitVec 8) (x : Nat) (s : State) : State :=
  { s with dbg := { s.dbg with ir := code, pinDrive := .normal }, out := s.out ++ [.tdo 0x01, .tdo x] }

/-- A scan of DBG_ACCESS has shifted out the result of the command before it (16 R340). -/
def scanned (s : State) : State :=
  { s with
    dbg := { s.dbg with ir := 0x20, pinDrive := .normal }
    out := s.out ++ [.tdo (s.dbg.lastStatus.toNat ||| s.dbg.lastRead.toNat <<< 48)] }

/-- The debug port is served: the device is out of reset and not in retention. -/
def PortServed (s : State) : Prop := s.rst ≠ .held ∧ s.rst ≠ .ramping ∧ s.pwr.state ≠ 4

/-- The requester reaches register space: the host's port is open; the debug port is served at a level above 0 (16 R340, R341). -/
def Arrives (who : Who) (s : State) : Prop :=
  match who with
  | .host _ => PortOpen s
  | .debug => PortServed s ∧ s.dbg.level ≠ 0

/-- The state in which a write of `n` bytes reaches its register: the host's bytes are counted, the debug port has scanned. -/
def arrived (who : Who) (n : Nat) (s : State) : State :=
  match who with
  | .host _ => countIn n s
  | .debug => scanned s

/-- After a write: the debug port holds status 0 for the next scan. -/
def accessed (who : Who) (u : State) : State :=
  match who with
  | .host _ => u
  | .debug => answered 0 0 u

/-- What a command to firmware does: obeyed while its core runs, kept in order while it is halted (16 R346). -/
def FwActs (c : FwCmd) (who : Who) (u : State) (r : Host.Outcome State Fault Refusal) : Prop :=
  (fwHalted u = false → r = .next (accessed who (fwObey c u))) ∧
    (fwHalted u = true → r = .next (accessed who { u with fwCmds := u.fwCmds ++ [c] }))

/-- A clear of every secret (16 R343). -/
def SecretsGone (t : State) : Prop :=
  t.sec.doe.sessions = [] ∧ t.sec.mctp.sessions = [] ∧ t.sec.sessionKeys = [] ∧ t.sec.ideKeys = [] ∧ t.sec.engineRegs = 0 ∧
    t.sec.keyRegs = 0 ∧ t.sec.wrapLatch = 0

/-- The selected target of the debug port, a core or a stream (16 Table 16-9). -/
def SelectsUnit (s : State) : Prop :=
  (s.dbg.tgtKind = 1 ∧ hasCore s s.dbg.tgtThl.toNat s.dbg.tgtIdx.toNat = true) ∨
    (s.dbg.tgtKind = 2 ∧ hasStrm s s.dbg.tgtThl.toNat s.dbg.tgtIdx.toNat = true)

end Sys2Proof.Machine
end

