-- ==== Sys2Proof/Certificates/Slice0/Obligations.lean ====
section
/-! DEFINITION. The statements for the provers. Each says what the rules of spec/ that its docstring names say of the commands of one
kind, or of every command. A free value of the model stands in them as the opaque constant of Config that gives it, so each statement
holds whatever that value is. -/

open Sys2Proof Sys2Proof.Machine

/-- A core register reads back what was written; g0 reads 0 and p0 all ones. For every core, value and register number: a general register
reads the value last written, another register is unchanged, g0 always reads 0; the same for vector registers (1,024 bits) and
predicates (128 bits), where p0 always reads all ones. (08_marionette_isa.md, Registers) -/
def Obligations.RegisterFileReadsBackWrites : Prop :=
  (∀ (k : Core) (i j : Nat) (x : Word), j < 32 →
    (k.gW i x).gR j = if j = 0 then 0 else if j = i then x else k.gR j) ∧
  (∀ (k : Core) (i j x : Nat), j < 32 → (k.vW i x).vR j = if j = i then (BitVec.ofNat 1024 x).toNat else k.vR j) ∧
  (∀ (k : Core) (i j x : Nat), j < 8 →
    (k.pW i x).pR j = if j = 0 then 2 ^ 128 - 1 else if j = i then x % 2 ^ 128 else k.pR j)

/-- Scalar integer instructions complete with their results, divisions by zero included. ADD, SUB, MUL, MULH, AND, OR, XOR, SLT, SLTU, SHL,
SHR, SRA, ADDI, ANDI, ORI, LUI, DIV, DIVU and REM of a core that runs answer the next state in which only rd of that core holds the
result, the pc has advanced and one instruction is counted. A shift by 64 or more and the upper half of a signed product are free values
(Config), whose value the spec does not state. DIV and DIVU by 0 give all ones and REM by 0 gives its dividend. (08_marionette_isa.md,
Encoding, Table 8-3) -/
def Obligations.ScalarIntegerResults : Prop :=
  (Completes .add (fun w => fOp w = 0x01) (fun w k => k.gW (fD w) (k.gR (fA w) + k.gR (fB w))) ∧
  BinOp .sub (fun a b => a - b) ∧ BinOp .mul (fun a b => a * b) ∧
  BinOp .mulh (fun a b => if a.msb || b.msb then Config.mulhHigh a b else BitVec.ofNat 64 (a.toNat * b.toNat / 2 ^ 64)) ∧
  BinOp .and (fun a b => a &&& b) ∧ BinOp .or (fun a b => a ||| b) ∧ BinOp .xor (fun a b => a ^^^ b) ∧
  BinOp .slt (fun a b => if a.slt b then 1 else 0) ∧ BinOp .sltu (fun a b => if a.ult b then 1 else 0) ∧
  BinOp .shl (fun a b => if b.toNat < 64 then a <<< b.toNat else BitVec.ofNat 64 (Config.shiftOver 0 64 a.toNat b.toNat)) ∧
  BinOp .shr (fun a b => if b.toNat < 64 then a >>> b.toNat else BitVec.ofNat 64 (Config.shiftOver 1 64 a.toNat b.toNat)) ∧
  BinOp .sra (fun a b => if b.toNat < 64 then a.sshiftRight b.toNat else BitVec.ofNat 64 (Config.shiftOver 2 64 a.toNat b.toNat)) ∧
  ImmOp .addi (fun a b => a + b) ∧ ImmOp .andi (fun a b => a &&& b) ∧ ImmOp .ori (fun a b => a ||| b) ∧
  Completes .lui (fun _ => True) (fun w k => k.gW (fD w) (BitVec.ofInt 64 (fImm w) <<< 32))) ∧
  (BinOp .div (fun a b => if b = 0 then BitVec.allOnes 64 else a.sdiv b) ∧
  BinOp .divu (fun a b => if b = 0 then BitVec.allOnes 64 else a / b) ∧
  BinOp .rem (fun a b => if b = 0 then a else a.srem b))

/-- Scalar floating-point instructions complete, special operands included. FADD, FSUB, FMUL, FDIV, FSQRT, FMIN and FMAX of a core that runs
answer the next state in which only rd holds the exact result rounded to nearest even in FP32 (sign-extended) or FP64. x / 0 is an
infinity, 0 / 0, inf / inf, inf - inf and 0 x inf are NaN, roots of negative values are NaN, NaN propagates, and every NaN result is
encoded canonically. (08_marionette_isa.md, Encoding (Table 8-3, R174); 02_number_formats.md, Floating-point layouts, Sign of zero) -/
def Obligations.ScalarFloatResults : Prop :=
  (FloatOp .fadd Fp.add ∧ FloatOp .fsub Fp.sub ∧ FloatOp .fmul Fp.mul ∧ FloatOp .fdiv Fp.div ∧
  FloatOp .fsqrt (fun a _ => a.sqrt) ∧ PickOp .fmin false ∧ PickOp .fmax true) ∧
  ((∀ a b m e e', m ≠ 0 → (Fp.fin a m e).div (.fin b 0 e') = .inf (a != b)) ∧
  (∀ a b e e', (Fp.fin a 0 e).div (.fin b 0 e') = .nan) ∧ (∀ a b, (Fp.inf a).div (.inf b) = .nan) ∧
  (∀ a b m e, ((Fp.fin a m e).div (.inf b)).isZero = true ∧ ∃ e', (Fp.fin a m e).div (.inf b) = .fin (a != b) 0 e') ∧
  (∀ a e, (Fp.fin a 0 e).sqrt = .fin a 0 e) ∧ (Fp.inf false).sqrt = .inf false ∧
  (∀ m e, m ≠ 0 → (Fp.fin true m e).sqrt = .nan) ∧ (Fp.inf true).sqrt = .nan ∧
  (∀ a, (Fp.inf a).sub (.inf a) = .nan ∧ (Fp.inf a).add (.inf (!a)) = .nan) ∧
  (∀ a b e, (Fp.fin a 0 e).mul (.inf b) = .nan ∧ (Fp.inf b).mul (.fin a 0 e) = .nan) ∧
  (∀ x, Fp.nan.add x = .nan ∧ x.add .nan = .nan ∧ Fp.nan.sub x = .nan ∧ x.sub .nan = .nan ∧ Fp.nan.mul x = .nan ∧
    x.mul .nan = .nan ∧ Fp.nan.div x = .nan ∧ x.div .nan = .nan) ∧ Fp.nan.sqrt = .nan ∧
  (∀ t ∈ [bf16, fp16, fp32, fp64], ∀ r, t.enc r .nan = (2 ^ t.ew - 1) * 2 ^ t.mw + 2 ^ (t.mw - 1)))

/-- Rounding is to nearest with ties to even, and every value of a format survives its own encoding. The integer chosen by RNE is nearest
and even on ties, RZ truncates, RNA is nearest with ties away from zero; and for E4M3, E5M2, BF16, FP16, FP32, FP64, FP32P8 and M48,
encoding the decoded value of any pattern that is no NaN gives the pattern back under every rounding mode. (02_number_formats.md,
Rounding modes (R42); 02_number_formats.md, Floating-point layouts (R35)) -/
def Obligations.RoundingAndEncodings : Prop :=
  (∀ (m d : Nat), 0 < d →
    let r := roundAt .rne m 0 d
    2 * m ≤ 2 * r * 2 ^ d + 2 ^ d ∧ 2 * r * 2 ^ d ≤ 2 * m + 2 ^ d ∧
      (2 * m = 2 * r * 2 ^ d + 2 ^ d ∨ 2 * r * 2 ^ d = 2 * m + 2 ^ d → r % 2 = 0) ∧
    roundAt .rz m 0 d = m / 2 ^ d ∧
    (let q := roundAt .rna m 0 d
     2 * q * 2 ^ d ≤ 2 * m + 2 ^ d ∧ 2 * m < 2 * q * 2 ^ d + 2 ^ d)) ∧
  (∀ t ∈ [e4m3, e5m2, bf16, fp16, fp32, fp64, fp32p8, m48], ∀ x < 2 ^ t.width, t.decode x ≠ .nan → ∀ r, t.enc r (t.decode x) = x)

/-- Branches, JAL and JALR complete with the pc the spec gives. BEQ, BNE, BLT, BGE, BLTU and BGEU go to pc + 8 x imm when their comparison
holds and to pc + 8 otherwise; JAL and JALR also write pc + 8 to rd; JALR goes to the register plus 8 x imm, aligned to 8. All else of
the state is unchanged but the instruction count. (08_marionette_isa.md, Encoding, Table 8-3) -/
def Obligations.BranchesAndCalls : Prop :=
  BranchOp .beq (fun a b => a = b) ∧ BranchOp .bne (fun a b => a ≠ b) ∧ BranchOp .blt (fun a b => a.slt b = true) ∧
  BranchOp .bge (fun a b => a.slt b = false) ∧ BranchOp .bltu (fun a b => a.ult b = true) ∧ BranchOp .bgeu (fun a b => a.ult b = false) ∧
  (∀ n c w s, CoreRuns s n c → exec (.jal n c w) s = .next (modCore n c (fun k =>
    k.goes w (fun k => k.gW (fD w) (BitVec.ofNat 64 ((k.pc + 8) % 2 ^ 44))) (wordsFrom k.pc (fImm w))) s)) ∧
  (∀ n c w s, CoreRuns s n c → exec (.jalr n c w) s = .next (modCore n c (fun k =>
    k.goes w (fun k => k.gW (fD w) (BitVec.ofNat 64 ((k.pc + 8) % 2 ^ 44)))
      (wordsFrom (k.gR (fA w)).toNat (fImm w) / 8 * 8)) s))

/-- Vector arithmetic and bitwise instructions complete element by element. VADD, VSUB, VMUL, VDIV, VSQRT, VMIN, VMAX, VABS, VAND, VOR,
VXOR, VSHL and VSHR of a core that runs answer the next state in which vd holds the element-wise result under the predicate. Shifts by
the element width or more are free values (Config): the spec states no result. (08_marionette_isa.md, Encoding, Table 8-3) -/
def Obligations.VectorArithmeticResults : Prop :=
  VecOp .vadd Fmt.addB (some fun e a b => (a + b) % 2 ^ e) ∧ VecOp .vsub Fmt.subB (some fun e a b => (a + 2 ^ e - b) % 2 ^ e) ∧
  VecOp .vmul Fmt.mulB (some fun e a b => a * b % 2 ^ e) ∧
  VecOp .vdiv Fmt.divB (some fun e a b => if b % 2 ^ e = 0 then 2 ^ e - 1 else wrapNat e (Int.tdiv (signed e a) (signed e b))) ∧
  VecOp .vsqrt (fun t a _ => t.sqrtB a) none ∧
  VecOp .vmin (fun t => t.minmaxB false) (some fun e a b => if signed e b < signed e a then b else a) ∧
  VecOp .vmax (fun t => t.minmaxB true) (some fun e a b => if signed e a < signed e b then b else a) ∧
  VecOp .vabs (fun t a _ => t.enc .rne (t.decode a).abs) (some fun e a _ => (signed e a).natAbs % 2 ^ e) ∧
  LaneOp .vand (fun _ a b => a &&& b) ∧ LaneOp .vor (fun _ a b => a ||| b) ∧ LaneOp .vxor (fun _ a b => a ^^^ b) ∧
  LaneOp .vshl (fun e a b => if b < e then a * 2 ^ b % 2 ^ e else Config.shiftOver 0 e a b % 2 ^ e) ∧
  LaneOp .vshr (fun e a b => if b < e then a % 2 ^ e / 2 ^ b else Config.shiftOver 1 e a b % 2 ^ e)

/-- An element of a vector result follows its predicate bit. Element i of vd is the operation of the two source elements where bit i of the
predicate is 1; where it is 0 it is 0 with pz set and otherwise its old value. Every other vector register, the general registers and
the predicates are unchanged. (08_marionette_isa.md, Registers (R167), Encoding) -/
def Obligations.ElementsFollowThePredicate : Prop :=
  ∀ (w : Word) (e : Nat) (f : Nat → Nat → Nat → Nat) (k : Core) (i : Nat), e ∈ [8, 16, 32, 64] → i < 1024 / e →
    elemAt ((vecMap w e f k).vR (fD w)) e i =
      (if (k.pR (fPg w)).testBit i then f i (elemAt (k.vR (fA w)) e i) (elemAt (k.vR (fB w)) e i) % 2 ^ e
       else if fPz w then 0 else elemAt (k.vR (fD w)) e i) ∧
    (∀ j < 32, j ≠ fD w → (vecMap w e f k).vR j = k.vR j) ∧ (vecMap w e f k).g = k.g ∧ (vecMap w e f k).p = k.p

/-- VSEL, VPERM, VBCAST, VMOVG, VMOVV and VREDUCE complete with their results. Each answers the next state in which only its destination is
written. VPERM with an index beyond the element count gives a free value, VMOVG and VMOVV take the lane from a free reading of the index
(log entry 21), and VREDUCE folds the elements in ascending order. (08_marionette_isa.md, Encoding, Table 8-3) -/
def Obligations.SelectsMovesAndReductions : Prop :=
  Completes .vsel (fun _ => True) (fun w k => k.vW (fD w) (packElems (fEw w) ((List.range (1024 / fEw w)).map fun i =>
    if (k.pR (fPg w)).testBit i then elemAt (k.vR (fA w)) (fEw w) i else elemAt (k.vR (fB w)) (fEw w) i))) ∧
  Completes .vperm (fun _ => True) (fun w k => vecMap w (fEw w) (fun _ _ j =>
    if j < 1024 / fEw w then elemAt (k.vR (fA w)) (fEw w) j else Config.permOver (fEw w) j % 2 ^ fEw w) k) ∧
  Completes .vbcast (fun _ => True) (fun w k => vecMap w (fEw w) (fun _ _ _ => (k.gR (fGx w)).toNat % 2 ^ fEw w) k) ∧
  Completes .vmovg (fun w => fPg w = 0) (fun w k =>
    let x := elemAt (k.vR (fA w)) (fEw w) (Config.lane w (k.gR (fGx w)) % (1024 / fEw w))
    k.gW (fGd w) (if fEw w = 64 then BitVec.ofNat 64 x else widen (fEw w) x)) ∧
  Completes .vmovv (fun w => fPg w = 0) (fun w k => k.vW (fD w) (packElems (fEw w) ((List.range (1024 / fEw w)).map fun i =>
    if i = Config.lane w (k.gR (fGx w)) % (1024 / fEw w) then (k.gR (fGx w)).toNat % 2 ^ fEw w
    else elemAt (k.vR (fD w)) (fEw w) i))) ∧
  (∀ t, Completes .vreduce (fun w => vkindOf w = some t ∧ fFa w < 3 ∧ fPg w = 0) (fun w k =>
    let x := match elems t.width (1024 / t.width) (k.vR (fA w)) with
      | [] => 0
      | y :: ys => ys.foldl (foldOp t (fFa w)) y
    k.gW (fGd w) (if t.width = 64 then BitVec.ofNat 64 x else widen t.width x))) ∧
  (∀ e xs i, i < xs.length → elemAt (packElems e xs) e i = xs.getD i 0 % 2 ^ e)

/-- PAND, POR, PNOT, PCNT and VCMP complete with their results. Bit i of pd is the logic of bit i of the sources for every element; PCNT
counts the ones among the element bits; VCMP sets bit i by the comparison, and clears or keeps it where the predicate bit is 0. Which
fields name the predicate sources, and the comparison code, are free readings of Config (log entry 21). (08_marionette_isa.md, Encoding,
Table 8-3) -/
def Obligations.PredicateLogicAndCompare : Prop :=
  PredOp .pand (fun a b => a && b) ∧ PredOp .por (fun a b => a || b) ∧ PredOp .pnot (fun a _ => !a) ∧
  Completes .pcnt (fun _ => True) (fun w k => k.gW (fGd w) (BitVec.ofNat 64
    ((List.range (1024 / fEw w)).filter fun i => (k.pR (Config.predSrc w 0 % 8)).testBit i).length)) ∧
  (∀ t, Completes .vcmp (fun w => vkindOf w = some t) (fun w k => k.pW (fPd w) (bitsNat ((List.range (1024 / t.width)).map fun i =>
    if (k.pR (fPg w)).testBit i then Config.vcmp w (elemAt (k.vR (fA w)) t.width i) (elemAt (k.vR (fB w)) t.width i)
    else if fPz w then false else (k.pR (fPd w)).testBit i)))) ∧
  (∀ bs i, (bitsNat bs).testBit i = bs.getD i false)

/-- LD, VLD and PLD load the bytes in memory, and 0 from an absent unit. Where every byte of the access is present and correctable, the load
answers the next state in which its destination holds the bytes, little-endian, and the state is otherwise unchanged but for the pc and
count. Where the address is an absent unit, the destination is 0 and the access is logged. (08_marionette_isa.md, Memory access (R171);
00_scope.md (R4)) -/
def Obligations.LoadsGiveMemory : Prop :=
  LoadOp .ld fSize fSize (fun w x k => k.gW (fD w) (if fSize w = 8 then BitVec.ofNat 64 x else widen (8 * fSize w) x)) ∧
  LoadOp .vld (fun _ => 128) (fun _ => 64) (fun w x k => k.vW (fD w) x) ∧
  LoadOp .pld (fun _ => 16) (fun _ => 16) (fun w x k => k.pW (fD w % 8) x)

/-- ST, VST and PST change exactly the bytes they store. For a store to plain memory, every byte of memory outside the access is unchanged,
and each byte inside it holds the stored byte, or its old value where its element predicate bit is 0. The address is the one the meaning
computes. (08_marionette_isa.md, Memory access (R171); 08_marionette_isa.md, Encoding) -/
def Obligations.StoresWriteExactlyTheirBytes : Prop :=
  StoreOp .st (fun w => fMpg w = 0) fSize fSize (fun w k i => some (BitVec.ofNat 8 ((k.gR (fD w)).toNat / 256 ^ i))) ∧
  StoreOp .vst (fun _ => True) (fun _ => 128) (fun _ => 64) (fun w k i =>
    if (k.pR (fMpg w)).testBit (i / fSize w) then some (BitVec.ofNat 8 (k.vR (fD w) / 256 ^ i)) else none) ∧
  StoreOp .pst (fun _ => True) (fun _ => 16) (fun _ => 16) (fun w k i =>
    if (k.pR (fMpg w)).testBit (i / fSize w) then some (BitVec.ofNat 8 (k.pR (fD w % 8) / 256 ^ i)) else none)

/-- Alignment and range checks of a core access. A misaligned access fails with cause 0x51; a local access inside 64 KiB goes to the scratch
of the core and one beyond it fails with 0x52; a global access above 44 bits or into register space fails with 0x52; one inside the
memories is taken as it is. (08_marionette_isa.md, Memory access (R171); 07_thallus_memory.md, The device address map) -/
def Obligations.AddressChecksOfAccesses : Prop :=
  ∀ (n c a len al : Nat), 0 < len →
    (a % al ≠ 0 → ∀ g, checkAddr n c g a len al = .inl 0x51) ∧
    (a % al = 0 → (a + len ≤ 0x10000 → checkAddr n c false a len al = .inr (0x01F000000000 + 0x80000 * n + 0x10000 * c + a)) ∧
      (0x10000 < a + len → checkAddr n c false a len al = .inl 0x52) ∧
      (2 ^ 44 ≤ a → checkAddr n c true a len al = .inl 0x52) ∧
      (0x020000000000 ≤ a → a < 0x020004000000 → checkAddr n c true a len al = .inl 0x52) ∧
      (a + len ≤ 0x010090000000 → checkAddr n c true a len al = .inr a))

/-- A core fault stops the core with no effect of the instruction. Loads and stores whose address fails with cause 0x51 or 0x52, and the
illegal forms listed (unlisted opcodes, a predicate on a scalar load, reserved formats, misaligned register pairs and so on), leave the
core faulted with its cause, record class 3, log the event, and change no register and no byte. A fetch from an absent unit reads zeros,
which is such a form, and is logged. (08_marionette_isa.md, Faults (R189);
08_marionette_isa.md, Encoding (R173)) -/
def Obligations.CoreFaultsBeforeAnyEffect : Prop :=
  FaultOp .ld (fun w => fMpg w = 0) fSize fSize ∧ FaultOp .st (fun w => fMpg w = 0) fSize fSize ∧
  FaultOp .vld (fun w => fMpg w = 0) (fun _ => 128) (fun _ => 64) ∧ FaultOp .vst (fun _ => True) (fun _ => 128) (fun _ => 64) ∧
  FaultOp .pld (fun w => fMpg w = 0) (fun _ => 16) (fun _ => 16) ∧ FaultOp .pst (fun _ => True) (fun _ => 16) (fun _ => 16) ∧
  IllegalWhen .add (fun w => fOp w ≠ 0x01) ∧
  IllegalWhen .ld (fun w => fMpg w ≠ 0) ∧ IllegalWhen .vadd (fun w => fFb w = 0x1F ∨ fFb w = 0x0E) ∧
  IllegalWhen .vmovg (fun w => fPg w ≠ 0) ∧
  IllegalWhen .vcvt (fun w => field w 45 44 = 3 ∨ fFa w = 0x0E ∨ (fFa w = 0x0D ∧ fA w % 2 = 1)) ∧
  IllegalWhen .vmerge (fun w => bit w 35 = true ∧ fD w % 2 = 1) ∧
  IllegalWhen .vscaddUnordered (fun w => fEw w ≠ 32) ∧ IllegalWhen .vscaddOrdered (fun w => fEw w ≠ 32) ∧
  IllegalWhen .vsegred (fun w => fFb w = 0x05) ∧
  ∀ n c w s, CoreAt s n c → resolve s (coreOf s n c).pc = none → ∀ i ∈ [Instr.add n c w, .ld n c w, .vadd n c w, .vcvt n c w, .stop n c w],
    let t := modCore n c (Core.taking w) s
    exec i s = .next (coreFault n c 0x50 0 (absentEv (coreAgent t n c 0) (coreOf s n c).pc t))

/-- VCVT and the output path convert as the converter's table gives; VCVT's flags are sticky, and it writes only its destinations; MCSR reads
and clears CSTAT. A legal VCVT answers the next state in which the core is converted: each element is the source times the scale,
converted once, into va's pair for M48 and with the block's scale in gd for MX; a scale that is replaced logs 0x56 once and sets
bad_scale; the flags of the elements are added to those that were set; other registers are unchanged. A row of the output path is
converted by the same converter. NaN, infinite and overflowing sources give what Table 2-8 lists for each target; an MX block's scale
is that of its largest magnitude, raised where it would exceed, and no element overflows unless the scale is the greatest. MCSR returns
CSTAT and the ordered count and clears the flags named. (08_marionette_isa.md, Convert (R175, R177); 02_number_formats.md, MX blocks
(R38, R39); 02_number_formats.md, Conversion (R47 to R51, Table 2-8)) -/
def Obligations.ConvertResultsAndFlags : Prop :=
  (∀ n c w s, CoreRuns s n c → cvtLegal w = true →
    exec (.vcvt n c w) s = .next (modCore n c (Core.after w (cvtCore w))
      (if fGx w ≠ 0 ∧ scaleOk ((((coreOf s n c).gR (fGx w))).setWidth 32) = false then
        logEv 8 0 0x56 (engW0 n 0 (runStream s n c) c false) (coreOf s n c).pc w.toNat s else s))) ∧
  (∀ w k, ∀ i < 5, k.cstat.getLsbD i = true → (cvtCore w k).cstat.getLsbD i = true) ∧
  (∀ w k, fGx w ≠ 0 → scaleOk ((k.gR (fGx w)).setWidth 32) = false → (cvtCore w k).cstat.getLsbD 4 = true) ∧
  (∀ w k, (cvtCore w k).oseq = k.oseq ∧ (cvtCore w k).ordCount = k.ordCount ∧
    (∀ j < 32, j ≠ fD w → j ≠ fD w + 1 → (cvtCore w k).vR j = k.vR j) ∧
    (∀ j < 32, j ≠ fGd w → (cvtCore w k).gR j = k.gR j) ∧ (∀ j < 8, j ≠ fPd w → (cvtCore w k).pR j = k.pR j)) ∧
  Completes .mcsr (fun _ => True) (fun w k =>
    { k.gW (fD w) (BitVec.ofNat 64 (k.cstat.toNat + 2 ^ 16 * k.ordCount.toNat)) with
      cstat := k.cstat &&& ~~~(BitVec.ofNat 5 (field w 36 32)) }) ∧
  (∀ w k i t, nfmtOf (fFb w) = some t → isMx (fFb w) = false → i < cvtCount (fFa w) (fFb w) →
    let v := t.conv (rndOf (field w 45 44)) (bit w 46) ((cvtSource w k i).mul (cvtScale w k).1)
    (fFb w ≠ 0x0D → elemAt ((cvtCore w k).vR (fD w)) (planeWidth (fFb w)) i = v.1) ∧
    (fFb w = 0x0D → fD w % 2 = 0 → 65536 * elemAt ((cvtCore w k).vR (fD w)) 32 i + elemAt ((cvtCore w k).vR (fD w + 1)) 16 i = v.1) ∧
    (fPd w ≠ 0 → i < 128 → ((cvtCore w k).pR (fPd w)).testBit i = v.2.any)) ∧
  (∀ w k, isMx (fFb w) = true →
    let b := mxBlock (fFb w) (rndOf (field w 45 44)) (bit w 46) ((List.range 32).map fun i => (cvtSource w k i).mul (cvtScale w k).1)
    (fGd w ≠ 0 → (cvtCore w k).gR (fGd w) = BitVec.ofNat 64 b.1) ∧
    ∀ i < 32, elemAt ((cvtCore w k).vR (fD w)) (planeWidth (fFb w)) i = (b.2.getD i (0, {})).1) ∧
  (∀ w k, let fl := (convBlock (fFb w) (rndOf (field w 45 44)) (bit w 46)
      ((List.range (cvtCount (fFa w) (fFb w))).map fun i => (cvtSource w k i).mul (cvtScale w k).1)).2.map (·.2)
    (cvtCore w k).cstat.getLsbD 0 = (k.cstat.getLsbD 0 || fl.any (·.ovf)) ∧ (cvtCore w k).cstat.getLsbD 1 = (k.cstat.getLsbD 1 || fl.any (·.unf)) ∧
    (cvtCore w k).cstat.getLsbD 2 = (k.cstat.getLsbD 2 || fl.any (·.nanIn)) ∧ (cvtCore w k).cstat.getLsbD 3 = (k.cstat.getLsbD 3 || fl.any (·.infIn))) ∧
  (∀ p sc els, let b := convBlock p.outFmt (rndOf p.rnd) p.sat (els.map fun e => (resultVal p e.x).mul sc)
    (convRow p sc els).1 = b.1 ∧ (convRow p sc els).2.map (fun c => (c.q, c.fl)) = b.2) ∧
  (∀ r sat, let fs := [fp64, fp32, m48, bf16, fp16, e5m2, e4m3, e2m3, e3m2, e2m1]
    fs.map (fun f => f.conv r sat .nan) =
      [0x7FF8000000000000, 0x7FC00000, 0x7FC000000000, 0x7FC0, 0x7E00, 0x7E, 0x7F, 0, 0, 0].map (fun x => (x, { nanIn := true })) ∧
    fs.map (fun f => f.conv r sat (.inf false)) =
      [0x7FF0000000000000, 0x7F800000, 0x7F8000000000, 0x7F80, 0x7C00, 0x7C, 0x7F, 0x1F, 0x1F, 0x7].map (fun x => (x, { infIn := true })) ∧
    fs.map (fun f => f.conv r sat (.inf true)) =
      [0xFFF0000000000000, 0xFF800000, 0xFF8000000000, 0xFF80, 0xFC00, 0xFC, 0x7F, 0x3F, 0x3F, 0xF].map (fun x => (x, { infIn := true })) ∧
    (∀ f ∈ fs, ∀ neg m e, let b := f.roundBits r m e; let v := f.conv r sat (.fin neg m e)
      (b ≤ f.maxBits → v = (f.signBits neg + b, { unf := decide (b = 0 ∧ m ≠ 0) })) ∧
      (f.maxBits < b → v.2 = { ovf := true } ∧
        f.decode v.1 = if f.kind = .ieee ∧ sat = false ∧ r ≠ .rz then .inf neg else f.decode (f.signBits neg + f.maxBits))) ∧
    [e5m2, e4m3, e2m3, e3m2, e2m1].map (fun f => f.decode f.maxBits) =
      [.fin false 7 13, .fin false 14 5, .fin false 15 (-1), .fin false 7 2, .fin false 3 1]) ∧
  (∀ b ∈ [4, 8, 16, 32], ∀ r sat, let c := (NFmt.int b).conv r sat
    let lim := fun (neg : Bool) => if neg then -(2 ^ (b - 1) : Int) else 2 ^ (b - 1) - 1
    c .nan = (0, { nanIn := true }) ∧
    (∀ neg, signed b (c (.inf neg)).1 = lim neg ∧ (c (.inf neg)).2 = { infIn := true }) ∧
    ∀ neg m e, let x : Int := if neg then -(roundAt r m e 0 : Int) else roundAt r m e 0
      (lim true ≤ x → x ≤ lim false → signed b (c (.fin neg m e)).1 = x ∧ (c (.fin neg m e)).2 = { unf := decide (x = 0 ∧ m ≠ 0) }) ∧
      (x < lim true ∨ lim false < x → signed b (c (.fin neg m e)).1 = lim neg ∧ (c (.fin neg m e)).2 = { ovf := true })) ∧
  (∀ c t r sat ys, isMx c = true → nfmtOf c = some t → let b := mxBlock c r sat ys
    ((∃ y ∈ ys, y.isNan = true ∨ y.isInf = true) → b = (0xFF, ys.map fun y => (0, { nanIn := y.isNan, infIn := y.isInf }))) ∧
    (∀ zs : List (Bool × Int), ys = zs.map (fun z => .fin z.1 0 z.2) →
      b = (0, zs.map fun z => (match t with
        | .flt f => f.signBits z.1
        | _ => 0, {}))) ∧
    ((∀ y ∈ ys, y.isNan = false ∧ y.isInf = false) → (∃ y ∈ ys, y.isZero = false) →
      b.2 = ys.map (fun y => t.conv r true (y.scale2 (127 - (b.1 : Int)))) ∧ (b.1 < 254 → ∀ x ∈ b.2, x.2.ovf = false) ∧
      ∃ neg m e, .fin neg m e ∈ ys ∧ (∀ n' m' e', .fin n' m' e' ∈ ys → (Fp.fin false m e).lt (.fin false m' e') = false) ∧
        let x := ilog m e - mxEmax c
        (b.1 : Int) = min (max (if t.exceeds r m (e - x) then x + 1 else x) (-127)) 127 + 127))

/-- VSEGRED scans segments in order and carries the open one. Each element is the fold of its segment so far; a predicate bit starts a
segment; the running value enters in gx and the open segment leaves in gx; the ends of segments are marked in pd where pd is not 0.
(08_marionette_isa.md, Segmented scan) -/
def Obligations.ScanCarriesTheOpenSegment : Prop :=
  (∀ t, Completes .vsegred (fun w => segKind w = some t ∧ fFa w < 3) (fun w k =>
    let m := 1024 / t.width
    let st := fun i => (k.pR (fPg w)).testBit i
    let r := segScan (foldOp t (fFa w)) ((k.gR (fGx w)).toNat % 2 ^ t.width)
      ((List.range m).map fun i => (elemAt (k.vR (fA w)) t.width i, st i))
    let k1 := (k.vW (fD w) (packElems t.width r.1)).gW (fGx w) (if t.width = 64 then BitVec.ofNat 64 r.2 else widen 32 r.2)
    if fPd w = 0 then k1 else k1.pW (fPd w) (bitsNat ((List.range m).map fun i => i = m - 1 || st (i + 1))))) ∧
  (∀ op acc xs, (segScan op acc xs).1.length = xs.length ∧
    ∀ i < xs.length, (segScan op acc xs).1.getD i 0 =
      if (xs.getD i (0, false)).2 then (xs.getD i (0, false)).1
      else op (if i = 0 then acc else (segScan op acc xs).1.getD (i - 1) 0) (xs.getD i (0, false)).1) ∧
  (∀ op acc xs, (segScan op acc xs).2 = if xs.length = 0 then acc else (segScan op acc xs).1.getD (xs.length - 1) 0)

/-- VISECT and VMERGE take one step of an intersection and of a stable merge. VISECT keeps the elements of A that are in B up to the smaller
last key and reports how many it consumed; VMERGE gives the first elements of the stable merge of A and B with their counts.
(08_marionette_isa.md, Intersection and merge (R185, R186)) -/
def Obligations.IntersectAndMergeSteps : Prop :=
  Completes .visect (fun w => (fEw w = 32 ∨ fEw w = 64) ∧ fPg w = 0) (fun w k =>
    let e := fEw w
    let m := 1024 / e
    let a := ((List.range m).map fun i => elemAt (k.vR (fA w)) e i).take (min (field (k.gR (fGx w)) 7 0) m)
    let b := ((List.range m).map fun i => elemAt (k.vR (fB w)) e i).take (min (field (k.gR (fGx w)) 15 8) m)
    let key := sortKey false (fFa w % 2 == 1) e
    let out := fun (xs : List Nat) (ca cb : Nat) =>
      let k1 := (k.vW (fD w) (packElems e xs)).gW (fGd w) (BitVec.ofNat 64 (xs.length + 256 * ca + 65536 * cb))
      if fPd w = 0 then k1 else k1.pW (fPd w) (2 ^ xs.length - 1)
    if a = [] ∨ b = [] then out [] 0 0
    else
      let lim := min (key (a.getLast?.getD 0)) (key (b.getLast?.getD 0))
      out (a.filter fun x => key x ≤ lim ∧ x ∈ b) (a.filter fun x => key x ≤ lim).length (b.filter fun x => key x ≤ lim).length) ∧
  Completes .vmerge (fun w => (fEw w = 32 ∨ fEw w = 64) ∧ fPg w = 0 ∧
      (bit w 35 = true → fA w % 2 = 0 ∧ fB w % 2 = 0 ∧ fD w % 2 = 0)) (fun w k =>
    let e := fEw w
    let m := 1024 / e
    let src := fun r cnt => ((elems e m (k.vR r)).zip (elems e m (k.vR (r + 1)))).take (min cnt m)
    let z := mergeGo (sortKey (bit w 36) (bit w 34) e) m (src (fA w) (field (k.gR (fGx w)) 7 0)) (src (fB w) (field (k.gR (fGx w)) 15 8))
    let k1 := k.vW (fD w) (packElems e (z.1.map (·.1)))
    let k2 := if bit w 35 then k1.vW (fD w + 1) (packElems e (z.1.map (·.2))) else k1
    let k3 := k2.gW (fGd w) (BitVec.ofNat 64 (z.1.length + 256 * z.2.1 + 65536 * z.2.2))
    if fPd w = 0 then k3 else k3.pW (fPd w) (2 ^ z.1.length - 1)) ∧
  (∀ key m a b, (mergeGo key m a b).1 = (List.merge a b (fun x y => decide (key x.1 ≤ key y.1))).take m ∧
    ((mergeGo key m a b).1.Perm (a.take (mergeGo key m a b).2.1 ++ b.take (mergeGo key m a b).2.2)))

/-- VGATHER checks and loads the active elements. The active elements of an indexed instruction are those whose predicate bit is 1, each at
base + index x width as checked. VGATHER answers the next state in which each active element of vd is the bytes at its address, and each
other is 0 or its old value. (08_marionette_isa.md, Gather, scatter and scatter-add) -/
def Obligations.GatherLoadsActiveLanes : Prop :=
  (∀ n c w k as, ixAddrs n c w k = .inr as →
    as.map (·.1) = ((List.range (if fEw w = 64 then 16 else 32)).filter fun i => (k.pR (fPg w)).testBit i) ∧
    ∀ p ∈ as, checkAddr n c (fFa w % 2 == 1) ((k.gR (fGx w)).toNat + elemAt (k.vR (fA w)) 32 p.1 * (fEw w / 8)) (fEw w / 8) (fEw w / 8) = .inr p.2) ∧
  (∀ n c w s as (bs : Nat × Nat → List Byte), CoreRuns s n c → Lanes n c w s as → (∀ p ∈ as, ReadsAs s p.2 (fEw w / 8) (bs p)) →
    ∃ x, exec (.vgather n c w) s = .next (classed (modCore n c (Core.after w (Core.vW (fD w) x)) s)) ∧
      (∀ p ∈ as, elemAt x (fEw w) p.1 = natOf (bs p)) ∧
      ∀ i < 1024 / fEw w, (∀ p ∈ as, p.1 ≠ i) → elemAt x (fEw w) i =
        if i < (if fEw w = 64 then 16 else 32) ∧ fPz w = true then 0 else elemAt ((coreOf s n c).vR (fD w)) (fEw w) i)

/-- VSCATTER and VSCADD (unordered) apply the active elements in ascending lane order. Memory after the instruction is memory before it with
each active element stored (or added) at its address in ascending lane order, so the higher lane remains; every byte outside the
addresses is unchanged. (R179) -/
def Obligations.ScatterStoresActiveLanes : Prop :=
  (∀ n c w s as, CoreRuns s n c → Lanes n c w s as → lanePlain w s as →
    exec (.vscatter n c w) s = .next (classed (modCore n c (Core.after w id) (withBytes
      (as.foldl (fun m p => Sparse.sets m p.2 (bytesOf (fEw w / 8) (elemAt ((coreOf s n c).vR (fB w)) (fEw w) p.1))) s.mem.bytes) s)))) ∧
  (∀ n c w s as, CoreRuns s n c → fOrdered w = false → fEw w = 32 → fFb w = 0x07 ∨ fFb w = 0x0C → Lanes n c w s as → lanePlain w s as →
    exec (.vscaddUnordered n c w) s = .next (classed (modCore n c (Core.after w id) (withBytes
      (as.foldl (fun m p => Sparse.sets m p.2 (bytesOf 4
        (add32 (fFb w == 0x0C) (natOf (getsOf m p.2 4)) (elemAt ((coreOf s n c).vR (fB w)) 32 p.1)))) s.mem.bytes) s)))) ∧
  (∀ (as : List (Nat × Nat)) (f : Sparse 8 → Nat × Nat → List Byte) (m : Sparse 8) (b k : Nat), m.wf = true → (∀ m p, (f m p).length = k) →
    (∀ p ∈ as, b < p.2 ∨ p.2 + k ≤ b) → Sparse.get (as.foldl (fun m p => Sparse.sets m p.2 (f m p)) m) b = Sparse.get m b)

/-- VSCADD (ordered) holds its contributions with their keys, 512 between two barriers at most. With no more than 512 contributions of the
core held since its last arrival, the instruction adds one contribution for each active element with its key and writes no memory; one
that would exceed 512 faults with cause 0x54 before it issues any. (R183) -/
def Obligations.OrderedAddsAreHeld : Prop :=
  ∀ n c w s as, CoreRuns s n c → fOrdered w = true → fEw w = 32 → fFb w = 0x07 ∨ fFb w = 0x0C → Lanes n c w s as →
    ((coreOf s n c).ordCount.toNat + as.length ≤ 512 →
      exec (.vscaddOrdered n c w) s = .next
        (modThl n (fun h => { h with runs := h.runs.modify (runIdx s n c) fun r => { r with contribs := r.contribs ++ as.map fun p =>
            ⟨(coreOf s n c).oseq.toNat, c, p.1, p.2, BitVec.ofNat 32 (elemAt ((coreOf s n c).vR (fB w)) 32 p.1), fFb w == 0x0C⟩ } })
          (modCore n c (Core.after w fun k => { k with oseq := k.oseq + 1, ordCount := k.ordCount + BitVec.ofNat 10 as.length }) s))) ∧
    (512 < (coreOf s n c).ordCount.toNat + as.length →
      ∃ t, exec (.vscaddOrdered n c w) s = .next t ∧ FaultsWith n c 0x54 w s t)

/-- OSYNC arrives at the barrier, and the barrier applies contributions in key order. OSYNC makes its core wait at the barrier. When every
core of the run has arrived, each contribution is added to memory in ascending order of (q, c, i), which is a permutation of the
contributions held; the contributions are dropped, and exactly the cores that wait at the barrier go on past their OSYNC.
(08_marionette_isa.md, Ordered scatter-add (R182)) -/
def Obligations.BarrierAppliesInKeyOrder : Prop :=
  (∀ n c w s, CoreRuns s n c → exec (.osync n c w) s = .next
    (modThl n (fun h => { h with runs := h.runs.modify (runIdx s n c) fun r => { r with atBarrier := r.atBarrier ||| BitVec.ofNat 8 (2 ^ c) } })
      (modCore n c (fun k => { k.taking w with ordCount := 0, state := .barrier, cntInstr := satAdd k.cntInstr 1 }) s))) ∧
  (∀ n k s, let r := (thlOf s n).runs.getD k {}
    hasThl s n = true → k < (thlOf s n).runs.length → r.isUpd = false → (r.atBarrier ||| r.stopped) &&& r.mask = r.mask →
    r.atBarrier ≠ 0 ∨ r.contribs ≠ [] → (∀ x ∈ r.contribs, x.addr % 4 = 0 ∧ Plain s x.addr 4) →
    ∃ t, exec (.osyncBarrierComplete n k) s = .next (classed t) ∧
      t.mem.bytes = (sortContribs r.contribs).foldl (fun m x =>
        Sparse.sets m x.addr (bytesOf 4 (add32 x.isInt (natOf (getsOf m x.addr 4)) x.val.toNat))) s.mem.bytes ∧
      (thlOf t n).runs.getD k {} = { r with contribs := [], atBarrier := 0 } ∧
      (∀ c < (thlOf s n).core.length, (coreOf t n c).g = (coreOf s n c).g ∧ (coreOf t n c).v = (coreOf s n c).v ∧ (coreOf t n c).p = (coreOf s n c).p ∧
        (if r.atBarrier.getLsbD c = true ∧ (coreOf s n c).state = .barrier then
          (coreOf t n c).state = .running ∧ (coreOf t n c).pc = ((coreOf s n c).pc + 8) % 2 ^ 44
        else (coreOf t n c).state = (coreOf s n c).state ∧ (coreOf t n c).pc = (coreOf s n c).pc))) ∧
  (∀ xs : List Contrib, (sortContribs xs).Perm xs ∧ (sortContribs xs).Pairwise fun a b =>
    a.q < b.q ∨ (a.q = b.q ∧ (a.c < b.c ∨ (a.c = b.c ∧ a.i ≤ b.i))))

/-- STOP, the end of a core and the end of a run. STOP leaves its core stopping and counts it at the barrier; once its accesses and
descriptors are done it is idle and has ended; when every core of the mask has ended, the run is over and its peg is posted.
(08_marionette_isa.md, Registers (R170); 06_training_streams.md, Pegs) -/
def Obligations.RunsEndWhenTheirCoresHave : Prop :=
  (∀ n c w s, CoreRuns s n c → exec (.stop n c w) s = .next
    (modThl n (fun h => { h with runs := h.runs.modify (runIdx s n c) fun r => { r with stopped := r.stopped ||| BitVec.ofNat 8 (2 ^ c) } })
      (modCore n c (fun k => { k.taking w with ordCount := 0, state := .stopping, cntInstr := satAdd k.cntInstr 1 }) s))) ∧
  (∀ n c s, hasCore s n c = true → (coreOf s n c).state = .stopping → (∀ d ∈ dmaOf s n 3, d.core ≠ some c) → (coreOf s n c).dmaLost = false →
    runIdx s n c < (thlOf s n).runs.length → (∀ x ∈ ((thlOf s n).runs.getD (runIdx s n c) {}).contribs, x.c ≠ c) →
    exec (.coreRunEnd n c) s = .next
      (modThl n (fun h => { h with runs := h.runs.modify (runIdx s n c) fun r => { r with ended := r.ended ||| BitVec.ofNat 8 (2 ^ c) } })
        (modCore n c (fun k => { k with state := .idle }) s))) ∧
  (∀ n k s, let r := (thlOf s n).runs.getD k {}
    hasThl s n = true → k < (thlOf s n).runs.length → r.isUpd = false → r.ended &&& r.mask = r.mask → r.contribs = [] →
    exec (.mrunComplete n k) s = .next (settle (postPeg n r.peg 1 3 3 0 (modThl n (fun h => { h with runs := h.runs.eraseIdx k }) s))))

/-- MPEGPOST, MPEGWAIT, its timeout, FENCE, MDMA and TIMERD complete. MPEGPOST posts its peg, at once or once the descriptors of the core
are done; MPEGWAIT goes on or waits with its timeout; the timeout faults with 0x53 and class 1; FENCE holds while descriptors of the
core are queued; MDMA queues a descriptor or holds at 16; TIMERD reads the timebase. (08_marionette_isa.md, Pegs, DMA and time (R187)) -/
def Obligations.CorePegsAndFences : Prop :=
  (∀ n c w s, CoreRuns s n c → bit w 14 = false ∨ ((∀ d ∈ dmaOf s n 3, d.core ≠ some c) ∧ (coreOf s n c).dmaLost = false) →
    (if bit w 15 then field w 23 16 else n) < s.thl.length →
    exec (.mpegpost n c w) s = .next (classed (postPeg (if bit w 15 then field w 23 16 else n) (field w 13 8) (field w 63 32) 5 3 0
      (modCore n c (Core.after w id) s)))) ∧
  (∀ n c w s, CoreRuns s n c →
    let target := if bit w 14 then ((coreOf s n c).gR (field w 36 32)).toNat % 2 ^ 32 else field w 63 32
    (target ≤ pegOf s n (field w 13 8) → exec (.mpegwait n c w) s = .next (modCore n c (Core.after w id) s)) ∧
    (pegOf s n (field w 13 8) < target → exec (.mpegwait n c w) s = .next (modCore n c (fun k => { k.taking w with
        state := .pegWait, waitPeg := BitVec.ofNat 6 (field w 13 8), waitTarget := BitVec.ofNat 32 target
        waitTimer := if field w 31 16 = 0 then none else some (1000 * field w 31 16), cntInstr := satAdd k.cntInstr 1 }) s))) ∧
  (∀ n c s, hasCore s n c = true → (coreOf s n c).state = .pegWait → (coreOf s n c).waitTimer = some 0 → (coreOf s n c).dbg.mode ≠ 2 →
    exec (.mpegwaitTimeout n c) s = .next (settle (recordClass 1 0x53
      (logEv 8 1 0x53 (engW0 n 0 (runStream s n c) c false) (coreOf s n c).pc (coreOf s n c).instr.toNat
        (modCore n c (fun k => { k with state := .faulted, cause := 0x53, waitTimer := none, waitPeg := 0 }) s))))) ∧
  (∀ n c w s, CoreRuns s n c →
    ((∀ d ∈ dmaOf s n 3, d.core ≠ some c) → (coreOf s n c).dmaLost = false →
      exec (.fence n c w) s = .next (modCore n c (Core.after w id) s)) ∧
    ((∃ d ∈ dmaOf s n 3, d.core = some c) → exec (.fence n c w) s = .next (modCore n c (fun k => { k.taking w with state := .held }) s))) ∧
  (∀ n c w s, CoreRuns s n c →
    ((dmaOf s n 3).length < 16 → exec (.mdma n c w) s = .next (modDma n 3
      (fun q => q ++ [{ addr := ((coreOf s n c).gR (fA w)).toNat, core := some c }]) (modCore n c (Core.after w id) s))) ∧
    (16 ≤ (dmaOf s n 3).length → exec (.mdma n c w) s = .next (modCore n c (fun k => { k.taking w with state := .held }) s))) ∧
  (∀ n c w s, CoreRuns s n c → exec (.timerd n c w) s = .next (modCore n c (Core.after w fun k => k.gW (fD w) s.time.now) s))

/-- A post adds to one peg, saturates it, and releases those who wait for it. The peg holds the sum, at most 0xFFFFFFFF; every other peg,
memory, the epoch and the queue are unchanged; cores and streams that wait for a value reached go on after their instruction, and no
other changes; the first saturation logs 0x32. (06_training_streams.md, Pegs (R127)) -/
def Obligations.PegPostsAddAndSaturate : Prop :=
  ∀ n p amount agent q ia s, hasThl s n = true → p < 64 →
    let v := min (pegOf s n p + amount) 0xFFFFFFFF
    let t := postPeg n p amount agent q ia s
    pegOf t n p = v ∧ (∀ m r, r < 64 → m ≠ n ∨ r ≠ p → pegOf t m r = pegOf s m r) ∧
    t.mem = s.mem ∧ t.cmt.epoch = s.cmt.epoch ∧ t.pending = s.pending ∧
    (∀ c < (thlOf s n).core.length, (coreOf t n c).g = (coreOf s n c).g ∧
      ((coreOf t n c).state, (coreOf t n c).pc) =
        if (coreOf s n c).state = .pegWait ∧ (coreOf s n c).waitPeg.toNat = p ∧ (coreOf s n c).waitTarget.toNat ≤ v then
          (.running, ((coreOf s n c).pc + 8) % 2 ^ 44) else ((coreOf s n c).state, (coreOf s n c).pc)) ∧
    (∀ c < (thlOf s n).strm.length,
      ((strmOf t n c).state, (strmOf t n c).pc) =
        if (strmOf s n c).state = .pegWait ∧ (strmOf s n c).waitPeg.toNat = p ∧ (strmOf s n c).waitTarget.toNat ≤ v then
          (.running, ((strmOf s n c).pc + 8) % 2 ^ 44) else ((strmOf s n c).state, (strmOf s n c).pc)) ∧
    (pegOf s n p + amount ≤ 0xFFFFFFFF → t.log = s.log) ∧
    (0xFFFFFFFF < pegOf s n p + amount → (thlOf s n).pegSat.getLsbD p = false → s.log.buf.length < 4096 →
      ∃ r, t.log.buf = s.log.buf ++ [r] ∧ r.cause = 0x32 ∧ r.source = 0)

/-- PEGWAIT, PEGPOST, their timeout and fence, and posts by agents complete. PEGWAIT goes on where the peg has its target and waits
otherwise, with its timeout; at the timeout the stream halts with cause 0x31; PEGPOST posts at once, or with its fence once what the
stream issued is done. (06_training_streams.md, Pegs (R127, R128)) -/
def Obligations.StreamPegInstructions : Prop :=
  (∀ n q w s, StrmRuns s n q 1 → q < 3 →
    (field w 63 32 ≤ pegOf s n (field w 13 8) → exec (.pegwait n q w) s = .next (modStrm n q (Stream.after 1 w) s)) ∧
    (pegOf s n (field w 13 8) < field w 63 32 → exec (.pegwait n q w) s = .next (modStrm n q (fun k => { k.taking w with
        state := .pegWait, why := .none, waitPeg := BitVec.ofNat 6 (field w 13 8), waitTarget := BitVec.ofNat 32 (field w 63 32)
        waitTimer := if field w 31 16 = 0 then none else some (1000 * field w 31 16), cntInstr := satAdd k.cntInstr 1 }) s))) ∧
  (∀ n q s, hasStrm s n q = true → (strmOf s n q).state = .pegWait → (strmOf s n q).waitTimer = some 0 →
    (strmOf s n q).dbg.mode ≠ 2 → (strmOf s n q).dbg.mode ≠ 3 → ∃ t, exec (.pegwaitTimeout n q) s = .next t ∧ StrmHalts n 0 q 0x31 (strmOf s n q).instr id s t) ∧
  (∀ n q w s, StrmRuns s n q 1 → q < 3 →
    (bit w 14 = false ∨ StrmWorkDone s n q → postTarget n w < s.thl.length →
      exec (.pegpost n q w) s = .next (classed (postPeg (postTarget n w) (field w 13 8) (field w 63 32) 0 q (strmOf s n q).pc
        (modStrm n q (Stream.after 1 w) s)))) ∧
    (bit w 14 = true → ¬ StrmWorkDone s n q →
      exec (.pegpost n q w) s = .next (modStrm n q (fun k => { k.taking w with state := .held, why := .fence }) s))) ∧
  (∀ n q s, let w := (strmOf s n q).instr
    hasStrm s n q = true → (strmOf s n q).state = .held → (strmOf s n q).why = .fence → (strmOf s n q).dbg.mode ≠ 2 → StrmWorkDone s n q →
    postTarget n w < s.thl.length →
      exec (.pegpostFenceDone n q) s = .next (classed (postPeg (postTarget n w) (field w 13 8) (field w 63 32) 0 q (strmOf s n q).pc
        (modStrm n q (fun k => { k with state := .running, why := .none, pc := (k.pc + 8) % 2 ^ 44, cntInstr := satAdd k.cntInstr 1 }) s)))) ∧
  (∀ n p amount agent s, hasThl s n = true → p < 64 →
    exec (.pegPostEv n p amount agent) s = .next (classed (postPeg n p amount.toNat agent 3 0 s)))

/-- JUMP, BRUNG and EPOCH complete, and halt with 0x30 where the spec says so. JUMP goes to its offset; BRUNG goes to the offset of the
selected rung in the state copy in force and halts with 0x30 for a layer that does not exist; EPOCH opens the next alias of its thallus,
holds while an epoch is settling, and halts outside the update stream. (06_training_streams.md, Branching on the governed rung (R134);
06_training_streams.md, Epoch windows (R138)) -/
def Obligations.StreamJumpsAndEpoch : Prop :=
  (∀ n q w s, StrmRuns s n q 1 → q < 3 → exec (.jump n q w) s = .next (modStrm n q (fun k =>
    { Stream.after 1 w k with pc := wordsFrom k.pc (signed 32 (field w 63 32)) }) s)) ∧
  (∀ n q w0 w1 w2 s bs, StrmRuns s n q 3 → q < 3 → field w0 19 8 < nLayers s →
    ReadsAs s (curState s (field w0 19 8) (field w0 20 20)) 8 bs → exec (.brung n q w0 w1 w2) s = .next (modStrm n q (fun k =>
    { Stream.after 3 w0 k with pc := wordsFrom k.pc (signed 32
        (match natOf bs % 4 with
          | 0 => field w1 31 0
          | 1 => field w1 63 32
          | 2 => field w2 31 0
          | _ => field w2 63 32)) }) s)) ∧
  (∀ n q w0 w1 w2 s, StrmRuns s n q 3 → q < 3 → nLayers s ≤ field w0 19 8 →
    ∃ t, exec (.brung n q w0 w1 w2) s = .next t ∧ StrmHalts n 0 q 0x30 w0 (Stream.taking w0) s t) ∧
  (∀ n w s, StrmRuns s n 2 1 →
    (s.cmt.state ≠ .settling → exec (.epoch n 2 w) s =
      .next (modStrm n 2 (Stream.after 1 w) (modThl n (fun h => { h with epochOpen := true }) s))) ∧
    (s.cmt.state = .settling → exec (.epoch n 2 w) s = .next (modStrm n 2 (fun k => { k.taking w with state := .held, why := .epoch }) s))) ∧
  (∀ n q w s, StrmRuns s n q 1 → q ≠ 2 → ∃ t, exec (.epoch n q w) s = .next t ∧ StrmHalts n 0 q 0x30 w (Stream.taking w) s t)

/-- DMA, MRUN and ISSUE complete, hold at their bounds and halt on bad operands. DMA queues a descriptor, or holds at 16; MRUN starts a run
of the cores of its mask, and an empty mask halts with 0x30; ISSUE queues a pass of its engine where its checks pass, and halts with the
cause of the check that fails. (06_training_streams.md, Instructions; 04_engines_and_passes.md, Issue checks) -/
def Obligations.StreamsStartWork : Prop :=
  (∀ n q w0 w1 s, StrmRuns s n q 2 → q < 3 →
    ((dmaOf s n q).length < 16 → exec (.dma n q w0 w1) s = .next (modStrm n q (Stream.after 2 w0)
      (modDma n q (fun x => x ++ [{ addr := field w1 43 0 }]) s))) ∧
    (16 ≤ (dmaOf s n q).length → exec (.dma n q w0 w1) s = .next (modStrm n q (fun k => { k.taking w0 with state := .held, why := .bound }) s))) ∧
  (∀ n q w0 w1 s, StrmRuns s n q 2 → q < 3 →
    (field w0 15 8 ≠ 0 → (∀ r ∈ (thlOf s n).runs, (r.mask &&& ~~~r.ended).toNat &&& field w0 15 8 = 0) →
      (∀ c < 8, Nat.testBit (field w0 15 8) c = true → (coreOf s n c).state = .idle) →
      exec (.mrun n q w0 w1) s = .next (modStrm n q (Stream.after 2 w0) (modThl n (fun h => { h with
        runs := h.runs ++ [{ mask := BitVec.ofNat 8 (field w0 15 8), peg := field w0 21 16, stream := q }]
        core := h.core.zipIdx.map fun (k, c) => if Nat.testBit (field w0 15 8) c then
          k.start n c (field w0 15 8) (field w0 63 32) (field w1 43 3 * 8) s.cmt.step.toNat else k }) s))) ∧
    (field w0 15 8 = 0 → ∃ t, exec (.mrun n q w0 w1) s = .next t ∧ StrmHalts n 0 q 0x30 w0 (Stream.taking w0) s t)) ∧
  (∀ n m q w0 p s, StrmRuns s n q 5 → q < 3 → field w0 7 0 = 1 → m = field w0 9 8 →
    (strmOf s n q).dbg.skipBp = true ∨ (strmOf s n q).state = .held ∨ pbpAt s n p = none →
    ((engOf s n m).passes.filter fun x => x.stage == .queued).length < 16 → (usesLayer p = true → p.layer < nLayers s) →
    (∀ bs, ReadsAs s (storeBase + 0x1000000 * n + 0x4000 * (thlOf s n).odtBase.toNat + p.odesc * 64) 64 bs → issueCause s p (wordsOf bs) = none →
      exec (.issue n q w0 p) s = .next (modStrm n q (Stream.after 5 w0) (modEng n m (fun e => { e with
        passes := e.passes ++ [{ pw := p, desc := wordsOf bs, issueAddr := (strmOf s n q).pc, stream := q }] }) s)))) ∧
  (∀ n m q w0 p c s, StrmRuns s n q 5 → q < 3 → field w0 7 0 = 1 → m = field w0 9 8 →
    (strmOf s n q).dbg.skipBp = true ∨ (strmOf s n q).state = .held ∨ pbpAt s n p = none →
    ((engOf s n m).passes.filter fun x => x.stage == .queued).length < 16 → (usesLayer p = true → p.layer < nLayers s) →
    (∀ bs, ReadsAs s (storeBase + 0x1000000 * n + 0x4000 * (thlOf s n).odtBase.toNat + p.odesc * 64) 64 bs → issueCause s p (wordsOf bs) = some c →
      ∃ t, exec (.issue n q w0 p) s = .next t ∧ StrmHalts n m q c p.w0 (Stream.taking w0) s t))

/-- A core starts a run with the registers the run gives it. pc, g1 to g6, zero in every other general register, vector register, predicate
and oseq, and CSTAT unchanged, for every thallus, core, mask, argument, entry and step. (R168) -/
def Obligations.CoresStartWithTheRunsRegisters : Prop :=
  ∀ (n c mask arg entry step : Nat) (k : Core), mask < 256 →
    let t := k.start n c mask arg entry step
    t.pc = entry ∧ t.gR 1 = BitVec.ofNat 64 arg ∧ t.gR 2 = BitVec.ofNat 64 c ∧ t.gR 3 = BitVec.ofNat 64 n ∧ t.gR 4 = BitVec.ofNat 64 step ∧
    t.gR 5 = BitVec.ofNat 64 mask ∧ t.gR 6 = BitVec.ofNat 64 ((List.range 8).filter fun i => mask.testBit i).length ∧
    (∀ i < 32, i = 0 ∨ 6 < i → t.gR i = 0) ∧ (∀ i, t.vR i = 0) ∧ (∀ i, i ≠ 0 → t.pR i = 0) ∧ t.oseq = 0 ∧ t.cstat = k.cstat ∧ t.state = .running

/-- MARK instructions, the loss check at the end of forward and the forward barrier complete. A trace marker logs; END drains its stream;
the end-of-forward marker holds the forward stream until its work is done, then the losses are read, a non-finite loss poisons the
device, and the barrier opens the backward streams once every thallus has marked. (06_training_streams.md, Markers and the forward
barrier (R132, R133)) -/
def Obligations.StreamMarkers : Prop :=
  (∀ n q w0 w1 s, StrmTakes s n q 2 → exec (.markTrace n q w0 w1) s = .next (modStrm n q (Stream.after 2 w0)
    (logEv 0 0 0x36 (engW0 n 0 q 0 false) (strmOf s n q).pc w0.toNat s))) ∧
  (∀ n q w0 w1 s, StrmTakes s n q 2 → q ≠ 0 ∨ (strmOf s n q).marked = true →
    exec (.markEnd n q w0 w1) s = .next (settle (modStrm n q (fun k => { k.taking w0 with
      state := .draining, why := .none, pc := (k.pc + 16) % 2 ^ 44, cntInstr := satAdd k.cntInstr 1 }) s))) ∧
  (∀ n w0 w1 s, StrmRuns s n 0 2 → exec (.markEnd n 0 w0 w1) s = .next (modStrm n 0 (fun k => { k.taking w0 with
    state := .held, why := .marker, markThenEnd := true, lossAddr := 0, lossN := 0, cntInstr := satAdd k.cntInstr 1 }) s)) ∧
  (∀ n w0 w1 s, StrmRuns s n 0 2 → exec (.markEndOfForward n 0 w0 w1) s = .next (modStrm n 0 (fun k => { k.taking w0 with
    state := .held, why := .marker, markThenEnd := false, lossAddr := field w1 43 0, lossN := field w0 31 16, cntInstr := satAdd k.cntInstr 1 }) s)) ∧
  (∀ n s, let k := strmOf s n 0
    hasStrm s n 0 = true → k.state = .held → k.why = .marker → k.dbg.mode ≠ 2 → k.dbg.mode ≠ 3 → StrmWorkDone s n 0 → k.markThenEnd = false →
    ∀ bs, k.lossAddr = 0 ∨ ReadsAs s k.lossAddr (4 * k.lossN) bs →
    ∃ t, exec (.endOfForwardLossCheck n) s = .next t ∧
      let vs := if k.lossAddr = 0 then [] else w32sOf bs
      strmOf t n 0 = { k with marked := true, lossVals := vs, state := .running, why := .none, pc := (k.pc + 16) % 2 ^ 44 } ∧
      t.cmt.poisoned = (s.cmt.poisoned || vs.any fun v => field v 30 23 == 255) ∧ t.mem = s.mem ∧
      (∀ q ≠ 0, strmOf t n q = strmOf s n q) ∧ (∀ m ≠ n, thlOf t m = thlOf s m)) ∧
  (∀ s, s.crun.barrierOpen = false → (∃ h ∈ s.thl, (h.strm.getD 1 {}).state = .barrier) → (∀ h ∈ s.thl, (h.strm.getD 0 {}).marked = true) →
    ∃ t, exec .forwardBarrierOpen s = .next t ∧ ∃ u : State, t = snapBarrier (replayCheck
        (crc32c (bytesOfW32s (s.thl.flatMap fun h => (h.strm.getD 0 {}).lossVals))) u) ∧ u.crun.barrierOpen = true ∧ u.mem = s.mem ∧
      u.thl = s.thl.map fun h => { h with strm := h.strm.modify 1 fun k => if k.state = .barrier then { k with state := .running } else k })

/-- LSET, UPD and the end of an update complete. LSET writes the learned scale of its layer into the next state copy; UPD checks its
descriptor and table, reads its blocks, writes its results and starts its run; a bad descriptor halts with 0x37; the end of the update
frees its cores and posts its peg. (06_training_streams.md, The optimiser update) -/
def Obligations.LearnedScalesAndUpdates : Prop :=
  (∀ n w0 w1 s bs, StrmRuns s n 2 2 → field w0 19 8 < nLayers s → ReadsAs s (field w1 43 0) 4 bs →
    Plain s (nextState s (field w0 19 8) (field w0 20 20) + 16) 4 →
    exec (.lset n 2 w0 w1) s = .next (modStrm n 2 (Stream.after 2 w0) (withBytes
      (Sparse.sets s.mem.bytes (nextState s (field w0 19 8) (field w0 20 20) + 16) bs) s))) ∧
  (∀ n w0 w1 s, StrmRuns s n 2 2 → field w0 15 8 ≠ 0 → (∀ r ∈ (thlOf s n).runs, (r.mask &&& ~~~r.ended).toNat &&& field w0 15 8 = 0) →
      (∀ c < 8, Nat.testBit (field w0 15 8) c = true → (coreOf s n c).state = .idle) →
      exec (.upd n 2 w0 w1) s = .next (updBody n 2 (field w0 15 8) w0 w1 (modStrm n 2 (Stream.taking w0) s))) ∧
  (∀ n q mask w0 w1 s bs, ReadsAs s (field w1 43 0) 128 bs → descOk (wordsOf bs) = false →
    updBody n q mask w0 w1 s = haltAt n 0 q 0x37 w0 s) ∧
  (∀ n q mask w0 w1 s d u xs ds us es, ReadsAs s (field w1 43 0) 128 ds → d = wordsOf ds → descOk d = true →
    ReadsAs s (udAddr d 12) 64 us → u = wordsOf us → upbOk u = true → udNBlk d ≠ 0 →
    (let i := min (field (wordAt u 0) 31 0) (field (wordAt u 0) 63 32 - 1)
     let a := field (wordAt u 1) 43 0 + 16 * i
     ReadsAs s a 16 es → readBlocks (strmAgent s n q) d (List.range (udNBlk d)) s = (s, .ok xs) →
      updBody n q mask w0 w1 s = classed (strmNext n q 2 (updWrites n q mask w0 d u (updPar u (wordsOf es)) xs
        (modThl n (fun h => { h with
          runs := h.runs ++ [{ mask := BitVec.ofNat 8 mask, peg := field w0 21 16, stream := q, isUpd := true }]
          core := h.core.zipIdx.map fun (k, c) =>
            if Nat.testBit mask c then k.start n c mask Config.updArg (Config.updEntry / 8 * 8 % 2 ^ 44) s.cmt.step.toNat else k }) s))))) ∧
  (∀ n k s, let r := (thlOf s n).runs.getD k {}
    hasThl s n = true → k < (thlOf s n).runs.length → r.isUpd = true → (∀ c < 8, r.mask.getLsbD c = true → (coreOf s n c).dbg.mode ≠ 2) →
    exec (.updComplete n k) s = .next (settle (postPeg n r.peg 1 3 3 0 (modThl n (fun h => { h with
      runs := h.runs.eraseIdx k
      core := h.core.zipIdx.map fun (x, c) => if r.mask.getLsbD c then { x with state := .idle } else x }) s))))

/-- What a drain writes into accumulator memory. A dot-product pass writes, for each position, the accumulation in lane order of its
products, added to the stored value where acc_in is set; integer lanes sum exactly and clamp to 32 bits; min and max semiring passes
give an extreme term or the identity. (03_fronds.md, Integer accumulation, Semiring modes; 04_engines_and_passes.md, Accumulator memory) -/
def Obligations.AccumulatorPositionsAfterADrain : Prop :=
  (∀ p a b acc r c, intResult p = false → p.srOp = 0 → a.fmt ≠ 0x15 → p.grouping ≠ 0 → p.grouping ≠ 5 →
    let side := tileSide p.grouping
    let x := (List.range (elemCount p.aFmt p.k)).foldl (fun t i => laneAdd none t ((a.val r i).mul (b.val c i))) (.fin true 0 0)
    groupOf p.aFmt ≠ some 0 →
    drainAt p a b acc r c = ⟨[(accBase p + r * side + c, BitVec.ofNat 32 (fp32.enc .rna
      (if p.accIn then x.add (fp32.decode (Sparse.get acc (accBase p + r * side + c)).toNat) else x)))], 0, 0⟩) ∧
  (∀ p a b r c is, p.srOp = 0 → intLane p a b r c is =
    (is.map fun i => signed (codeWidth a.fmt) (a.bits r i) * signed (codeWidth a.fmt) (b.bits c i)).sum) ∧
  (∀ p a b r c is, p.srOp = 1 →
    let term i := signed (codeWidth a.fmt) (a.bits r i) + signed (codeWidth a.fmt) (b.bits c i)
    (∀ i ∈ is, intLane p a b r c is ≤ term i) ∧ intLane p a b r c is ≤ 2147483647 ∧
      (intLane p a b r c is = 2147483647 ∨ ∃ i ∈ is, intLane p a b r c is = term i)) ∧
  (∀ p a b r c is, p.srOp = 2 →
    let term i := signed (codeWidth a.fmt) (a.bits r i) + signed (codeWidth a.fmt) (b.bits c i)
    (∀ i ∈ is, term i ≤ intLane p a b r c is) ∧ -2147483648 ≤ intLane p a b r c is ∧
      (intLane p a b r c is = -2147483648 ∨ ∃ i ∈ is, intLane p a b r c is = term i)) ∧
  (∀ p a b acc r c, intResult p = true → p.srOp = 0 → p.accIn = true →
    let at0 := accBase p + r * tileSide p.grouping + c
    let x := intLane p a b r c (laneElems p.aFmt p.k 0) + signed 32 (Sparse.get acc at0).toNat
    drainAt p a b acc r c = ⟨[(at0, BitVec.ofInt 32 (max (-2147483648) (min x 2147483647)))], 0,
      if -2147483648 ≤ x ∧ x ≤ 2147483647 then 0 else 1⟩) ∧
  (∀ p a b acc rows, (drainTile p a b acc rows).words =
    (List.range rows).flatMap fun r => (List.range (tileSide p.grouping)).flatMap fun c => (drainAt p a b acc r c).words)

/-- A pass is dispatched, drained, written out and completed. Only the head of the queue is dispatched, to the lowest free frond, unless an
earlier pass overlaps it, which is counted; a drain writes the tile; the output path writes the rows; completion counts the pass and
posts its peg. (04_engines_and_passes.md, Pass lifecycle (R81, R82), The output path (R83)) -/
def Obligations.PassesFlowThroughAnEngine : Prop :=
  (∀ n m k f s, hasEng s n m = true → HeadWaits s n m k → ¬ Overlapped s n m k →
    gateOpen s n ((engOf s n m).dispCount - (engOf s n m).gateBase) = true → f < 8 → frondFree s (engOf s n m) f = true →
    (∀ g < f, frondFree s (engOf s n m) g = false) →
    ∃ t sh, exec (.passDispatch n m) s = .next t ∧
      passAt t n m k = { passAt s n m k with stage := .inFrond f, disp := (engOf s n m).dispCount, frond := f, shadow := sh } ∧ (sh = .none ∨ sh = .waiting) ∧
      (∀ j ≠ k, passAt t n m j = passAt s n m j) ∧ t.mem = s.mem) ∧
  (∀ n m k s, hasEng s n m = true → HeadWaits s n m k → Overlapped s n m k → (engOf s n m).ovlpHold = false →
    exec (.passDispatch n m) s = .next (modEng n m (fun e => { e with ovlpHold := true, cntHoldOvlp := satAdd e.cntHoldOvlp 1 }) s)) ∧
  (∀ n m f k s s1 a b, hasEng s n m = true → f < 8 → drainNext (engOf s n m) f = some k →
    (let p := passAt s n m k
     readPass (passAgent n m p) n p.pw s = (s1, some (a, b)) →
     let d := drainTile p.pw a b (engOf s1 n m).acc (tileSide p.pw.grouping)
     exec (.passDrainComplete n m f) s = .next (modEng n m (fun e => { e with
      acc := storeWords (engOf s1 n m).acc d.words
      frond := e.frond.modify f fun r => { r with nancmp := satAdd r.nancmp d.nan, isat := satAdd r.isat d.sat }
      passes := e.passes.modify k fun p => { p with stage := .drained } }) s1))) ∧
  (∀ n m k s, hasEng s n m = true → k < (engOf s n m).passes.length →
    (∀ j < k, (passAt s n m j).stage ≠ .abandoned ∧ ((passAt s n m j).pw.drainOut = true → (passAt s n m j).stage = .output)) →
    (passAt s n m k).stage = .drained → (passAt s n m k).pw.drainOut = true → (∀ p ∈ (engOf s n m).passes, p.stats = none) →
    (let p := passAt s n m k
     let u := confProbe p.pw s
     let els := (tilePos p.pw).map (plainElem p.pw (engOf u n m))
     let o := tileOut u p.pw p.desc els
     p.pw.act = 0 → p.pw.maskMode ≠ 3 → scaleOk (passScale u p.pw) = true → o.reconv = false →
     exec (.outputPathTile n m) s = .next (classed (modEng n m (fun e => { e with
      cntOutElem := satAdd e.cntOutElem (tilePos p.pw).length
      passes := e.passes.modify k fun p => { p with stage := .output, stats := o.record } })
      (writeRows (passAgent n m p) p.pw p.desc o.rows u))))) ∧
  (∀ n m p ps s, hasEng s n m = true → (engOf s n m).passes = p :: ps → p.stage = .output ∨ p.stage = .drained ∧ p.pw.drainOut = false →
    p.stats = none → p.shadow = .none ∨ p.shadow = .done → p.stepped = false →
    (let t := modEng n m (fun e => { e with passes := ps, cntPasses := satAdd e.cntPasses 1 }) s
     exec (.passComplete n m) s = .next (settle (if p.pw.pegEn then postPeg n p.pw.peg 1 1 3 0 t else t))))

/-- Shadow tiles are compared and step statistics merged lane by lane. A shadow comparison adds the squares of the result and of the error
to the statistics of the pass; a merge adds a record to its block, saturating each lane, taking the largest amax, and no lane loses what
it held. (05_precision_governance.md, Taps and step statistics, Shadow tiles) -/
def Obligations.ShadowsAndStatistics : Prop :=
  (∀ n m k s s1 s2 a b, hasEng s n m = true → shadowNext (engOf s n m) = some k →
    (let p := passAt s n m k
     let w := p.pw
     let u := confProbe w s
     let f := (shadowCand u w).getD 7
     let cf := wordAt (dirConf u w.layer w.dir) 4
     let ag := passAgent n m p
     readShadow ag n w.aFmt f (bit cf 18) w.aTrans w.k (shadowSteps w) (w.aAddr * 64) (w.aStride * 64) (field cf 17 0) u = (s1, some a) →
     readShadow ag n w.bFmt f (bit cf 50) (!w.bTrans) w.k (shadowSteps w) (w.bAddr * 64) (w.bStride * 64) (field cf 49 32) s1 = (s2, some b) →
     let side := tileSide ((groupOf f).getD 4)
     let g := anchorOf s2 w.layer w.dir - (match fp32.decode (field (peekWord s2 (curState s2 w.layer w.dir + 8)) 31 0) with
        | .fin _ m e => ilog m e
        | _ => 0)
     let ps := (lanePos w 0).filter fun x => decide (x.row - w.outRow < side) && decide (x.col - w.outCol < side)
     let y := fun x : Pos => shadowVal w f a b (x.row - w.outRow) (x.col - w.outCol)
     exec (.shadowCompare n m) s = .next (modPass n m k (fun p => { p with
          shadow := .done
          stats := some ((p.stats.getD { layer := w.layer, dir := w.dir }).addShadow (ps.map fun x => (sq g (y x)).1).sum
            (ps.map fun x => (sq g ((resultVal w (accPattern w (engOf s2 n m) x)).sub (y x))).1).sum) })
        { s2 with gov := { s2.gov with cntShadow := satAdd s2.gov.cntShadow 1 } }))) ∧
  (∀ n m k t s bs, hasEng s n m = true → k < (engOf s n m).passes.length → (∀ j < k, (passAt s n m j).stats = none) →
    (passAt s n m k).stats = some t → t.log = none → ReadsAs s (statAddr s t.layer t.dir) 128 bs →
    exec (.statsRecordMerge n m) s = .next (settle (writeWords (statAddr s t.layer t.dir)
      (mergeBlock (wordsOf bs) t) (modPass n m k (fun p => { p with stats := none }) s)))) ∧
  (∀ b t, let c := mergeBlock b t
    wordAt c 0 = satAdd (wordAt b 0) t.nElem ∧ wordAt c 1 = satAdd (wordAt b 1) t.nZero ∧ wordAt c 2 = satAdd (wordAt b 2) t.nUnder ∧
    wordAt c 3 = satAdd (wordAt b 3) t.nOver ∧ wordAt c 4 = satAdd (wordAt b 4) t.nNan ∧ wordAt c 5 = satAdd (wordAt b 5) t.nInf ∧
    field (wordAt c 6) 31 0 = max (field (wordAt b 6) 31 0) t.amaxX.toNat ∧
    field (wordAt c 6) 63 32 = min (field (wordAt b 6) 63 32 + t.nReconv) (2 ^ 32 - 1) ∧
    field (wordAt c 7) 31 0 = min (field (wordAt b 7) 31 0 + t.nClip) (2 ^ 32 - 1) ∧
    field (wordAt c 7) 63 32 = min (field (wordAt b 7) 63 32 + t.nShadow) (2 ^ 32 - 1) ∧
    ∀ i v, (i = 8 ∧ v = t.eSig) ∨ (i = 10 ∧ v = t.eErr) ∨ (i = 12 ∧ v = t.shdSig) ∨ (i = 14 ∧ v = t.shdErr) →
      (wordAt c i).toNat + 2 ^ 64 * (wordAt c (i + 1)).toNat =
        min ((wordAt b i).toNat + 2 ^ 64 * (wordAt b (i + 1)).toNat + v) (2 ^ 128 - 1))

/-- Frond faults, drain parity errors and uncorrectable accumulator memory. A frond fault is counted; the first one of a pass re-issues it,
a second abandons it with its cause; the fourth fault of a frond withdraws it and enters it in the health map; a drain parity error and
an uncorrectable accumulator word abandon the pass; an activation load completes or leaves its tables failed. (04_engines_and_passes.md,
Stopping a pass (R93)) -/
def Obligations.EngineFaultsReissueOrAbandon : Prop :=
  (∀ n m f k d sh s, hasEng s n m = true → f < 8 →
    (if Config.faultsEarlier s.nonce then (inFrondList (engOf s n m) f).head? else (inFrondList (engOf s n m) f).getLast?) = some (d, sh, k) →
    (let p := passAt s n m k
     let u := { s with nonce := s.nonce + 1 }
     (sh = true → exec (.frondFault n m f) s = .next (countFault n m f p (passEvent n m 0x13 f p
        (modEng n m (fun e => { e with passes := e.passes.modify k fun p => { p with shadow := .done } }) u)))) ∧
     (sh = false → p.reissued = true →
        exec (.frondFault n m f) s = .next (settle (countFault n m f p (passEvent n m 0x14 f p (abandoned n m k u))))) ∧
     (sh = false → p.reissued = false → (frondOf s n m f).faultCount ≠ 3 → (engOf s n m).withdrawn ≠ 0xFF →
        exec (.frondFault n m f) s = .next (countFault n m f p (passEvent n m 0x13 f p (modEng n m (fun e => { e with
          cntReissue := satAdd e.cntReissue 1
          passes := e.passes.modify k fun p => { p with stage := .reissue f, reissued := true, shadow := .none } }) u)))))) ∧
  (∀ n m f p s, hasEng s n m = true → f < (engOf s n m).frond.length → f < 8 →
    let t := modEng n m (fun e => { e with frond := e.frond.modify f fun r => { r with faultCount := satAdd r.faultCount 1 } }) s
    ((frondOf s n m f).faultCount ≠ 3 → countFault n m f p s = t) ∧
    ((frondOf s n m f).faultCount = 3 → (engOf s n m).withdrawn.getLsbD f = false →
      (engOf (countFault n m f p s) n m).withdrawn = (engOf s n m).withdrawn ||| BitVec.ofNat 8 (2 ^ f) ∧
      (s.bist.hmapFull = false → s.bist.hmap.length < 256 →
        (countFault n m f p s).bist.hmap = s.bist.hmap ++ [hmapNow s 3 (physOf s n) (m * 8 + f) 0 3 4]))) ∧
  (∀ n m f k s s1 a b, hasEng s n m = true → f < 8 → drainNext (engOf s n m) f = some k →
    (let p := passAt s n m k
     readPass (passAgent n m p) n p.pw s = (s1, some (a, b)) →
     ∃ rows, 1 ≤ rows ∧ rows ≤ tileSide p.pw.grouping ∧ (let d := drainTile p.pw a b (engOf s n m).acc rows
      exec (.drainParityError n m f) s = .next (settle (abandoned n m k (passEvent n m 0x19 f p (modEng n m (fun e => { e with
        acc := storeWords e.acc d.words
        frond := e.frond.modify f fun r => { r with nancmp := satAdd r.nancmp d.nan, isat := satAdd r.isat d.sat } })
        { s with nonce := s.nonce + 1 }))))))) ∧
  (∀ n m k s, hasEng s n m = true → k < (engOf s n m).passes.length → (passAt s n m k).stage = .drained →
    exec (.accMemUncorrectable n m k) s = .next (settle (abandoned n m k (passEvent n m 0x17 0 (passAt s n m k) s)))) ∧
  (∀ n m s s1 ts, hasEng s n m = true → (engOf s n m).loadBusy = true → actLoadHeld s n m = none →
    (let e := engOf s n m
     let slots := if e.actSlot = 0 then (List.range 15).map (· + 1) else [e.actSlot.toNat]
     readTables (.eng n m 3 0 0) (e.actBase.toNat * 64) (slots.flatMap fun k => [(k, 0), (k, 1)]) s = (s1, some ts) →
     exec (.actLoadDone n m) s = .next (settle (modEng n m (fun e => { e with
        loadBusy := false, act := ts.foldl (fun a (k, d, ws) => Sparse.sets a (1024 * (k * 2 + d)) ws) e.act
        loadFailed := e.loadFailed.filter fun k => !slots.contains k }) s1)))) ∧
  (∀ n m s a, hasEng s n m = true → (engOf s n m).loadBusy = true → actLoadHeld s n m = some a →
    exec (.actLoadDone n m) s = .next (want a s)) ∧
  (∀ n m s s1, hasEng s n m = true → (engOf s n m).loadBusy = true → actLoadHeld s n m = none →
    (let e := engOf s n m
     let slots := if e.actSlot = 0 then (List.range 15).map (· + 1) else [e.actSlot.toNat]
     readTables (.eng n m 3 0 0) (e.actBase.toNat * 64) (slots.flatMap fun k => [(k, 0), (k, 1)]) s = (s1, none) →
     ∃ act, exec (.actLoadDone n m) s = .next (settle (modEng n m (fun e => { e with
        loadBusy := false, faulted := true, act := act, loadFailed := e.loadFailed.filter (fun k => !slots.contains k) ++ slots })
        { s1 with nonce := s1.nonce + 1 }))))

/-- The governor moves each rung within its ladder, and statistics records are exchanged. Under the governor the rung stays in its ladder
and moves by at most one down and two up; a layer without statistics keeps its state; scales keep their range; a change logs 0x20.
GOVERNOR_RUN completes when the streams are done; RECORD_UP and RECORD_DOWN count stale messages and gather fresh ones, and folding of
two blocks is commutative. (05_precision_governance.md, The governor; 09_exact_reduction.md, Record reduction (R217)) -/
def Obligations.GovernorMovesRungsAndRecords : Prop :=
  (∀ s l d c o learned, o.rung ≤ c.rungsM1 →
    let x := governDir s l d c o learned
    x.n.rung ≤ c.rungsM1 ∧ o.rung ≤ x.n.rung + 1 ∧ x.n.rung ≤ o.rung + 2 ∧
    (statLane s l d 0 = 0 → x = { n := { o with learned := learned } }) ∧
    (x.n.eOut = o.eOut ∨ (-40 ≤ x.n.eOut ∧ x.n.eOut ≤ 40)) ∧ (x.n.anchor = o.anchor ∨ (-100 ≤ x.n.anchor ∧ x.n.anchor ≤ 100)) ∧
    (x.n.rung ≠ o.rung → (∃ e ∈ x.evs, e.cause = 0x20 ∧ e.before = o.rung)) ∧ x.n.learned = learned) ∧
  ((∀ s, jobLoaded s = true → s.gov.done = false → s.cmt.state = .running → (∀ h ∈ s.thl, ∀ q ∈ h.strm, q.state = .done) →
    (∀ h ∈ s.thl, ∀ e ∈ h.eng, ∀ p ∈ e.passes, p.stats = none) → s.gov.scope = false ∨ s.gov.exchDone = true → s.dbg.pup.mode ≠ 2 →
    ∃ u : State, u.gov.done = true ∧ u.gov.lastStep = (if s.gov.enable then u.cmt.step else s.gov.lastStep) ∧ u.thl = s.thl ∧ exec .governorRun s = .next (settle u)) ∧
  (∀ tag first bs s, let t := redTaken (.record first false bs) s
    (field tag 63 34 ≠ s.cmt.step.toNat % 2 ^ 30 →
      exec (.recordUp tag first bs) s = .next (ackRed tag (.record first false bs) (staled t))) ∧
    (field tag 63 34 = s.cmt.step.toNat % 2 ^ 30 → s.cmt.state = .running → recordOk t first bs = true →
      (let new := (bs.zipIdx.map fun (b, i) => (first + i, b)).filter fun (i, _) => !t.gov.up.any fun (c, j, _) => c == field tag 25 12 && j == i
       exec (.recordUp tag first bs) s = .next (ackRed tag (.record first false bs) (exchangeUp { t with gov := { t.gov with
        up := t.gov.up ++ new.map fun (i, b) => (field tag 25 12, i, b) } }))))) ∧
  (∀ tag first bs s, let t := redTaken (.record first true bs) s
    (field tag 63 34 ≠ s.cmt.step.toNat % 2 ^ 30 →
      exec (.recordDown tag first bs) s = .next (ackRed tag (.record first true bs) (staled t))) ∧
    (field tag 63 34 = s.cmt.step.toNat % 2 ^ 30 → s.cmt.state = .running → recordOk t first bs = true →
      (let new := (bs.zipIdx.map fun (b, i) => (first + i, b)).filter fun (i, _) => !t.gov.down.any fun (j, _) => j == i
       let u := { t with gov := { t.gov with down := t.gov.down ++ new } }
       ((t.gov.down ++ new).length ≠ 2 * nLayers t → exec (.recordDown tag first bs) s = .next (ackRed tag (.record first true bs) u)) ∧
       ((t.gov.down ++ new).length = 2 * nLayers t → t.gov.exchDone = false →
         ∃ v : State, v.gov.exchDone = true ∧ v.gov.exchTimer = none ∧ v.gov.exchWait = false ∧ v.thl = s.thl ∧
           exec (.recordDown tag first bs) s = .next (ackRed tag (.record first true bs) v))))) ∧
  (∀ a b, a.length = 16 → b.length = 16 → foldBlock a b = foldBlock b a))

/-- The exact accumulator does not depend on the order of its addends. Folding any permutation of FP32 values into an accumulator gives the
same accumulator; finite values add their exact integer multiples of 2^-149 in 320 bits; NaN and infinities decide the result as the
spec says, and a finite sum divided by the count is rounded once to nearest even. (09_exact_reduction.md, Direct exact mode (R208,
R210)) -/
def Obligations.ExactSumsAreOrderFree : Prop :=
  (∀ (xs ys : List W32) (c : Acc), xs.Perm ys → xs.foldl Acc.add c = ys.foldl Acc.add c) ∧
  (∀ (xs : List W32), (∀ x ∈ xs, (fp32.decode x.toNat).isNan = false ∧ (fp32.decode x.toNat).isInf = false) →
    let c := xs.foldl Acc.add {}
    c.nan = false ∧ c.pinf = false ∧ c.ninf = false ∧ c.a = BitVec.ofInt 320 ((xs.map fun x => match fp32.decode x.toNat with
      | .fin neg m e => sigAt neg m e (-149)
      | _ => 0).sum)) ∧
  (∀ (c : Acc) n, (c.nan = true ∨ (c.pinf = true ∧ c.ninf = true) → c.result n = (0x7FC00000, false)) ∧
    (c.nan = false → c.pinf = true → c.ninf = false → c.result n = (0x7F800000, false)) ∧
    (c.nan = false → c.pinf = false → c.ninf = true → c.result n = (0xFF800000, false)) ∧
    (c.nan = false → c.pinf = false → c.ninf = false → c.result 0 = (0, false) ∧
      (n ≠ 0 → c.result n = let r := fp32.conv .rne false ((Fp.fin (c.a.toInt < 0) c.a.toInt.natAbs (-149)).div (.fin false n 0)); (r.1, r.2.ovf))))

/-- Every reduction message of a bucket is taken, held, counted stale or discarded. ANNOUNCE, SEAL, GRANT, DATA, DATA_END, RING, ESC,
RESULT, SHARD_SUM and FINAL are acknowledged; a message of another step is counted in CNT_STALE and changes nothing else; one of a
bucket that has timed out or completed has no effect on it; one that must wait is queued, and any other acts, followed by those that
waited. (09_exact_reduction.md, The bucket tag word (R206)) -/
def Obligations.BucketMessages : Prop :=
  (∀ tag kind count digest, BucketRow (.announce tag kind count digest) tag (.announce kind count digest)) ∧
  (∀ tag total att p ps m bits, BucketRow (.seal tag total att p ps m bits) tag (.seal total att p ps m bits)) ∧
  (∀ tag j w, BucketRow (.grant tag j w) tag (.grant j w)) ∧ (∀ tag o j w vs, BucketRow (.data tag o j w vs) tag (.data o j w vs)) ∧
  (∀ tag j w n, BucketRow (.dataEnd tag j w n) tag (.dataEnd j w n)) ∧ (∀ tag o vs, BucketRow (.ring tag o vs) tag (.ring o vs)) ∧
  (∀ tag, BucketRow (.esc tag) tag .esc) ∧ (∀ tag o vs, BucketRow (.result tag o vs) tag (.result o vs)) ∧
  (∀ tag j x, BucketRow (.shardSum tag j x) tag (.shardSum j x)) ∧ (∀ tag x, BucketRow (.final tag x) tag (.final x))

/-- BOPEN, BCONTRIB, the tag diagnostic, the seal and the collective timeout complete. BOPEN takes the lowest free tag of its range and
halts with 0x30 or 0x62; BCONTRIB appends one record to the contribution list or halts with 0x30, 0x61 or 0x63; the tag diagnostic
counts once; the seal holds a bit for each present member; the collective timeout ends a bucket with 0x73. (09_exact_reduction.md, Tags,
Contributions on the device, Sealing) -/
def Obligations.SealsTagsAndContributions : Prop :=
  (∀ n q w i s, StrmRuns s n q 1 → q = 1 ∨ q = 2 →
    (let b := field w 19 8
     let r := field w 22 20
     let o := (n, field w 28 23)
     bktOurs s b = true → (bktOf s b).completed = false → (bktOf s b).tag = some i ∨ ((bktOf s b).tag = none ∧ pickTag s q = some i) →
     (let t := modBkt b (fun k => { k with tag := some i, openers := if k.openers.contains o then k.openers else k.openers ++ [o] }) (openBkt b s)
      exec (.bopen n q w) s = .next (classed (modStrm n q (fun k => { Stream.after 1 w k with
        treg := k.treg.set r (BitVec.ofNat 8 i), tval := k.tval ||| BitVec.ofNat 8 (1 <<< r), tagTimer := none, tagDiag := false })
        { t with rdx := { t.rdx with tags := t.rdx.tags.set i (some b) } }))))) ∧
  (∀ n q w s, StrmRuns s n q 1 → q = 1 ∨ q = 2 →
    (bktOurs s (field w 19 8) = false → ∃ t, exec (.bopen n q w) s = .next t ∧ StrmHalts n 0 q 0x30 w (Stream.taking w) s t) ∧
    (bktOurs s (field w 19 8) = true → (bktOf s (field w 19 8)).completed = true →
      ∃ t, exec (.bopen n q w) s = .next t ∧ StrmHalts n 0 q 0x62 w (Stream.taking w) s t)) ∧
  (∀ s q i, pickTag s q = some i → s.rdx.tags.getD i none = none ∧
    (let lo := if q = 1 then 0 else 0x40
     (lo ≤ i ∧ i < lo + 0x40 ∧ ∀ j, lo ≤ j → j < i → s.rdx.tags.getD j none ≠ none) ∨
     (0x80 ≤ i ∧ i < 0x100 ∧ (∀ j, lo ≤ j → j < lo + 0x40 → s.rdx.tags.getD j none ≠ none) ∧ ∀ j, 0x80 ≤ j → j < i → s.rdx.tags.getD j none ≠ none))) ∧
  (∀ n q w0 w1 w2 s b, StrmRuns s n q 3 → q = 1 ∨ q = 2 →
    (let k := strmOf s n q
     bit k.tval (field w0 10 8) = true → s.rdx.tags.getD (k.treg.getD (field w0 10 8) 0).toNat none = some b →
     (bktElems s b < field w2 31 0 + field w2 63 32 →
       ∃ t, exec (.bcontrib n q w0 w1 w2) s = .next t ∧ StrmHalts n 0 q 0x30 w0 (Stream.taking w0) s t) ∧
     (field w2 31 0 + field w2 63 32 ≤ bktElems s b → (bktOf s b).closed = true →
       ∃ t, exec (.bcontrib n q w0 w1 w2) s = .next t ∧ StrmHalts n 0 q 0x63 w0 (Stream.taking w0) s t) ∧
     (field w2 31 0 + field w2 63 32 ≤ bktElems s b → (bktOf s b).closed = false → 4096 ≤ (bktOf s b).nContrib →
       ∃ t, exec (.bcontrib n q w0 w1 w2) s = .next t ∧ StrmHalts n 0 q 0x61 w0 (Stream.taking w0) s t) ∧
     (field w2 31 0 + field w2 63 32 ≤ bktElems s b → (bktOf s b).closed = false → (bktOf s b).nContrib < 4096 → s.rdx.clistCount < 524288 →
       Plain s (clistAddr s s.rdx.clistCount) 32 → bit w0 11 = false →
       (let rec4 := [BitVec.ofNat 64 (field w1 43 0), w2, BitVec.ofNat 64 (field w0 63 32), BitVec.ofNat 64 b]
        let t := withBytes (Sparse.sets s.mem.bytes (clistAddr s s.rdx.clistCount) (bytesOfWords rec4)) s
        exec (.bcontrib n q w0 w1 w2) s = .next (modStrm n q (Stream.after 3 w0) (modBkt b (fun k => { k with nContrib := k.nContrib + 1 })
          { t with rdx := { t.rdx with clistCount := s.rdx.clistCount + 1 } })))))) ∧
  (∀ n q s, let k := strmOf s n q
    hasStrm s n q = true → k.state = .held → k.why = .tag → k.tagTimer = some 0 → k.tagDiag = false →
    ∃ t, exec (.tagWaitDiag n q) s = .next t ∧ t.thl = (modStrm n q (fun k => { k with tagTimer := none, tagDiag := true }) s).thl ∧
      t.rdx = { s.rdx with cntTagwait := satAdd s.rdx.cntTagwait 1 } ∧ t.mem = s.mem ∧ t.cmt = s.cmt) ∧
  (∀ s b, (bktOf s b).sealTimer = some 0 → (bktOf s b).rootSeal = none → exec (.sealDeadline b) s = .next (settle (doSeal b s))) ∧
  (∀ s b, replaying s = false → let x := sealOf s b
    x.bits.length = grpN s b ∧ (∀ i < grpN s b, x.bits.getD i false = true ↔ ∃ c, (i, AnnKind.present, c) ∈ (bktOf s b).anns) ∧
    (x.att = .failed ↔ (bktOf s b).mismatch ≠ none) ∧
    x.total = (((bktOf s b).anns.filter fun (_, kind, _) => kind == .present).map fun (_, _, c) => c).sum) ∧
  (∀ s b, (bktOf s b).timer = some 0 → (bktOf s b).completed = false → (bktOf s b).timedOut = false →
    exec (.collectiveTimeout (some b)) s = .next (settle (cmtFault 0x73 (self s) b 0
      (modBkt b (fun k => { k with timedOut := true, timer := none, wins := [], waiting := [] }) (ackAll (bktOf s b).waiting s))))) ∧
  (∀ s, s.gov.exchTimer = some 0 → s.gov.exchDone = false →
    ∃ d, exec (.collectiveTimeout none) s = .next (settle (cmtFault 0x73 d 0 1 { s with gov := { s.gov with exchTimer := none } })))

/-- DMA descriptors are checked, read, written in order, and HBM lines scrubbed. A descriptor passes exactly where every check of the spec
passes, and fails with 0x40 or 0x41; a start reads the source of a copy or forms a fill; completion writes the bytes, counts them and
posts the peg; a failed one counts as lost for its stream; the scrub counts corrected lines and poisons uncorrectable ones.
(07_thallus_memory.md, DMA (R157, R158); 07_thallus_memory.md, HBM4E (R161)) -/
def Obligations.DmaDescriptors : Prop :=
  (∀ s addr d, (descCause s addr d = none ↔ DescPasses s addr d) ∧ (descCause s addr d = some 0x40 ↔ ddSrcRemote d = true) ∧
    ∀ c, descCause s addr d = some c → c = 0x40 ∨ c = 0x41) ∧
  (∀ n ch k s ds, StartsNext s n ch k →
    (let e := (dmaOf s n ch).getD k {}
     let d := wordsOf ds
     ReadsAs s e.addr 64 ds → DescPasses s e.addr d → ddRemote d = false →
     (ddOp d = 1 → exec (.dmaDescriptorStart n ch) s = .next (modDma n ch (fun q => q.set k { e with
        started := true, desc := d
        writes := (List.range (ddRows d)).map fun i => (ddDst d + i * ddDstPitch d, fillRow (wordAt d 1) (ddRowBytes d)) }) (useGate n s))) ∧
     (ddOp d = 0 → ∀ bs : Nat × Nat × Nat → List Byte, (∀ p ∈ descPieces d, ReadsAs s p.1 p.2.2 (bs p)) →
        overlaps ((descPieces d).map fun p => (p.1, p.2.1, bs p)) = false →
        exec (.dmaDescriptorStart n ch) s = .next (modDma n ch (fun q => q.set k { e with
          started := true, desc := d, writes := rowWrites d ((descPieces d).map fun p => (p.2.1, bs p)) })
          { dmaCount n (((descPieces d).map fun p => p.2.2).sum) 0 (useGate n s) with nonce := s.nonce + 1 })))) ∧
  (∀ n ch k s ds c, StartsNext s n ch k →
    (let e := (dmaOf s n ch).getD k {}
     let d := wordsOf ds
     ReadsAs s e.addr 64 ds → descCause s e.addr d = some c →
     exec (.dmaDescriptorStart n ch) s = .next (settle (recordClass (classOf c) c (logEv 7 (classOf c) c
        (engW0 n 0 (dmaStream s n ch e) 0 false) e.addr (wordAt d 0).toNat (modThl n (fun t => { t with
          cntRefused := satAdd t.cntRefused 1
          dma := t.dma.modify ch fun q => q.set k { e with started := true, failed := true, desc := d } }) (useGate n s))))))) ∧
  (∀ n ch s e rest, hasDma s n ch = true → dmaOf s n ch = e :: rest → e.started = true → e.failed = false → e.remote = false ∨ e.finDone = true →
    (let t := e.writes.foldl (fun t (a, bs) => writeMem (dmaAgent s n ch e (wordAt e.desc 0)) a bs t)
        (dmaCount n 0 ((e.writes.map fun w => w.2.length).sum) (modDma n ch (fun _ => rest) s))
     exec (.dmaComplete n ch) s = .next (settle (if ddPegEn e.desc then postPeg n (ddPeg e.desc) 1 2 3 0 t else t)))) ∧
  (∀ n ch s e rest, hasDma s n ch = true → dmaOf s n ch = e :: rest → e.started = true → e.failed = true → e.writes = [] → e.core = none →
    exec (.dmaComplete n ch) s = .next (settle (modStrm n ch (fun k => { k with dmaLost := true }) (dmaCount n 0 0 (modDma n ch (fun _ => rest) s))))) ∧
  (∀ a s, a < hbmBytes s → s.scrubPeriod ≠ 0 →
    (let k := (hbmPlace s a).1
     exec (.hbmScrubLine a .clean) s = .next s ∧
     exec (.hbmScrubLine a .corrected) s = .next { s with hbm := s.hbm.modify k fun h => { h with cntCorr := satAdd h.cntCorr 1 } } ∧
     ((s.hbm.getD k {}).poison.contains (a / 64) = true ∨ (s.hbm.getD k {}).poison.length < 64 →
     ∃ t, exec (.hbmScrubLine a .uncorrectable) s = .next t ∧ t.mem.badLines.contains (a / 64) = true ∧ t.mem.bytes = s.mem.bytes ∧ t.thl = s.thl)))

/-- The current alias is never written, and the two aliases name opposite copies. A write into the current alias, or into the next alias
before EPOCH, changes no byte of memory; after EPOCH a write into the next alias goes to the other copy; the next alias resolves as the
current alias would with the epoch pointer flipped. (06_training_streams.md, Epoch windows (R136, R137)) -/
def Obligations.AliasWritesLeaveMemory : Prop :=
  (∀ ag a bs s, (∀ i < bs.length, regionOf (a + i) = .cur) → (writeMem ag a bs s).mem = s.mem) ∧
  (∀ ag a bs s, (∀ i < bs.length, regionOf (a + i) = .nxt) → (∀ n, ag.thl = some n → (thlOf s n).epochOpen = false) →
    (writeMem ag a bs s).mem = s.mem) ∧
  (∀ n ag a bs s p, bs ≠ [] → a % 64 + bs.length ≤ 64 → regionOf a = .nxt → ag.thl = some n → (thlOf s n).epochOpen = true → resolve s a = some p →
    s.snap.phase ≠ 1 → writeMem ag a bs s = writePhys p bs s) ∧
  (∀ s o, o < aliasSpan → resolve s (nextBase + o) = resolve { s with cmt := { s.cmt with epoch := !s.cmt.epoch } } (curBase + o)) ∧
  (∀ s o i w, o < aliasSpan → winAt s o = some (i, w) →
    resolve s (curBase + o) = some (0x200000 * (if s.cmt.epoch then w.copy1 else w.copy0).toNat + (o - w.start)))

/-- Data, idle and control flits are taken in sequence, replayed and discarded as the spec gives. A data flit in sequence is assembled and
acknowledged, any other only acknowledged; corrected bytes are counted, for each lane of the peer too, and a lane past the threshold
fails; a flit that FEC cannot correct is counted and named in a NAK; acknowledged flits leave the replay buffer, and the ack timer runs
from the sending of the oldest that remains; the ack timeout sends the buffer again; exhaustion takes the link down with 0x92. (13_scavenlink_and_time.md, Flits and
FEC, Replay (R262 to R264)) -/
def Obligations.LinkFlitsAndReplay : Prop :=
  (∀ fec, (fecGood fec = true ↔ fec.crcOk = true ∧ ∀ c < 2, ((List.range 256).filter fun i => i % 2 == c && fec.errs.contains i).length ≤ 4) ∧
    ∀ i, i ∈ fecFixed fec ↔ i < 256 ∧ i ∈ fec.errs ∧ ((List.range 256).filter fun j => j % 2 == i % 2 && fec.errs.contains j).length ≤ 4) ∧
  (∀ l fl fec s, hasLink s l = true → (linkOf s l).laneCorr.length = 8 → let k := linkOf s l; let u := linkOf (fecIn l fl fec s) l
    u.cntFecCorr = satAdd k.cntFecCorr (fecFixed fec).length ∧ u.cntFecUncorr = (if fecGood fec then k.cntFecUncorr else satAdd k.cntFecUncorr 1) ∧
    ∀ i < 8, u.laneCorr.getD i 0 = k.laneCorr.getD i 0 + ((fecFixed fec).filter fun b => byteLane fl.lanes b == i).length) ∧
  (∀ l s, (∀ i < 8, (linkOf s l).laneCorr.getD i 0 ≤ s.lnk.degradeThr.toNat) → laneCheck l s = s) ∧
  (∀ l fl fec s, hasLink s l = true → (linkOf s l).state = .up → fecGood fec = true →
    exec (.dataFlit l fl fec) s = .next (settle (laneCheck l (modLink l (fun k =>
      if fl.seq = k.rxNext ∧ k.state = .up then
        assemble fl.slots { k with rxNext := (k.rxNext + 1) % 4096, rxAny := true, owe := 2, cntRxFlits := satAdd k.cntRxFlits 1 }
      else { k with owe := 2 }) (headerIn l fl (fecIn l fl fec s)))))) ∧
  (∀ l fl fec s, hasLink s l = true → (linkOf s l).state = .up → fecGood fec = false →
    exec (.dataFlit l fl fec) s = .next (flitDiscarded l fl fec s) ∧ exec (.idleFlit l fl fec) s = .next (flitDiscarded l fl fec s) ∧
    ∀ ctl, exec (.linkControlFlit l fl fec ctl) s = .next (flitDiscarded l fl fec s)) ∧
  (∀ l fl fec s, hasLink s l = true → (linkOf s l).state = .up → fecGood fec = true →
    exec (.idleFlit l fl fec) s = .next (settle (laneCheck l (headerIn l fl (fecIn l fl fec s))))) ∧
  (∀ l fl fec s w, hasLink s l = true → (linkOf s l).state = .up ∨ (linkOf s l).state = .ready ∨ (linkOf s l).state = .training → fecGood fec = true →
    exec (.linkControlFlit l fl fec (.willing w)) s =
      .next (settle (laneCheck l (inService l (modLink l (fun k => { k with peerWilling := w }) (headerIn l fl (fecIn l fl fec s)))))) ∧
    exec (.linkControlFlit l fl fec .disable) s = .next (settle (laneCheck l (goDown l true (headerIn l fl (fecIn l fl fec s)))))) ∧
  (∀ l s, hasLink s l = true → (linkOf s l).state = .down → ∀ fl fec ctl,
    exec (.dataFlit l fl fec) s = .next s ∧ exec (.idleFlit l fl fec) s = .next s ∧ exec (.linkControlFlit l fl fec ctl) s = .next s) ∧
  (∀ t k, k.asm = none → ∃ k', assemble (.head t :: List.replicate (txnSlots t) .body) k = k' ∧ k'.rxq = k.rxq ++ [t] ∧ k'.asm = none ∧
    k'.cntRxBytes = satAdd k.cntRxBytes (16 + 16 * txnSlots t)) ∧
  (∀ l fl s, fl.nak = false → fl.ackValid = true → hasLink s l = true →
    let k := linkOf (headerIn l fl s) l
    let old := linkOf s l
    k.replayBuf = old.replayBuf.filter (fun f => !covered f.seq fl.ackSeq) ∧
      (old.sentAt.length = old.replayBuf.length → k.replayBuf.length < old.replayBuf.length → (k.replayBuf = [] → k.ackTimer = none) ∧
        ∀ a rest, old.sentAt.drop (old.replayBuf.length - k.replayBuf.length) = a :: rest →
          k.ackTimer = some (s.lnk.ackTmo.toNat - (old.clk - a)))) ∧
  (∀ l s, let k := linkOf s l
    hasLink s l = true → k.state = .up → k.ackTimer = some 0 → k.replayBuf ≠ [] → k.epReplays ≠ 16 → k.rpTimer = none →
    ∃ t : State, t.out = s.out ++ k.replayBuf.map (.flit l) ∧ (linkOf t l).epReplays = k.epReplays + 1 ∧
      (linkOf t l).cntReplay = satAdd k.cntReplay 1 ∧ (linkOf t l).replayBuf = k.replayBuf ∧ exec (.ackTimeout l) s = .next (settle t)) ∧
  (∀ l s, hasLink s l = true → (linkOf s l).state = .up → (linkOf s l).epSeq.isSome = true → (linkOf s l).epTimer = some 0 →
    exec (.replayExhausted l) s = .next (goDown l false (lnkEv 0x92 l (linkOf s l).peerDev.toNat ((linkOf s l).epSeq.getD 0)
      (modLink l (fun k => { k with cntExhaust := satAdd k.cntExhaust 1 }) s))))

/-- Lanes degrade, links train, and transactions act, forward and time out. A failed lane degrades the link to the half whose lanes are all
good or takes it down; training takes what its lanes allow; WRITE, WRITE_FIN, ACK and NACK act and are answered; a transaction for
another device goes to its route; the routing table is loaded from memory. (13_scavenlink_and_time.md, Lane degradation and link down
(R265, R266); 13_scavenlink_and_time.md, Transactions, Routing) -/
def Obligations.LinkLanesAndTransactions : Prop :=
  (∀ l lane s, let k := linkOf s l
    let ok := k.laneOk &&& ~~~(BitVec.ofNat 8 (1 <<< lane))
    let t := modLink l (fun k => { k with laneOk := ok, disturbed := some 1000000 }) s
    hasLink s l = true → k.state = .up ∨ k.state = .ready → lane < 8 → bit k.laneOk lane = true →
    (bit (lanesOf k.width.toNat) lane = false → exec (.laneFail l lane) s = .next t) ∧
    (bit (lanesOf k.width.toNat) lane = true → k.width ≠ 1 → exec (.laneFail l lane) s = .next (goDown l true t)) ∧
    (k.width = 1 → ok &&& 0x0F ≠ 0x0F → ok &&& 0xF0 ≠ 0xF0 → exec (.laneFail l lane) s = .next (goDown l true t)) ∧
    (k.width = 1 → ok &&& 0x0F = 0x0F ∨ ok &&& 0xF0 = 0xF0 → exec (.laneFail l lane) s = .next (lnkEv 0x91 l k.peerDev.toNat ok.toNat
      (modLink l (fun k => { k with width := if ok &&& 0x0F = 0x0F then 2 else 3, cntDegrade := satAdd k.cntDegrade 1 }) t)))) ∧
  (∀ l lanes pd pl s, hasLink s l = true → (linkOf s l).state = .training → jobLoaded s = true → lanes &&& ~~~(linkOf s l).laneBad = 0xFF →
    exec (.linkTrained l lanes pd pl) s = .next (modLink l (fun k => { k with
      laneOk := 0xFF, state := .ready, width := 1, peerDev := BitVec.ofNat 14 pd, peerLink := BitVec.ofNat 5 pl, peerValid := true }) s)) ∧
  (∀ l usable pd pl s, let lanes := usable &&& ~~~(linkOf s l).laneBad
    hasLink s l = true → (linkOf s l).state = .training → lanes &&& 0x0F ≠ 0x0F → lanes &&& 0xF0 ≠ 0xF0 →
    exec (.linkTrained l usable pd pl) s = .next (goDown l true (modLink l (fun k => { k with laneOk := lanes }) s))) ∧
  (∀ l s, hasLink s l = true → (linkOf s l).state = .down → (linkOf s l).enable = true → (linkOf s l).trainTimer = some 0 → s.lnk.devValid = true →
    exec (.linkTrainRetry l) s = .next (loseTxns l (fun k => { k with state := .training, width := 0, trainTimer := none }) s)) ∧
  (∀ l t a bs s, t.body = .write a bs → t.dst = self s → (linkOf s l).rxq.contains t = true →
    (remoteWritable a bs.length = false → exec (.write (some l) t) s = .next (settle (sendReply t.src (.nack t.tid 1) (freeRx l t s)))) ∧
    (remoteWritable a bs.length = true → sleeping s a bs.length = none → exec (.write (some l) t) s =
      .next (settle (sendReply t.src (.ack [t.tid]) (freeRx l t (touchMem a bs.length (writeMem (.remote 0) a bs s))))))) ∧
  (∀ l t p n s, t.body = .writeFin p n → t.dst = self s → (linkOf s l).rxq.contains t = true → sleeping s (thlAddr n) 1 = none →
    (resolve s (thlAddr n)).isSome = true → exec (.writeFin (some l) t) s = .next (settle (sendReply t.src (.ack [t.tid]) (freeRx l t (postPeg n (p % 64) 1 2 3 0 s))))) ∧
  (∀ l t tids s, t.body = .ack tids → t.dst = self s → (linkOf s l).rxq.contains t = true →
    exec (.ack (some l) t) s = .next (settle (unhold (tids.foldl (fun u i => ackTid i u) (freeRx l t s))))) ∧
  (∀ l t tid r s, t.body = .nack tid r → t.dst = self s → (linkOf s l).rxq.contains t = true →
    exec (.nack (some l) t) s = .next (settle (unhold (lostTid 0x94 tid (freeRx l t s))))) ∧
  (∀ tid s, (∃ x ∈ s.lnk.txns, x.txn.tid = tid ∧ x.timer = some 0) →
    exec (.transactionTimeout tid) s = .next (settle (unhold (lostTid 0x95 tid s)))) ∧
  (∀ l t s, hasLink s l = true → t.dst ≠ self s → (linkOf s l).rxq.contains t = true →
    let u := freeRx l t s
    (∀ k, routeLink u t.dst = some k → exec (.transactionForward l t) s = .next (modLink k (fun x => { x with txq := x.txq ++ [t] }) u)) ∧
    (routeLink u t.dst = none → txnVc t ≠ 1 → exec (.transactionForward l t) s = .next (sendReply t.src (.nack t.tid 0)
      { u with lnk := { u.lnk with cntUnroutable := satAdd u.lnk.cntUnroutable 1 } }))) ∧
  (∀ s, s.lnk.rtBusy = true → (sleeping s (s.lnk.rtBase.toNat * 64) 65536 = none →
      ∃ t, exec .routeTableLoaded s = .next t ∧ t.lnk.rtLoaded = true ∧ t.lnk.rtBusy = false ∧ t.mem = s.mem ∧
        (∀ i < 16384, i ≠ self s →
          Sparse.get t.lnk.rt i = BitVec.ofNat 32 (natOf (peek (probe (s.lnk.rtBase.toNat * 64) 65536 s) (s.lnk.rtBase.toNat * 64 + 4 * i) 4)))) ∧
    (∀ i a, sleeping s (s.lnk.rtBase.toNat * 64) 65536 = some (i, a) → exec .routeTableLoaded s = .next (want a s)))

/-- The time root, time flits, PPS edges and token rate registers. The best root of the announcements and of the device itself is chosen; a
time flit is sent every 125 us with its reply; a sample steers the timebase, steps it only outside a job, and locks after 64 good ones;
PPS edges lock after 8 in a row; PPS_OUT rises and falls; token rates keep their extremes. (13_scavenlink_and_time.md, Time root and
timestamp exchange (R276, R277), PPS signals; 01_hierarchy_and_timing.md, Token rate against voltage and temperature) -/
def Obligations.TimeRootsFlitsAndSecondEdges : Prop :=
  ((∀ s, (rootCandidates s = [] → bestRoot s = none) ∧
    (rootCandidates s ≠ [] → ∃ r l, bestRoot s = some (r, l) ∧ r ∈ rootCandidates s ∧ ∀ q ∈ rootCandidates s, q.before r = false)) ∧
  (∀ s r l, bestRoot s = some (r, l) → (chooseRoot s).time.rootDev = BitVec.ofNat 14 r.dev ∧
    (chooseRoot s).time.role = (if l.isSome then 2 else 1)) ∧
  (∀ s, bestRoot s = none → s.time.role = 2 → (chooseRoot s).time.role = 3 ∧ (chooseRoot s).time.adj = s.time.adj) ∧
  (∀ l corr s, hasLink s l = true → (linkOf s l).state = .up → (linkOf s l).timeTimer = some 0 →
    let now := 64 * (s.time.now.toNat : Int) + (s.time.frac.toNat / 2 ^ 26 : Nat) + corr
    ∃ t, exec (.timeFlitSend l corr) s = .next t ∧
      t.out = s.out ++ [.timeFlit l ((linkOf s l).mk' 0 [] false) (announced s) (isUpLink s l) ((linkOf s l).reqArrival.map fun a => (a, now))] ∧
      (linkOf t l).timeTimer = some 125000 ∧ (linkOf t l).t1 = (if isUpLink s l then some now else none) ∧
      t.time.cntSampleDrop = if (linkOf s l).t1.isSome then satAdd s.time.cntSampleDrop 1 else s.time.cntSampleDrop) ∧
  (∀ l fl fec i s, hasLink s l = true → (linkOf s l).state = .up → fecGood fec = true → i.request = false →
    let u := chooseRoot (announcedOn l i (headerIn l fl (fecIn l fl fec s)))
    (i.reply = none → exec (.timeFlit l fl fec i) s = .next (settle (laneCheck l u))) ∧
    (∀ a b c, i.reply = some (b, c) → (linkOf u l).t1 = some a → isUpLink u l = true →
      exec (.timeFlit l fl fec i) s =
        .next (settle (laneCheck l (sample l a b c (stamp i.corr s) (modLink l (fun k => { k with t1 := none }) u)))))) ∧
  (∀ l (t1 t2 t3 t4 : Int) s,
    let o := ((t4 - t3) - (t2 - t1)) / 2
    let u := sample l t1 t2 t3 t4 s
    ((linkOf s l).disturbed.isSome = true → u = { s with time := { s.time with cntSampleDrop := satAdd s.time.cntSampleDrop 1 } }) ∧
    ((linkOf s l).disturbed = none → s.time.delays = [] →
      u.time.samples = (o :: s.time.samples).take 64 ∧ u.time.delays = [((t4 - t3) + (t2 - t1)) / 2] ∧
      (u.time.locked = true ↔ u.time.samples.length = 64 ∧ ∀ x ∈ u.time.samples, x.natAbs ≤ 128) ∧
      (jobLoaded s = true ∨ o.natAbs ≤ 64000 → u.time.now = s.time.now ∧ u.time.frac = s.time.frac) ∧
      (jobLoaded s = false → 64000 < o.natAbs →
        u.time.now.toNat * 2 ^ 32 + u.time.frac.toNat =
          ((((s.time.now.toNat * 2 ^ 32 + s.time.frac.toNat : Nat) : Int) - o * 2 ^ 26) % 2 ^ 96).toNat))) ∧
  (∀ l s, hasLink s l = true → (∃ r, (l, r, some 0) ∈ s.time.anns) →
    exec (.rootAnnounceTimeout l) s = .next (chooseRoot { s with time := { s.time with anns := s.time.anns.filter fun x => x.1 != l } }))) ∧
  ((∀ s, s.time.ppsInEn = false → exec .ppsInEdge s = .next s) ∧
  (∀ s, s.time.ppsInEn = true →
    let run := if (secondErr s).natAbs ≤ 20 then min (s.time.ppsRun + 1) 8 else 0
    ∃ t, exec .ppsInEdge s = .next t ∧ t.time.ppsTimer = some 1100000000 ∧ t.time.ppsRun = run ∧
      t.time.ppsInLocked = (s.time.ppsInLocked || run == 8) ∧ (s.time.role ≠ 1 → t.time.now = s.time.now ∧ t.time.adj = s.time.adj)) ∧
  (∀ s, s.time.ppsTimer = some 0 → ∃ t, exec .ppsInTimeout s = .next t ∧
    t.time.ppsTimer = none ∧ t.time.ppsRun = 0 ∧ t.time.ppsInLocked = false ∧ t.time.now = s.time.now ∧ t.time.adj = s.time.adj) ∧
  (∀ s, s.time.now.toNat % 1000000000 ≤ 2 → s.time.ppsDone = false →
    exec .ppsOutRise s = .next { s with
      pins := { s.pins with ppsOut := true }
      time := { s.time with ppsDone := true, ppsOutTimer := some (1000000 * s.time.ppsWidth.toNat) } }) ∧
  (∀ s, s.time.ppsOutTimer = some 0 →
    exec .ppsOutFall s = .next { s with pins := { s.pins with ppsOut := false }, time := { s.time with ppsOutTimer := none } }) ∧
  (∀ f tokens s, f < 4 → (s.trate.getD f {}).due = true →
    ∃ t, exec (.trateIntervalEnd f tokens) s = .next { s with trate := t } ∧ t.length = s.trate.length ∧
    ∀ g < s.trate.length, let k := s.trate.getD g {}; let r := if k.lastOn = 0 then 0 else min (tokens / 10) 0xFFFF
      t.getD g {} = if g = f then { k with
        due := false, rate := BitVec.ofNat 16 r
        rateMin := BitVec.ofNat 16 (min k.rateMin.toNat r), rateMax := BitVec.ofNat 16 (max k.rateMax.toNat r) } else k))

/-- A device reports when it is ready, and acts on the decision of the root. DEVICE_READY gathers the reports of the children, sends the
folded REPORT, or at the root commits or aborts; a not-ready REPORT goes up and makes the root abort; DECIDE to commit flips the epoch
and counts it; DECIDE to abort keeps the epoch and the step, clears pegs, runs and buckets, and stops what is queued.
(10_step_commit_and_faults.md, Readiness and the report (R224 to R226); 10_step_commit_and_faults.md, Commit (R228), Abort (R231)) -/
def Obligations.ReadinessAndDecisions : Prop :=
  (∀ s, StepFinished s → fwHalted s = false → ∃ u, exec .deviceReady s = .next (settle u) ∧
    let g := gathering s
    ((∃ c ∈ children g, ∀ p ∈ g.crun.reports, p.1 ≠ c) → u = g) ∧
    ((∀ c ∈ children g, ∃ p ∈ g.crun.reports, p.1 = c) →
      let t := g.crun.reports.foldl (fun x p => x.fold p.2) (ownReport g)
      (g.cmt.root = false → u = sendToken g.cmt.parent.toNat t { g with
        cmt := { g.cmt with state := .reported }, crun := { g.crun with reported := true } }) ∧
      (g.cmt.root = true → t.nDev ≠ g.cmt.nJob.toNat →
        u = decideAs ⟨3, 0x7B, self g⟩ false t (cmtEv 3 0x7B (self g) 0 t.nDev g)) ∧
      (g.cmt.root = true → t.nDev = g.cmt.nJob.toNat → g.cmt.dropMax.toNat < t.nDropped →
        ∃ cls, (cls = if g.cmt.dropMax.toNat < t.nPoisoned then 2 else 1) ∧
          u = decideAs ⟨cls, 0x77, self g⟩ false t (cmtEv cls 0x77 (self g) 0 (t.nDropped ||| t.nPoisoned <<< 16) g)) ∧
      (g.cmt.root = true → t.nDev = g.cmt.nJob.toNat → t.nDropped ≤ g.cmt.dropMax.toNat → u = decideAs {} true t g))) ∧
  (∀ a b : ClassRec, (worse a b).cls = max a.cls b.cls ∧
    (a.cls = b.cls → a.cls ≠ 0 → (worse a b).dev = min a.dev b.dev)) ∧
  (∀ a b : Token, a.nDev + b.nDev < 2 ^ 15 → (a.fold b).nDev = a.nDev + b.nDev) ∧
  (∀ src w0 w1 s, let t : Token := ⟨w0, w1⟩; let v := ackCommit src w0 w1 s
    (t.kind = 1 → t.current s.cmt.step.toNat s → t.flag = false → v.cmt.root = false → v.cmt.state ≠ .idle → afterFlip v = false →
      exec (.report src w0 w1) s = .next (settle (sendToken v.cmt.parent.toNat t
        { v with cmt := { v.cmt with worstRec := worse v.cmt.worstRec t.rec' } }))) ∧
    (t.kind = 1 → t.current s.cmt.step.toNat s → t.flag = false → v.cmt.root = true → fwHalted v = false →
      v.cmt.state = .running ∨ v.cmt.state = .gathering →
      exec (.report src w0 w1) s = .next (settle (decideAbort t.rec'
        { v with cmt := { v.cmt with worstRec := worse v.cmt.worstRec t.rec' } }))) ∧
    (t.kind = 1 → ¬ t.current s.cmt.step.toNat s → exec (.report src w0 w1) s = .next (foreign src v)) ∧
    (t.kind = 2 → t.flag = true → t.current s.cmt.step.toNat s → v.cmt.root = false →
      v.cmt.state = .running ∨ v.cmt.state = .gathering ∨ v.cmt.state = .reported →
      exec (.decideCommit src w0 w1) s = .next (settle (actDecide t v))) ∧
    (t.kind = 2 → t.flag = false → t.current s.cmt.step.toNat s → v.cmt.root = false →
      v.cmt.state = .running ∨ v.cmt.state = .gathering ∨ v.cmt.state = .reported →
      exec (.decideAbort src w0 w1) s = .next (settle (actDecide t v)))) ∧
  (∀ t s, t.flag = true → (actDecide t s).cmt.epoch = !s.cmt.epoch ∧ (actDecide t s).cmt.step = s.cmt.step + 1 ∧
    (actDecide t s).cmt.cntCommit = satAdd s.cmt.cntCommit 1) ∧
  (∀ t s, t.flag = false → let u := actDecide t s
    u.cmt.epoch = s.cmt.epoch ∧ u.cmt.step = s.cmt.step ∧ u.cmt.cntCommit = s.cmt.cntCommit ∧ u.rdx.bkts = [] ∧
    ∀ h ∈ u.thl, h.peg = List.replicate 64 0 ∧ h.runs = [] ∧ (∀ q ∈ h.strm, q.state = ({} : Stream).state) ∧
      ∀ e ∈ h.eng, ∀ p ∈ e.passes, p.stage ≠ .queued)

/-- DONE and RELEASE, the outcomes of the root, the commit timeouts and the start of a step. A quiet device sends DONE; RELEASE counts its
outcome, starts a retry or a skipped step, or stops the device for a restart; the root chooses retry, skip or restart by its limits;
each commit timeout acts with its cause; STEP_START begins each stream at its program. (10_step_commit_and_faults.md, Commit (R227,
R229, R230), Abort; 10_step_commit_and_faults.md, Link replay and collective timeouts (R235, R236)) -/
def Obligations.QuietDoneAndRelease : Prop :=
  (∀ s d, Quiet s d → exec .deviceQuiet s = .next (settle (tryDone { s with crun := { s.crun with quiet := true } }))) ∧
  (∀ src w0 w1 s, let t : Token := ⟨w0, w1⟩; let v := ackCommit src w0 w1 s
    (t.kind = 3 → t.current (settledStep s) s → s.crun.decide.isSome = true → (children v).contains src = true →
      (∀ p ∈ v.crun.dones, p.1 ≠ src) →
      exec (.done src w0 w1) s = .next (settle (tryDone { v with crun := { v.crun with dones := v.crun.dones ++ [(src, t)] } }))) ∧
    (t.kind = 4 → t.current (settledStep s) s → s.cmt.state = .settling → s.crun.decide.isSome = true → s.crun.doneSent = true →
      exec (.release src w0 w1) s = .next (settle (releaseAct t v)))) ∧
  (∀ t s, let u := releaseNote t s
    u.cmt.cntRetry = (if t.cls = 1 then satAdd s.cmt.cntRetry 1 else s.cmt.cntRetry) ∧
    u.cmt.cntSkip = (if t.cls = 2 then satAdd s.cmt.cntSkip 1 else s.cmt.cntSkip) ∧
    u.cmt.cntRestart = (if t.cls = 3 then satAdd s.cmt.cntRestart 1 else s.cmt.cntRestart) ∧
    u.cmt.step = (if t.cls = 2 then s.cmt.step + 1 else s.cmt.step) ∧ u.cmt.epoch = s.cmt.epoch ∧ u.crun.decide = none ∧
    (t.flag = true → u.cmt.retryRun = 0 ∧ u.cmt.skipRun = 0)) ∧
  (∀ t s, t.cls = 3 → Stopped (releaseAct t s)) ∧
  (∀ t s, t.cls ≠ 3 → t.flag = false → (releaseAct t s).crun.startDue = true ∧ (releaseAct t s).cmt.state = .running) ∧
  (∀ (r : ClassRec) (d : Token) (s : State),
    let rel := fun (cls : Nat) (r : ClassRec) (s : State) => releaseAct (mkToken 4 { r with cls := cls } false (settledStep s) d.nDev d.nDropped
      d.nPoisoned s.crun.jobTag.toNat) s
    (r.cls = 1 → s.cmt.retryRun < s.cmt.retryMax → rootOutcome false r d s = rel 1 r s) ∧
    (r.cls = 1 → s.cmt.retryMax ≤ s.cmt.retryRun → rootOutcome false r d s = rel 3 ⟨3, 0x78, self s⟩ (cmtEv 3 0x78 r.dev 0 0 s)) ∧
    (r.cls = 2 → s.cmt.skipRun < s.cmt.skipMax → rootOutcome false r d s = rel 2 r s) ∧
    (r.cls = 2 → s.cmt.skipMax ≤ s.cmt.skipRun → rootOutcome false r d s = rel 3 ⟨3, 0x79, self s⟩ (cmtEv 3 0x79 r.dev 0 0 s))) ∧
  (∀ s, s.crun.rootTimer = some 0 → s.cmt.root = true → fwHalted s = false → s.cmt.state = .running ∨ s.cmt.state = .gathering →
    exec .rootDecisionTimeout s =
      .next (settle (cmtFault 0x74 (missingChild s s.crun.reports) 0 0 { s with crun := { s.crun with rootTimer := none } }))) ∧
  (∀ s, s.crun.decisionTimer = some 0 → s.cmt.state = .reported → ∃ t, exec .decisionWaitExpired s = .next t ∧ Stopped t) ∧
  (∀ s, s.crun.releaseTimer = some 0 → s.cmt.state = .settling → s.crun.doneSent = true →
    ∃ t, exec .releaseWaitExpired s = .next t ∧ Stopped t) ∧
  (∀ s d, s.crun.doneTimer = some 0 → s.cmt.root = true → fwHalted s = false → s.crun.decide = some d →
    ∃ t, exec .doneWaitExpired s = .next t ∧ Stopped t) ∧
  (∀ s, s.crun.stepTimer = some 0 → (∀ h ∈ s.thl, ∀ k ∈ h.strm, k.haltDue = false) →
    (let u := { s with crun := { s.crun with stepTimer := none } }
     (s.crun.worst.cls = 0 → exec .stepTimeout s = .next (settle (cmtFault 0x72 (self s) 0 0 u))) ∧
     (s.crun.worst.cls ≠ 0 → exec .stepTimeout s = .next (settle u)))) ∧
  (∀ s, s.crun.startDue = true → jobLoaded s = true → fwHalted s = false → exec .stepStart s = .next (stepBegin s)) ∧
  (∀ q k, (Stream.begin q k).pc = k.prog.toNat * 8 ∧ ((Stream.begin q k).state = if q = 1 then .barrier else .running) ∧
    (Stream.begin q k).treg = ({} : Stream).treg ∧ (Stream.begin q k).tval = ({} : Stream).tval) ∧
  (∀ s, (latchTmo s).cmt.maxHops.toNat * 40 + 1000 ≤ (latchTmo s).cmt.collTmo.toNat ∧ 1000 ≤ (latchTmo s).cmt.stepTmo.toNat)

/-- Snapshots are armed, filled, sealed and drained. A period that has elapsed requests a snapshot; arming takes the slot that is not the
latest; the fill copies every line that the tap has not written; the header is valid and names the committed step; the mirror ends at
its timeout; a drain ends with its header written to the host. (11_snapshots_and_restore.md, Requests and arming, The tap, Sealing,
Partner mirror and host drain) -/
def Obligations.SnapshotsSealAndDrain : Prop :=
  (∀ s, s.srun.periodTimer = some 0 → jobLoaded s = true →
    exec .snapPeriodElapsed s = .next { s with snap := { s.snap with pend := true }, srun := { s.srun with periodTimer := none } }) ∧
  (∀ s, s.snap.pend = true → s.snap.phase = 0 → s.snap.disarmed = false →
    (armSnap s).snap.phase = 1 ∧ (armSnap s).snap.pend = false ∧ (armSnap s).snap.targetSlot = (s.snap.latestValid && !s.snap.latestSlot)) ∧
  (∀ again s, s.snap.phase = 1 → (abandonSnap again s).snap.phase = 0 ∧ (abandonSnap again s).snap.pend = (s.snap.pend || again) ∧
    (abandonSnap again s).srun.cntAbandon = satAdd s.srun.cntAbandon 1) ∧
  (∀ s, s.snap.phase = 2 → fwHalted s = false → s.srun.fillDone = false → WindowsReadable s →
    ∃ t, exec .snapFillDone s = .next (settle t) ∧ t.srun.fillDone = true ∧ t.snap.phase = 2 ∧
      t.srun.cntFillLines = satAdd s.srun.cntFillLines (winBytes s / 64 - linesOnce s)) ∧
  (∀ s k w i, s.mem.wf = true → i < w.bytes →
    let src := w.copyBase s.cmt.epoch
    let dst := slotBase s s.snap.targetSlot + imageOff s k
    (fillWin s k w s).mem.get (dst + i) =
      if coverOf s ((imageOff s k - 4096) / 64 + i / 64) = 1 then s.mem.get (dst + i) else s.mem.get (src + i)) ∧
  (∀ s, s.snap.phase = 2 → s.srun.fillDone = true → (s.srun.barrier = true ∨ s.srun.noWait = true) → fwHalted s = false → ImageReadable s →
    ∃ t, exec .snapHeaderWrite s = .next (settle t) ∧ t.snap.latestValid = true ∧ t.snap.latestSlot = s.snap.targetSlot ∧
      t.snap.latestStep = s.srun.commitStep ∧ t.srun.cntSnap = satAdd s.srun.cntSnap 1 ∧ t.srun.seq = s.srun.seq + 1 ∧
      (s.snap.mirrorEn = false → s.snap.drainEn = false → t.snap.phase = 0)) ∧
  (∀ s slot v, headerValid (headerBytes s slot v) = true ∧ (headerBytes s slot v).length = 4096) ∧
  (∀ s, s.snap.mirror = 1 → fwHalted s = false → mirrorLate s = true → ∃ t, exec .mirrorAckTimeout s = .next t ∧ t.snap.mirror = 3 ∧
    t.snap.drain = s.snap.drain ∧ (∀ x ∈ t.lnk.txns, x.owner ≠ .mirror) ∧
    (s.snap.phase = 3 → s.snap.drain ≠ 1 → t.snap.phase = 0)) ∧
  (∀ s, s.snap.drain = 1 → fwHalted s = false → s.srun.drainStage = 1 → ∃ t bs, exec .drainFlushComplete s = .next t ∧ bs.length = 64 ∧
    t.out = s.out ++ [.hostWrite (4096 * s.snap.drainAddr.toNat + slotBytes s) bs false] ∧
    t.snap.drain = 2 ∧ t.pci.cntOutBytes = satAdd s.pci.cntOutBytes 64 ∧
    (s.snap.phase = 3 → s.snap.mirror ≠ 1 → t.snap.phase = 0))

/-- BAR2 reads and writes of the host. A write goes to memory as the host, an absent address is logged, a read returns the bytes or a
poisoned completion for an uncorrectable byte, nothing is answered while the link is down, and a read held too long ends in a Completer
Abort and is counted. (14_host_interface.md, Inbound access (R285, R287)) -/
def Obligations.HostAccessesToMemory : Prop :=
  (∀ req off bs s, PortOpen s → InBar2 s off bs.length → sleeping s (bar2Addr s off) bs.length = none →
    let a := bar2Addr s off
    let u := countIn bs.length s
    (bar2Absent a = true → exec (.bar2Write req off bs) s = .next (absentEv (.host req) a u)) ∧
    (regionOf a = .hbm ∨ (∃ n, regionOf a = .store n) →
      let v := touchMem a bs.length (writeMem (.host req) a bs u)
      exec (.bar2Write req off bs) s = .next (settle ((wwHits v a bs.length).foldl (fun t k => wwMatch k t) v)))) ∧
  (∀ req off bs s, PortOpen s → InBar2 s off bs.length → sleeping s (bar2Addr s off) bs.length = none → 0 < bs.length →
    regionOf (bar2Addr s off) = .hbm ∨ (∃ n, regionOf (bar2Addr s off) = .store n) →
    ReadsAs s (bar2Addr s off) bs.length bs → ∃ t, exec (.bar2Read req off bs.length) s = .next t ∧
      t.out = s.out ++ [.compl .ok bs] ∧ t.mem = s.mem ∧ t.log = s.log) ∧
  (∀ req off n s, PortOpen s → InBar2 s off n → bar2Absent (bar2Addr s off) = true →
    ∃ t, exec (.bar2Read req off n) s = .next t ∧ t.out = s.out ++ [.compl .ok (List.replicate n 0)] ∧ t.mem = s.mem) ∧
  (∀ req off n i p s, PortOpen s → InBar2 s off n → sleeping s (bar2Addr s off) n = none → i < n →
    regionOf (bar2Addr s off) = .hbm ∨ (∃ n, regionOf (bar2Addr s off) = .store n) →
    resolve s (bar2Addr s off + i) = some p → s.mem.bad p = true →
    ∃ t, exec (.bar2Read req off n) s = .next t ∧ t.out = s.out ++ [.compl .poisoned (List.replicate n 0xFF)] ∧
      t.pci.cntPoisoned = satAdd s.pci.cntPoisoned 1) ∧
  (∀ req off bs n s, s.port.linkUp = false → exec (.bar2Write req off bs) s = .next s ∧ exec (.bar2Read req off n) s = .next s) ∧
  (∀ h s, s.port.held.find? (fun h => !h.kind.posted && h.timer == some 0) = some h →
    ∃ t, exec .hostReadTimeout s = .next (retryHeld t) ∧ t.out = s.out ++ [.compl .abort []] ∧ t.port.held = s.port.held.erase h ∧
      t.pci.cntRdTmo = satAdd s.pci.cntRdTmo 1)

/-- Log records, MSI-X, the publication and PTM. A vector that is not masked sends its message and a masked one is pending; LOG_WRITE writes
its records and the producer index in order; the coalescing timer signals once; the publication writes an odd and an even sequence; PTM
results are kept; a rejected write is logged and ends a drain. (14_host_interface.md, Event log (R293, R294), Outbound traffic (R295),
Time correlation) -/
def Obligations.LogRingInterruptsAndTime : Prop :=
  (∀ v s, (msixMasked s v = false → s.port.busMaster = true → signal v s = emit (.msix v) s) ∧
    (msixMasked s v = true ∨ s.port.busMaster = false → (signal v s).out = s.out ∧ v ∈ (signal v s).port.pba)) ∧
  (∀ k s, logReady s k = true → ∃ t tail, exec (.logWrite k) s = .next t ∧
    t.out = s.out ++ ((batch s k).zipIdx.map fun p => Out.hostWrite
        (4096 * s.pci.logBase.toNat + 64 * ((s.pci.logProd.toNat + p.2) % 2 ^ s.pci.logSize.toNat))
        (recBytes (s.log.nextSeq + BitVec.ofNat 32 p.2) p.1) false) ++
      [.hostWrite (s.pci.logProdAddr.toNat * 8) (bytesOf 8 (s.pci.logProd + BitVec.ofNat 32 k).toNat) false] ++ tail ∧
    (∀ o ∈ tail, ∃ v, o = .msix v) ∧ t.pci.logProd = s.pci.logProd + BitVec.ofNat 32 k ∧ t.log.lost = 0 ∧
    t.log.nextSeq = s.log.nextSeq + BitVec.ofNat 32 k ∧
    t.log.buf = s.log.buf.drop (if s.log.lost = 0 then k else k - 1)) ∧
  (∀ s, s.log.irqTimer = some 0 → s.log.unsignalled ≠ 0 →
    exec .logIrqTimer s = .next (signal s.pci.logVec.toNat { s with log := { s.log with unsignalled := 0, irqTimer := none } })) ∧
  (∀ s, s.port.pubTimer = some 0 → s.pci.pubPeriod ≠ 0 → s.port.busMaster = true → s.pwr.state ≠ 4 →
    ∃ t, exec .timePublish s = .next t ∧ t.port.pubSeq = s.port.pubSeq + 2 ∧ t.port.pubTimer = everyMs s.pci.pubPeriod ∧
      t.out = s.out ++ [.hostWrite (s.pci.pubAddr.toNat * 64) (bytesOf 8 (s.port.pubSeq + 1).toNat) false,
        .hostWrite (s.pci.pubAddr.toNat * 64) (pubBytes (s.port.pubSeq + 2) s) false]) ∧
  (∀ s, s.port.pubTimer = some 0 → s.port.busMaster = false →
    exec .timePublish s = .next { s with port := { s.port with pubTimer := everyMs s.pci.pubPeriod } }) ∧
  (∀ r s, s.port.ptmTimer = some 0 → s.port.ptmEn = true →
    exec (.ptmDialog (some r)) s = .next { s with
      port := { s.port with ptmTimer := everyMs s.pci.ptmPeriod }
      pci := { s.pci with ptmLocal := r.local_, ptmMaster := r.master, ptmDelay := BitVec.ofNat 32 r.delay } } ∧
    exec (.ptmDialog none) s = .next { s with
      port := { s.port with ptmTimer := everyMs s.pci.ptmPeriod }, pci := { s.pci with cntPtmFail := satAdd s.pci.cntPtmFail 1 } }) ∧
  (∀ addr s, exec (.outboundError addr false) s = .next (hostEv 0xB7 0 0 addr.toNat s) ∧
    exec (.outboundError addr true) s = .next (drainAbandon (hostEv 0xB7 0 0 addr.toNat s)))

/-- Function Level Reset, configuration requests, DOE discovery, D3hot, D0 and L1. A Function Level Reset leaves the port and its registers
at reset but for what it keeps; held in reset nothing answers; configuration reads and writes answer; the loss of Bus Master ends a
drain; D3hot unloads and sleeps; D0 and L1 exit leave PS4; loss of the PCIe reference clock drops the link. (14_host_interface.md,
Supported features, Peers and reset (R301); 15_power_and_load_shaping.md, Power states (R306)) -/
def Obligations.FunctionStatesAndConfiguration : Prop :=
  (∀ s, s.rst = .running → ∃ t, exec .functionLevelReset s = .next t ∧
    t.port = { linkUp := true, pubSeq := t.port.pubSeq } ∧ t.pci = { speed := t.pci.speed, width := t.pci.width, flit := t.pci.flit }) ∧
  (∀ s, s.rst = .held ∨ s.rst = .ramping → exec .functionLevelReset s = .next s ∧
    (∀ r, exec (.configurationRequest r) s = .next s) ∧ ∀ i, exec (.doeDiscovery i) s = .next s) ∧
  (∀ off s, s.rst = .running → ∃ t, exec (.configurationRequest (.read off)) s = .next t ∧ t.out = s.out ++ [.cfg .ok (cfgValue s off)] ∧
    t.port.busMaster = s.port.busMaster ∧ t.port.linkUp = true) ∧
  (∀ on s, s.rst = .running → ∃ t, exec (.configurationRequest (.ptm on)) s = .next t ∧ t.port.ptmEn = on ∧ t.out = s.out ++ [.cfg .ok 0]) ∧
  (∀ k s, s.rst = .running → ∃ t, exec (.configurationRequest (.bar2Size k)) s = .next t ∧ t.out = s.out ++ [.cfg .ok 0] ∧
    t.port.bar2Log2 = if 30 ≤ k ∧ k ≤ 40 then k else s.port.bar2Log2) ∧
  (∀ on mask s, s.rst = .running → s.port.pba = [] → ∃ t, exec (.configurationRequest (.msixCtl on mask)) s = .next t ∧
    t.port.msixOn = on ∧ t.port.msixMask = mask ∧ t.out = s.out ++ [.cfg .ok 0]) ∧
  (∀ s, s.rst = .running → s.snap.drain = 1 → ∃ t, exec (.configurationRequest (.busMaster false)) s = .next t ∧
    t.port.busMaster = false ∧ t.snap.drain = 3) ∧
  (∀ s, s.rst = .running → s.port.pba = [] → ∃ t, exec (.configurationRequest (.busMaster true)) s = .next t ∧
    t.port.busMaster = true ∧ t.out = s.out ++ [.cfg .ok 0]) ∧
  (∀ i s, s.rst = .running → ∃ t, exec (.doeDiscovery i) s = .next t ∧
    t.out = s.out ++ [.doe (if i < 3 then [i, (i + 1) % 3] else [])]) ∧
  (∀ s, s.rst = .running → s.port.inD3 = false →
    exec .d3hotEntry s = .next (goSleep (jobUnload 0 (loadCancel { s with port := { s.port with inD3 := true } })))) ∧
  (∀ s, s.rst = .running → s.port.inD3 = true → s.pwr.state = 4 → ∃ t, exec .d0Entry s = .next t ∧ t.port.inD3 = false ∧ t.prun.leaving = true) ∧
  (∀ s, s.rst = .running → s.port.linkUp = true → s.pwr.state = 4 → exec .l1Exit s = .next { s with prun := { s.prun with leaving := true } }) ∧
  (∀ s, exec .pcieRefclkLoss s = .next { s with
    pins := { s.pins with pcieRefclkOk := false }, port := { s.port with linkUp := false, held := [] } })

/-- Register reads and writes: access classes, holes and halves. The host reaches register space while its port is open, the debug port at a
level above 0; a write that touches a busy RW-K field is ignored and recorded, any other acts as its register gives; a hole is logged and
reads 0; a read changes nothing but for TIME.NOW, which latches its fraction; a 4-byte write changes its half only; the debug port
answers status 1 while it is not served, 2 at level 0 and 3 for another size. (18_register_map.md, Access classes (R366, R370);
16_boot_security_debug.md, The debug port (R340, R341)) -/
def Obligations.RegisterAccesses : Prop :=
  (∀ req off size v s, PortOpen s → bar0Ok off size = true →
    exec (.registerWrite (.host req) off size v) s = .next (spaceWrite (.host req) off size v (countIn size s)) ∧
    exec (.registerRead (.host req) off size) s = .next (emit (.compl .ok
      (bytesOf size (spaceRead (.host req) off size (countIn 0 s)).2.toNat)) (spaceRead (.host req) off size (countIn 0 s)).1)) ∧
  (∀ req off size v s, PortOpen s → bar0Ok off size = false →
    exec (.registerWrite (.host req) off size v) s = .next (hostEv 0xB8 req off 0 (countIn size s)) ∧
    exec (.registerRead (.host req) off size) s = .next (emit (.compl .unsupported []) (hostEv 0xB8 req off 0 (countIn 0 s)))) ∧
  (∀ off v s, PortServed s → s.dbg.level ≠ 0 → off % 8 = 0 → regBase + off < regEnd → inDbg off = false →
    let r := spaceRead .debug off 8 (scanned s)
    exec (.registerWrite .debug off 8 v) s = .next (answered 0 0 (spaceWrite .debug off 8 v (scanned s))) ∧
    exec (.registerRead .debug off 8) s = .next (answered 0 r.2 r.1)) ∧
  (∀ off v s, off % 8 = 0 → regBase + off < regEnd → ∀ c ∈ [Instr.registerWrite .debug off 8 v, .registerRead .debug off 8],
    (¬ PortServed s → exec c s = .next (answered 1 0 (scanned s))) ∧
    (PortServed s → s.dbg.level = 0 → level0 off = false → exec c s = .next (answered 2 0 (scanned s)))) ∧
  (∀ off size v s, size ≠ 8 → ∀ c ∈ [Instr.registerWrite .debug off size v, .registerRead .debug off size],
    exec c s = .next (answered 3 0 (scanned s))) ∧
  (∀ who off size v s r, off < 0x02000000 → inDbg off = false → regAt s (off / 8 * 8) = some r →
    let x : Wr := { who := who, off := off / 8 * 8, mask := accMask off size, data := accData off size v }
    (r.inUse = true → (∃ p ∈ r.locks, x.touches p.1 p.2 = true) → ignoredOnly x 1 s (spaceWrite who off size v s)) ∧
    (r.inUse = false ∨ (∀ p ∈ r.locks, x.touches p.1 p.2 = false) → spaceWrite who off size v s = r.put x s)) ∧
  (∀ who off size v s, off < 0x02000000 → inDbg off = false → regAt s (off / 8 * 8) = none →
    (∃ L n, spaceWrite who off size v s = { s with log := L, pci := { s.pci with cntLogLost := n } }) ∧
    (spaceRead who off size s).2 = 0) ∧
  (∀ who off size s r, off < 0x02000000 → inDbg off = false → regAt s (off / 8 * 8) = some r →
    (spaceRead who off size s).2 = accPart off size r.val ∧
    (off / 8 * 8 ≠ 0x7800 → (spaceRead who off size s).1 = s) ∧
    (off / 8 * 8 = 0x7800 → (spaceRead who off size s).1 = { s with time := { s.time with fracLatch := s.time.frac } })) ∧
  (∀ w (x : Wr) (old : BitVec w) lo i, i < w → lo + w ≤ 64 →
    (x.merge old lo).getLsbD i = if x.mask.getLsbD (lo + i) then x.data.getLsbD (lo + i) else old.getLsbD i) ∧
  (∀ off i, (accMask off 4).getLsbD i = (decide (i < 64) && (if off % 8 = 0 then decide (i < 32) else decide (32 ≤ i)))) ∧
  (∀ who v s, jobLoaded s = false → (spaceRead who 0x1010 8 (spaceWrite who 0x1010 8 v s)).2 = v &&& 0x00000FFFFFFFFF80)

/-- Commands that write or read one named register complete with its effect, from the host and, at a level above 0, from the debug
port. ENG_PREEMPT_SET and CLEAR, ACT_LOAD_START, STREAM_RESUME and RESUME_SKIP, SNAP_REQUEST, SNAP_PUSH,
LINK_ENABLE_WRITE, LINK_RETRAIN, ROUTE_TABLE_LOAD, TIME_SET, TIME_NOW_READ, TRATE_CLEAR, JOB_LOAD, JOB_UNLOAD, LOG_CONS_WRITE,
PWR_TARGET_WRITE, FIELD_OFF_WRITE, FW_PROGRAM, FW_ADVANCE_SVN and HMAP_RETEST. That a command to firmware waits while its core is halted
is the model's choice (log entry 34). (18_register_map.md, Index; 04_engines_and_passes.md, Engine registers; 14_host_interface.md,
Registers and events; 16_boot_security_debug.md, The debug port (R340, R341)) -/
def Obligations.NamedRegisterCommands : Prop :=
  (∀ n m s, PortOpen s → n < 2048 → hasEng s n m = true → m < 4 →
    exec (.engPreemptSet n m) s = .next (modEng n m (fun e => { e with preempt := true }) (countIn 8 s)) ∧
    exec (.engPreemptClear n m) s = .next (modEng n m (fun e => { e with preempt := false }) (countIn 8 s))) ∧
  (∀ n m data who s, Arrives who s → n < 2048 → hasEng s n m = true → m < 4 → bit data 48 = true → actInUse (engOf s n m) = false →
    let u := arrived who 8 s
    (s.caps.compat = false ∨ fieldIsOn s (fieldOf s n) = true → exec (.actLoadStart n m data who) s = .next (accessed who (actLoadAsk n m
      (modEng n m (fun e => { e with
        actBase := BitVec.ofNat 38 (field data 43 6), actSlot := BitVec.ofNat 4 (field data 47 44), loadBusy := true }) u)))) ∧
    (s.caps.compat = true → fieldIsOn s (fieldOf s n) = false → exec (.actLoadStart n m data who) s = .next (accessed who
      (holeEv who (engOff n m + 0x10) (pwrEv 0xC7 0 0 (fieldOf s n) (regBase + engOff n m + 0x10) u))))) ∧
  (∀ n q who s, Arrives who s → n < 2048 → hasThl s n = true → q < 3 → (strmOf s n q).state = .halted →
    exec (.streamResume n q who) s = .next (accessed who (modStrm n q (fun k => { k with
      skip := false, state := .running, why := .none, haltDue := false }) (arrived who 8 s))) ∧
    exec (.streamResumeSkip n q who) s = .next (accessed who (modStrm n q (fun k => { k with
      skip := true, state := .running, why := .none, haltDue := false, pc := (k.pc + 8 * instrWords k.instr) % 2 ^ 44 }) (arrived who 8 s)))) ∧
  (∀ s, PortOpen s → ∃ t, exec .snapRequest s = .next t ∧ t.snap.pend = true ∧ t.mem = s.mem ∧ t.out = s.out) ∧
  (∀ data who s, Arrives who s → s.snap.pushState ≠ 1 → bit data 15 = true →
    exec (.snapPush data who) s = .next (accessed who (pushStart (data.truncate 14) (bit data 14) (arrived who 8 s)))) ∧
  (∀ l data who s, Arrives who s → l < 32 → hasLink s l = true → jobLoaded s = false →
    let u := arrived who 8 s
    (bit data 1 = false → bit data 0 = true → (linkOf s l).enable = false →
      exec (.linkEnableWrite l data who) s = .next (accessed who (train l (modLink l (fun k => { k with enable := true }) u)))) ∧
    (bit data 1 = false → bit data 0 = (linkOf s l).enable → exec (.linkEnableWrite l data who) s = .next (accessed who u)) ∧
    (bit data 1 = true → bit data 0 = true → (linkOf s l).enable = true →
      exec (.linkRetrain l data who) s = .next (accessed who (ask 1 (.link l) u)))) ∧
  (∀ data who s, Arrives who s → jobLoaded s = false → bit data 44 = true →
    let u := arrived who 8 s
    exec (.routeTableLoad data who) s = .next (accessed who { u with
      lnk := { u.lnk with rtBase := BitVec.ofNat 38 (field data 43 6), rtBusy := true } })) ∧
  (∀ v who s, Arrives who s → let u := arrived who 8 s
    (jobLoaded s = true → ∃ w, exec (.timeSet v who) s = .next (accessed who w) ∧
      ignoredOnly { who := who, off := 0x7818, data := v } 1 u w) ∧
    (jobLoaded s = false → s.time.role ≠ 1 → exec (.timeSet v who) s = .next (accessed who u)) ∧
    (jobLoaded s = false → s.time.role = 1 → ∃ t, exec (.timeSet v who) s = .next t ∧
      t.time.now = v ∧ t.time.frac = 0 ∧ t.time.cntStep = satAdd s.time.cntStep 1)) ∧
  (∀ s, PortOpen s → ∃ t, exec .timeNowRead s = .next t ∧ t.out = s.out ++ [.compl .ok (bytesOf 8 s.time.now.toNat)] ∧
    t.time = { s.time with fracLatch := s.time.frac }) ∧
  (∀ f s, PortOpen s → f < 4 → ∃ t, exec (.trateClear f) s = .next t ∧
    t.trate = s.trate.modify f fun x => { x with rateMin := 0xFFFF, rateMax := 0 }) ∧
  (∀ req page s, PortOpen s → page % 4096 = 0 → page < 2 ^ 44 → FwActs (.load req page) (.host req)
    (modPci (fun p => { p with jobPage := BitVec.ofNat 32 (page / 4096) }) (countIn 8 s)) (exec (.jobLoad req page) s)) ∧
  (∀ req s, PortOpen s → FwActs (.unload req) (.host req) (modPci (fun p => { p with jobPage := 0 }) (countIn 8 s)) (exec (.jobUnload req) s)) ∧
  (∀ v s, PortOpen s → ∃ t, exec (.logConsWrite v) s = .next t ∧ t.pci.logCons = v.truncate 32) ∧
  (∀ v who s, Arrives who s → jobLoaded s = false → field v 2 0 = 1 ∨ field v 2 0 = 3 ∨ field v 2 0 = 4 →
    ∃ u : State, u.pwr.target = BitVec.ofNat 3 (field v 2 0) ∧ u.pwr.fieldOff = BitVec.ofNat 4 (field v 7 4) ∧ u.mem = s.mem ∧ u.thl = s.thl ∧
      exec (.pwrTargetWrite v who) s = .next (accessed who (obeyCtrl u)) ∧ exec (.fieldOffWrite v who) s = .next (accessed who (obeyCtrl u))) ∧
  (∀ v who s, Arrives who s → jobLoaded s = false → s.sec.fwState ≠ 1 →
    let a := arrived who 8 s
    let u := { a with sec := { a.sec with fwAddr := BitVec.ofNat 32 (field v 43 12) } }
    (field v 49 48 = 1 → FwActs .program who u (exec (.fwProgram v who) s)) ∧
    (field v 49 48 = 2 → FwActs .advance who u (exec (.fwAdvanceSvn v who) s))) ∧
  (∀ who s, Arrives who s → jobLoaded s = false → FwActs .retest who (arrived who 8 s) (exec (.hmapRetest who) s))

/-- Field cores and stacks sleep when idle and wake on access; SMBus wakes the device. An idle field core goes off with its clamps engaged
and the others unchanged; idle stacks enter self-refresh; a held access asks for its wake, is counted and logs 0xC1, and in compat
mode meets an absent unit and logs 0xC7; a field that comes up has its stores and scratch at 0 and HBM as it was; an SMBus address that matches is acknowledged and
stretches the clock. (15_power_and_load_shaping.md, Isolation and wake on access (R307 to R309), SMBus wake (R310)) -/
def Obligations.PowerDomainsAndWake : Prop :=
  (∀ f d s, f < 4 → s.rst = .running → jobLoaded s = false → s.pci.loading = none → s.pwr.autoSleep = true → s.caps.compat = false →
    s.pwr.state ≠ 4 → fieldIsOn s f = true → s.prun.idle.getD f none = some d → idleNs s ≤ d → fieldQuiet s f = true → fieldWanted s f = false →
    ∃ t, exec (.fieldIdleSleep f) s = .next t ∧ fieldIsOn t f = false ∧ hbmIsActive t f = false ∧ t.prun.clamped.getLsbD f = true ∧
      (∀ g < 4, g ≠ f → fieldIsOn t g = fieldIsOn s g ∧ hbmIsActive t g = hbmIsActive s g) ∧
      (∀ n < s.thl.length, fieldOf s n ≠ f → thlOf t n = thlOf s n) ∧
      (∀ a, isHbm a = true → t.mem.get a = s.mem.get a ∧ t.mem.bad a = s.mem.bad a) ∧ t.pwr.state.toNat = psNow t) ∧
  (∀ f s, f < 4 → s.rst = .running → jobLoaded s = false → s.pci.loading = none → hbmIsActive s f = true →
    s.prun.hbmIdle.getD f none = some 0 → fieldWanted s f = false →
    exec (.hbmIdleSelfRefresh f) s = .next { s with
      pwr := { s.pwr with hbmActive := setBit4 s.pwr.hbmActive f false }, prun := { s.prun with hbmIdle := s.prun.hbmIdle.set f none } }) ∧
  (∀ a d s, s.rst = .running → a ∈ s.prun.wants → (resolve s a).bind (sleeper s) = some d → askedFor s d = false →
    ∃ t, exec (.wakeOnAccess a) s = .next t ∧ t.prun.loadSteps = s.prun.loadSteps ++ [(0, d, stepLoad s d)] ∧
      t.prun.cntWakeAccess = satAdd s.prun.cntWakeAccess 1 ∧ a ∉ t.prun.wants ∧ t.mem = s.mem ∧ t.out = s.out ∧
      (s.log.buf.length < 4096 → ∃ r, t.log.buf = s.log.buf ++ [r] ∧ r.cause = 0xC1 ∧ r.source = 9 ∧ r.cls = 0 ∧ r.w1 = s.time.now ∧
        r.w3 = BitVec.ofNat 64 a)) ∧
  (∀ a d s, s.rst = .running → a ∈ s.prun.wants → (resolve s a).bind (sleeper s) = some d → askedFor s d = true →
    ∃ t, exec (.wakeOnAccess a) s = .next t ∧ t.prun.loadSteps = s.prun.loadSteps.map (fun (p, x, w) => (if x = d then 0 else p, x, w)) ∧
      a ∉ t.prun.wants ∧ t.log = s.log ∧ t.prun.cntWakeAccess = s.prun.cntWakeAccess) ∧
  (∀ a s, s.rst = .running → a ∈ s.prun.wants → (resolve s a).bind (sleeper s) = none →
    exec (.wakeOnAccess a) s = .next (retryHeld { s with prun := { s.prun with wants := s.prun.wants.filter (· != a) } })) ∧
  (∀ ag a f s, compatOff s a = some f → s.log.buf.length < 4095 → resolve s a = none ∧ ∃ r q, (absentEv ag a s).log.buf = s.log.buf ++ [r, q] ∧
    r.cause = 0xC7 ∧ r.source = 9 ∧ r.cls = 0 ∧ r.w3 = BitVec.ofNat 64 a ∧ q.cause = 0xB8 ∧ q.cls = 0) ∧
  (∀ f s, f < 4 → s.rst = .running → s.prun.waking.getLsbD f = true → exec (.fieldWakeComplete f) s = .next (wakeGo (obeyOff (fieldUp f s)))) ∧
  (∀ f s, f < 4 → fieldIsOn s f = false → let t := fieldUp f s
    fieldIsOn t f = true ∧ hbmIsActive t f = true ∧ t.prun.clamped.getLsbD f = false ∧ t.prun.waking.getLsbD f = false ∧
    (∀ n < s.thl.length, fieldOf s n = f → ∀ a, (storeBase + 0x1000000 * n ≤ a ∧ a < storeBase + 0x1000000 * (n + 1)) ∨
      (scratchBase + 0x80000 * n ≤ a ∧ a < scratchBase + 0x80000 * (n + 1)) → t.mem.get a = 0) ∧
    (∀ a, isHbm a = true → t.mem.get a = s.mem.get a ∧ t.mem.bad a = s.mem.bad a)) ∧
  (∀ s, s.pwr.state = 4 → s.prun.leaving = true → exec (.fieldWakeComplete 4) s = .next (fwGoes (retryHeld (linksOn (enterPs 3 { s with
      prun := { s.prun with leaving := false, smbTimer := none }, pins := { s.pins with smbSclHeld := false } }))))) ∧
  (∀ f s, f < 4 → s.rst = .running → s.prun.hbmWaking.getLsbD f = true →
    exec (.hbmSelfRefreshExit f) s = .next (wakeGo (hbmUp f s)) ∧ hbmIsActive (hbmUp f s) f = true ∧ fieldIsOn (hbmUp f s) f = fieldIsOn s f) ∧
  (∀ addr s, s.rst = .running → s.pwr.state = 4 → s.prun.smbNackNext = false → s.pins.smbSclHeld = false →
    (s.pwr.wakeEn = true → addr = s.pwr.smbAddr ∨ (s.pwr.arpEn = true ∧ addr = 0x61) →
      ∃ t, exec (.smbusWake addr) s = .next t ∧ t.out = s.out ++ [.smbAck true] ∧ t.pins.smbSclHeld = true ∧ t.prun.leaving = true ∧
        t.prun.smbTimer = some 20000000 ∧ t.prun.cntWakeSmb = satAdd s.prun.cntWakeSmb 1) ∧
    (s.pwr.wakeEn = false ∨ (addr ≠ s.pwr.smbAddr ∧ (s.pwr.arpEn = false ∨ addr ≠ 0x61)) → exec (.smbusWake addr) s = .next s)) ∧
  (∀ addr s, s.prun.smbNackNext = false → s.pwr.state ≠ 4 → exec (.smbusWake addr) s = .next s) ∧
  (∀ s, s.prun.smbTimer = some 0 → s.pins.smbSclHeld = true → ∃ t, exec .smbusStretchTimeout s = .next t ∧ t.pins.smbSclHeld = false ∧
    ∀ addr, ∃ u, exec (.smbusWake addr) t = .next u ∧ u.out = s.out ++ [.smbAck false])

/-- The core voltage, the load shaper and the thermal monitor. The voltage moves one step at a time, an answer beyond 10 mV is a fault with
0xC3 that is retried; the load never rises faster than the slew limit and below critical never falls faster; a trip cuts the load
to idle with every gate closed; the thermal level follows Table 15-5 with its log records, its alert and its trip. (15_power_and_load_shaping.md, Core voltage
over AVSBus (R311, R312), Load limits (R317), Thermal actions (R320)) -/
def Obligations.VoltageShaperAndThermal : Prop :=
  (∀ s, awake s = true → fwHalted s = false → s.prun.avsTimer = none → s.prun.vGap.getD 0 = 0 →
    let go := fun (v : BitVec 3) => let u := stepPrep v.toNat s
      emit (.avsWrite v.toNat) { u with
        pwr := { u.pwr with cur := v }
        prun := { u.prun with cntVstep := satAdd s.prun.cntVstep 1, avsTimer := some 200000, vGap := some 1000000 } }
    (s.pwr.cur < s.pwr.vtarget → s.pwr.avsFault = false → s.pwr.therm = 0 → exec (.vstepChange true) s = .next (go (s.pwr.cur + 1))) ∧
    (s.pwr.vtarget < s.pwr.cur → exec (.vstepChange false) s = .next (go (s.pwr.cur - 1)))) ∧
  (∀ new s, let u := stepPrep new s
    (s.pwr.cur.toNat < new → u.prun.ballast = s.prun.ballast ∧ ∀ i, u.prun.gates.getD i 0 ≤ s.prun.gates.getD i 0) ∧
    (new ≤ s.pwr.cur.toNat → u.prun.gates = s.prun.gates ∧
      u.prun.ballast = s.prun.ballast + (s.prun.load - Config.stepLoad s.pwr.cur.toNat new s.prun.load))) ∧
  (∀ v s, awake s = true → fwHalted s = false → s.prun.avsTimer.isSome = true → v ≤ stepMv s.pwr.cur.toNat + 10 → stepMv s.pwr.cur.toNat ≤ v + 10 →
    exec (.avsTransitionDone (some v)) s = .next { s with prun := { s.prun with avsTimer := none } }) ∧
  (∀ mv s, awake s = true → fwHalted s = false → s.prun.avsTimer.isSome = true →
    (∀ v, mv = some v → stepMv s.pwr.cur.toNat + 10 < v ∨ v + 10 < stepMv s.pwr.cur.toNat) →
    ∃ t, exec (.avsTransitionDone mv) s = .next t ∧ t.pwr = { s.pwr with avsFault := true } ∧
      t.prun.cntAvsErr = satAdd s.prun.cntAvsErr 1 ∧ t.prun.avsRetryTimer = some 100000000 ∧
      (s.log.buf.length < 4096 → ∃ r, t.log.buf = s.log.buf ++ [r] ∧ r.cause = 0xC3 ∧ r.source = 9)) ∧
  (∀ mv s, awake s = true → fwHalted s = false → s.pwr.avsFault = true → s.prun.avsRetryTimer = some 0 →
    ∃ t, exec (.avsRetry mv) s = .next t ∧ t.out = s.out ++ [.avsWrite s.pwr.cur.toNat] ∧ t.pwr.cur = s.pwr.cur ∧
      (∀ v, mv = some v → v ≤ stepMv s.pwr.cur.toNat + 10 → stepMv s.pwr.cur.toNat ≤ v + 10 → t.pwr.avsFault = false) ∧
      (mv = none → t.pwr.avsFault = true ∧ t.prun.cntAvsErr = satAdd s.prun.cntAvsErr 1)) ∧
  (∀ x s, awake s = true → s.prun.shapeDue = true → fwHalted s = true → exec (.shaperUpdate x) s =
    .next (setLoad x (if s.pwr.therm = 2 ∨ s.prun.tripped = true then limits x s else s.prun.lim) { s with prun := { s.prun with shapeDue := false } })) ∧
  (∀ x s, awake s = true → s.prun.shapeDue = true → fwHalted s = false →
    let s0 := { s with prun := { s.prun with shapeDue := false } }
    let u := sliceAsk (if jobLoaded s then s0 else latchPwr s0)
    ∃ t, exec (.shaperUpdate x) s = .next t ∧ t.prun.load ≤ s.prun.load + slewNow u ∧
      (s.prun.tripped = true → t.prun.load ≤ max Config.idleLoad (s.prun.load - 1000) ∧ t.prun.gates = List.replicate 5 0) ∧
      (s.prun.tripped = false → s.pwr.therm ≠ 2 → s.prun.load - slewNow u ≤ t.prun.load) ∧
      (s.prun.tripped = false →
        (limits x u).floorMin ≤ min (100 * x.demand) (limits x u).ceil + 100 * Config.ballastMax s.pwr.cur.toNat (ballastFronds (wantStep x u)) →
        (limits x u).floorMin ≤ t.prun.load) ∧
      (s.pwr.therm = 2 → t.pwr.vtarget = 0) ∧ (jobLoaded s = false → t.pwr.vtarget = 0)) ∧
  (∀ w s, awake s = true → fwHalted s = false → exec (.shaperCalibrate w) s = .next { s with
    pwr := { s.pwr with coreW := BitVec.ofNat 12 (min 4095 w) }, prun := { s.prun with calib := w } }) ∧
  (∀ temps c s, temps ≠ [] → s.rst = .held → c = temps.foldl (fun m t => max m t.toNat) 0 → exec (.thermalSample temps) s = .next (tripAt c s)) ∧
  (∀ temps c s, temps ≠ [] → s.rst ≠ .held → c = temps.foldl (fun m t => max m t.toNat) 0 →
    ∃ t, exec (.thermalSample temps) s = .next t ∧ t.pwr.therm = BitVec.ofNat 2 (thermNext s c) ∧
      (t.pins.thermAlertN = true ↔ thermNext s c = 0) ∧ (thermNext s c = 2 → t.pwr.vtarget = 0) ∧
      (125 ≤ c → t.pins.thermtripN = false ∧ t.prun.tripped = true ∧ t.prun.gates = List.replicate 5 0) ∧
      (c < 125 → t.pins.thermtripN = s.pins.thermtripN ∧ t.prun.tripped = s.prun.tripped) ∧
      (thermNext s c ≠ s.pwr.therm.toNat → s.log.buf.length < 4096 → ∃ r, t.log.buf = s.log.buf ++ [r] ∧ r.source = 9 ∧ r.cls = 0 ∧
        r.cause = if thermNext s c = 0 then 0xC8 else if thermNext s c = 1 then 0xC4 else 0xC5)) ∧
  (∀ s c, (110 ≤ c → thermNext s c = 2) ∧ (s.pwr.therm = 0 → c < s.pwr.warnC.toNat → c < 110 → thermNext s c = 0) ∧
    (s.pwr.therm = 0 → s.pwr.warnC.toNat ≤ c → c < 110 → thermNext s c = 1) ∧
    (s.pwr.therm = 1 → c < 110 → thermNext s c = if c + 5 < s.pwr.warnC.toNat then 0 else 1) ∧
    (s.pwr.therm = 2 → 105 ≤ c → thermNext s c = 2) ∧
    (s.pwr.therm = 2 → c < 105 → thermNext s c = if c + 5 < s.pwr.warnC.toNat then 0 else 1))

/-- Resets, boot, recovery, the stored image, start-up self-test and slices. PERST_N starts the ramp and its end resets the core, but the
part, the flash and a trip stay; boot runs a valid image or enters recovery with its reason; a redelivered image is checked again;
programming ends done or failed; self-test groups advance by field and phase to the running state; slices are taken, skipped and ended.
(15_power_and_load_shaping.md, Reset and start-up (R321); 19_package_and_electrical.md, Power sequencing and reset (R378 to R383);
16_boot_security_debug.md, Boot (R327), Recovery by host redelivery (R328, R329), Updating the stored image (R330); 17_self_test.md,
Start-up self-test, In-operation slices) -/
def Obligations.ResetBootAndSelfTest : Prop :=
  (∀ s, s.pins.perstN = true → s.rst ≠ .held → s.prun.tripped = false →
    exec .perstAssert s = .next { s with rst := .ramping, pins := { s.pins with perstN := false }, port := { s.port with linkUp := false, held := [] } }) ∧
  (∀ s, s.pins.perstN = false → exec .perstAssert s = .next s) ∧
  (∀ s, s.rst = .ramping → s.prun.load ≤ Config.idleLoad → ∃ t, exec .resetRampDone s = .next t ∧ CoreReset s t ∧
    ((s.pins.perstN = true ∧ s.pins.pwrOk = true ∧ s.refclkLost = false) → BootBegins s t) ∧
    ((s.pins.perstN = false ∨ s.pins.pwrOk = false ∨ s.refclkLost = true) → t.rst = .held)) ∧
  (∀ s, s.pins.perstN = false → s.pins.pwrOk = true → s.rst = .held → refclkRuns s = true → s.pins.testEn = false →
    ∃ t, exec .perstDeassert s = .next t ∧ BootBegins s t ∧ t.pins.perstN = true ∧ t.mem = s.mem) ∧
  (∀ s, s.pins.perstN = false → s.pins.pwrOk = true → s.rst = .held → refclkRuns s = true → s.pins.testEn = true →
    exec .perstDeassert s = .fault .manufacturingMode) ∧
  (∀ s, s.pins.perstN = false → s.pins.pwrOk = false ∨ s.rst ≠ .held ∨ refclkRuns s = false → ∃ t, exec .perstDeassert s = .next t ∧ t.rst = s.rst ∧ t.pins.perstN = true) ∧
  (∀ s, exec .pwrOkRise s = .next { s with pins := { s.pins with pwrOk := true } }) ∧
  (∀ s, ∃ t, exec .pwrOkFall s = .next t ∧ t.rst = .held ∧ t.pins.pwrOk = false ∧ (s.rst ≠ .held → CoreReset s t ∧ t.port.linkUp = false)) ∧
  (∀ s, s.pins.pwrOk = true → s.rst ≠ .held → s.prun.tripped = false → ∃ t, exec .refclkLoss s = .next t ∧ t.rst = .ramping ∧
    t.refclkLost = true ∧ t.refclkTimer = some 100000 ∧ t.pins.refclkOk = false ∧ t.port.linkUp = false ∧ t.part = s.part) ∧
  (∀ ok s, s.rst = .booting → s.sec.stage = 0 → ∃ t, exec (.bootRom ok) s = .next t ∧
    (s.sec.strap = true → t.sec.stage = 1 ∧ t.sec.reason = 9 ∧ t.rst = .booting) ∧
    (s.sec.strap = false → ok = false → t.sec.stage = 1 ∧ t.sec.reason = 1 ∧ t.rst = .booting) ∧
    (s.sec.strap = false → ok = true → s.part.flashCut = true → t.sec.stage = 1 ∧ t.sec.reason.toNat ∈ [1, 2, 7, 8] ∧ t.rst = .booting) ∧
    (∀ r, s.sec.strap = false → ok = true → s.part.flashCut = false → imgBad s.part s.part.image = some r →
      t.sec.stage = 1 ∧ t.sec.reason = BitVec.ofNat 4 r ∧ t.rst = .booting) ∧
    (s.sec.strap = false → ok = true → s.part.flashCut = false → imgBad s.part s.part.image = none → RunsImage s.part.image false s t)) ∧
  (∀ s, s.port.linkUp = true → s.sec.stage = 1 → ∃ t, exec .recovGo s = .next t ∧ t.sec = { s.sec with stage := 2 } ∧ t.rst = s.rst ∧ t.part = s.part) ∧
  (∀ s, s.sec.stage = 2 → let t := recovVerdict s
    (∀ r, imgBad s.part (stagedImage s) = some r → t.sec.stage = 1 ∧ t.sec.reason = BitVec.ofNat 4 r ∧ t.rst = s.rst) ∧
    (imgBad s.part (stagedImage s) = none → RunsImage (stagedImage s) true s t)) ∧
  (∀ p img, imgBad p img = none → imgField img 0 4 = 0x4F5A4657 ∧ imgKeyIdx img ≤ 3 ∧ p.revoked.getLsbD (imgKeyIdx img) = false ∧
    imgKeyHash img = p.keyHash.getD (imgKeyIdx img) 0 ∧ p.minSvn ≤ imgSvn img ∧ 0 < imgLen img ∧ imgLen img ≤ 12581888 ∧
    pssVerify ((img.drop 64).take 384) ((img.drop 448).take 4) ((img.drop 512).take 384) (sha256 (img.take 512)) = true ∧
    sha256 (imgBody img) = (img.drop 32).take 32) ∧
  (∀ s, s.sec.fwState = 1 → s.sec.copying = false → fwHalted s = false →
    (∃ t, exec (.fwProgramDone true) s = .next (fwDrain t) ∧ t.part = { s.part with image := stagedImage s, flashCut := false } ∧
      t.sec = { s.sec with fwState := 2 }) ∧
    (∃ t, exec (.fwProgramDone false) s = .next (fwDrain t) ∧ t.part.minSvn = s.part.minSvn ∧ t.sec = { s.sec with fwState := 3, fwReason := 1 })) ∧
  (∀ f phase fails s, f < 4 → s.rst = .selftest → s.bist.groupOn = true → s.bist.nextField = f → s.bist.nextPhase = phase →
    let v := if phase = 1 then fieldUp f s else s
    let u := groupFinds f fails { v with bist := { v.bist with groupOn := false } }
    exec (.selftestGroup f phase false fails) s = .next (nextGroup f phase u) ∧
    (phase < 6 → exec (.selftestGroup f phase true fails) s = .next (nextGroup f (phase + 1) u)) ∧
    (6 ≤ phase → f < 3 → exec (.selftestGroup f phase true fails) s = .next (nextGroup (f + 1) 1 u)) ∧
    (6 ≤ phase → f = 3 → exec (.selftestGroup f phase true fails) s = .next (selftestDone u))) ∧
  (∀ p b n time, (n ≤ 8 → foundOne (.columns p b n) time = [] ∧ repairOf (.columns p b n) = [(p, b, n)]) ∧
    (8 < n → repairOf (.columns p b n) = [] ∧ ∃ e, foundOne (.columns p b n) time = [e] ∧ e.kind = 1 ∧ e.unit = p ∧ e.origin = 1 ∧ e.reason = 1)) ∧
  (∀ s, (selftestDone s).rst = .running ∧ (selftestDone s).sec.stage = 4 ∧ (selftestDone s).part.minSvn = s.part.minSvn) ∧
  (∀ s, s.rst = .running → sliceTime s = true → s.bist.target = none → s.thl ≠ [] → fwHalted s = false → jobLoaded s = true →
    ∃ t, exec .sliceDue s = .next t ∧ t.bist.sliceK = s.bist.sliceK + 1 ∧
      (fieldIsOn s (fieldOf s s.bist.nextThl.toNat) = true → s.pwr.therm = 0 →
        t.bist.target = some (s.bist.nextThl.toNat, s.bist.nextEng.toNat) ∧ t.bist.cntSliceSkip = s.bist.cntSliceSkip) ∧
      (fieldIsOn s (fieldOf s s.bist.nextThl.toNat) = false ∨ s.pwr.therm ≠ 0 →
        t.bist.target = none ∧ t.bist.cntSliceSkip = satAdd s.bist.cntSliceSkip 1 ∧ t.thl = s.thl) ∧
      (t.bist.nextThl, t.bist.nextEng) = (BitVec.ofNat 8 (nextEngine s s.bist.nextThl.toNat s.bist.nextEng.toNat).1,
        BitVec.ofNat 2 (nextEngine s s.bist.nextThl.toNat s.bist.nextEng.toNat).2)) ∧
  (∀ fails n m s, s.bist.target = some (n, m) → s.bist.sliceBusy = true →
    let u := fails.foldl (fun t x => sliceFail n m (fun f => decide (1 < (fails.filter fun x => failFrond x == some f).length)) x t) s
    exec (.sliceEnd fails) s = .next (obeyOff (modEng n m (fun e => { e with sliceHold := false }) { u with bist := { u.bist with
      sliceBusy := false, target := none, cntSlices := satAdd u.bist.cntSlices 1, cntSliceFail := satAdd u.bist.cntSliceFail (min 1 fails.length) } })))

/-- The SPDM responder and PLDM answer every request. Requests are answered in the order of negotiation and refused with their ERROR
otherwise; signed answers are counted and refused without secrets with 0xD7 once per transport; sessions open, update keys and end, IDE
keys stay; one request is held per transport while firmware does not run; PLDM answers types 0 and 2. (16_boot_security_debug.md,
Attestation (R334 to R338), Halt, step and breakpoints (R346)) -/
def Obligations.SpdmAnswersRequests : Prop :=
  (∀ t i s, s.rst = .running → requestOn t i = true → (spdmOf s t).held = none → fwHalted s = true →
    exec i s = .next (modSpdm t (fun p => { p with held := some i }) (heard t s))) ∧
  (∀ t i j s, s.rst = .running → requestOn t i = true → (spdmOf s t).held = some j → exec i s = .next (responds t (.error .busy) (heard t s))) ∧
  (∀ t s, Hears t s → ∃ v, exec (.getVersion t) s = .next v ∧ v.out = s.out ++ [.spdm t (.version 0x12)] ∧
    (spdmOf v t).version = true ∧ (spdmOf v t).caps = false ∧ (spdmOf v t).algs = false ∧ (spdmOf v t).sessions = [] ∧
    v.sec.ideKeys = s.sec.ideKeys ∧ ∀ w, w ≠ t → spdmOf v w = spdmOf s w) ∧
  (∀ t s, Hears t s →
    ((spdmOf s t).version = true → exec (.getCapabilities t) s = .next (responds t
      (.capabilities [.cert, .chal, .measSig, .keyEx, .encrypt, .mac, .hbeat, .keyUpd] 16) (modSpdm t (fun p => { p with caps := true }) (heard t s)))) ∧
    ((spdmOf s t).version = false → exec (.getCapabilities t) s = .next (responds t (.error .unexpectedRequest) (heard t s)))) ∧
  (∀ t o s, Hears t s → (spdmOf s t).caps = true →
    (0 ∈ o → 1 ∈ o → exec (.negotiateAlgorithms t o) s = .next (responds t (.algorithms ([0, 1, 2, 3].filter fun a => decide (a ∈ o)))
      (modSpdm t (fun p => { p with algs := true, keyEx := decide (2 ∈ o ∧ 3 ∈ o) }) (heard t s)))) ∧
    (0 ∉ o ∨ 1 ∉ o → exec (.negotiateAlgorithms t o) s = .next (responds t (.error .invalidRequest) (heard t s)))) ∧
  (∀ t k o n x i g s, Hears t s → (spdmOf s t).algs = false → ∀ c ∈ [Instr.getDigests t, .getCertificate t k o n, .challenge t k x,
    .getMeasurements t i g x, .keyExchange t k o], exec c s = .next (responds t (.error .unexpectedRequest) (heard t s))) ∧
  (∀ t s, Hears t s → (spdmOf s t).algs = true →
    exec (.getDigests t) s = .next (responds t (.digests (Config.standardBody 2 0)) (heard t s)) ∧
    (∀ o n, o < (certChain s.part).length → exec (.getCertificate t 0 o n) s =
      .next (responds t (.certificate (((certChain s.part).drop o).take n)) (heard t s))) ∧
    (∀ k o n, k ≠ 0 ∨ (certChain s.part).length ≤ o → exec (.getCertificate t k o n) s = .next (responds t (.error .invalidRequest) (heard t s)))) ∧
  (∀ t x s, Hears t s → (spdmOf s t).algs = true → s.sec.vaultLoaded = true → s.sec.vaultCleared = false →
    (∃ g, exec (.challenge t 0 x) s = .next (responds t (.challengeAuth g) (signedOnce (heard t s)))) ∧
    (∀ e, (spdmOf s t).keyEx = false → exec (.keyExchange t 0 e) s = .next (responds t (.error .unsupportedRequest) (heard t s))) ∧
    (∀ e, (spdmOf s t).keyEx = true → (spdmOf s t).sessions.length < 2 → ∃ g v, exec (.keyExchange t 0 e) s = .next v ∧
      v.out = s.out ++ [.spdm t (.keyExchange (spdmOf s t).nextId g)] ∧ v.sec.cntSign = satAdd s.sec.cntSign 1 ∧
      (spdmOf v t).sessions = (spdmOf s t).sessions ++ [{ id := (spdmOf s t).nextId, open_ := false, keyGen := 0 }] ∧
      (spdmOf v t).nextId = (spdmOf s t).nextId + 1) ∧
    (∀ e, (spdmOf s t).keyEx = true → 2 ≤ (spdmOf s t).sessions.length → exec (.keyExchange t 0 e) s = .next (responds t (.error .sessionLimit) (heard t s)))) ∧
  (∀ t k x e s, Hears t s → (spdmOf s t).algs = true → k ≠ 0 → ∀ c ∈ [Instr.challenge t k x, .keyExchange t k e],
    exec c s = .next (responds t (.error .invalidRequest) (heard t s))) ∧
  (∀ t x e i s, Hears t s → (spdmOf s t).algs = true → (spdmOf s t).keyEx = true → s.sec.vaultLoaded = false ∨ s.sec.vaultCleared = true → i ≤ 5 ∨ i = 0xFF →
    ∀ c ∈ [Instr.challenge t 0 x, .keyExchange t 0 e, .getMeasurements t i true x], ∃ v, exec c s = .next v ∧ RefusesToSign t (heard t s) v) ∧
  (∀ t x i s, Hears t s → (spdmOf s t).algs = true →
    (i = 0 → exec (.getMeasurements t i false x) s = .next (responds t (.measurements [(0, 5)] none) (heard t s))) ∧
    (1 ≤ i → i ≤ 5 → exec (.getMeasurements t i false x) s = .next (responds t (.measurements [(i, measurement s i)] none) (heard t s))) ∧
    (i = 0xFF → exec (.getMeasurements t i false x) s = .next (responds t (.measurements
      [(1, measurement s 1), (2, measurement s 2), (3, measurement s 3), (4, measurement s 4), (5, measurement s 5)] none) (heard t s))) ∧
    (∀ g, 6 ≤ i → i ≠ 0xFF → exec (.getMeasurements t i g x) s = .next (responds t (.error .invalidRequest) (heard t s))) ∧
    (1 ≤ i → i ≤ 5 → s.sec.vaultLoaded = true → s.sec.vaultCleared = false → ∃ g, exec (.getMeasurements t i true x) s =
      .next (responds t (.measurements [(i, measurement s i)] (some g)) (signedOnce (heard t s))))) ∧
  (∀ t id x s, Hears t s → (spdmOf s t).sessions.find? (fun x => x.id == id) = some x → x.open_ = false →
    (∃ v, exec (.finish t id true) s = .next v ∧ isOpen v t id = true ∧ v.out = s.out ++ [.spdm t (.finish id)]) ∧
    (∃ v, exec (.finish t id false) s = .next v ∧ session v t id = none ∧ v.out = s.out ++ [.spdm t (.error .invalidRequest)])) ∧
  (∀ t id s, Hears t s → isOpen s t id = true →
    exec (.heartbeat t id) s = .next (responds t (.heartbeat id) (heard t s)) ∧
    (∀ v, exec (.finish t id v) s = .next (responds t (.error .unexpectedRequest) (heard t s))) ∧
    exec (.keyUpdate t id 3) s = .next (responds t (.keyUpdate id) (heard t s)) ∧
    (∀ op, op = 1 ∨ op = 2 → ∃ v, exec (.keyUpdate t id op) s = .next v ∧ v.out = s.out ++ [.spdm t (.keyUpdate id)] ∧
      session v t id = (session s t id).map fun x => { x with keyGen := x.keyGen + 1 }) ∧
    (∃ v, exec (.endSession t id) s = .next v ∧ isOpen v t id = false ∧ v.sec.ideKeys = s.sec.ideKeys ∧ v.sec.ideSecure = s.sec.ideSecure ∧
      v.out = s.out ++ [.spdm t (.endSession id)] ∧ ∀ j, j ≠ id → session v t j = session s t j)) ∧
  (∀ t id op s, Hears t s → isOpen s t id = false → ∀ c ∈ [Instr.heartbeat t id, .keyUpdate t id op, .endSession t id],
    exec c s = .next (responds t (.error .invalidRequest) (heard t s))) ∧
  (∀ id k key go s, Hears .doe s → isOpen s .doe id = true → ∃ v, exec (.vendorDefinedIdeKm .doe (some id) k key go) s = .next v ∧
    v.out = s.out ++ [.spdm .doe (.ideKm k)] ∧ (k, key) ∈ v.sec.ideKeys ∧ v.sec.ideSecure = (s.sec.ideSecure || go) ∧
    ∀ j y, j ≠ k → ((j, y) ∈ v.sec.ideKeys ↔ (j, y) ∈ s.sec.ideKeys)) ∧
  (∀ x k key go s, Hears .mctp s → exec (.vendorDefinedIdeKm .mctp x k key go) s = .next (responds .mctp (.error .unsupportedRequest) s)) ∧
  (∀ c s, Hears .mctp s →
    exec (.pldmRequest 0 c) s = .next (emit (.pldm (Config.pldmBody 0 c [])) s) ∧
    exec (.pldmRequest 2 c) s = .next (emit (.pldm (Config.pldmBody 2 c (pldmSensors s))) s) ∧
    ∀ ty, ty ≠ 0 → ty ≠ 2 → exec (.pldmRequest ty c) s = .next s)

/-- The TAP, DBG_ACCESS, unlocking and debug targets. Each TAP instruction shifts what its row gives; DBG_ACCESS reports the command before
it and reaches what the level allows; an unlock is refused with its reason or raises the level, clearing secrets first at levels 2 and
3; relock clears breakpoints and resumes; targets halt, resume and step. (16_boot_security_debug.md, The debug port (R339 to R343),
Halt, step and breakpoints (R344, R345)) -/
def Obligations.DebugPortAndTap : Prop :=
  (∀ s, exec .idcode s = .next (tapped 0x01 (0x0C4D50B5 ||| (s.part.stepping.toNat % 16) <<< 28) s)) ∧
  (∀ p s, exec (.samplePreload p) s = .next (let u := tapped 0x02 (Config.boundaryBits (pinLevels s.pins)) s
    { u with dbg := { u.dbg with boundary := p } })) ∧
  (∀ d s, (s.pins.perstN = true → exec (.extest d) s = .next (tapped 0x03 0 s)) ∧
    (s.pins.perstN = false → exec (.extest d) s = .next (let u := tapped 0x03 (Config.boundaryBits (pinLevels s.pins)) s
      { u with dbg := { u.dbg with boundary := d, pinDrive := .boundary }, out := u.out ++ [.pins (some s.dbg.boundary), .pins (some d)] }))) ∧
  (∀ s, s.pins.perstN = true → exec .clamp s = .next (tapped 0x04 0 s) ∧ exec .highz s = .next (tapped 0x05 0 s)) ∧
  (∀ s, s.pins.perstN = false → let u := tapped 0x04 0 s; let v := tapped 0x05 0 s
    exec .clamp s = .next { u with dbg := { u.dbg with pinDrive := .boundary }, out := u.out ++ [.pins (some s.dbg.boundary)] } ∧
    exec .highz s = .next { v with dbg := { v.dbg with pinDrive := .highz }, out := v.out ++ [.pins none] }) ∧
  (∀ s, exec .dbgStatus s = .next (tapped 0x21 (s.dbg.level.toNat + 256 * s.dbg.failures.toNat + (if 16 ≤ s.dbg.failures.toNat then 8192 else 0)) s)) ∧
  (∀ x s, (s.dbg.level ≠ 3 ∨ s.sec.vaultCleared = false → exec (.scanSel x) s = .next (tapped 0x30 0 s)) ∧
    (s.dbg.level = 3 → s.sec.vaultCleared = true → ∃ y, exec (.scanSel x) s = .next (tapped 0x30 y { s with nonce := s.nonce + 1 }))) ∧
  (∀ c s, c ∉ [0x01#8, 0x02#8, 0x03#8, 0x04#8, 0x05#8, 0x20#8, 0x21#8, 0x30#8] → exec (.bypass c) s = .next (tapped c 0 s)) ∧
  (∀ s, exec .tapReset s = .next { s with dbg := { s.dbg with ir := 0x01, lastStatus := 0, lastRead := 0, pinDrive := .normal } }) ∧
  (∀ x s, 2 ≤ x % 16 → exec (.dbgAccessRead x) s = .next (answered 3 0 (scanned s))) ∧
  (∀ x s, x % 16 = 0 → exec (.dbgAccessRead x) s = .next (scanned s)) ∧
  (∀ a v s, a % 8 ≠ 0 ∨ regionOf a = .reserved → ∀ c ∈ [Instr.dbgAccessRead (16 * a + 1), .dbgAccessWrite a v],
    exec c s = .next (answered 3 0 (scanned s))) ∧
  (∀ a v s, a % 8 = 0 → regionOf a ≠ .reserved → ¬ PortServed s → ∀ c ∈ [Instr.dbgAccessRead (16 * a + 1), .dbgAccessWrite a v],
    exec c s = .next (answered 1 0 (scanned s))) ∧
  (∀ a v s, a % 8 = 0 → PortServed s → s.dbg.level = 0 → (regionOf a ≠ .reserved ∧ regionOf a ≠ .regs) ∨
      (regBase + 0x18 ≤ a ∧ a < regBase + 0xB000) ∨ (regBase + 0xB030 ≤ a ∧ a < regBase + 0xB400) ∨ (regBase + 0xB800 ≤ a ∧ a < regEnd) →
    ∀ c ∈ [Instr.dbgAccessRead (16 * a + 1), .dbgAccessWrite a v], exec c s = .next (answered 2 0 (scanned s))) ∧
  (∀ a bs s, a % 8 = 0 → PortServed s → s.dbg.level ≠ 0 → regionOf a = .hbm ∨ (∃ n, regionOf a = .store n) → sleeping s a 8 = none →
    ReadsAs s a 8 bs → ∃ t, exec (.dbgAccessRead (16 * a + 1)) s = .next t ∧ t.dbg.lastStatus = 0 ∧ t.dbg.lastRead = BitVec.ofNat 64 (natOf bs) ∧
      t.out = (scanned s).out ∧ t.mem = s.mem ∧ t.thl = s.thl ∧ t.log = s.log) ∧
  (∀ a v s, a % 8 = 0 → PortServed s → s.dbg.level ≠ 0 → regionOf a = .hbm ∨ (∃ n, regionOf a = .store n) → sleeping s a 8 = none →
    Plain s a 8 → s.mem.wf = true → ∃ u, exec (.dbgAccessWrite a v) s = .next (answered 0 0 (settle u)) ∧ u.out = (scanned s).out ∧ u.thl = s.thl ∧
      ∀ x, u.mem.get x = if a ≤ x ∧ x < a + 8 then BitVec.ofNat 8 (v.toNat / 2 ^ (8 * (x - a))) else s.mem.get x) ∧
  (∀ v ok s, PortServed s → bit v 3 = true → bit v 4 = false →
    (∀ r, unlockBad s (field v 1 0) (bit v 2) = some r → ∃ t, exec (.dbgUnlock v ok) s = .next t ∧ t.dbg.level = s.dbg.level ∧
      t.dbg.failures.toNat = min 16 (s.dbg.failures.toNat + 1) ∧ t.dbg.nonceReady = false ∧ t.dbg.nonceTimer = some 1000000000 ∧ t.sec = s.sec ∧
      (s.log.buf.length < 4096 → ∃ e, t.log.buf = s.log.buf ++ [e] ∧ e.cause = 0xE1 ∧ e.source = 11 ∧ e.cls = 0)) ∧
    (unlockBad s (field v 1 0) (bit v 2) = none → field v 1 0 = 1 → ∃ t, exec (.dbgUnlock v ok) s = .next t ∧
      t.dbg.level = (if s.dbg.level = 0 then 1 else s.dbg.level) ∧ t.dbg.nonceReady = true ∧ t.sec = s.sec ∧
      (s.dbg.level = 0 → s.log.buf.length < 4096 → ∃ e, t.log.buf = s.log.buf ++ [e] ∧ e.cause = 0xE0 ∧ e.source = 11)) ∧
    (unlockBad s (field v 1 0) (bit v 2) = none → 2 ≤ field v 1 0 → s.dbg.level.toNat < field v 1 0 → ∃ t, exec (.dbgUnlock v ok) s = .next t ∧ SecretsGone t ∧
      (ok = true → t.dbg.level.toNat = field v 1 0 ∧ t.sec.vaultCleared = true) ∧ (ok = false → t.dbg.level = s.dbg.level ∧ t.sec.vaultCleared = s.sec.vaultCleared)) ∧
    (unlockBad s (field v 1 0) (bit v 2) = some 1 ↔ 16 ≤ s.dbg.failures.toNat)) ∧
  (∀ s, PortServed s → s.dbg.level = 3 → exec .dbgRelock s = .next (answered 0 0 (let u := scanned s
      { u with dbg := { u.dbg with unlockLevel := 0, unlockKey := false } }))) ∧
  (∀ s, PortServed s → s.dbg.level ≠ 3 → fwHalted s = false → ∃ t, exec .dbgRelock s = .next t ∧ t.dbg.level = 0 ∧ t.dbg.bp = List.replicate 16 0 ∧
    t.dbg.pbp = List.replicate 4 {} ∧ t.sec = s.sec ∧ (∀ n i, (coreOf t n i).dbg.halted = false ∧ (strmOf t n i).dbg.halted = false) ∧
    (s.log.buf.length < 4096 → ∃ e, t.log.buf = s.log.buf ++ [e] ∧ e.cause = 0xE4 ∧ e.source = 11 ∧ e.cls = 0)) ∧
  (∀ s, s.dbg.nonceTimer = some 0 → exec .dbgNonceRefresh s = .next { s with
    dbg := { s.dbg with nonceIdx := s.nonce, nonceReady := true, nonceTimer := none }, nonce := s.nonce + 1 }) ∧
  (∀ s, PortServed s → s.dbg.level ≠ 0 → SelectsUnit s →
    (∃ t, exec .dbgHalt s = .next t ∧ t.dbg.lastStatus = 0 ∧ (tgtOf t).halted = true ∧ ((tgtOf s).halted = false → (tgtOf t).reason = 1) ∧
      tgtPc t = tgtPc s ∧ t.mem = s.mem) ∧
    (∃ t, exec .dbgResume s = .next t ∧ t.dbg.lastStatus = 0 ∧ (tgtOf t).halted = false ∧ tgtPc t = tgtPc s ∧ t.mem = s.mem ∧ t.log = s.log) ∧
    (∃ t, exec .dbgStep s = .next t ∧ t.dbg.lastStatus = 0 ∧ ((tgtOf s).halted = true → (tgtOf t).mode = 3) ∧
      ((tgtOf s).halted = false → t.thl = s.thl) ∧ tgtPc t = tgtPc s ∧ t.mem = s.mem)) ∧
  (∀ s, PortServed s → s.dbg.level = 1 → s.dbg.tgtKind = 0 → ∀ c ∈ [Instr.dbgHalt, .dbgResume, .dbgStep],
    exec c s = .next (answered 2 0 (scanned s))) ∧
  (∀ s, PortServed s → 2 ≤ s.dbg.level.toNat → s.dbg.tgtKind = 0 → ∃ t, exec .dbgHalt s = .next t ∧ t.dbg.pup.halted = true ∧ t.thl = s.thl ∧ t.mem = s.mem)

/-- A step runs the command at the front of the queue; on an empty queue time passes. For every command and state, step with the command in
front is exec of it on the rest of the queue; on an empty queue step answers the state after one nanosecond (the model's choice, log
entry 5), and nothing passes while the device is held in reset. (95_what_each_step_holds.md) -/
def Obligations.StepRunsTheFrontCommand : Prop :=
  (∀ c cs (s : State), step { s with pending := c :: cs } = exec c { s with pending := cs }) ∧
  (∀ s, s.pending = [] → step s = .next (tick s)) ∧
  (∀ s, s.pending = [] → s.rst = .held → step s = .next s)

/-- No command changes the queue of waiting commands. For every command and state, where exec answers a next state, its queue is the queue
it was given. (95_what_each_step_holds.md) -/
def Obligations.CommandsLeaveTheQueue : Prop :=
  ∀ c s t, exec c s = .next t → t.pending = s.pending

/-- What reset leaves. The queue is empty, memory lists nothing, the invariant holds, and the configuration fields of power, commit,
snapshots, reduction, PCI, time, self-test, token rate and links are at the reset values of their register tables. That unlisted memory
reads 0 is the model's choice (log entry 3). (15_power_and_load_shaping.md, Registers and events; 10_step_commit_and_faults.md,
Registers and events; 11_snapshots_and_restore.md, Registers and events; 09_exact_reduction.md, Registers and events;
14_host_interface.md, Registers and events; 13_scavenlink_and_time.md, Registers and events; 17_self_test.md, Registers and events;
01_hierarchy_and_timing.md, Token rate against voltage and temperature) -/
def Obligations.ResetState : Prop :=
  let s := State.reset
  (s.Inv ∧ s.pending = [] ∧ ∀ a, s.mem.get a = 0) ∧
  (s.pwr.target = 3 ∧ s.pwr.fieldOff = 0 ∧ s.pwr.autoSleep = true ∧ s.pwr.idleMs = 1000 ∧ s.pwr.slew = 100 ∧ s.pwr.floorW = 0 ∧
    s.pwr.limitW = 2200 ∧ s.pwr.vmax = 4 ∧ s.pwr.vmin = 0 ∧ s.pwr.warnC = 100 ∧ s.pwr.wakeEn = true ∧ s.pwr.arpEn = false) ∧
  (s.cmt.step = 0 ∧ s.cmt.epoch = false ∧ s.cmt.retryMax = 2 ∧ s.cmt.skipMax = 4 ∧ s.cmt.collTmo = 5000 ∧ s.cmt.stepTmo = 120000) ∧
  (s.snap.periodS = 3600 ∧ s.snap.mirGbps = 32 ∧ s.snap.drainGbps = 16 ∧ s.snap.mirTmo = 10000) ∧
  (s.rdx.sealTmo = 2000 ∧ s.rdx.tagwaitBwd = 1000 ∧ s.rdx.tagwaitUpd = 1000) ∧
  (s.pci.logSize = 12 ∧ s.pci.irqCount = 16 ∧ s.pci.irqUs = 100 ∧ s.pci.logVec = 0 ∧ s.pci.urgentVec = 1 ∧ s.pci.rdTmo = 1000 ∧ s.pci.logEn = false) ∧
  (s.time.prio = 128 ∧ s.time.ppsWidth = 100 ∧ s.scrubPeriod = 12 ∧ s.bist.periodMin = 1440 ∧ s.bist.stagger = true) ∧
  (∀ t ∈ s.trate, t.rateMin = 0xFFFF ∧ t.rateMax = 0) ∧
  s.lnk.ackTmo = 1000 ∧ s.lnk.degradeThr = 100000 ∧ (∀ k ∈ s.lnk.link, k.enable = false)

/-- Every step keeps memory canonical and the log buffer within 4,096 records. From every state that meets the invariant, whatever command
is in front and whether or not the device runs, the state a step answers meets it: memory lists rising addresses with no byte at the
unlisted value, and the event log buffers at most 4,096 records. (14_host_interface.md, Event log (R294); 07_thallus_memory.md, The
device address map) -/
def Obligations.StepKeepsTheInvariant : Prop :=
  ∀ s t, s.Inv → step s = .next t → t.Inv

/-- No step lowers min_svn or changes what was written at manufacture. For every state and every step that answers a next state, min_svn is
no lower than before, and serial, keys, fuses and the rest of the part that is written once are unchanged. (16_boot_security_debug.md,
Updating the stored image (R331), Key vault and identity (R332); 00_scope.md, Variants) -/
def Obligations.MinSvnNeverFalls : Prop :=
  ∀ s t, step s = .next t → s.part.minSvn ≤ t.part.minSvn ∧ t.part.fixed = s.part.fixed
end

