-- ==== Sys2Proof/Laws/Around.lean ====
section
/-! SUPPORT. What an access to memory, an event or a message of the step may touch; everything else of the state stays. -/

namespace Sys2Proof.Machine

open Sys2Proof

/-- The state but for what an access to memory or an event may touch. -/
def around (s : State) : State :=
  { s with mem := {}, hbm := [], log := {}, pci := { s.pci with cntLogLost := 0 }, cmt := { s.cmt with worstRec := {} }
           crun := { s.crun with worst := {}, act := false, doneRec := {} }, srun := { s.srun with cntTapBytes := 0 }
           lnk := {}, out := [], rdx := { s.rdx with cntTxBytes := 0 } }

theorem around_logAt (w : Word) (a b c d e g : Nat) (s : State) : around (logAt w a b c d e g s) = around s := by
  unfold logAt; split <;> rfl

theorem around_logEv (a b c d e g : Nat) (s : State) : around (logEv a b c d e g s) = around s := around_logAt _ _ _ _ _ _ _ _

theorem around_recordClass (a b : Nat) (s : State) : around (recordClass a b s) = around s := by
  unfold recordClass
  dsimp only
  split
  · rfl
  · split <;> rfl

theorem around_fault (a b c d e : Nat) (s : State) : around (fault a b c d e s) = around s := by
  unfold fault; rw [around_recordClass, around_logEv]

theorem around_absentEv (ag : Agent) (a : Nat) (s : State) : around (absentEv ag a s) = around s := by
  have off : around (match compatOff s a with
      | some f => pwrEv 0xC7 0 0 f a s
      | none => s) = around s := by
    split
    · exact around_logEv _ _ _ _ _ _ _
    · rfl
  unfold absentEv
  cases ag <;> exact (around_logEv _ _ _ _ _ _ _).trans off

theorem around_aliasEv (ag : Agent) (a : Nat) (s : State) : around (aliasEv ag a s) = around s := by
  unfold aliasEv; cases ag <;> first | exact around_logEv _ _ _ _ _ _ _ | exact around_fault _ _ _ _ _ _

theorem around_memFaultEv (ag : Agent) (c a : Nat) (s : State) : around (memFaultEv ag c a s) = around s := by
  unfold memFaultEv; cases ag <;> exact around_fault _ _ _ _ _ _

theorem around_noteUncorr (p : Nat) (b : Bool) (s : State) : around (noteUncorr p b s) = around s := rfl

theorem around_badRead (ag : Agent) (a p : Nat) (s : State) : around (badRead ag a p s) = around s := by
  unfold badRead
  split
  · rw [around_memFaultEv, around_noteUncorr]
  · exact around_memFaultEv _ _ _ _

theorem around_readPiece (ag : Agent) (a n : Nat) (s : State) : around (readPiece ag a n s).1 = around s := by
  unfold readPiece
  split
  · exact around_absentEv _ _ _
  · split
    · exact around_badRead _ _ _ _
    · rfl

theorem around_readGo (ag : Agent) (fuel a n : Nat) (s : State) : around (readGo ag fuel a n s).1 = around s := by
  induction fuel generalizing a n s with
  | zero => rfl
  | succ fuel ih =>
    unfold readGo
    split
    · rfl
    · dsimp only
      have h1 := around_readPiece ag a (min n (64 - a % 64)) s
      split
      · rename_i s1 h; rw [h] at h1; exact h1
      · rename_i s1 bs h
        rw [h] at h1
        have h2 := ih (a + min n (64 - a % 64)) (n - min n (64 - a % 64)) s1
        split
        · rename_i s2 h3; rw [h3] at h2; exact h2.trans h1
        · rename_i s2 cs h3; rw [h3] at h2; exact h2.trans h1

theorem around_readMem (ag : Agent) (a n : Nat) (s : State) : around (readMem ag a n s).1 = around s := around_readGo _ _ _ _ _

theorem around_probe (a n : Nat) (s : State) : around (probe a n s) = around s := around_readMem _ _ _ _

theorem around_poke (p : Nat) (bs : List Byte) (s : State) : around (poke p bs s) = around s := rfl

theorem around_writeHbm (p : Nat) (bs : List Byte) (s : State) : around (writeHbm p bs s) = around s := by
  unfold writeHbm
  dsimp only
  split
  · split <;> rfl
  · rfl

theorem around_writeWord (p : Nat) (bs : List Byte) (s : State) : around (writeWord p bs s) = around s := by
  unfold writeWord
  split
  · split <;> rfl
  · rfl

theorem around_writeStore (fuel p : Nat) (bs : List Byte) (s : State) : around (writeStore fuel p bs s) = around s := by
  induction fuel generalizing p bs s with
  | zero => rfl
  | succ fuel ih =>
    unfold writeStore
    split
    · rfl
    · rw [ih, around_writeWord]

theorem around_writePhys (p : Nat) (bs : List Byte) (s : State) : around (writePhys p bs s) = around s := by
  unfold writePhys
  split
  · exact around_writeHbm _ _ _
  · exact around_writeStore _ _ _ _

theorem around_coverage (i : Nat) (s : State) : around (coverage i s) = around s := by
  unfold coverage
  dsimp only
  split
  · exact around_badRead _ _ _ _
  · split <;> rfl

theorem around_tap (o : Nat) (bs : List Byte) (s : State) : around (tap o bs s) = around s := by
  unfold tap
  split
  · split
    · rfl
    · dsimp only
      rw [around_coverage]
      exact around_writePhys _ _ _
  · rfl

theorem around_writePiece (ag : Agent) (a : Nat) (bs : List Byte) (s : State) : around (writePiece ag a bs s) = around s := by
  unfold writePiece
  split
  · exact around_absentEv _ _ _
  · split
    · exact around_aliasEv _ _ _
    · dsimp only
      split
      · split
        · rw [around_tap, around_writePhys]
        · exact around_aliasEv _ _ _
      · exact around_aliasEv _ _ _
    · exact around_writePhys _ _ _

theorem around_writeGo (ag : Agent) (fuel a : Nat) (bs : List Byte) (s : State) : around (writeGo ag fuel a bs s) = around s := by
  induction fuel generalizing a bs s with
  | zero => rfl
  | succ fuel ih =>
    unfold writeGo
    split
    · rfl
    · dsimp only
      rw [ih, around_writePiece]

theorem around_writeMem (ag : Agent) (a : Nat) (bs : List Byte) (s : State) : around (writeMem ag a bs s) = around s := around_writeGo _ _ _ _ _

theorem around_writeWords (a : Nat) (ws : List Word) (s : State) : around (writeWords a ws s) = around s := around_writeMem _ _ _ _

theorem around_foldl {α : Type} (f : State → α → State) (hf : ∀ s x, around (f s x) = around s) (xs : List α) (s : State) :
    around (xs.foldl f s) = around s := by
  induction xs generalizing s with
  | nil => rfl
  | cons x xs ih => rw [List.foldl_cons, ih, hf]

theorem thl_of_around {s t : State} (h : around t = around s) : t.thl = s.thl := by
  have := congrArg State.thl h; exact this

theorem around_lostEv (c : Nat) (t : Txn) (s : State) : around (lostEv c t s) = around s := by
  unfold lostEv
  dsimp only
  generalize (if (c == 0x94) = true then s.lnk.evt94 else s.lnk.evt95).isSome = b
  cases b
  · exact (around_logEv 5 0 c _ _ _ { s with lnk := { s.lnk with cntLost := satAdd s.lnk.cntLost 1 } } : _)
  · rfl

theorem around_place (x : OutTxn) (hx : x.owner = .step) (s : State) : around (place x s).1 = around s := by
  unfold place
  split
  · show around (txFailed x _) = around s
    unfold txFailed
    rw [hx]
    exact around_lostEv _ _ _
  · split <;> rfl

theorem around_sendTxn (dst : Nat) (body : TxnBody) (s : State) : around (sendTxn dst body .step s).1 = around s := by
  unfold sendTxn
  split
  · split <;> rfl
  · exact around_place _ rfl s

theorem around_sendBlocks (dst : Nat) (d : Bool) (fuel i : Nat) (bs : List (List Word)) (s : State) : around (sendBlocks dst d fuel i bs s) = around s := by
  induction fuel generalizing i bs s with
  | zero => rfl
  | succ fuel ih =>
    unfold sendBlocks
    split
    · rfl
    · dsimp only
      rw [ih]
      exact around_sendTxn dst _ s

theorem around_sendReply (dst : Nat) (body : TxnBody) (s : State) : around (sendReply dst body s) = around s := by
  unfold sendReply
  split <;> rfl

theorem around_takeRx (p : Txn → Bool) (ok : Bool) (r : Nat) (s : State) : around (takeRx p ok r s) = around s := by
  unfold takeRx
  split
  · rfl
  · exact around_sendReply _ _ _

theorem around_zeroPhys (a n : Nat) (s : State) : around (zeroPhys a n s) = around s := rfl

theorem around_zeroMem (a n : Nat) (s : State) : around (zeroMem a n s) = around s := by
  unfold zeroMem
  split
  · exact around_absentEv _ _ _
  · rfl

theorem gov_of_around {s t : State} (h : around t = around s) : t.gov = s.gov := by
  have := congrArg State.gov h; exact this

theorem step_of_around {s t : State} (h : around t = around s) : t.cmt.step = s.cmt.step := by
  have := congrArg (fun x : State => x.cmt.step) h; exact this

end Sys2Proof.Machine
end

