-- ==== Sys2Proof/Laws/Events.lean ====
section
/-! SUPPORT. Logging an event changes the log and its lost count only; where the log unit has room, one record with the given cause is appended. -/

namespace Sys2Proof.Machine

open Sys2Proof

/-- An event touches the log and its loss counter only. -/
theorem logAt_form (w : Word) (a b c d e g : Nat) (s : State) :
    ∃ L n, logAt w a b c d e g s = { s with log := L, pci := { s.pci with cntLogLost := n } } := by
  unfold logAt
  split
  · exact ⟨_, s.pci.cntLogLost, rfl⟩
  · exact ⟨_, _, rfl⟩

theorem logEv_form (a b c d e g : Nat) (s : State) :
    ∃ L n, logEv a b c d e g s = { s with log := L, pci := { s.pci with cntLogLost := n } } := logAt_form _ _ _ _ _ _ _ _

theorem lnkEv_form (a b c d : Nat) (s : State) :
    ∃ L n, lnkEv a b c d s = { s with log := L, pci := { s.pci with cntLogLost := n } } := logEv_form _ _ _ _ _ _ _

theorem logEv_rec (a b c d e g : Nat) (s : State) : ∃ L n, logEv a b c d e g s = { s with log := L, pci := { s.pci with cntLogLost := n } } ∧
    (s.log.buf.length < 4096 → ∃ r, L.buf = s.log.buf ++ [r] ∧ r.cause = BitVec.ofNat 8 c ∧ r.source = BitVec.ofNat 4 a ∧ r.cls = BitVec.ofNat 2 b ∧
      r.w0 = BitVec.ofNat 64 (d ||| c) ∧ r.w1 = s.time.now ∧ r.w2 = BitVec.ofNat 64 e ∧ r.w3 = BitVec.ofNat 64 g) := by
  unfold logEv logAt
  split
  · exact ⟨_, s.pci.cntLogLost, rfl, fun _ => ⟨_, rfl, rfl, rfl, rfl, rfl, rfl, rfl, rfl⟩⟩
  · rename_i h
    exact ⟨_, _, rfl, fun h' => absurd h' h⟩

theorem pwrEv_rec (c a b f w3 : Nat) (s : State) : ∃ L n, pwrEv c a b f w3 s = { s with log := L, pci := { s.pci with cntLogLost := n } } ∧
    (s.log.buf.length < 4096 → ∃ r, L.buf = s.log.buf ++ [r] ∧ r.cause = BitVec.ofNat 8 c ∧ r.source = 9 ∧ r.cls = 0 ∧ r.w1 = s.time.now ∧
      r.w3 = BitVec.ofNat 64 w3) := by
  obtain ⟨L, n, e, h⟩ := logEv_rec 9 0 c (a <<< 8 ||| b <<< 11 ||| f <<< 14) (if jobLoaded s then s.cmt.step.toNat else 0) w3 s
  refine ⟨L, n, e, fun hl => ?_⟩
  obtain ⟨r, h1, h2, h3, h4, _, h5, _, h6⟩ := h hl
  exact ⟨r, h1, h2, h3, h4, h5, h6⟩

theorem secEv_form (c r w : Nat) (s : State) : ∃ L n, secEv c r w s = { s with log := L, pci := { s.pci with cntLogLost := n } } :=
  logEv_form _ _ _ _ _ _ _

theorem bistEv_form (c r w : Nat) (s : State) : ∃ L n, bistEv c r w s = { s with log := L, pci := { s.pci with cntLogLost := n } } :=
  logEv_form _ _ _ _ _ _ _

theorem dbgEv_rec (c r g w : Nat) (s : State) : ∃ L n, dbgEv c r g w s = { s with log := L, pci := { s.pci with cntLogLost := n } } ∧
    (s.log.buf.length < 4096 → ∃ e, L.buf = s.log.buf ++ [e] ∧ e.cause = BitVec.ofNat 8 c ∧ e.source = 11 ∧ e.cls = 0) := by
  obtain ⟨L, n, e, h⟩ := logEv_rec 11 0 c (r <<< 8 ||| s.dbg.level.toNat <<< 12 ||| g <<< 14) (if jobLoaded s then s.cmt.step.toNat else 0) w s
  refine ⟨L, n, e, fun hl => ?_⟩
  obtain ⟨r, h1, h2, h3, h4, _⟩ := h hl
  exact ⟨r, h1, h2, h3, h4⟩

theorem haltEv_form (g pc : Nat) (s : State) : ∃ L n b, haltEv g pc s = { s with log := L, pci := { s.pci with cntLogLost := n }, dbg := { s.dbg with haltLogged := b } } := by
  unfold haltEv
  split
  · obtain ⟨L, n, e, _⟩ := dbgEv_rec 0xE3 0 g pc { s with dbg := { s.dbg with haltLogged := true } }
    exact ⟨L, n, true, e⟩
  · exact ⟨s.log, s.pci.cntLogLost, s.dbg.haltLogged, rfl⟩

theorem absent_form (ag : Agent) (a : Nat) (s : State) : ∃ L n, absentEv ag a s = { s with log := L, pci := { s.pci with cntLogLost := n } } := by
  have off : ∃ L n, (match compatOff s a with
      | some f => pwrEv 0xC7 0 0 f a s
      | none => s) = { s with log := L, pci := { s.pci with cntLogLost := n } } := by
    split
    · exact logEv_form _ _ _ _ _ _ _
    · exact ⟨s.log, s.pci.cntLogLost, rfl⟩
  have key : ∀ (a b c d e g : Nat) (t : State), (∃ L n, t = { s with log := L, pci := { s.pci with cntLogLost := n } }) →
      ∃ L n, logEv a b c d e g t = { s with log := L, pci := { s.pci with cntLogLost := n } } := by
    rintro a b c d e g t ⟨L, n, rfl⟩
    exact logEv_form _ _ _ _ _ _ _
  unfold absentEv
  cases ag <;> exact key _ _ _ _ _ _ _ off

theorem hole_form (who : Who) (off : Nat) (s : State) : ∃ L n, holeEv who off s = { s with log := L, pci := { s.pci with cntLogLost := n } } := by
  unfold holeEv
  exact absent_form _ _ _

end Sys2Proof.Machine
end

