-- ==== Sys2Proof/Laws/Sparse.lean ====
section
/-! SUPPORT. Sparse storage: every operation keeps the canonical form; a read after a write gives the value written, and a write leaves
every other key alone. -/

namespace Sys2Proof.Machine

open Sys2Proof

/-- A key lies above the bound of `okFrom`. -/
def Above (lo : Option Nat) (a : Nat) : Prop := ∀ l, lo = some l → l < a

theorem okFrom_cons {w : Nat} {lo : Option Nat} {k : Nat} {v : BitVec w} {m : Sparse w} :
    Sparse.okFrom lo ((k, v) :: m) = true ↔ Above lo k ∧ v ≠ 0 ∧ Sparse.okFrom (some k) m = true := by
  cases lo with
  | none => simp [Sparse.okFrom, Above]
  | some l => simp [Sparse.okFrom, Above, and_assoc]

theorem okFrom_weaken {w : Nat} {lo lo' : Option Nat} {m : Sparse w} (h : Sparse.okFrom lo m = true)
    (hl : ∀ k, Above lo k → Above lo' k) : Sparse.okFrom lo' m = true := by
  cases m with
  | nil => rfl
  | cons p m =>
    obtain ⟨k, v⟩ := p
    rw [okFrom_cons] at h ⊢
    exact ⟨hl k h.1, h.2⟩

theorem Sparse.set_okFrom {w : Nat} {m : Sparse w} {lo : Option Nat} {a : Nat} {x : BitVec w} (h : Sparse.okFrom lo m = true)
    (ha : Above lo a) : Sparse.okFrom lo (Sparse.set m a x) = true := by
  induction m generalizing lo with
  | nil =>
    unfold Sparse.set
    by_cases hx : x = 0
    · simp [hx, Sparse.okFrom]
    · simp only [beq_iff_eq, hx, if_false]
      exact okFrom_cons.2 ⟨ha, hx, rfl⟩
  | cons p m ih =>
    obtain ⟨k, v⟩ := p
    have hc := okFrom_cons.1 h
    unfold Sparse.set
    by_cases h1 : a < k
    · simp only [h1, if_true]
      by_cases hx : x = 0
      · simpa [hx] using h
      · simp only [beq_iff_eq, hx, if_false]
        refine okFrom_cons.2 ⟨ha, hx, okFrom_cons.2 ⟨?_, hc.2⟩⟩
        intro l e; cases e; exact h1
    · simp only [h1, if_false]
      by_cases h2 : a = k
      · subst h2
        simp only [beq_self_eq_true, if_true]
        by_cases hx : x = 0
        · simp only [hx, beq_self_eq_true, if_true]
          refine okFrom_weaken hc.2.2 fun j hj l e => ?_
          exact Nat.lt_trans (hc.1 l e) (hj a rfl)
        · simp only [beq_iff_eq, hx, if_false]
          exact okFrom_cons.2 ⟨ha, hx, hc.2.2⟩
      · simp only [beq_iff_eq, h2, if_false]
        refine okFrom_cons.2 ⟨hc.1, hc.2.1, ih hc.2.2 ?_⟩
        intro l e; cases e; omega

theorem Sparse.set_wf {w : Nat} {m : Sparse w} {a : Nat} {x : BitVec w} (h : m.wf = true) : (Sparse.set m a x).wf = true :=
  Sparse.set_okFrom h (by intro l e; cases e)

theorem Sparse.sets_wf {w : Nat} {xs : List (BitVec w)} {m : Sparse w} {a : Nat} (h : m.wf = true) :
    (Sparse.sets m a xs).wf = true := by
  induction xs generalizing m a with
  | nil => exact h
  | cons x xs ih => exact ih (Sparse.set_wf h)

theorem Sparse.filter_okFrom {w : Nat} {m : Sparse w} {f : Nat × BitVec w → Bool} {lo : Option Nat} (h : Sparse.okFrom lo m = true) :
    Sparse.okFrom lo (m.filter f) = true := by
  induction m generalizing lo with
  | nil => rfl
  | cons p m ih =>
    obtain ⟨k, v⟩ := p
    have hc := okFrom_cons.1 h
    by_cases hf : f (k, v)
    · rw [List.filter_cons_of_pos hf]
      exact okFrom_cons.2 ⟨hc.1, hc.2.1, ih hc.2.2⟩
    · rw [List.filter_cons_of_neg hf]
      refine okFrom_weaken (ih hc.2.2) fun j hj l e => ?_
      exact Nat.lt_trans (hc.1 l e) (hj k rfl)

theorem Sparse.filter_wf {w : Nat} {m : Sparse w} {f : Nat × BitVec w → Bool} (h : m.wf = true) : Sparse.wf (m.filter f) = true :=
  Sparse.filter_okFrom h

/-- No key at or below the bound is listed. -/
theorem Sparse.get_low {w : Nat} {m : Sparse w} {l b : Nat} (h : Sparse.okFrom (some l) m = true) (hb : b ≤ l) :
    Sparse.get m b = 0 := by
  induction m generalizing l with
  | nil => rfl
  | cons p m ih =>
    obtain ⟨k, v⟩ := p
    have hc := okFrom_cons.1 h
    have hk : l < k := hc.1 l rfl
    unfold Sparse.get
    have : ¬ (k == b) = true := by simp; omega
    simp only [this]
    exact ih hc.2.2 (by omega)

theorem Sparse.get_set {w : Nat} {m : Sparse w} {lo : Option Nat} {a b : Nat} {x : BitVec w} (h : Sparse.okFrom lo m = true) :
    Sparse.get (Sparse.set m a x) b = if b = a then x else Sparse.get m b := by
  induction m generalizing lo with
  | nil =>
    unfold Sparse.set
    by_cases hx : x = 0
    · simp [hx, Sparse.get]
    · simp only [beq_iff_eq, hx, if_false, Sparse.get]
      by_cases hb : a = b
      · simp [hb]
      · simp [hb, Ne.symm hb]
  | cons p m ih =>
    obtain ⟨k, v⟩ := p
    have hc := okFrom_cons.1 h
    unfold Sparse.set
    by_cases h1 : a < k
    · simp only [h1, if_true]
      by_cases hx : x = 0
      · simp only [hx, beq_self_eq_true, if_true]
        by_cases hb : b = a
        · subst hb
          simp only [if_true]
          refine Sparse.get_low (l := b) (okFrom_cons.2 ⟨?_, hc.2⟩) (le_refl b)
          intro l e; cases e; exact h1
        · simp [hb]
      · simp only [beq_iff_eq, hx, if_false]
        by_cases hb : b = a
        · simp [hb, Sparse.get]
        · rw [Sparse.get]
          simp [Ne.symm hb, hb]
    · simp only [h1, if_false]
      by_cases h2 : a = k
      · subst h2
        simp only [beq_self_eq_true, if_true]
        by_cases hx : x = 0
        · simp only [hx, beq_self_eq_true, if_true]
          by_cases hb : b = a
          · subst hb
            simp only [if_true]
            exact Sparse.get_low hc.2.2 (le_refl b)
          · simp [hb, Sparse.get, Ne.symm hb]
        · simp only [beq_iff_eq, hx, if_false]
          by_cases hb : b = a
          · simp [hb, Sparse.get]
          · simp [hb, Sparse.get, Ne.symm hb]
      · simp only [beq_iff_eq, h2, if_false]
        rw [Sparse.get, Sparse.get, ih hc.2.2]
        by_cases hb : b = k
        · subst hb
          simp [Ne.symm h2]
        · simp [Ne.symm hb]

/-- What a run of writes leaves at a key: the byte written there, or what was there. -/
theorem Sparse.get_sets {w : Nat} {xs : List (BitVec w)} {m : Sparse w} {a b : Nat} (h : m.wf = true) :
    Sparse.get (Sparse.sets m a xs) b = if a ≤ b ∧ b < a + xs.length then xs.getD (b - a) 0 else Sparse.get m b := by
  induction xs generalizing m a with
  | nil =>
    have : ¬ (a ≤ b ∧ b < a + ([] : List (BitVec w)).length) := by simp
    rw [if_neg this]; rfl
  | cons x xs ih =>
    rw [Sparse.sets, ih (Sparse.set_wf h), Sparse.get_set h]
    by_cases hb : b = a
    · subst hb
      have h1 : ¬ (b + 1 ≤ b ∧ b < b + 1 + xs.length) := by omega
      have h2 : b ≤ b ∧ b < b + (x :: xs).length := by simp
      rw [if_neg h1, if_pos h2]; simp
    · by_cases hc : a + 1 ≤ b ∧ b < a + 1 + xs.length
      · have h2 : a ≤ b ∧ b < a + (x :: xs).length := by simp; omega
        rw [if_pos hc, if_pos h2]
        have : b - a = (b - (a + 1)) + 1 := by omega
        rw [this]; simp
      · have h2 : ¬ (a ≤ b ∧ b < a + (x :: xs).length) := by simp; omega
        rw [if_neg hc, if_neg h2, if_neg hb]

end Sys2Proof.Machine
end

