-- ==== Sys2Proof/Laws/Kept.lean ====
section
/-! SUPPORT. What no command and no tick changes: the queue, the fixed part; and what every one keeps: memory in canonical form, the
bound of the log buffer, min_svn never lower. `Kept σ t` says so of the passage from `σ` to `t`; the rules below follow a state
through the ways in which the model's definitions build one. -/

namespace Sys2Proof.Machine

open Sys2Proof

/-- From `σ` to `t` the queue and the fixed part are the same, min_svn is no lower, and the invariant is kept. -/
structure Kept (σ t : State) : Prop where
  pending : t.pending = σ.pending
  fixed : t.part.fixed = σ.part.fixed
  minSvn : σ.part.minSvn ≤ t.part.minSvn
  mem : σ.mem.wf = true → t.mem.wf = true
  log : σ.log.buf.length ≤ 4096 → t.log.buf.length ≤ 4096

theorem Kept.refl (s : State) : Kept s s := ⟨rfl, rfl, le_refl _, id, id⟩

theorem Kept.trans {a b c : State} (h : Kept a b) (g : Kept b c) : Kept a c :=
  ⟨g.pending.trans h.pending, g.fixed.trans h.fixed, h.minSvn.trans g.minSvn, g.mem ∘ h.mem, g.log ∘ h.log⟩

/-- A record update that leaves the queue, memory contents, the log buffer and what is kept of the part. -/
theorem Kept.upd {σ X : State} {part : Part} {pins : Pins} {rst : RstPhase} {refclkLost : Bool} {refclkTimer : Timer} {caps : Caps} {time : TimeSt} {trate : List Trate} {mem : Mem} {hbm : List HbmStack} {scrubPeriod : BitVec 8} {thl : List Thallus} {gov : Gov} {rdx : Rdx} {cmt : Cmt} {crun : CmtRun} {win : List Win} {snap : SnapReg} {srun : SnapRun} {lnk : Lnk} {pci : Pci} {port : PciPort} {log : Log} {pwr : Pwr} {prun : PwrRun} {sec : Sec} {dbg : Dbg} {bist : Bist} {reg : RegBlk} {fwCmds : List FwCmd} {nonce : Nat} {out : List Out}
    (hp : part.fixed = X.part.fixed) (hv : part.minSvn = X.part.minSvn) (hm : mem.bytes = X.mem.bytes) (hl : log.buf = X.log.buf)
    (h : Kept σ X) :
    Kept σ (State.mk X.pending part pins rst refclkLost refclkTimer caps time trate mem hbm scrubPeriod thl gov rdx cmt crun win snap srun lnk pci port log pwr prun sec dbg bist reg fwCmds nonce out) :=
  ⟨h.pending, hp.trans h.fixed, hv.symm ▸ h.minSvn, fun w => by
    have := h.mem w
    unfold Mem.wf at this ⊢
    exact hm ▸ this, fun w => by
    have := h.log w
    rw [← hl] at this
    exact this⟩

/-- A record update that takes bytes out of memory. -/
theorem Kept.filt {σ X : State} {f : Nat × BitVec 8 → Bool} {part : Part} {pins : Pins} {rst : RstPhase} {refclkLost : Bool} {refclkTimer : Timer} {caps : Caps} {time : TimeSt} {trate : List Trate} {mem : Mem} {hbm : List HbmStack} {scrubPeriod : BitVec 8} {thl : List Thallus} {gov : Gov} {rdx : Rdx} {cmt : Cmt} {crun : CmtRun} {win : List Win} {snap : SnapReg} {srun : SnapRun} {lnk : Lnk} {pci : Pci} {port : PciPort} {log : Log} {pwr : Pwr} {prun : PwrRun} {sec : Sec} {dbg : Dbg} {bist : Bist} {reg : RegBlk} {fwCmds : List FwCmd} {nonce : Nat} {out : List Out}
    (hp : part.fixed = X.part.fixed) (hv : part.minSvn = X.part.minSvn) (hm : mem.bytes = X.mem.bytes.filter f) (hl : log.buf = X.log.buf)
    (h : Kept σ X) :
    Kept σ (State.mk X.pending part pins rst refclkLost refclkTimer caps time trate mem hbm scrubPeriod thl gov rdx cmt crun win snap srun lnk pci port log pwr prun sec dbg bist reg fwCmds nonce out) :=
  ⟨h.pending, hp.trans h.fixed, hv.symm ▸ h.minSvn, fun w => by
    have := h.mem w
    unfold Mem.wf at this ⊢
    exact hm ▸ Sparse.filter_wf this, fun w => by
    have := h.log w
    rw [← hl] at this
    exact this⟩

/-- A record update that takes records out of the log buffer. -/
theorem Kept.logTake {σ X : State} {n : Nat} {part : Part} {pins : Pins} {rst : RstPhase} {refclkLost : Bool} {refclkTimer : Timer} {caps : Caps} {time : TimeSt} {trate : List Trate} {mem : Mem} {hbm : List HbmStack} {scrubPeriod : BitVec 8} {thl : List Thallus} {gov : Gov} {rdx : Rdx} {cmt : Cmt} {crun : CmtRun} {win : List Win} {snap : SnapReg} {srun : SnapRun} {lnk : Lnk} {pci : Pci} {port : PciPort} {log : Log} {pwr : Pwr} {prun : PwrRun} {sec : Sec} {dbg : Dbg} {bist : Bist} {reg : RegBlk} {fwCmds : List FwCmd} {nonce : Nat} {out : List Out}
    (hp : part.fixed = X.part.fixed) (hv : part.minSvn = X.part.minSvn) (hm : mem.bytes = X.mem.bytes) (hl : log.buf = X.log.buf.drop n)
    (h : Kept σ X) :
    Kept σ (State.mk X.pending part pins rst refclkLost refclkTimer caps time trate mem hbm scrubPeriod thl gov rdx cmt crun win snap srun lnk pci port log pwr prun sec dbg bist reg fwCmds nonce out) :=
  ⟨h.pending, hp.trans h.fixed, hv.symm ▸ h.minSvn, fun w => by
    have := h.mem w
    unfold Mem.wf at this ⊢
    exact hm ▸ this, fun w => by
    have := h.log w
    rw [hl, List.length_drop]
    omega⟩

theorem Kept.ite {σ a b : State} {c : Prop} [Decidable c] (ha : Kept σ a) (hb : Kept σ b) : Kept σ (if c then a else b) := by
  split <;> assumption

theorem Kept.ite1 {α : Type} {σ : State} {a b : State × α} {c : Prop} [Decidable c] (ha : Kept σ a.1) (hb : Kept σ b.1) :
    Kept σ (if c then a else b).1 := by
  split <;> assumption

theorem Kept.pair {α : Type} {σ s : State} {x : α} (h : Kept σ s) : Kept σ (s, x).1 := h

theorem Kept.foldl {α : Type} {σ s : State} {f : State → α → State} {l : List α} (h : Kept σ s)
    (hf : ∀ t x, Kept σ t → Kept σ (f t x)) : Kept σ (l.foldl f s) := by
  induction l generalizing s with
  | nil => exact h
  | cons x xs ih => exact ih (hf s x h)

theorem Kept.foldl1 {α β : Type} {σ : State} {p : State × β} {f : State × β → α → State × β} {l : List α} (h : Kept σ p.1)
    (hf : ∀ p x, Kept σ p.1 → Kept σ (f p x).1) : Kept σ (l.foldl f p).1 := by
  induction l generalizing p with
  | nil => exact h
  | cons x xs ih => exact ih (hf p x h)

/-- The state of a pair that an equation names. -/
theorem Kept.of_eq {α : Type} {σ t : State} {r : α} {p : State × α} (e : p = (t, r)) (h : Kept σ p.1) : Kept σ t := by
  rw [e] at h
  exact h

/-- Every next state that a meaning answers is kept. -/
structure ResKept (σ : State) (r : Res) : Prop where
  keeps : ∀ t, r = .next t → Kept σ t

theorem ResKept.need {σ t : State} {u v : Bool} (h : Kept σ t) : ResKept σ (need u v t) := by
  refine ⟨fun t' e => ?_⟩
  unfold Machine.need at e
  split at e
  · cases e
  · split at e
    · cases e
    · cases e; exact h

theorem ResKept.always {σ t : State} (h : Kept σ t) : ResKept σ (always t) :=
  ⟨fun t' e => by cases e; exact h⟩

theorem ResKept.next {σ t : State} (h : Kept σ t) : ResKept σ (.next t) :=
  ⟨fun t' e => by cases e; exact h⟩

theorem ResKept.fault {σ : State} {f : Fault} : ResKept σ (.fault f) :=
  ⟨fun t' e => by cases e⟩

theorem ResKept.ite {σ : State} {a b : Res} {c : Prop} [Decidable c] (ha : ResKept σ a) (hb : ResKept σ b) :
    ResKept σ (if c then a else b) := by
  split <;> assumption

end Sys2Proof.Machine
end

