-- ==== Sys2Proof/Laws/KeptOps.lean ====
section
/-! SUPPORT. The definitions of Machine/Ops.lean keep (Laws/Kept.lean). -/

namespace Sys2Proof.Machine

open Sys2Proof

theorem kept_modThl {σ : State} (n : Nat) (f : Thallus → Thallus) (s : State)  (h : Kept σ s) : Kept σ (modThl n f s) := by
  unfold modThl
  try dsimp only
  repeat' (first
    | intro _
    | with_reducible assumption
    | refine Kept.of_eq (by with_reducible assumption) ?_
    | with_reducible apply Kept.ite
    | with_reducible apply Kept.ite1
    | with_reducible apply Kept.foldl
    | with_reducible apply Kept.foldl1
    | (fail_if_no_progress (with_reducible refine Kept.upd ?_ ?_ ?_ ?_ ?_; exact rfl; exact rfl; exact rfl; exact rfl))
    | (with_reducible refine Kept.filt rfl rfl rfl rfl ?_)
    | split
    | dsimp only)

theorem kept_modStrm {σ : State} (n : Nat) (q : Nat) (f : Stream → Stream) (s : State)  (h : Kept σ s) : Kept σ (modStrm n q f s) := by
  unfold modStrm
  try dsimp only
  repeat' (first
    | intro _
    | with_reducible assumption
    | refine Kept.of_eq (by with_reducible assumption) ?_
    | with_reducible apply Kept.ite
    | with_reducible apply Kept.ite1
    | with_reducible apply kept_modThl
    | with_reducible apply Kept.foldl
    | with_reducible apply Kept.foldl1
    | (fail_if_no_progress (with_reducible refine Kept.upd ?_ ?_ ?_ ?_ ?_; exact rfl; exact rfl; exact rfl; exact rfl))
    | (with_reducible refine Kept.filt rfl rfl rfl rfl ?_)
    | split
    | dsimp only)

theorem kept_modEng {σ : State} (n : Nat) (m : Nat) (f : Engine → Engine) (s : State)  (h : Kept σ s) : Kept σ (modEng n m f s) := by
  unfold modEng
  try dsimp only
  repeat' (first
    | intro _
    | with_reducible assumption
    | refine Kept.of_eq (by with_reducible assumption) ?_
    | with_reducible apply Kept.ite
    | with_reducible apply Kept.ite1
    | with_reducible apply kept_modThl
    | with_reducible apply Kept.foldl
    | with_reducible apply Kept.foldl1
    | (fail_if_no_progress (with_reducible refine Kept.upd ?_ ?_ ?_ ?_ ?_; exact rfl; exact rfl; exact rfl; exact rfl))
    | (with_reducible refine Kept.filt rfl rfl rfl rfl ?_)
    | split
    | dsimp only)

theorem kept_modCore {σ : State} (n : Nat) (c : Nat) (f : Core → Core) (s : State)  (h : Kept σ s) : Kept σ (modCore n c f s) := by
  unfold modCore
  try dsimp only
  repeat' (first
    | intro _
    | with_reducible assumption
    | refine Kept.of_eq (by with_reducible assumption) ?_
    | with_reducible apply Kept.ite
    | with_reducible apply Kept.ite1
    | with_reducible apply kept_modThl
    | with_reducible apply Kept.foldl
    | with_reducible apply Kept.foldl1
    | (fail_if_no_progress (with_reducible refine Kept.upd ?_ ?_ ?_ ?_ ?_; exact rfl; exact rfl; exact rfl; exact rfl))
    | (with_reducible refine Kept.filt rfl rfl rfl rfl ?_)
    | split
    | dsimp only)

theorem kept_modFrond {σ : State} (n : Nat) (m : Nat) (k : Nat) (f : Frond → Frond) (s : State)  (h : Kept σ s) : Kept σ (modFrond n m k f s) := by
  unfold modFrond
  try dsimp only
  repeat' (first
    | intro _
    | with_reducible assumption
    | refine Kept.of_eq (by with_reducible assumption) ?_
    | with_reducible apply Kept.ite
    | with_reducible apply Kept.ite1
    | with_reducible apply kept_modEng
    | with_reducible apply Kept.foldl
    | with_reducible apply Kept.foldl1
    | (fail_if_no_progress (with_reducible refine Kept.upd ?_ ?_ ?_ ?_ ?_; exact rfl; exact rfl; exact rfl; exact rfl))
    | (with_reducible refine Kept.filt rfl rfl rfl rfl ?_)
    | split
    | dsimp only)

theorem kept_modDma {σ : State} (n : Nat) (ch : Nat) (f : List DmaEntry → List DmaEntry) (s : State)  (h : Kept σ s) : Kept σ (modDma n ch f s) := by
  unfold modDma
  try dsimp only
  repeat' (first
    | intro _
    | with_reducible assumption
    | refine Kept.of_eq (by with_reducible assumption) ?_
    | with_reducible apply Kept.ite
    | with_reducible apply Kept.ite1
    | with_reducible apply kept_modThl
    | with_reducible apply Kept.foldl
    | with_reducible apply Kept.foldl1
    | (fail_if_no_progress (with_reducible refine Kept.upd ?_ ?_ ?_ ?_ ?_; exact rfl; exact rfl; exact rfl; exact rfl))
    | (with_reducible refine Kept.filt rfl rfl rfl rfl ?_)
    | split
    | dsimp only)

theorem kept_modLink {σ : State} (l : Nat) (f : Link → Link) (s : State)  (h : Kept σ s) : Kept σ (modLink l f s) := by
  unfold modLink
  try dsimp only
  repeat' (first
    | intro _
    | with_reducible assumption
    | refine Kept.of_eq (by with_reducible assumption) ?_
    | with_reducible apply Kept.ite
    | with_reducible apply Kept.ite1
    | with_reducible apply Kept.foldl
    | with_reducible apply Kept.foldl1
    | (fail_if_no_progress (with_reducible refine Kept.upd ?_ ?_ ?_ ?_ ?_; exact rfl; exact rfl; exact rfl; exact rfl))
    | (with_reducible refine Kept.filt rfl rfl rfl rfl ?_)
    | split
    | dsimp only)

theorem kept_emit {σ : State} (o : Out) (s : State)  (h : Kept σ s) : Kept σ (emit o s) := by
  unfold emit
  try dsimp only
  repeat' (first
    | intro _
    | with_reducible assumption
    | refine Kept.of_eq (by with_reducible assumption) ?_
    | with_reducible apply Kept.ite
    | with_reducible apply Kept.ite1
    | with_reducible apply Kept.foldl
    | with_reducible apply Kept.foldl1
    | (fail_if_no_progress (with_reducible refine Kept.upd ?_ ?_ ?_ ?_ ?_; exact rfl; exact rfl; exact rfl; exact rfl))
    | (with_reducible refine Kept.filt rfl rfl rfl rfl ?_)
    | split
    | dsimp only)

theorem kept_logAt {σ : State} (w1 : Word) (src cls cause w0 w2 w3 : Nat) (s : State) (h : Kept σ s) :
    Kept σ (logAt w1 src cls cause w0 w2 w3 s) := by
  unfold logAt
  split
  · exact ⟨h.pending, h.fixed, h.minSvn, h.mem, fun _ => by simp; omega⟩
  · exact Kept.upd rfl rfl rfl rfl h

theorem kept_logEv {σ : State} (src : Nat) (cls : Nat) (cause : Nat) (w0 : Nat) (w2 : Nat) (w3 : Nat) (s : State)  (h : Kept σ s) : Kept σ (logEv src cls cause w0 w2 w3 s) := by
  unfold logEv
  try dsimp only
  repeat' (first
    | intro _
    | with_reducible assumption
    | refine Kept.of_eq (by with_reducible assumption) ?_
    | with_reducible apply Kept.ite
    | with_reducible apply Kept.ite1
    | with_reducible apply kept_logAt
    | with_reducible apply Kept.foldl
    | with_reducible apply Kept.foldl1
    | (fail_if_no_progress (with_reducible refine Kept.upd ?_ ?_ ?_ ?_ ?_; exact rfl; exact rfl; exact rfl; exact rfl))
    | (with_reducible refine Kept.filt rfl rfl rfl rfl ?_)
    | split
    | dsimp only)

theorem kept_recordClass {σ : State} (cls : Nat) (cause : Nat) (s : State)  (h : Kept σ s) : Kept σ (recordClass cls cause s) := by
  unfold recordClass
  try dsimp only
  repeat' (first
    | intro _
    | with_reducible assumption
    | refine Kept.of_eq (by with_reducible assumption) ?_
    | with_reducible apply Kept.ite
    | with_reducible apply Kept.ite1
    | with_reducible apply Kept.foldl
    | with_reducible apply Kept.foldl1
    | (fail_if_no_progress (with_reducible refine Kept.upd ?_ ?_ ?_ ?_ ?_; exact rfl; exact rfl; exact rfl; exact rfl))
    | (with_reducible refine Kept.filt rfl rfl rfl rfl ?_)
    | split
    | dsimp only)

theorem kept_fault {σ : State} (src : Nat) (cause : Nat) (w0 : Nat) (w2 : Nat) (w3 : Nat) (s : State)  (h : Kept σ s) : Kept σ (fault src cause w0 w2 w3 s) := by
  unfold fault
  try dsimp only
  repeat' (first
    | intro _
    | with_reducible assumption
    | refine Kept.of_eq (by with_reducible assumption) ?_
    | with_reducible apply Kept.ite
    | with_reducible apply Kept.ite1
    | with_reducible apply kept_logEv
    | with_reducible apply kept_recordClass
    | with_reducible apply Kept.foldl
    | with_reducible apply Kept.foldl1
    | (fail_if_no_progress (with_reducible refine Kept.upd ?_ ?_ ?_ ?_ ?_; exact rfl; exact rfl; exact rfl; exact rfl))
    | (with_reducible refine Kept.filt rfl rfl rfl rfl ?_)
    | split
    | dsimp only)

theorem kept_aliasEv {σ : State} (ag : Agent) (a : Nat) (s : State)  (h : Kept σ s) : Kept σ (aliasEv ag a s) := by
  unfold aliasEv
  try dsimp only
  repeat' (first
    | intro _
    | with_reducible assumption
    | refine Kept.of_eq (by with_reducible assumption) ?_
    | with_reducible apply Kept.ite
    | with_reducible apply Kept.ite1
    | with_reducible apply kept_logEv
    | with_reducible apply kept_fault
    | with_reducible apply Kept.foldl
    | with_reducible apply Kept.foldl1
    | (fail_if_no_progress (with_reducible refine Kept.upd ?_ ?_ ?_ ?_ ?_; exact rfl; exact rfl; exact rfl; exact rfl))
    | (with_reducible refine Kept.filt rfl rfl rfl rfl ?_)
    | split
    | dsimp only)

theorem kept_memFaultEv {σ : State} (ag : Agent) (cause : Nat) (a : Nat) (s : State)  (h : Kept σ s) : Kept σ (memFaultEv ag cause a s) := by
  unfold memFaultEv
  try dsimp only
  repeat' (first
    | intro _
    | with_reducible assumption
    | refine Kept.of_eq (by with_reducible assumption) ?_
    | with_reducible apply Kept.ite
    | with_reducible apply Kept.ite1
    | with_reducible apply kept_fault
    | with_reducible apply Kept.foldl
    | with_reducible apply Kept.foldl1
    | (fail_if_no_progress (with_reducible refine Kept.upd ?_ ?_ ?_ ?_ ?_; exact rfl; exact rfl; exact rfl; exact rfl))
    | (with_reducible refine Kept.filt rfl rfl rfl rfl ?_)
    | split
    | dsimp only)

theorem kept_pwrEv {σ : State} (cause : Nat) (before : Nat) (after : Nat) (f : Nat) (w3 : Nat) (s : State)  (h : Kept σ s) : Kept σ (pwrEv cause before after f w3 s) := by
  unfold pwrEv
  try dsimp only
  repeat' (first
    | intro _
    | with_reducible assumption
    | refine Kept.of_eq (by with_reducible assumption) ?_
    | with_reducible apply Kept.ite
    | with_reducible apply Kept.ite1
    | with_reducible apply kept_logEv
    | with_reducible apply Kept.foldl
    | with_reducible apply Kept.foldl1
    | (fail_if_no_progress (with_reducible refine Kept.upd ?_ ?_ ?_ ?_ ?_; exact rfl; exact rfl; exact rfl; exact rfl))
    | (with_reducible refine Kept.filt rfl rfl rfl rfl ?_)
    | split
    | dsimp only)

theorem kept_absentEv {σ : State} (ag : Agent) (a : Nat) (s0 : State)  (h : Kept σ s0) : Kept σ (absentEv ag a s0) := by
  unfold absentEv
  try dsimp only
  repeat' (first
    | intro _
    | with_reducible assumption
    | refine Kept.of_eq (by with_reducible assumption) ?_
    | with_reducible apply Kept.ite
    | with_reducible apply Kept.ite1
    | with_reducible apply kept_logEv
    | with_reducible apply kept_pwrEv
    | with_reducible apply Kept.foldl
    | with_reducible apply Kept.foldl1
    | (fail_if_no_progress (with_reducible refine Kept.upd ?_ ?_ ?_ ?_ ?_; exact rfl; exact rfl; exact rfl; exact rfl))
    | (with_reducible refine Kept.filt rfl rfl rfl rfl ?_)
    | split
    | dsimp only)

theorem kept_noteUncorr {σ : State} (p : Nat) (scrub : Bool) (s : State)  (h : Kept σ s) : Kept σ (noteUncorr p scrub s) := by
  unfold noteUncorr
  try dsimp only
  repeat' (first
    | intro _
    | with_reducible assumption
    | refine Kept.of_eq (by with_reducible assumption) ?_
    | with_reducible apply Kept.ite
    | with_reducible apply Kept.ite1
    | with_reducible apply Kept.foldl
    | with_reducible apply Kept.foldl1
    | (fail_if_no_progress (with_reducible refine Kept.upd ?_ ?_ ?_ ?_ ?_; exact rfl; exact rfl; exact rfl; exact rfl))
    | (with_reducible refine Kept.filt rfl rfl rfl rfl ?_)
    | split
    | dsimp only)

theorem kept_badRead {σ : State} (ag : Agent) (a : Nat) (p : Nat) (s : State)  (h : Kept σ s) : Kept σ (badRead ag a p s) := by
  unfold badRead
  try dsimp only
  repeat' (first
    | intro _
    | with_reducible assumption
    | refine Kept.of_eq (by with_reducible assumption) ?_
    | with_reducible apply Kept.ite
    | with_reducible apply Kept.ite1
    | with_reducible apply kept_memFaultEv
    | with_reducible apply kept_noteUncorr
    | with_reducible apply Kept.foldl
    | with_reducible apply Kept.foldl1
    | (fail_if_no_progress (with_reducible refine Kept.upd ?_ ?_ ?_ ?_ ?_; exact rfl; exact rfl; exact rfl; exact rfl))
    | (with_reducible refine Kept.filt rfl rfl rfl rfl ?_)
    | split
    | dsimp only)

theorem kept_readPiece {σ : State} (ag : Agent) (a : Nat) (n : Nat) (s : State)  (h : Kept σ s) : Kept σ (readPiece ag a n s).1 := by
  unfold readPiece
  try dsimp only
  repeat' (first
    | intro _
    | with_reducible assumption
    | refine Kept.of_eq (by with_reducible assumption) ?_
    | with_reducible apply Kept.ite
    | with_reducible apply Kept.ite1
    | with_reducible apply kept_absentEv
    | with_reducible apply kept_badRead
    | with_reducible apply Kept.foldl
    | with_reducible apply Kept.foldl1
    | (fail_if_no_progress (with_reducible refine Kept.upd ?_ ?_ ?_ ?_ ?_; exact rfl; exact rfl; exact rfl; exact rfl))
    | (with_reducible refine Kept.filt rfl rfl rfl rfl ?_)
    | split
    | dsimp only)

theorem kept_readGo {σ : State} (ag : Agent) (k : Nat) (a : Nat) (n : Nat) (s : State) (h : Kept σ s) : Kept σ (readGo ag k a n s).1 := by
  induction k generalizing a n s with
  | zero => exact h
  | succ k ih =>
    unfold readGo
    try dsimp only
    repeat' (first
      | with_reducible assumption
      | refine Kept.of_eq (by with_reducible assumption) ?_
      | with_reducible apply ih
      | with_reducible apply Kept.ite
      | with_reducible apply Kept.ite1
      | with_reducible apply kept_readPiece
      | with_reducible apply Kept.foldl
      | (fail_if_no_progress (with_reducible refine Kept.upd ?_ ?_ ?_ ?_ ?_; exact rfl; exact rfl; exact rfl; exact rfl))
      | intro _
      | split
      | dsimp only)

theorem kept_readMem {σ : State} (ag : Agent) (a : Nat) (n : Nat) (s : State)  (h : Kept σ s) : Kept σ (readMem ag a n s).1 := by
  unfold readMem
  try dsimp only
  repeat' (first
    | intro _
    | with_reducible assumption
    | refine Kept.of_eq (by with_reducible assumption) ?_
    | with_reducible apply Kept.ite
    | with_reducible apply Kept.ite1
    | with_reducible apply kept_readGo
    | with_reducible apply Kept.foldl
    | with_reducible apply Kept.foldl1
    | (fail_if_no_progress (with_reducible refine Kept.upd ?_ ?_ ?_ ?_ ?_; exact rfl; exact rfl; exact rfl; exact rfl))
    | (with_reducible refine Kept.filt rfl rfl rfl rfl ?_)
    | split
    | dsimp only)

theorem kept_probe {σ : State} (a : Nat) (n : Nat) (s : State)  (h : Kept σ s) : Kept σ (probe a n s) := by
  unfold probe
  try dsimp only
  repeat' (first
    | intro _
    | with_reducible assumption
    | refine Kept.of_eq (by with_reducible assumption) ?_
    | with_reducible apply Kept.ite
    | with_reducible apply Kept.ite1
    | with_reducible apply kept_readMem
    | with_reducible apply Kept.foldl
    | with_reducible apply Kept.foldl1
    | (fail_if_no_progress (with_reducible refine Kept.upd ?_ ?_ ?_ ?_ ?_; exact rfl; exact rfl; exact rfl; exact rfl))
    | (with_reducible refine Kept.filt rfl rfl rfl rfl ?_)
    | split
    | dsimp only)

theorem kept_look {σ : State} (a : Nat) (n : Nat) (s : State)  (h : Kept σ s) : Kept σ (look a n s).1 := by
  unfold look
  try dsimp only
  repeat' (first
    | intro _
    | with_reducible assumption
    | refine Kept.of_eq (by with_reducible assumption) ?_
    | with_reducible apply Kept.ite
    | with_reducible apply Kept.ite1
    | with_reducible apply kept_probe
    | with_reducible apply Kept.foldl
    | with_reducible apply Kept.foldl1
    | (fail_if_no_progress (with_reducible refine Kept.upd ?_ ?_ ?_ ?_ ?_; exact rfl; exact rfl; exact rfl; exact rfl))
    | (with_reducible refine Kept.filt rfl rfl rfl rfl ?_)
    | split
    | dsimp only)

theorem kept_probes {σ : State} (rs : List (Nat × Nat)) (s : State)  (h : Kept σ s) : Kept σ (probes rs s) := by
  unfold probes
  try dsimp only
  repeat' (first
    | intro _
    | with_reducible assumption
    | refine Kept.of_eq (by with_reducible assumption) ?_
    | with_reducible apply Kept.ite
    | with_reducible apply Kept.ite1
    | with_reducible apply kept_probe
    | with_reducible apply Kept.foldl
    | with_reducible apply Kept.foldl1
    | (fail_if_no_progress (with_reducible refine Kept.upd ?_ ?_ ?_ ?_ ?_; exact rfl; exact rfl; exact rfl; exact rfl))
    | (with_reducible refine Kept.filt rfl rfl rfl rfl ?_)
    | split
    | dsimp only)

theorem kept_poke {σ : State} (p : Nat) (bs : List Byte) (s : State) (h : Kept σ s) : Kept σ (poke p bs s) :=
  ⟨h.pending, h.fixed, h.minSvn, fun w => Sparse.sets_wf (h.mem w), h.log⟩

theorem kept_healBy {σ : State} (line : Nat → Bool) (word : Nat → Bool) (s : State)  (h : Kept σ s) : Kept σ (healBy line word s) := by
  unfold healBy
  try dsimp only
  repeat' (first
    | intro _
    | with_reducible assumption
    | refine Kept.of_eq (by with_reducible assumption) ?_
    | with_reducible apply Kept.ite
    | with_reducible apply Kept.ite1
    | with_reducible apply Kept.foldl
    | with_reducible apply Kept.foldl1
    | (fail_if_no_progress (with_reducible refine Kept.upd ?_ ?_ ?_ ?_ ?_; exact rfl; exact rfl; exact rfl; exact rfl))
    | (with_reducible refine Kept.filt rfl rfl rfl rfl ?_)
    | split
    | dsimp only)

theorem kept_heal {σ : State} (p : Nat) (n : Nat) (s : State)  (h : Kept σ s) : Kept σ (heal p n s) := by
  unfold heal
  try dsimp only
  repeat' (first
    | intro _
    | with_reducible assumption
    | refine Kept.of_eq (by with_reducible assumption) ?_
    | with_reducible apply Kept.ite
    | with_reducible apply Kept.ite1
    | with_reducible apply kept_healBy
    | with_reducible apply Kept.foldl
    | with_reducible apply Kept.foldl1
    | (fail_if_no_progress (with_reducible refine Kept.upd ?_ ?_ ?_ ?_ ?_; exact rfl; exact rfl; exact rfl; exact rfl))
    | (with_reducible refine Kept.filt rfl rfl rfl rfl ?_)
    | split
    | dsimp only)

theorem kept_writeHbm {σ : State} (p : Nat) (bs : List Byte) (s : State)  (h : Kept σ s) : Kept σ (writeHbm p bs s) := by
  unfold writeHbm
  try dsimp only
  repeat' (first
    | intro _
    | with_reducible assumption
    | refine Kept.of_eq (by with_reducible assumption) ?_
    | with_reducible apply Kept.ite
    | with_reducible apply Kept.ite1
    | with_reducible apply kept_poke
    | with_reducible apply kept_heal
    | with_reducible apply Kept.foldl
    | with_reducible apply Kept.foldl1
    | (fail_if_no_progress (with_reducible refine Kept.upd ?_ ?_ ?_ ?_ ?_; exact rfl; exact rfl; exact rfl; exact rfl))
    | (with_reducible refine Kept.filt rfl rfl rfl rfl ?_)
    | split
    | dsimp only)

theorem kept_writeWord {σ : State} (p : Nat) (bs : List Byte) (s : State)  (h : Kept σ s) : Kept σ (writeWord p bs s) := by
  unfold writeWord
  try dsimp only
  repeat' (first
    | intro _
    | with_reducible assumption
    | refine Kept.of_eq (by with_reducible assumption) ?_
    | with_reducible apply Kept.ite
    | with_reducible apply Kept.ite1
    | with_reducible apply kept_poke
    | with_reducible apply Kept.foldl
    | with_reducible apply Kept.foldl1
    | (fail_if_no_progress (with_reducible refine Kept.upd ?_ ?_ ?_ ?_ ?_; exact rfl; exact rfl; exact rfl; exact rfl))
    | (with_reducible refine Kept.filt rfl rfl rfl rfl ?_)
    | split
    | dsimp only)

theorem kept_writeStore {σ : State}  (k : Nat) (p : Nat) (bs : List Byte) (s : State) (h : Kept σ s) : Kept σ (writeStore  k p bs s) := by
  induction k generalizing p bs s with
  | zero => exact h
  | succ k ih =>
    unfold writeStore
    try dsimp only
    repeat' (first
      | with_reducible assumption
      | refine Kept.of_eq (by with_reducible assumption) ?_
      | with_reducible apply ih
      | with_reducible apply Kept.ite
      | with_reducible apply Kept.ite1
      | with_reducible apply kept_writeWord
      | with_reducible apply Kept.foldl
      | (fail_if_no_progress (with_reducible refine Kept.upd ?_ ?_ ?_ ?_ ?_; exact rfl; exact rfl; exact rfl; exact rfl))
      | intro _
      | split
      | dsimp only)

theorem kept_writePhys {σ : State} (p : Nat) (bs : List Byte) (s : State)  (h : Kept σ s) : Kept σ (writePhys p bs s) := by
  unfold writePhys
  try dsimp only
  repeat' (first
    | intro _
    | with_reducible assumption
    | refine Kept.of_eq (by with_reducible assumption) ?_
    | with_reducible apply Kept.ite
    | with_reducible apply Kept.ite1
    | with_reducible apply kept_writeHbm
    | with_reducible apply kept_writeStore
    | with_reducible apply Kept.foldl
    | with_reducible apply Kept.foldl1
    | (fail_if_no_progress (with_reducible refine Kept.upd ?_ ?_ ?_ ?_ ?_; exact rfl; exact rfl; exact rfl; exact rfl))
    | (with_reducible refine Kept.filt rfl rfl rfl rfl ?_)
    | split
    | dsimp only)

theorem kept_coverage {σ : State} (i : Nat) (s : State)  (h : Kept σ s) : Kept σ (coverage i s) := by
  unfold coverage
  try dsimp only
  repeat' (first
    | intro _
    | with_reducible assumption
    | refine Kept.of_eq (by with_reducible assumption) ?_
    | with_reducible apply Kept.ite
    | with_reducible apply Kept.ite1
    | with_reducible apply kept_badRead
    | with_reducible apply kept_poke
    | with_reducible apply Kept.foldl
    | with_reducible apply Kept.foldl1
    | (fail_if_no_progress (with_reducible refine Kept.upd ?_ ?_ ?_ ?_ ?_; exact rfl; exact rfl; exact rfl; exact rfl))
    | (with_reducible refine Kept.filt rfl rfl rfl rfl ?_)
    | split
    | dsimp only)

theorem kept_tap {σ : State} (o : Nat) (bs : List Byte) (s : State)  (h : Kept σ s) : Kept σ (tap o bs s) := by
  unfold tap
  try dsimp only
  repeat' (first
    | intro _
    | with_reducible assumption
    | refine Kept.of_eq (by with_reducible assumption) ?_
    | with_reducible apply Kept.ite
    | with_reducible apply Kept.ite1
    | with_reducible apply kept_writePhys
    | with_reducible apply kept_coverage
    | with_reducible apply Kept.foldl
    | with_reducible apply Kept.foldl1
    | (fail_if_no_progress (with_reducible refine Kept.upd ?_ ?_ ?_ ?_ ?_; exact rfl; exact rfl; exact rfl; exact rfl))
    | (with_reducible refine Kept.filt rfl rfl rfl rfl ?_)
    | split
    | dsimp only)

theorem kept_writePiece {σ : State} (ag : Agent) (a : Nat) (bs : List Byte) (s : State)  (h : Kept σ s) : Kept σ (writePiece ag a bs s) := by
  unfold writePiece
  try dsimp only
  repeat' (first
    | intro _
    | with_reducible assumption
    | refine Kept.of_eq (by with_reducible assumption) ?_
    | with_reducible apply Kept.ite
    | with_reducible apply Kept.ite1
    | with_reducible apply kept_aliasEv
    | with_reducible apply kept_absentEv
    | with_reducible apply kept_writePhys
    | with_reducible apply kept_tap
    | with_reducible apply Kept.foldl
    | with_reducible apply Kept.foldl1
    | (fail_if_no_progress (with_reducible refine Kept.upd ?_ ?_ ?_ ?_ ?_; exact rfl; exact rfl; exact rfl; exact rfl))
    | (with_reducible refine Kept.filt rfl rfl rfl rfl ?_)
    | split
    | dsimp only)

theorem kept_writeGo {σ : State} (ag : Agent) (k : Nat) (a : Nat) (bs : List Byte) (s : State) (h : Kept σ s) : Kept σ (writeGo ag k a bs s) := by
  induction k generalizing a bs s with
  | zero => exact h
  | succ k ih =>
    unfold writeGo
    try dsimp only
    repeat' (first
      | with_reducible assumption
      | refine Kept.of_eq (by with_reducible assumption) ?_
      | with_reducible apply ih
      | with_reducible apply Kept.ite
      | with_reducible apply Kept.ite1
      | with_reducible apply kept_writePiece
      | with_reducible apply Kept.foldl
      | (fail_if_no_progress (with_reducible refine Kept.upd ?_ ?_ ?_ ?_ ?_; exact rfl; exact rfl; exact rfl; exact rfl))
      | intro _
      | split
      | dsimp only)

theorem kept_writeMem {σ : State} (ag : Agent) (a : Nat) (bs : List Byte) (s : State)  (h : Kept σ s) : Kept σ (writeMem ag a bs s) := by
  unfold writeMem
  try dsimp only
  repeat' (first
    | intro _
    | with_reducible assumption
    | refine Kept.of_eq (by with_reducible assumption) ?_
    | with_reducible apply Kept.ite
    | with_reducible apply Kept.ite1
    | with_reducible apply kept_writeGo
    | with_reducible apply Kept.foldl
    | with_reducible apply Kept.foldl1
    | (fail_if_no_progress (with_reducible refine Kept.upd ?_ ?_ ?_ ?_ ?_; exact rfl; exact rfl; exact rfl; exact rfl))
    | (with_reducible refine Kept.filt rfl rfl rfl rfl ?_)
    | split
    | dsimp only)

theorem kept_modMem {σ : State} (a : Nat) (n : Nat) (f : List Byte → List Byte) (s : State)  (h : Kept σ s) : Kept σ (modMem a n f s) := by
  unfold modMem
  try dsimp only
  repeat' (first
    | intro _
    | with_reducible assumption
    | refine Kept.of_eq (by with_reducible assumption) ?_
    | with_reducible apply Kept.ite
    | with_reducible apply Kept.ite1
    | with_reducible apply kept_readMem
    | with_reducible apply kept_writeMem
    | with_reducible apply Kept.foldl
    | with_reducible apply Kept.foldl1
    | (fail_if_no_progress (with_reducible refine Kept.upd ?_ ?_ ?_ ?_ ?_; exact rfl; exact rfl; exact rfl; exact rfl))
    | (with_reducible refine Kept.filt rfl rfl rfl rfl ?_)
    | split
    | dsimp only)

theorem kept_writeWords {σ : State} (a : Nat) (ws : List Word) (s : State)  (h : Kept σ s) : Kept σ (writeWords a ws s) := by
  unfold writeWords
  try dsimp only
  repeat' (first
    | intro _
    | with_reducible assumption
    | refine Kept.of_eq (by with_reducible assumption) ?_
    | with_reducible apply Kept.ite
    | with_reducible apply Kept.ite1
    | with_reducible apply kept_writeMem
    | with_reducible apply Kept.foldl
    | with_reducible apply Kept.foldl1
    | (fail_if_no_progress (with_reducible refine Kept.upd ?_ ?_ ?_ ?_ ?_; exact rfl; exact rfl; exact rfl; exact rfl))
    | (with_reducible refine Kept.filt rfl rfl rfl rfl ?_)
    | split
    | dsimp only)

theorem kept_read32 {σ : State} (ag : Agent) (a : Nat) (s : State)  (h : Kept σ s) : Kept σ (read32 ag a s).1 := by
  unfold read32
  try dsimp only
  repeat' (first
    | intro _
    | with_reducible assumption
    | refine Kept.of_eq (by with_reducible assumption) ?_
    | with_reducible apply Kept.ite
    | with_reducible apply Kept.ite1
    | with_reducible apply kept_readMem
    | with_reducible apply Kept.foldl
    | with_reducible apply Kept.foldl1
    | (fail_if_no_progress (with_reducible refine Kept.upd ?_ ?_ ?_ ?_ ?_; exact rfl; exact rfl; exact rfl; exact rfl))
    | (with_reducible refine Kept.filt rfl rfl rfl rfl ?_)
    | split
    | dsimp only)

theorem kept_postPeg {σ : State} (n : Nat) (p : Nat) (amount : Nat) (agent : Nat) (q : Nat) (ia : Nat) (s : State)  (h : Kept σ s) : Kept σ (postPeg n p amount agent q ia s) := by
  unfold postPeg
  try dsimp only
  repeat' (first
    | intro _
    | with_reducible assumption
    | refine Kept.of_eq (by with_reducible assumption) ?_
    | with_reducible apply Kept.ite
    | with_reducible apply Kept.ite1
    | with_reducible apply kept_modThl
    | with_reducible apply kept_fault
    | with_reducible apply Kept.foldl
    | with_reducible apply Kept.foldl1
    | (fail_if_no_progress (with_reducible refine Kept.upd ?_ ?_ ?_ ?_ ?_; exact rfl; exact rfl; exact rfl; exact rfl))
    | (with_reducible refine Kept.filt rfl rfl rfl rfl ?_)
    | split
    | dsimp only)

end Sys2Proof.Machine
end

