-- ==== Sys2Proof/Laws/KeptDomains.lean ====
section
/-! SUPPORT. The definitions of Machine/Domains.lean keep (Laws/Kept.lean). -/

namespace Sys2Proof.Machine

open Sys2Proof

theorem kept_want {σ : State} (a : Nat) (s : State)  (h : Kept σ s) : Kept σ (want a s) := by
  unfold want
  try dsimp only
  repeat' (first
    | intro _
    | with_reducible assumption
    | refine Kept.of_eq (by with_reducible assumption) ?_
    | with_reducible apply Kept.ite
    | with_reducible apply Kept.ite1
    | with_reducible apply Kept.foldl
    | with_reducible apply Kept.foldl1
    | (fail_if_no_progress (with_reducible refine Kept.upd ?_ ?_ ?_ ?_ ?_; exact rfl; exact rfl; exact rfl; exact rfl))
    | (with_reducible refine Kept.filt rfl rfl rfl rfl ?_)
    | split
    | dsimp only)

theorem kept_touchField {σ : State} (f : Nat) (core : Bool) (s : State)  (h : Kept σ s) : Kept σ (touchField f core s) := by
  unfold touchField
  try dsimp only
  repeat' (first
    | intro _
    | with_reducible assumption
    | refine Kept.of_eq (by with_reducible assumption) ?_
    | with_reducible apply Kept.ite
    | with_reducible apply Kept.ite1
    | with_reducible apply Kept.foldl
    | with_reducible apply Kept.foldl1
    | (fail_if_no_progress (with_reducible refine Kept.upd ?_ ?_ ?_ ?_ ?_; exact rfl; exact rfl; exact rfl; exact rfl))
    | (with_reducible refine Kept.filt rfl rfl rfl rfl ?_)
    | split
    | dsimp only)

theorem kept_touchMem {σ : State} (a : Nat) (n : Nat) (s : State)  (h : Kept σ s) : Kept σ (touchMem a n s) := by
  unfold touchMem
  try dsimp only
  repeat' (first
    | intro _
    | with_reducible assumption
    | refine Kept.of_eq (by with_reducible assumption) ?_
    | with_reducible apply Kept.ite
    | with_reducible apply Kept.ite1
    | with_reducible apply kept_touchField
    | with_reducible apply Kept.foldl
    | with_reducible apply Kept.foldl1
    | (fail_if_no_progress (with_reducible refine Kept.upd ?_ ?_ ?_ ?_ ?_; exact rfl; exact rfl; exact rfl; exact rfl))
    | (with_reducible refine Kept.filt rfl rfl rfl rfl ?_)
    | split
    | dsimp only)

theorem kept_ask {σ : State} (prio : Nat) (d : Admit) (s : State)  (h : Kept σ s) : Kept σ (ask prio d s) := by
  unfold ask
  try dsimp only
  repeat' (first
    | intro _
    | with_reducible assumption
    | refine Kept.of_eq (by with_reducible assumption) ?_
    | with_reducible apply Kept.ite
    | with_reducible apply Kept.ite1
    | with_reducible apply Kept.foldl
    | with_reducible apply Kept.foldl1
    | (fail_if_no_progress (with_reducible refine Kept.upd ?_ ?_ ?_ ?_ ?_; exact rfl; exact rfl; exact rfl; exact rfl))
    | (with_reducible refine Kept.filt rfl rfl rfl rfl ?_)
    | split
    | dsimp only)

end Sys2Proof.Machine
end

