-- ==== Sys2Proof/Laws/KeptFabric.lean ====
section
/-! SUPPORT. The definitions of Machine/Fabric.lean keep (Laws/Kept.lean). -/

namespace Sys2Proof.Machine

open Sys2Proof

theorem kept_lostEv {σ : State} (cause : Nat) (t : Txn) (s : State)  (h : Kept σ s) : Kept σ (lostEv cause t s) := by
  unfold lostEv
  try dsimp only
  repeat' (first
    | intro _
    | with_reducible assumption
    | refine Kept.of_eq (by with_reducible assumption) ?_
    | with_reducible apply Kept.ite
    | with_reducible apply Kept.ite1
    | with_reducible apply kept_logEv
    | with_reducible apply Kept.foldl
    | with_reducible apply Kept.foldl1
    | (fail_if_no_progress (with_reducible refine Kept.upd ?_ ?_ ?_ ?_ ?_; exact rfl; exact rfl; exact rfl; exact rfl))
    | (with_reducible refine Kept.filt rfl rfl rfl rfl ?_)
    | split
    | dsimp only)

theorem kept_txFailed {σ : State} (x : OutTxn) (s : State)  (h : Kept σ s) : Kept σ (txFailed x s) := by
  unfold txFailed
  try dsimp only
  repeat' (first
    | intro _
    | with_reducible assumption
    | refine Kept.of_eq (by with_reducible assumption) ?_
    | with_reducible apply Kept.ite
    | with_reducible apply Kept.ite1
    | with_reducible apply kept_modDma
    | with_reducible apply Kept.foldl
    | with_reducible apply Kept.foldl1
    | (fail_if_no_progress (with_reducible refine Kept.upd ?_ ?_ ?_ ?_ ?_; exact rfl; exact rfl; exact rfl; exact rfl))
    | (with_reducible refine Kept.filt rfl rfl rfl rfl ?_)
    | split
    | dsimp only)

theorem kept_launch {σ : State} (l : Nat) (slot : Nat) (x : OutTxn) (s : State)  (h : Kept σ s) : Kept σ (launch l slot x s) := by
  unfold launch
  try dsimp only
  repeat' (first
    | intro _
    | with_reducible assumption
    | refine Kept.of_eq (by with_reducible assumption) ?_
    | with_reducible apply Kept.ite
    | with_reducible apply Kept.ite1
    | with_reducible apply kept_modLink
    | with_reducible apply kept_emit
    | with_reducible apply Kept.foldl
    | with_reducible apply Kept.foldl1
    | (fail_if_no_progress (with_reducible refine Kept.upd ?_ ?_ ?_ ?_ ?_; exact rfl; exact rfl; exact rfl; exact rfl))
    | (with_reducible refine Kept.filt rfl rfl rfl rfl ?_)
    | split
    | dsimp only)

theorem kept_place {σ : State} (x : OutTxn) (s : State)  (h : Kept σ s) : Kept σ (place x s).1 := by
  unfold place
  try dsimp only
  repeat' (first
    | intro _
    | with_reducible assumption
    | refine Kept.of_eq (by with_reducible assumption) ?_
    | with_reducible apply Kept.ite
    | with_reducible apply Kept.ite1
    | with_reducible apply kept_lostEv
    | with_reducible apply kept_txFailed
    | with_reducible apply kept_launch
    | with_reducible apply Kept.foldl
    | with_reducible apply Kept.foldl1
    | (fail_if_no_progress (with_reducible refine Kept.upd ?_ ?_ ?_ ?_ ?_; exact rfl; exact rfl; exact rfl; exact rfl))
    | (with_reducible refine Kept.filt rfl rfl rfl rfl ?_)
    | split
    | dsimp only)

theorem kept_sendTxn {σ : State} (dst : Nat) (body : TxnBody) (o : TxOwner) (s : State)  (h : Kept σ s) : Kept σ (sendTxn dst body o s).1 := by
  unfold sendTxn
  try dsimp only
  repeat' (first
    | intro _
    | with_reducible assumption
    | refine Kept.of_eq (by with_reducible assumption) ?_
    | with_reducible apply Kept.ite
    | with_reducible apply Kept.ite1
    | with_reducible apply kept_emit
    | with_reducible apply kept_place
    | with_reducible apply Kept.foldl
    | with_reducible apply Kept.foldl1
    | (fail_if_no_progress (with_reducible refine Kept.upd ?_ ?_ ?_ ?_ ?_; exact rfl; exact rfl; exact rfl; exact rfl))
    | (with_reducible refine Kept.filt rfl rfl rfl rfl ?_)
    | split
    | dsimp only)

theorem kept_sendReply {σ : State} (dst : Nat) (body : TxnBody) (s : State)  (h : Kept σ s) : Kept σ (sendReply dst body s) := by
  unfold sendReply
  try dsimp only
  repeat' (first
    | intro _
    | with_reducible assumption
    | refine Kept.of_eq (by with_reducible assumption) ?_
    | with_reducible apply Kept.ite
    | with_reducible apply Kept.ite1
    | with_reducible apply kept_modLink
    | with_reducible apply Kept.foldl
    | with_reducible apply Kept.foldl1
    | (fail_if_no_progress (with_reducible refine Kept.upd ?_ ?_ ?_ ?_ ?_; exact rfl; exact rfl; exact rfl; exact rfl))
    | (with_reducible refine Kept.filt rfl rfl rfl rfl ?_)
    | split
    | dsimp only)

theorem kept_freeRx {σ : State} (l : Nat) (t : Txn) (s : State)  (h : Kept σ s) : Kept σ (freeRx l t s) := by
  unfold freeRx
  try dsimp only
  repeat' (first
    | intro _
    | with_reducible assumption
    | refine Kept.of_eq (by with_reducible assumption) ?_
    | with_reducible apply Kept.ite
    | with_reducible apply Kept.ite1
    | with_reducible apply kept_modLink
    | with_reducible apply Kept.foldl
    | with_reducible apply Kept.foldl1
    | (fail_if_no_progress (with_reducible refine Kept.upd ?_ ?_ ?_ ?_ ?_; exact rfl; exact rfl; exact rfl; exact rfl))
    | (with_reducible refine Kept.filt rfl rfl rfl rfl ?_)
    | split
    | dsimp only)

theorem kept_takeRx {σ : State} (p : Txn → Bool) (ok : Bool) (reason : Nat) (s : State)  (h : Kept σ s) : Kept σ (takeRx p ok reason s) := by
  unfold takeRx
  try dsimp only
  repeat' (first
    | intro _
    | with_reducible assumption
    | refine Kept.of_eq (by with_reducible assumption) ?_
    | with_reducible apply Kept.ite
    | with_reducible apply Kept.ite1
    | with_reducible apply kept_sendReply
    | with_reducible apply kept_freeRx
    | with_reducible apply Kept.foldl
    | with_reducible apply Kept.foldl1
    | (fail_if_no_progress (with_reducible refine Kept.upd ?_ ?_ ?_ ?_ ?_; exact rfl; exact rfl; exact rfl; exact rfl))
    | (with_reducible refine Kept.filt rfl rfl rfl rfl ?_)
    | split
    | dsimp only)

theorem kept_ackRed {σ : State} (tag : Word) (body : RedBody) (s : State)  (h : Kept σ s) : Kept σ (ackRed tag body s) := by
  unfold ackRed
  try dsimp only
  repeat' (first
    | intro _
    | with_reducible assumption
    | refine Kept.of_eq (by with_reducible assumption) ?_
    | with_reducible apply Kept.ite
    | with_reducible apply Kept.ite1
    | with_reducible apply kept_takeRx
    | with_reducible apply Kept.foldl
    | with_reducible apply Kept.foldl1
    | (fail_if_no_progress (with_reducible refine Kept.upd ?_ ?_ ?_ ?_ ?_; exact rfl; exact rfl; exact rfl; exact rfl))
    | (with_reducible refine Kept.filt rfl rfl rfl rfl ?_)
    | split
    | dsimp only)

theorem kept_ackAll {σ : State} (ms : List (Word × RedBody)) (s : State)  (h : Kept σ s) : Kept σ (ackAll ms s) := by
  unfold ackAll
  try dsimp only
  repeat' (first
    | intro _
    | with_reducible assumption
    | refine Kept.of_eq (by with_reducible assumption) ?_
    | with_reducible apply Kept.ite
    | with_reducible apply Kept.ite1
    | with_reducible apply kept_ackRed
    | with_reducible apply Kept.foldl
    | with_reducible apply Kept.foldl1
    | (fail_if_no_progress (with_reducible refine Kept.upd ?_ ?_ ?_ ?_ ?_; exact rfl; exact rfl; exact rfl; exact rfl))
    | (with_reducible refine Kept.filt rfl rfl rfl rfl ?_)
    | split
    | dsimp only)

theorem kept_ackCommit {σ : State} (src : Nat) (w0 : Word) (w1 : Word) (s : State)  (h : Kept σ s) : Kept σ (ackCommit src w0 w1 s) := by
  unfold ackCommit
  try dsimp only
  repeat' (first
    | intro _
    | with_reducible assumption
    | refine Kept.of_eq (by with_reducible assumption) ?_
    | with_reducible apply Kept.ite
    | with_reducible apply Kept.ite1
    | with_reducible apply kept_takeRx
    | with_reducible apply Kept.foldl
    | with_reducible apply Kept.foldl1
    | (fail_if_no_progress (with_reducible refine Kept.upd ?_ ?_ ?_ ?_ ?_; exact rfl; exact rfl; exact rfl; exact rfl))
    | (with_reducible refine Kept.filt rfl rfl rfl rfl ?_)
    | split
    | dsimp only)

theorem kept_unhold {σ : State} (s : State)  (h : Kept σ s) : Kept σ (unhold s) := by
  unfold unhold
  try dsimp only
  repeat' (first
    | intro _
    | with_reducible assumption
    | refine Kept.of_eq (by with_reducible assumption) ?_
    | with_reducible apply Kept.ite
    | with_reducible apply Kept.ite1
    | with_reducible apply kept_place
    | with_reducible apply Kept.foldl
    | with_reducible apply Kept.foldl1
    | (fail_if_no_progress (with_reducible refine Kept.upd ?_ ?_ ?_ ?_ ?_; exact rfl; exact rfl; exact rfl; exact rfl))
    | (with_reducible refine Kept.filt rfl rfl rfl rfl ?_)
    | split
    | dsimp only)

end Sys2Proof.Machine
end

