-- ==== Sys2Proof/Laws/KeptSnap.lean ====
section
/-! SUPPORT. The definitions of Machine/Snap.lean keep (Laws/Kept.lean). -/

namespace Sys2Proof.Machine

open Sys2Proof

theorem kept_snapEv {σ : State} (cause : Nat) (slot : Nat) (dev : Nat) (w3 : Nat) (s : State)  (h : Kept σ s) : Kept σ (snapEv cause slot dev w3 s) := by
  unfold snapEv
  try dsimp only
  repeat' (first
    | intro _
    | with_reducible assumption
    | refine Kept.of_eq (by with_reducible assumption) ?_
    | with_reducible apply Kept.ite
    | with_reducible apply Kept.ite1
    | with_reducible apply kept_logEv
    | with_reducible apply Kept.foldl
    | with_reducible apply Kept.foldl1
    | (fail_if_no_progress (with_reducible refine Kept.upd ?_ ?_ ?_ ?_ ?_; exact rfl; exact rfl; exact rfl; exact rfl))
    | (with_reducible refine Kept.filt rfl rfl rfl rfl ?_)
    | split
    | dsimp only)

theorem kept_zeroPhys {σ : State} (p : Nat) (n : Nat) (s : State)  (h : Kept σ s) : Kept σ (zeroPhys p n s) := by
  unfold zeroPhys
  try dsimp only
  repeat' (first
    | intro _
    | with_reducible assumption
    | refine Kept.of_eq (by with_reducible assumption) ?_
    | with_reducible apply Kept.ite
    | with_reducible apply Kept.ite1
    | with_reducible apply kept_heal
    | with_reducible apply Kept.foldl
    | with_reducible apply Kept.foldl1
    | (fail_if_no_progress (with_reducible refine Kept.upd ?_ ?_ ?_ ?_ ?_; exact rfl; exact rfl; exact rfl; exact rfl))
    | (with_reducible refine Kept.filt rfl rfl rfl rfl ?_)
    | split
    | dsimp only)

theorem kept_zeroMem {σ : State} (a : Nat) (n : Nat) (s : State)  (h : Kept σ s) : Kept σ (zeroMem a n s) := by
  unfold zeroMem
  try dsimp only
  repeat' (first
    | intro _
    | with_reducible assumption
    | refine Kept.of_eq (by with_reducible assumption) ?_
    | with_reducible apply Kept.ite
    | with_reducible apply Kept.ite1
    | with_reducible apply kept_absentEv
    | with_reducible apply kept_zeroPhys
    | with_reducible apply Kept.foldl
    | with_reducible apply Kept.foldl1
    | (fail_if_no_progress (with_reducible refine Kept.upd ?_ ?_ ?_ ?_ ?_; exact rfl; exact rfl; exact rfl; exact rfl))
    | (with_reducible refine Kept.filt rfl rfl rfl rfl ?_)
    | split
    | dsimp only)

theorem kept_clearMap {σ : State} (s : State)  (h : Kept σ s) : Kept σ (clearMap s) := by
  unfold clearMap
  try dsimp only
  repeat' (first
    | intro _
    | with_reducible assumption
    | refine Kept.of_eq (by with_reducible assumption) ?_
    | with_reducible apply Kept.ite
    | with_reducible apply Kept.ite1
    | with_reducible apply kept_zeroPhys
    | with_reducible apply Kept.foldl
    | with_reducible apply Kept.foldl1
    | (fail_if_no_progress (with_reducible refine Kept.upd ?_ ?_ ?_ ?_ ?_; exact rfl; exact rfl; exact rfl; exact rfl))
    | (with_reducible refine Kept.filt rfl rfl rfl rfl ?_)
    | split
    | dsimp only)

theorem kept_armSnap {σ : State} (s : State)  (h : Kept σ s) : Kept σ (armSnap s) := by
  unfold armSnap
  try dsimp only
  repeat' (first
    | intro _
    | with_reducible assumption
    | refine Kept.of_eq (by with_reducible assumption) ?_
    | with_reducible apply Kept.ite
    | with_reducible apply Kept.ite1
    | with_reducible apply kept_snapEv
    | with_reducible apply kept_zeroPhys
    | with_reducible apply Kept.foldl
    | with_reducible apply Kept.foldl1
    | (fail_if_no_progress (with_reducible refine Kept.upd ?_ ?_ ?_ ?_ ?_; exact rfl; exact rfl; exact rfl; exact rfl))
    | (with_reducible refine Kept.filt rfl rfl rfl rfl ?_)
    | split
    | dsimp only)

theorem kept_abandonSnap {σ : State} (again : Bool) (s : State)  (h : Kept σ s) : Kept σ (abandonSnap again s) := by
  unfold abandonSnap
  try dsimp only
  repeat' (first
    | intro _
    | with_reducible assumption
    | refine Kept.of_eq (by with_reducible assumption) ?_
    | with_reducible apply Kept.ite
    | with_reducible apply Kept.ite1
    | with_reducible apply kept_snapEv
    | with_reducible apply kept_clearMap
    | with_reducible apply Kept.foldl
    | with_reducible apply Kept.foldl1
    | (fail_if_no_progress (with_reducible refine Kept.upd ?_ ?_ ?_ ?_ ?_; exact rfl; exact rfl; exact rfl; exact rfl))
    | (with_reducible refine Kept.filt rfl rfl rfl rfl ?_)
    | split
    | dsimp only)

theorem kept_sealStart {σ : State} (s : State)  (h : Kept σ s) : Kept σ (sealStart s) := by
  unfold sealStart
  try dsimp only
  repeat' (first
    | intro _
    | with_reducible assumption
    | refine Kept.of_eq (by with_reducible assumption) ?_
    | with_reducible apply Kept.ite
    | with_reducible apply Kept.ite1
    | with_reducible apply Kept.foldl
    | with_reducible apply Kept.foldl1
    | (fail_if_no_progress (with_reducible refine Kept.upd ?_ ?_ ?_ ?_ ?_; exact rfl; exact rfl; exact rfl; exact rfl))
    | (with_reducible refine Kept.filt rfl rfl rfl rfl ?_)
    | split
    | dsimp only)

theorem kept_snapBarrier {σ : State} (s : State)  (h : Kept σ s) : Kept σ (snapBarrier s) := by
  unfold snapBarrier
  try dsimp only
  repeat' (first
    | intro _
    | with_reducible assumption
    | refine Kept.of_eq (by with_reducible assumption) ?_
    | with_reducible apply Kept.ite
    | with_reducible apply Kept.ite1
    | with_reducible apply Kept.foldl
    | with_reducible apply Kept.foldl1
    | (fail_if_no_progress (with_reducible refine Kept.upd ?_ ?_ ?_ ?_ ?_; exact rfl; exact rfl; exact rfl; exact rfl))
    | (with_reducible refine Kept.filt rfl rfl rfl rfl ?_)
    | split
    | dsimp only)

theorem kept_snapNoWait {σ : State} (s : State)  (h : Kept σ s) : Kept σ (snapNoWait s) := by
  unfold snapNoWait
  try dsimp only
  repeat' (first
    | intro _
    | with_reducible assumption
    | refine Kept.of_eq (by with_reducible assumption) ?_
    | with_reducible apply Kept.ite
    | with_reducible apply Kept.ite1
    | with_reducible apply Kept.foldl
    | with_reducible apply Kept.foldl1
    | (fail_if_no_progress (with_reducible refine Kept.upd ?_ ?_ ?_ ?_ ?_; exact rfl; exact rfl; exact rfl; exact rfl))
    | (with_reducible refine Kept.filt rfl rfl rfl rfl ?_)
    | split
    | dsimp only)

theorem kept_snapPhase {σ : State} (s : State)  (h : Kept σ s) : Kept σ (snapPhase s) := by
  unfold snapPhase
  try dsimp only
  repeat' (first
    | intro _
    | with_reducible assumption
    | refine Kept.of_eq (by with_reducible assumption) ?_
    | with_reducible apply Kept.ite
    | with_reducible apply Kept.ite1
    | with_reducible apply Kept.foldl
    | with_reducible apply Kept.foldl1
    | (fail_if_no_progress (with_reducible refine Kept.upd ?_ ?_ ?_ ?_ ?_; exact rfl; exact rfl; exact rfl; exact rfl))
    | (with_reducible refine Kept.filt rfl rfl rfl rfl ?_)
    | split
    | dsimp only)

theorem kept_fillWin {σ : State} (s0 : State) (k : Nat) (w : Win) (s : State)  (h : Kept σ s) : Kept σ (fillWin s0 k w s) := by
  unfold fillWin
  try dsimp only
  repeat' (first
    | intro _
    | with_reducible assumption
    | refine Kept.of_eq (by with_reducible assumption) ?_
    | with_reducible apply Kept.ite
    | with_reducible apply Kept.ite1
    | with_reducible apply kept_poke
    | with_reducible apply kept_healBy
    | with_reducible apply Kept.foldl
    | with_reducible apply Kept.foldl1
    | (fail_if_no_progress (with_reducible refine Kept.upd ?_ ?_ ?_ ?_ ?_; exact rfl; exact rfl; exact rfl; exact rfl))
    | (with_reducible refine Kept.filt rfl rfl rfl rfl ?_)
    | split
    | dsimp only)

theorem kept_writePhysLong {σ : State} (p : Nat) (bs : List Byte) (s : State) (h : Kept σ s) : Kept σ (fillState.writePhysLong p bs s) := by
  unfold fillState.writePhysLong
  apply Kept.foldl h
  intro t x ht
  exact kept_writePhys _ _ _ ht

theorem kept_fillState {σ : State} (s : State)  (h : Kept σ s) : Kept σ (fillState s) := by
  unfold fillState
  try dsimp only
  repeat' (first
    | intro _
    | with_reducible assumption
    | refine Kept.of_eq (by with_reducible assumption) ?_
    | with_reducible apply Kept.ite
    | with_reducible apply Kept.ite1
    | with_reducible apply kept_writePhysLong
    | with_reducible apply kept_probe
    | with_reducible apply kept_writePhys
    | with_reducible apply Kept.foldl
    | with_reducible apply Kept.foldl1
    | (fail_if_no_progress (with_reducible refine Kept.upd ?_ ?_ ?_ ?_ ?_; exact rfl; exact rfl; exact rfl; exact rfl))
    | (with_reducible refine Kept.filt rfl rfl rfl rfl ?_)
    | split
    | dsimp only)

theorem kept_snapFill {σ : State} (s : State)  (h : Kept σ s) : Kept σ (snapFill s) := by
  unfold snapFill
  try dsimp only
  repeat' (first
    | intro _
    | with_reducible assumption
    | refine Kept.of_eq (by with_reducible assumption) ?_
    | with_reducible apply Kept.ite
    | with_reducible apply Kept.ite1
    | with_reducible apply kept_badRead
    | with_reducible apply kept_fillWin
    | with_reducible apply kept_fillState
    | with_reducible apply Kept.foldl
    | with_reducible apply Kept.foldl1
    | (fail_if_no_progress (with_reducible refine Kept.upd ?_ ?_ ?_ ?_ ?_; exact rfl; exact rfl; exact rfl; exact rfl))
    | (with_reducible refine Kept.filt rfl rfl rfl rfl ?_)
    | split
    | dsimp only)

theorem kept_pokeLong {σ : State} (p : Nat) (bs : List Byte) (s : State)  (h : Kept σ s) : Kept σ (pokeLong p bs s) := by
  unfold pokeLong
  try dsimp only
  repeat' (first
    | intro _
    | with_reducible assumption
    | refine Kept.of_eq (by with_reducible assumption) ?_
    | with_reducible apply Kept.ite
    | with_reducible apply Kept.ite1
    | with_reducible apply kept_writePhysLong
    | with_reducible apply Kept.foldl
    | with_reducible apply Kept.foldl1
    | (fail_if_no_progress (with_reducible refine Kept.upd ?_ ?_ ?_ ?_ ?_; exact rfl; exact rfl; exact rfl; exact rfl))
    | (with_reducible refine Kept.filt rfl rfl rfl rfl ?_)
    | split
    | dsimp only)

theorem kept_sendWrites {σ : State} (dst : Nat) (o : TxOwner) (k : Nat) (a : Nat) (bs : List Byte) (s : State) (h : Kept σ s) : Kept σ (sendWrites dst o k a bs s) := by
  induction k generalizing a bs s with
  | zero => exact h
  | succ k ih =>
    unfold sendWrites
    try dsimp only
    repeat' (first
      | with_reducible assumption
      | refine Kept.of_eq (by with_reducible assumption) ?_
      | with_reducible apply ih
      | with_reducible apply Kept.ite
      | with_reducible apply Kept.ite1
      | with_reducible apply kept_sendTxn
      | with_reducible apply Kept.foldl
      | (fail_if_no_progress (with_reducible refine Kept.upd ?_ ?_ ?_ ?_ ?_; exact rfl; exact rfl; exact rfl; exact rfl))
      | intro _
      | split
      | dsimp only)

theorem kept_sendImage {σ : State} (dst : Nat) (o : TxOwner) (a : Nat) (bs : List Byte) (s : State)  (h : Kept σ s) : Kept σ (sendImage dst o a bs s) := by
  unfold sendImage
  try dsimp only
  repeat' (first
    | intro _
    | with_reducible assumption
    | refine Kept.of_eq (by with_reducible assumption) ?_
    | with_reducible apply Kept.ite
    | with_reducible apply Kept.ite1
    | with_reducible apply kept_sendWrites
    | with_reducible apply Kept.foldl
    | with_reducible apply Kept.foldl1
    | (fail_if_no_progress (with_reducible refine Kept.upd ?_ ?_ ?_ ?_ ?_; exact rfl; exact rfl; exact rfl; exact rfl))
    | (with_reducible refine Kept.filt rfl rfl rfl rfl ?_)
    | split
    | dsimp only)

theorem kept_dropOwner {σ : State} (o : TxOwner) (s : State)  (h : Kept σ s) : Kept σ (dropOwner o s) := by
  unfold dropOwner
  try dsimp only
  repeat' (first
    | intro _
    | with_reducible assumption
    | refine Kept.of_eq (by with_reducible assumption) ?_
    | with_reducible apply Kept.ite
    | with_reducible apply Kept.ite1
    | with_reducible apply Kept.foldl
    | with_reducible apply Kept.foldl1
    | (fail_if_no_progress (with_reducible refine Kept.upd ?_ ?_ ?_ ?_ ?_; exact rfl; exact rfl; exact rfl; exact rfl))
    | (with_reducible refine Kept.filt rfl rfl rfl rfl ?_)
    | split
    | dsimp only)

theorem kept_mirrorStart {σ : State} (slot : Bool) (s : State)  (h : Kept σ s) : Kept σ (mirrorStart slot s) := by
  unfold mirrorStart
  try dsimp only
  repeat' (first
    | intro _
    | with_reducible assumption
    | refine Kept.of_eq (by with_reducible assumption) ?_
    | with_reducible apply Kept.ite
    | with_reducible apply Kept.ite1
    | with_reducible apply kept_probe
    | with_reducible apply kept_sendImage
    | with_reducible apply Kept.foldl
    | with_reducible apply Kept.foldl1
    | (fail_if_no_progress (with_reducible refine Kept.upd ?_ ?_ ?_ ?_ ?_; exact rfl; exact rfl; exact rfl; exact rfl))
    | (with_reducible refine Kept.filt rfl rfl rfl rfl ?_)
    | split
    | dsimp only)

theorem kept_drainAbandon {σ : State} (s : State)  (h : Kept σ s) : Kept σ (drainAbandon s) := by
  unfold drainAbandon
  try dsimp only
  repeat' (first
    | intro _
    | with_reducible assumption
    | refine Kept.of_eq (by with_reducible assumption) ?_
    | with_reducible apply Kept.ite
    | with_reducible apply Kept.ite1
    | with_reducible apply kept_snapEv
    | with_reducible apply kept_snapPhase
    | with_reducible apply Kept.foldl
    | with_reducible apply Kept.foldl1
    | (fail_if_no_progress (with_reducible refine Kept.upd ?_ ?_ ?_ ?_ ?_; exact rfl; exact rfl; exact rfl; exact rfl))
    | (with_reducible refine Kept.filt rfl rfl rfl rfl ?_)
    | split
    | dsimp only)

theorem kept_mirrorAbandon {σ : State} (s : State)  (h : Kept σ s) : Kept σ (mirrorAbandon s) := by
  unfold mirrorAbandon
  try dsimp only
  repeat' (first
    | intro _
    | with_reducible assumption
    | refine Kept.of_eq (by with_reducible assumption) ?_
    | with_reducible apply Kept.ite
    | with_reducible apply Kept.ite1
    | with_reducible apply kept_snapEv
    | with_reducible apply kept_snapPhase
    | with_reducible apply kept_dropOwner
    | with_reducible apply Kept.foldl
    | with_reducible apply Kept.foldl1
    | (fail_if_no_progress (with_reducible refine Kept.upd ?_ ?_ ?_ ?_ ?_; exact rfl; exact rfl; exact rfl; exact rfl))
    | (with_reducible refine Kept.filt rfl rfl rfl rfl ?_)
    | split
    | dsimp only)

theorem kept_drainStart {σ : State} (slot : Bool) (s : State)  (h : Kept σ s) : Kept σ (drainStart slot s) := by
  unfold drainStart
  try dsimp only
  repeat' (first
    | intro _
    | with_reducible assumption
    | refine Kept.of_eq (by with_reducible assumption) ?_
    | with_reducible apply Kept.ite
    | with_reducible apply Kept.ite1
    | with_reducible apply kept_emit
    | with_reducible apply kept_probes
    | with_reducible apply kept_drainAbandon
    | with_reducible apply Kept.foldl
    | with_reducible apply Kept.foldl1
    | (fail_if_no_progress (with_reducible refine Kept.upd ?_ ?_ ?_ ?_ ?_; exact rfl; exact rfl; exact rfl; exact rfl))
    | (with_reducible refine Kept.filt rfl rfl rfl rfl ?_)
    | split
    | dsimp only)

theorem kept_snapHeader {σ : State} (s : State)  (h : Kept σ s) : Kept σ (snapHeader s) := by
  unfold snapHeader
  try dsimp only
  repeat' (first
    | intro _
    | with_reducible assumption
    | refine Kept.of_eq (by with_reducible assumption) ?_
    | with_reducible apply Kept.ite
    | with_reducible apply Kept.ite1
    | with_reducible apply kept_badRead
    | with_reducible apply kept_snapEv
    | with_reducible apply kept_clearMap
    | with_reducible apply kept_pokeLong
    | with_reducible apply kept_mirrorStart
    | with_reducible apply kept_drainStart
    | with_reducible apply Kept.foldl
    | with_reducible apply Kept.foldl1
    | (fail_if_no_progress (with_reducible refine Kept.upd ?_ ?_ ?_ ?_ ?_; exact rfl; exact rfl; exact rfl; exact rfl))
    | (with_reducible refine Kept.filt rfl rfl rfl rfl ?_)
    | split
    | dsimp only)

theorem kept_mirrorAcked {σ : State} (s : State)  (h : Kept σ s) : Kept σ (mirrorAcked s) := by
  unfold mirrorAcked
  try dsimp only
  repeat' (first
    | intro _
    | with_reducible assumption
    | refine Kept.of_eq (by with_reducible assumption) ?_
    | with_reducible apply Kept.ite
    | with_reducible apply Kept.ite1
    | with_reducible apply kept_probe
    | with_reducible apply kept_snapEv
    | with_reducible apply kept_snapPhase
    | with_reducible apply kept_sendImage
    | with_reducible apply Kept.foldl
    | with_reducible apply Kept.foldl1
    | (fail_if_no_progress (with_reducible refine Kept.upd ?_ ?_ ?_ ?_ ?_; exact rfl; exact rfl; exact rfl; exact rfl))
    | (with_reducible refine Kept.filt rfl rfl rfl rfl ?_)
    | split
    | dsimp only)

theorem kept_pushFail {σ : State} (dst : Nat) (a : Nat) (s : State)  (h : Kept σ s) : Kept σ (pushFail dst a s) := by
  unfold pushFail
  try dsimp only
  repeat' (first
    | intro _
    | with_reducible assumption
    | refine Kept.of_eq (by with_reducible assumption) ?_
    | with_reducible apply Kept.ite
    | with_reducible apply Kept.ite1
    | with_reducible apply kept_sendImage
    | with_reducible apply Kept.foldl
    | with_reducible apply Kept.foldl1
    | (fail_if_no_progress (with_reducible refine Kept.upd ?_ ?_ ?_ ?_ ?_; exact rfl; exact rfl; exact rfl; exact rfl))
    | (with_reducible refine Kept.filt rfl rfl rfl rfl ?_)
    | split
    | dsimp only)

theorem kept_pushAcked {σ : State} (s : State)  (h : Kept σ s) : Kept σ (pushAcked s) := by
  unfold pushAcked
  try dsimp only
  repeat' (first
    | intro _
    | with_reducible assumption
    | refine Kept.of_eq (by with_reducible assumption) ?_
    | with_reducible apply Kept.ite
    | with_reducible apply Kept.ite1
    | with_reducible apply kept_readMem
    | with_reducible apply kept_sendImage
    | with_reducible apply kept_pushFail
    | with_reducible apply Kept.foldl
    | with_reducible apply Kept.foldl1
    | (fail_if_no_progress (with_reducible refine Kept.upd ?_ ?_ ?_ ?_ ?_; exact rfl; exact rfl; exact rfl; exact rfl))
    | (with_reducible refine Kept.filt rfl rfl rfl rfl ?_)
    | split
    | dsimp only)

theorem kept_imageAcked {σ : State} (s : State)  (h : Kept σ s) : Kept σ (imageAcked s) := by
  unfold imageAcked
  try dsimp only
  repeat' (first
    | intro _
    | with_reducible assumption
    | refine Kept.of_eq (by with_reducible assumption) ?_
    | with_reducible apply Kept.ite
    | with_reducible apply Kept.ite1
    | with_reducible apply kept_mirrorAcked
    | with_reducible apply kept_pushAcked
    | with_reducible apply Kept.foldl
    | with_reducible apply Kept.foldl1
    | (fail_if_no_progress (with_reducible refine Kept.upd ?_ ?_ ?_ ?_ ?_; exact rfl; exact rfl; exact rfl; exact rfl))
    | (with_reducible refine Kept.filt rfl rfl rfl rfl ?_)
    | split
    | dsimp only)

theorem kept_pushStart {σ : State} (dst : BitVec 14) (slot : Bool) (s : State)  (h : Kept σ s) : Kept σ (pushStart dst slot s) := by
  unfold pushStart
  try dsimp only
  repeat' (first
    | intro _
    | with_reducible assumption
    | refine Kept.of_eq (by with_reducible assumption) ?_
    | with_reducible apply Kept.ite
    | with_reducible apply Kept.ite1
    | with_reducible apply kept_readMem
    | with_reducible apply kept_probe
    | with_reducible apply kept_sendImage
    | with_reducible apply kept_pushFail
    | with_reducible apply Kept.foldl
    | with_reducible apply Kept.foldl1
    | (fail_if_no_progress (with_reducible refine Kept.upd ?_ ?_ ?_ ?_ ?_; exact rfl; exact rfl; exact rfl; exact rfl))
    | (with_reducible refine Kept.filt rfl rfl rfl rfl ?_)
    | split
    | dsimp only)

end Sys2Proof.Machine
end

