-- ==== Sys2Proof/Laws/KeptCommit.lean ====
section
/-! SUPPORT. The definitions of Machine/Commit.lean keep (Laws/Kept.lean). -/

namespace Sys2Proof.Machine

open Sys2Proof

theorem kept_cmtEv {σ : State} (cls : Nat) (cause : Nat) (dev : Nat) (bucket : Nat) (w3 : Nat) (s : State)  (h : Kept σ s) : Kept σ (cmtEv cls cause dev bucket w3 s) := by
  unfold cmtEv
  try dsimp only
  repeat' (first
    | intro _
    | with_reducible assumption
    | refine Kept.of_eq (by with_reducible assumption) ?_
    | with_reducible apply Kept.ite
    | with_reducible apply Kept.ite1
    | with_reducible apply kept_logEv
    | with_reducible apply Kept.foldl
    | with_reducible apply Kept.foldl1
    | (fail_if_no_progress (with_reducible refine Kept.upd ?_ ?_ ?_ ?_ ?_; exact rfl; exact rfl; exact rfl; exact rfl))
    | (with_reducible refine Kept.filt rfl rfl rfl rfl ?_)
    | split
    | dsimp only)

theorem kept_cmtFault {σ : State} (cause : Nat) (dev : Nat) (bucket : Nat) (w3 : Nat) (s : State)  (h : Kept σ s) : Kept σ (cmtFault cause dev bucket w3 s) := by
  unfold cmtFault
  try dsimp only
  repeat' (first
    | intro _
    | with_reducible assumption
    | refine Kept.of_eq (by with_reducible assumption) ?_
    | with_reducible apply Kept.ite
    | with_reducible apply Kept.ite1
    | with_reducible apply kept_recordClass
    | with_reducible apply kept_cmtEv
    | with_reducible apply Kept.foldl
    | with_reducible apply Kept.foldl1
    | (fail_if_no_progress (with_reducible refine Kept.upd ?_ ?_ ?_ ?_ ?_; exact rfl; exact rfl; exact rfl; exact rfl))
    | (with_reducible refine Kept.filt rfl rfl rfl rfl ?_)
    | split
    | dsimp only)

theorem kept_sendToken {σ : State} (dst : Nat) (t : Token) (s : State)  (h : Kept σ s) : Kept σ (sendToken dst t s) := by
  unfold sendToken
  try dsimp only
  repeat' (first
    | intro _
    | with_reducible assumption
    | refine Kept.of_eq (by with_reducible assumption) ?_
    | with_reducible apply Kept.ite
    | with_reducible apply Kept.ite1
    | with_reducible apply kept_sendTxn
    | with_reducible apply Kept.foldl
    | with_reducible apply Kept.foldl1
    | (fail_if_no_progress (with_reducible refine Kept.upd ?_ ?_ ?_ ?_ ?_; exact rfl; exact rfl; exact rfl; exact rfl))
    | (with_reducible refine Kept.filt rfl rfl rfl rfl ?_)
    | split
    | dsimp only)

theorem kept_toChildren {σ : State} (t : Token) (s : State)  (h : Kept σ s) : Kept σ (toChildren t s) := by
  unfold toChildren
  try dsimp only
  repeat' (first
    | intro _
    | with_reducible assumption
    | refine Kept.of_eq (by with_reducible assumption) ?_
    | with_reducible apply Kept.ite
    | with_reducible apply Kept.ite1
    | with_reducible apply kept_sendToken
    | with_reducible apply Kept.foldl
    | with_reducible apply Kept.foldl1
    | (fail_if_no_progress (with_reducible refine Kept.upd ?_ ?_ ?_ ?_ ?_; exact rfl; exact rfl; exact rfl; exact rfl))
    | (with_reducible refine Kept.filt rfl rfl rfl rfl ?_)
    | split
    | dsimp only)

theorem kept_clearStats {σ : State} (s : State)  (h : Kept σ s) : Kept σ (clearStats s) := by
  unfold clearStats
  try dsimp only
  repeat' (first
    | intro _
    | with_reducible assumption
    | refine Kept.of_eq (by with_reducible assumption) ?_
    | with_reducible apply Kept.ite
    | with_reducible apply Kept.ite1
    | with_reducible apply kept_zeroMem
    | with_reducible apply Kept.foldl
    | with_reducible apply Kept.foldl1
    | (fail_if_no_progress (with_reducible refine Kept.upd ?_ ?_ ?_ ?_ ?_; exact rfl; exact rfl; exact rfl; exact rfl))
    | (with_reducible refine Kept.filt rfl rfl rfl rfl ?_)
    | split
    | dsimp only)

theorem kept_lcntAdd {σ : State} (l : Nat) (d : Nat) (k : Nat) (v : Nat) (s : State)  (h : Kept σ s) : Kept σ (lcntAdd l d k v s) := by
  unfold lcntAdd
  try dsimp only
  repeat' (first
    | intro _
    | with_reducible assumption
    | refine Kept.of_eq (by with_reducible assumption) ?_
    | with_reducible apply Kept.ite
    | with_reducible apply Kept.ite1
    | with_reducible apply kept_modMem
    | with_reducible apply Kept.foldl
    | with_reducible apply Kept.foldl1
    | (fail_if_no_progress (with_reducible refine Kept.upd ?_ ?_ ?_ ?_ ?_; exact rfl; exact rfl; exact rfl; exact rfl))
    | (with_reducible refine Kept.filt rfl rfl rfl rfl ?_)
    | split
    | dsimp only)

theorem kept_lifetime {σ : State} (s : State)  (h : Kept σ s) : Kept σ (lifetime s) := by
  unfold lifetime
  try dsimp only
  repeat' (first
    | intro _
    | with_reducible assumption
    | refine Kept.of_eq (by with_reducible assumption) ?_
    | with_reducible apply Kept.ite
    | with_reducible apply Kept.ite1
    | with_reducible apply kept_probe
    | with_reducible apply kept_lcntAdd
    | with_reducible apply Kept.foldl
    | with_reducible apply Kept.foldl1
    | (fail_if_no_progress (with_reducible refine Kept.upd ?_ ?_ ?_ ?_ ?_; exact rfl; exact rfl; exact rfl; exact rfl))
    | (with_reducible refine Kept.filt rfl rfl rfl rfl ?_)
    | split
    | dsimp only)

theorem kept_govCommit1 {σ : State} (s : State) (e : GovEv)  (h : Kept σ s) : Kept σ (govCommit1 s e) := by
  unfold govCommit1
  try dsimp only
  repeat' (first
    | intro _
    | with_reducible assumption
    | refine Kept.of_eq (by with_reducible assumption) ?_
    | with_reducible apply Kept.ite
    | with_reducible apply Kept.ite1
    | with_reducible apply kept_logEv
    | with_reducible apply kept_lcntAdd
    | with_reducible apply Kept.foldl
    | with_reducible apply Kept.foldl1
    | (fail_if_no_progress (with_reducible refine Kept.upd ?_ ?_ ?_ ?_ ?_; exact rfl; exact rfl; exact rfl; exact rfl))
    | (with_reducible refine Kept.filt rfl rfl rfl rfl ?_)
    | split
    | dsimp only)

theorem kept_govClear {σ : State} (s : State)  (h : Kept σ s) : Kept σ (govClear s) := by
  unfold govClear
  try dsimp only
  repeat' (first
    | intro _
    | with_reducible assumption
    | refine Kept.of_eq (by with_reducible assumption) ?_
    | with_reducible apply Kept.ite
    | with_reducible apply Kept.ite1
    | with_reducible apply Kept.foldl
    | with_reducible apply Kept.foldl1
    | (fail_if_no_progress (with_reducible refine Kept.upd ?_ ?_ ?_ ?_ ?_; exact rfl; exact rfl; exact rfl; exact rfl))
    | (with_reducible refine Kept.filt rfl rfl rfl rfl ?_)
    | split
    | dsimp only)

theorem kept_stopWork {σ : State} (s : State)  (h : Kept σ s) : Kept σ (stopWork s) := by
  unfold stopWork
  try dsimp only
  repeat' (first
    | intro _
    | with_reducible assumption
    | refine Kept.of_eq (by with_reducible assumption) ?_
    | with_reducible apply Kept.ite
    | with_reducible apply Kept.ite1
    | with_reducible apply Kept.foldl
    | with_reducible apply Kept.foldl1
    | (fail_if_no_progress (with_reducible refine Kept.upd ?_ ?_ ?_ ?_ ?_; exact rfl; exact rfl; exact rfl; exact rfl))
    | (with_reducible refine Kept.filt rfl rfl rfl rfl ?_)
    | split
    | dsimp only)

theorem kept_rdxClear {σ : State} (s0 : State)  (h : Kept σ s0) : Kept σ (rdxClear s0) := by
  unfold rdxClear
  try dsimp only
  repeat' (first
    | intro _
    | with_reducible assumption
    | refine Kept.of_eq (by with_reducible assumption) ?_
    | with_reducible apply Kept.ite
    | with_reducible apply Kept.ite1
    | with_reducible apply kept_ackAll
    | with_reducible apply Kept.foldl
    | with_reducible apply Kept.foldl1
    | (fail_if_no_progress (with_reducible refine Kept.upd ?_ ?_ ?_ ?_ ?_; exact rfl; exact rfl; exact rfl; exact rfl))
    | (with_reducible refine Kept.filt rfl rfl rfl rfl ?_)
    | split
    | dsimp only)

theorem kept_clearPegs {σ : State} (s : State)  (h : Kept σ s) : Kept σ (clearPegs s) := by
  unfold clearPegs
  try dsimp only
  repeat' (first
    | intro _
    | with_reducible assumption
    | refine Kept.of_eq (by with_reducible assumption) ?_
    | with_reducible apply Kept.ite
    | with_reducible apply Kept.ite1
    | with_reducible apply Kept.foldl
    | with_reducible apply Kept.foldl1
    | (fail_if_no_progress (with_reducible refine Kept.upd ?_ ?_ ?_ ?_ ?_; exact rfl; exact rfl; exact rfl; exact rfl))
    | (with_reducible refine Kept.filt rfl rfl rfl rfl ?_)
    | split
    | dsimp only)

theorem kept_abortStep {σ : State} (s : State)  (h : Kept σ s) : Kept σ (abortStep s) := by
  unfold abortStep
  try dsimp only
  repeat' (first
    | intro _
    | with_reducible assumption
    | refine Kept.of_eq (by with_reducible assumption) ?_
    | with_reducible apply Kept.ite
    | with_reducible apply Kept.ite1
    | with_reducible apply kept_abandonSnap
    | with_reducible apply kept_clearStats
    | with_reducible apply kept_lifetime
    | with_reducible apply kept_govClear
    | with_reducible apply kept_stopWork
    | with_reducible apply kept_rdxClear
    | with_reducible apply kept_clearPegs
    | with_reducible apply Kept.foldl
    | with_reducible apply Kept.foldl1
    | (fail_if_no_progress (with_reducible refine Kept.upd ?_ ?_ ?_ ?_ ?_; exact rfl; exact rfl; exact rfl; exact rfl))
    | (with_reducible refine Kept.filt rfl rfl rfl rfl ?_)
    | split
    | dsimp only)

theorem kept_stopAll {σ : State} (s : State)  (h : Kept σ s) : Kept σ (stopAll s) := by
  unfold stopAll
  try dsimp only
  repeat' (first
    | intro _
    | with_reducible assumption
    | refine Kept.of_eq (by with_reducible assumption) ?_
    | with_reducible apply Kept.ite
    | with_reducible apply Kept.ite1
    | with_reducible apply kept_ackAll
    | with_reducible apply kept_snapNoWait
    | with_reducible apply kept_stopWork
    | with_reducible apply Kept.foldl
    | with_reducible apply Kept.foldl1
    | (fail_if_no_progress (with_reducible refine Kept.upd ?_ ?_ ?_ ?_ ?_; exact rfl; exact rfl; exact rfl; exact rfl))
    | (with_reducible refine Kept.filt rfl rfl rfl rfl ?_)
    | split
    | dsimp only)

theorem kept_flip {σ : State} (s : State)  (h : Kept σ s) : Kept σ (flip s) := by
  unfold flip
  try dsimp only
  repeat' (first
    | intro _
    | with_reducible assumption
    | refine Kept.of_eq (by with_reducible assumption) ?_
    | with_reducible apply Kept.ite
    | with_reducible apply Kept.ite1
    | with_reducible apply kept_sealStart
    | with_reducible apply kept_lifetime
    | with_reducible apply kept_govCommit1
    | with_reducible apply kept_govClear
    | with_reducible apply Kept.foldl
    | with_reducible apply Kept.foldl1
    | (fail_if_no_progress (with_reducible refine Kept.upd ?_ ?_ ?_ ?_ ?_; exact rfl; exact rfl; exact rfl; exact rfl))
    | (with_reducible refine Kept.filt rfl rfl rfl rfl ?_)
    | split
    | dsimp only)

theorem kept_actDecide {σ : State} (t : Token) (s : State)  (h : Kept σ s) : Kept σ (actDecide t s) := by
  unfold actDecide
  try dsimp only
  repeat' (first
    | intro _
    | with_reducible assumption
    | refine Kept.of_eq (by with_reducible assumption) ?_
    | with_reducible apply Kept.ite
    | with_reducible apply Kept.ite1
    | with_reducible apply kept_toChildren
    | with_reducible apply kept_abortStep
    | with_reducible apply kept_flip
    | with_reducible apply Kept.foldl
    | with_reducible apply Kept.foldl1
    | (fail_if_no_progress (with_reducible refine Kept.upd ?_ ?_ ?_ ?_ ?_; exact rfl; exact rfl; exact rfl; exact rfl))
    | (with_reducible refine Kept.filt rfl rfl rfl rfl ?_)
    | split
    | dsimp only)

theorem kept_decideAs {σ : State} (r : ClassRec) (flag : Bool) (cover : Token) (s : State)  (h : Kept σ s) : Kept σ (decideAs r flag cover s) := by
  unfold decideAs
  try dsimp only
  repeat' (first
    | intro _
    | with_reducible assumption
    | refine Kept.of_eq (by with_reducible assumption) ?_
    | with_reducible apply Kept.ite
    | with_reducible apply Kept.ite1
    | with_reducible apply kept_actDecide
    | with_reducible apply Kept.foldl
    | with_reducible apply Kept.foldl1
    | (fail_if_no_progress (with_reducible refine Kept.upd ?_ ?_ ?_ ?_ ?_; exact rfl; exact rfl; exact rfl; exact rfl))
    | (with_reducible refine Kept.filt rfl rfl rfl rfl ?_)
    | split
    | dsimp only)

theorem kept_decideAbort {σ : State} (r : ClassRec) (s : State)  (h : Kept σ s) : Kept σ (decideAbort r s) := by
  unfold decideAbort
  try dsimp only
  repeat' (first
    | intro _
    | with_reducible assumption
    | refine Kept.of_eq (by with_reducible assumption) ?_
    | with_reducible apply Kept.ite
    | with_reducible apply Kept.ite1
    | with_reducible apply kept_decideAs
    | with_reducible apply Kept.foldl
    | with_reducible apply Kept.foldl1
    | (fail_if_no_progress (with_reducible refine Kept.upd ?_ ?_ ?_ ?_ ?_; exact rfl; exact rfl; exact rfl; exact rfl))
    | (with_reducible refine Kept.filt rfl rfl rfl rfl ?_)
    | split
    | dsimp only)

theorem kept_actClass {σ : State} (s : State)  (h : Kept σ s) : Kept σ (actClass s) := by
  unfold actClass
  try dsimp only
  repeat' (first
    | intro _
    | with_reducible assumption
    | refine Kept.of_eq (by with_reducible assumption) ?_
    | with_reducible apply Kept.ite
    | with_reducible apply Kept.ite1
    | with_reducible apply kept_sendToken
    | with_reducible apply kept_decideAbort
    | with_reducible apply Kept.foldl
    | with_reducible apply Kept.foldl1
    | (fail_if_no_progress (with_reducible refine Kept.upd ?_ ?_ ?_ ?_ ?_; exact rfl; exact rfl; exact rfl; exact rfl))
    | (with_reducible refine Kept.filt rfl rfl rfl rfl ?_)
    | split
    | dsimp only)

theorem kept_sendBlocks {σ : State} (dst : Nat) (down : Bool) (k : Nat) (i : Nat) (bs : List (List Word)) (s : State) (h : Kept σ s) : Kept σ (sendBlocks dst down k i bs s) := by
  induction k generalizing i bs s with
  | zero => exact h
  | succ k ih =>
    unfold sendBlocks
    try dsimp only
    repeat' (first
      | with_reducible assumption
      | refine Kept.of_eq (by with_reducible assumption) ?_
      | with_reducible apply ih
      | with_reducible apply Kept.ite
      | with_reducible apply Kept.ite1
      | with_reducible apply kept_sendTxn
      | with_reducible apply Kept.foldl
      | (fail_if_no_progress (with_reducible refine Kept.upd ?_ ?_ ?_ ?_ ?_; exact rfl; exact rfl; exact rfl; exact rfl))
      | intro _
      | split
      | dsimp only)

theorem kept_recordReduced {σ : State} (bs : List (List Word)) (s : State)  (h : Kept σ s) : Kept σ (recordReduced bs s) := by
  unfold recordReduced
  try dsimp only
  repeat' (first
    | intro _
    | with_reducible assumption
    | refine Kept.of_eq (by with_reducible assumption) ?_
    | with_reducible apply Kept.ite
    | with_reducible apply Kept.ite1
    | with_reducible apply kept_writeWords
    | with_reducible apply kept_sendBlocks
    | with_reducible apply Kept.foldl
    | with_reducible apply Kept.foldl1
    | (fail_if_no_progress (with_reducible refine Kept.upd ?_ ?_ ?_ ?_ ?_; exact rfl; exact rfl; exact rfl; exact rfl))
    | (with_reducible refine Kept.filt rfl rfl rfl rfl ?_)
    | split
    | dsimp only)

theorem kept_exchangeUp {σ : State} (s : State)  (h : Kept σ s) : Kept σ (exchangeUp s) := by
  unfold exchangeUp
  try dsimp only
  repeat' (first
    | intro _
    | with_reducible assumption
    | refine Kept.of_eq (by with_reducible assumption) ?_
    | with_reducible apply Kept.ite
    | with_reducible apply Kept.ite1
    | with_reducible apply kept_probes
    | with_reducible apply kept_recordReduced
    | with_reducible apply kept_sendBlocks
    | with_reducible apply Kept.foldl
    | with_reducible apply Kept.foldl1
    | (fail_if_no_progress (with_reducible refine Kept.upd ?_ ?_ ?_ ?_ ?_; exact rfl; exact rfl; exact rfl; exact rfl))
    | (with_reducible refine Kept.filt rfl rfl rfl rfl ?_)
    | split
    | dsimp only)

theorem kept_clearStatsOnly {σ : State} (s : State) (h : Kept σ s) : Kept σ (exchangeStart.clearStatsOnly s) := by
  unfold exchangeStart.clearStatsOnly
  apply Kept.foldl h
  intro t x ht
  exact kept_zeroMem _ _ _ ht

theorem kept_exchangeStart {σ : State} (s : State)  (h : Kept σ s) : Kept σ (exchangeStart s) := by
  unfold exchangeStart
  try dsimp only
  repeat' (first
    | intro _
    | with_reducible assumption
    | refine Kept.of_eq (by with_reducible assumption) ?_
    | with_reducible apply Kept.ite
    | with_reducible apply Kept.ite1
    | with_reducible apply kept_clearStatsOnly
    | with_reducible apply kept_probes
    | with_reducible apply kept_zeroMem
    | with_reducible apply kept_exchangeUp
    | with_reducible apply Kept.foldl
    | with_reducible apply Kept.foldl1
    | (fail_if_no_progress (with_reducible refine Kept.upd ?_ ?_ ?_ ?_ ?_; exact rfl; exact rfl; exact rfl; exact rfl))
    | (with_reducible refine Kept.filt rfl rfl rfl rfl ?_)
    | split
    | dsimp only)

theorem kept_settle {σ : State} (s : State)  (h : Kept σ s) : Kept σ (settle s) := by
  unfold settle
  try dsimp only
  repeat' (first
    | intro _
    | with_reducible assumption
    | refine Kept.of_eq (by with_reducible assumption) ?_
    | with_reducible apply Kept.ite
    | with_reducible apply Kept.ite1
    | with_reducible apply kept_actClass
    | with_reducible apply kept_exchangeStart
    | with_reducible apply Kept.foldl
    | with_reducible apply Kept.foldl1
    | (fail_if_no_progress (with_reducible refine Kept.upd ?_ ?_ ?_ ?_ ?_; exact rfl; exact rfl; exact rfl; exact rfl))
    | (with_reducible refine Kept.filt rfl rfl rfl rfl ?_)
    | split
    | dsimp only)

end Sys2Proof.Machine
end

