-- ==== Sys2Proof/Laws/KeptMar.lean ====
section
/-! SUPPORT. The definitions of Machine/Mar.lean keep (Laws/Kept.lean). -/

namespace Sys2Proof.Machine

open Sys2Proof

theorem kept_classed {σ : State} (s : State)  (h : Kept σ s) : Kept σ (classed s) := by
  unfold classed
  try dsimp only
  repeat' (first
    | intro _
    | with_reducible assumption
    | refine Kept.of_eq (by with_reducible assumption) ?_
    | with_reducible apply Kept.ite
    | with_reducible apply Kept.ite1
    | with_reducible apply kept_settle
    | with_reducible apply Kept.foldl
    | with_reducible apply Kept.foldl1
    | (fail_if_no_progress (with_reducible refine Kept.upd ?_ ?_ ?_ ?_ ?_; exact rfl; exact rfl; exact rfl; exact rfl))
    | (with_reducible refine Kept.filt rfl rfl rfl rfl ?_)
    | split
    | dsimp only)

theorem kept_coreEv {σ : State} (cls : Nat) (cause : Nat) (n : Nat) (c : Nat) (w : Word) (s : State)  (h : Kept σ s) : Kept σ (coreEv cls cause n c w s) := by
  unfold coreEv
  try dsimp only
  repeat' (first
    | intro _
    | with_reducible assumption
    | refine Kept.of_eq (by with_reducible assumption) ?_
    | with_reducible apply Kept.ite
    | with_reducible apply Kept.ite1
    | with_reducible apply kept_logEv
    | with_reducible apply Kept.foldl
    | with_reducible apply Kept.foldl1
    | (fail_if_no_progress (with_reducible refine Kept.upd ?_ ?_ ?_ ?_ ?_; exact rfl; exact rfl; exact rfl; exact rfl))
    | (with_reducible refine Kept.filt rfl rfl rfl rfl ?_)
    | split
    | dsimp only)

theorem kept_coreFault {σ : State} (n : Nat) (c : Nat) (cause : Nat) (w : Word) (s : State)  (h : Kept σ s) : Kept σ (coreFault n c cause w s) := by
  unfold coreFault
  try dsimp only
  repeat' (first
    | intro _
    | with_reducible assumption
    | refine Kept.of_eq (by with_reducible assumption) ?_
    | with_reducible apply Kept.ite
    | with_reducible apply Kept.ite1
    | with_reducible apply kept_modCore
    | with_reducible apply kept_recordClass
    | with_reducible apply kept_settle
    | with_reducible apply kept_coreEv
    | with_reducible apply Kept.foldl
    | with_reducible apply Kept.foldl1
    | (fail_if_no_progress (with_reducible refine Kept.upd ?_ ?_ ?_ ?_ ?_; exact rfl; exact rfl; exact rfl; exact rfl))
    | (with_reducible refine Kept.filt rfl rfl rfl rfl ?_)
    | split
    | dsimp only)

theorem kept_coreNext {σ : State} (n : Nat) (c : Nat) (f : Core → Core) (s : State)  (h : Kept σ s) : Kept σ (coreNext n c f s) := by
  unfold coreNext
  try dsimp only
  repeat' (first
    | intro _
    | with_reducible assumption
    | refine Kept.of_eq (by with_reducible assumption) ?_
    | with_reducible apply Kept.ite
    | with_reducible apply Kept.ite1
    | with_reducible apply kept_modCore
    | with_reducible apply Kept.foldl
    | with_reducible apply Kept.foldl1
    | (fail_if_no_progress (with_reducible refine Kept.upd ?_ ?_ ?_ ?_ ?_; exact rfl; exact rfl; exact rfl; exact rfl))
    | (with_reducible refine Kept.filt rfl rfl rfl rfl ?_)
    | split
    | dsimp only)

theorem kept_coreHold {σ : State} (n : Nat) (c : Nat) (s : State)  (h : Kept σ s) : Kept σ (coreHold n c s) := by
  unfold coreHold
  try dsimp only
  repeat' (first
    | intro _
    | with_reducible assumption
    | refine Kept.of_eq (by with_reducible assumption) ?_
    | with_reducible apply Kept.ite
    | with_reducible apply Kept.ite1
    | with_reducible apply kept_modCore
    | with_reducible apply Kept.foldl
    | with_reducible apply Kept.foldl1
    | (fail_if_no_progress (with_reducible refine Kept.upd ?_ ?_ ?_ ?_ ?_; exact rfl; exact rfl; exact rfl; exact rfl))
    | (with_reducible refine Kept.filt rfl rfl rfl rfl ?_)
    | split
    | dsimp only)

theorem kept_coreStep {σ : State} (n : Nat) (c : Nat) (w : Word) (body : State → State) (s : State) (hbody : ∀  t, Kept σ t → Kept σ (body  t)) (h : Kept σ s) : Kept σ (coreStep n c w body s) := by
  unfold coreStep
  try dsimp only
  repeat' (first
    | intro _
    | with_reducible assumption
    | refine Kept.of_eq (by with_reducible assumption) ?_
    | with_reducible apply Kept.ite
    | with_reducible apply Kept.ite1
    | with_reducible apply hbody
    | with_reducible apply kept_modCore
    | with_reducible apply kept_haltCore
    | with_reducible apply Kept.foldl
    | with_reducible apply Kept.foldl1
    | (fail_if_no_progress (with_reducible refine Kept.upd ?_ ?_ ?_ ?_ ?_; exact rfl; exact rfl; exact rfl; exact rfl))
    | (with_reducible refine Kept.filt rfl rfl rfl rfl ?_)
    | split
    | dsimp only)

theorem kept_fetchFail {σ : State} (n : Nat) (c : Nat) (s : State)  (h : Kept σ s) : Kept σ (fetchFail n c s) := by
  unfold fetchFail
  try dsimp only
  repeat' (first
    | intro _
    | with_reducible assumption
    | refine Kept.of_eq (by with_reducible assumption) ?_
    | with_reducible apply Kept.ite
    | with_reducible apply Kept.ite1
    | with_reducible apply kept_absentEv
    | with_reducible apply kept_badRead
    | with_reducible apply kept_classed
    | with_reducible apply kept_coreFault
    | with_reducible apply kept_coreHold
    | with_reducible apply Kept.foldl
    | with_reducible apply Kept.foldl1
    | (fail_if_no_progress (with_reducible refine Kept.upd ?_ ?_ ?_ ?_ ?_; exact rfl; exact rfl; exact rfl; exact rfl))
    | (with_reducible refine Kept.filt rfl rfl rfl rfl ?_)
    | split
    | dsimp only)

theorem kept_coreInstr {σ : State} (n : Nat) (c : Nat) (w : Word) (legal : Bool) (body : State → State) (s : State) (hbody : ∀  t, Kept σ t → Kept σ (body  t)) (h : Kept σ s) : ResKept σ (coreInstr n c w legal body s) := by
  unfold coreInstr
  try dsimp only
  repeat' (first
    | intro _
    | with_reducible assumption
    | with_reducible apply ResKept.need
    | with_reducible apply ResKept.always
    | with_reducible apply ResKept.next
    | with_reducible apply ResKept.fault
    | with_reducible apply ResKept.ite
    | refine Kept.of_eq (by with_reducible assumption) ?_
    | with_reducible apply Kept.ite
    | with_reducible apply Kept.ite1
    | with_reducible apply hbody
    | with_reducible apply kept_coreFault
    | with_reducible apply kept_coreStep
    | with_reducible apply kept_fetchFail
    | with_reducible apply Kept.foldl
    | with_reducible apply Kept.foldl1
    | (fail_if_no_progress (with_reducible refine Kept.upd ?_ ?_ ?_ ?_ ?_; exact rfl; exact rfl; exact rfl; exact rfl))
    | (with_reducible refine Kept.filt rfl rfl rfl rfl ?_)
    | split
    | dsimp only)

theorem kept_regInstr {σ : State} (n : Nat) (c : Nat) (w : Word) (legal : Bool) (f : Core → Core) (s : State)  (h : Kept σ s) : ResKept σ (regInstr n c w legal f s) := by
  unfold regInstr
  try dsimp only
  repeat' (first
    | intro _
    | with_reducible assumption
    | with_reducible apply ResKept.need
    | with_reducible apply ResKept.always
    | with_reducible apply ResKept.next
    | with_reducible apply ResKept.fault
    | with_reducible apply ResKept.ite
    | refine Kept.of_eq (by with_reducible assumption) ?_
    | with_reducible apply Kept.ite
    | with_reducible apply Kept.ite1
    | with_reducible apply kept_coreNext
    | with_reducible apply kept_coreInstr
    | with_reducible apply Kept.foldl
    | with_reducible apply Kept.foldl1
    | (fail_if_no_progress (with_reducible refine Kept.upd ?_ ?_ ?_ ?_ ?_; exact rfl; exact rfl; exact rfl; exact rfl))
    | (with_reducible refine Kept.filt rfl rfl rfl rfl ?_)
    | split
    | dsimp only)

end Sys2Proof.Machine
end

