-- ==== Sys2Proof/Laws/KeptMarInt.lean ====
section
/-! SUPPORT. The definitions of Machine/MarInt.lean keep (Laws/Kept.lean). -/

namespace Sys2Proof.Machine

open Sys2Proof

theorem kept_regOp {σ : State} (n : Nat) (c : Nat) (w : Word) (f : Word → Word → Word) (s : State)  (h : Kept σ s) : ResKept σ (regOp n c w f s) := by
  unfold regOp
  try dsimp only
  repeat' (first
    | intro _
    | with_reducible assumption
    | with_reducible apply ResKept.need
    | with_reducible apply ResKept.always
    | with_reducible apply ResKept.next
    | with_reducible apply ResKept.fault
    | with_reducible apply ResKept.ite
    | refine Kept.of_eq (by with_reducible assumption) ?_
    | with_reducible apply Kept.ite
    | with_reducible apply Kept.ite1
    | with_reducible apply kept_regInstr
    | with_reducible apply Kept.foldl
    | with_reducible apply Kept.foldl1
    | (fail_if_no_progress (with_reducible refine Kept.upd ?_ ?_ ?_ ?_ ?_; exact rfl; exact rfl; exact rfl; exact rfl))
    | (with_reducible refine Kept.filt rfl rfl rfl rfl ?_)
    | split
    | dsimp only)

theorem kept_immOp {σ : State} (n : Nat) (c : Nat) (w : Word) (f : Word → Word → Word) (s : State)  (h : Kept σ s) : ResKept σ (immOp n c w f s) := by
  unfold immOp
  try dsimp only
  repeat' (first
    | intro _
    | with_reducible assumption
    | with_reducible apply ResKept.need
    | with_reducible apply ResKept.always
    | with_reducible apply ResKept.next
    | with_reducible apply ResKept.fault
    | with_reducible apply ResKept.ite
    | refine Kept.of_eq (by with_reducible assumption) ?_
    | with_reducible apply Kept.ite
    | with_reducible apply Kept.ite1
    | with_reducible apply kept_regInstr
    | with_reducible apply Kept.foldl
    | with_reducible apply Kept.foldl1
    | (fail_if_no_progress (with_reducible refine Kept.upd ?_ ?_ ?_ ?_ ?_; exact rfl; exact rfl; exact rfl; exact rfl))
    | (with_reducible refine Kept.filt rfl rfl rfl rfl ?_)
    | split
    | dsimp only)

theorem kept_execAdd {σ : State} (n : Nat) (c : Nat) (w : Word) (s : State)  (h : Kept σ s) : ResKept σ (execAdd n c w s) := by
  unfold execAdd
  try dsimp only
  repeat' (first
    | intro _
    | with_reducible assumption
    | with_reducible apply ResKept.need
    | with_reducible apply ResKept.always
    | with_reducible apply ResKept.next
    | with_reducible apply ResKept.fault
    | with_reducible apply ResKept.ite
    | refine Kept.of_eq (by with_reducible assumption) ?_
    | with_reducible apply Kept.ite
    | with_reducible apply Kept.ite1
    | with_reducible apply kept_regInstr
    | with_reducible apply Kept.foldl
    | with_reducible apply Kept.foldl1
    | (fail_if_no_progress (with_reducible refine Kept.upd ?_ ?_ ?_ ?_ ?_; exact rfl; exact rfl; exact rfl; exact rfl))
    | (with_reducible refine Kept.filt rfl rfl rfl rfl ?_)
    | split
    | dsimp only)

theorem kept_execSub {σ : State} (n : Nat) (c : Nat) (w : Word) (s : State)  (h : Kept σ s) : ResKept σ (execSub n c w s) := by
  unfold execSub
  try dsimp only
  repeat' (first
    | intro _
    | with_reducible assumption
    | with_reducible apply ResKept.need
    | with_reducible apply ResKept.always
    | with_reducible apply ResKept.next
    | with_reducible apply ResKept.fault
    | with_reducible apply ResKept.ite
    | refine Kept.of_eq (by with_reducible assumption) ?_
    | with_reducible apply Kept.ite
    | with_reducible apply Kept.ite1
    | with_reducible apply kept_regOp
    | with_reducible apply Kept.foldl
    | with_reducible apply Kept.foldl1
    | (fail_if_no_progress (with_reducible refine Kept.upd ?_ ?_ ?_ ?_ ?_; exact rfl; exact rfl; exact rfl; exact rfl))
    | (with_reducible refine Kept.filt rfl rfl rfl rfl ?_)
    | split
    | dsimp only)

theorem kept_execMul {σ : State} (n : Nat) (c : Nat) (w : Word) (s : State)  (h : Kept σ s) : ResKept σ (execMul n c w s) := by
  unfold execMul
  try dsimp only
  repeat' (first
    | intro _
    | with_reducible assumption
    | with_reducible apply ResKept.need
    | with_reducible apply ResKept.always
    | with_reducible apply ResKept.next
    | with_reducible apply ResKept.fault
    | with_reducible apply ResKept.ite
    | refine Kept.of_eq (by with_reducible assumption) ?_
    | with_reducible apply Kept.ite
    | with_reducible apply Kept.ite1
    | with_reducible apply kept_regOp
    | with_reducible apply Kept.foldl
    | with_reducible apply Kept.foldl1
    | (fail_if_no_progress (with_reducible refine Kept.upd ?_ ?_ ?_ ?_ ?_; exact rfl; exact rfl; exact rfl; exact rfl))
    | (with_reducible refine Kept.filt rfl rfl rfl rfl ?_)
    | split
    | dsimp only)

theorem kept_execMulh {σ : State} (n : Nat) (c : Nat) (w : Word) (s : State)  (h : Kept σ s) : ResKept σ (execMulh n c w s) := by
  unfold execMulh
  try dsimp only
  repeat' (first
    | intro _
    | with_reducible assumption
    | with_reducible apply ResKept.need
    | with_reducible apply ResKept.always
    | with_reducible apply ResKept.next
    | with_reducible apply ResKept.fault
    | with_reducible apply ResKept.ite
    | refine Kept.of_eq (by with_reducible assumption) ?_
    | with_reducible apply Kept.ite
    | with_reducible apply Kept.ite1
    | with_reducible apply kept_regOp
    | with_reducible apply Kept.foldl
    | with_reducible apply Kept.foldl1
    | (fail_if_no_progress (with_reducible refine Kept.upd ?_ ?_ ?_ ?_ ?_; exact rfl; exact rfl; exact rfl; exact rfl))
    | (with_reducible refine Kept.filt rfl rfl rfl rfl ?_)
    | split
    | dsimp only)

theorem kept_execDiv {σ : State} (n : Nat) (c : Nat) (w : Word) (s : State)  (h : Kept σ s) : ResKept σ (execDiv n c w s) := by
  unfold execDiv
  try dsimp only
  repeat' (first
    | intro _
    | with_reducible assumption
    | with_reducible apply ResKept.need
    | with_reducible apply ResKept.always
    | with_reducible apply ResKept.next
    | with_reducible apply ResKept.fault
    | with_reducible apply ResKept.ite
    | refine Kept.of_eq (by with_reducible assumption) ?_
    | with_reducible apply Kept.ite
    | with_reducible apply Kept.ite1
    | with_reducible apply kept_regOp
    | with_reducible apply Kept.foldl
    | with_reducible apply Kept.foldl1
    | (fail_if_no_progress (with_reducible refine Kept.upd ?_ ?_ ?_ ?_ ?_; exact rfl; exact rfl; exact rfl; exact rfl))
    | (with_reducible refine Kept.filt rfl rfl rfl rfl ?_)
    | split
    | dsimp only)

theorem kept_execDivu {σ : State} (n : Nat) (c : Nat) (w : Word) (s : State)  (h : Kept σ s) : ResKept σ (execDivu n c w s) := by
  unfold execDivu
  try dsimp only
  repeat' (first
    | intro _
    | with_reducible assumption
    | with_reducible apply ResKept.need
    | with_reducible apply ResKept.always
    | with_reducible apply ResKept.next
    | with_reducible apply ResKept.fault
    | with_reducible apply ResKept.ite
    | refine Kept.of_eq (by with_reducible assumption) ?_
    | with_reducible apply Kept.ite
    | with_reducible apply Kept.ite1
    | with_reducible apply kept_regOp
    | with_reducible apply Kept.foldl
    | with_reducible apply Kept.foldl1
    | (fail_if_no_progress (with_reducible refine Kept.upd ?_ ?_ ?_ ?_ ?_; exact rfl; exact rfl; exact rfl; exact rfl))
    | (with_reducible refine Kept.filt rfl rfl rfl rfl ?_)
    | split
    | dsimp only)

theorem kept_execRem {σ : State} (n : Nat) (c : Nat) (w : Word) (s : State)  (h : Kept σ s) : ResKept σ (execRem n c w s) := by
  unfold execRem
  try dsimp only
  repeat' (first
    | intro _
    | with_reducible assumption
    | with_reducible apply ResKept.need
    | with_reducible apply ResKept.always
    | with_reducible apply ResKept.next
    | with_reducible apply ResKept.fault
    | with_reducible apply ResKept.ite
    | refine Kept.of_eq (by with_reducible assumption) ?_
    | with_reducible apply Kept.ite
    | with_reducible apply Kept.ite1
    | with_reducible apply kept_regOp
    | with_reducible apply Kept.foldl
    | with_reducible apply Kept.foldl1
    | (fail_if_no_progress (with_reducible refine Kept.upd ?_ ?_ ?_ ?_ ?_; exact rfl; exact rfl; exact rfl; exact rfl))
    | (with_reducible refine Kept.filt rfl rfl rfl rfl ?_)
    | split
    | dsimp only)

theorem kept_execAnd {σ : State} (n : Nat) (c : Nat) (w : Word) (s : State)  (h : Kept σ s) : ResKept σ (execAnd n c w s) := by
  unfold execAnd
  try dsimp only
  repeat' (first
    | intro _
    | with_reducible assumption
    | with_reducible apply ResKept.need
    | with_reducible apply ResKept.always
    | with_reducible apply ResKept.next
    | with_reducible apply ResKept.fault
    | with_reducible apply ResKept.ite
    | refine Kept.of_eq (by with_reducible assumption) ?_
    | with_reducible apply Kept.ite
    | with_reducible apply Kept.ite1
    | with_reducible apply kept_regOp
    | with_reducible apply Kept.foldl
    | with_reducible apply Kept.foldl1
    | (fail_if_no_progress (with_reducible refine Kept.upd ?_ ?_ ?_ ?_ ?_; exact rfl; exact rfl; exact rfl; exact rfl))
    | (with_reducible refine Kept.filt rfl rfl rfl rfl ?_)
    | split
    | dsimp only)

theorem kept_execOr {σ : State} (n : Nat) (c : Nat) (w : Word) (s : State)  (h : Kept σ s) : ResKept σ (execOr n c w s) := by
  unfold execOr
  try dsimp only
  repeat' (first
    | intro _
    | with_reducible assumption
    | with_reducible apply ResKept.need
    | with_reducible apply ResKept.always
    | with_reducible apply ResKept.next
    | with_reducible apply ResKept.fault
    | with_reducible apply ResKept.ite
    | refine Kept.of_eq (by with_reducible assumption) ?_
    | with_reducible apply Kept.ite
    | with_reducible apply Kept.ite1
    | with_reducible apply kept_regOp
    | with_reducible apply Kept.foldl
    | with_reducible apply Kept.foldl1
    | (fail_if_no_progress (with_reducible refine Kept.upd ?_ ?_ ?_ ?_ ?_; exact rfl; exact rfl; exact rfl; exact rfl))
    | (with_reducible refine Kept.filt rfl rfl rfl rfl ?_)
    | split
    | dsimp only)

theorem kept_execXor {σ : State} (n : Nat) (c : Nat) (w : Word) (s : State)  (h : Kept σ s) : ResKept σ (execXor n c w s) := by
  unfold execXor
  try dsimp only
  repeat' (first
    | intro _
    | with_reducible assumption
    | with_reducible apply ResKept.need
    | with_reducible apply ResKept.always
    | with_reducible apply ResKept.next
    | with_reducible apply ResKept.fault
    | with_reducible apply ResKept.ite
    | refine Kept.of_eq (by with_reducible assumption) ?_
    | with_reducible apply Kept.ite
    | with_reducible apply Kept.ite1
    | with_reducible apply kept_regOp
    | with_reducible apply Kept.foldl
    | with_reducible apply Kept.foldl1
    | (fail_if_no_progress (with_reducible refine Kept.upd ?_ ?_ ?_ ?_ ?_; exact rfl; exact rfl; exact rfl; exact rfl))
    | (with_reducible refine Kept.filt rfl rfl rfl rfl ?_)
    | split
    | dsimp only)

theorem kept_execShl {σ : State} (n : Nat) (c : Nat) (w : Word) (s : State)  (h : Kept σ s) : ResKept σ (execShl n c w s) := by
  unfold execShl
  try dsimp only
  repeat' (first
    | intro _
    | with_reducible assumption
    | with_reducible apply ResKept.need
    | with_reducible apply ResKept.always
    | with_reducible apply ResKept.next
    | with_reducible apply ResKept.fault
    | with_reducible apply ResKept.ite
    | refine Kept.of_eq (by with_reducible assumption) ?_
    | with_reducible apply Kept.ite
    | with_reducible apply Kept.ite1
    | with_reducible apply kept_regOp
    | with_reducible apply Kept.foldl
    | with_reducible apply Kept.foldl1
    | (fail_if_no_progress (with_reducible refine Kept.upd ?_ ?_ ?_ ?_ ?_; exact rfl; exact rfl; exact rfl; exact rfl))
    | (with_reducible refine Kept.filt rfl rfl rfl rfl ?_)
    | split
    | dsimp only)

theorem kept_execShr {σ : State} (n : Nat) (c : Nat) (w : Word) (s : State)  (h : Kept σ s) : ResKept σ (execShr n c w s) := by
  unfold execShr
  try dsimp only
  repeat' (first
    | intro _
    | with_reducible assumption
    | with_reducible apply ResKept.need
    | with_reducible apply ResKept.always
    | with_reducible apply ResKept.next
    | with_reducible apply ResKept.fault
    | with_reducible apply ResKept.ite
    | refine Kept.of_eq (by with_reducible assumption) ?_
    | with_reducible apply Kept.ite
    | with_reducible apply Kept.ite1
    | with_reducible apply kept_regOp
    | with_reducible apply Kept.foldl
    | with_reducible apply Kept.foldl1
    | (fail_if_no_progress (with_reducible refine Kept.upd ?_ ?_ ?_ ?_ ?_; exact rfl; exact rfl; exact rfl; exact rfl))
    | (with_reducible refine Kept.filt rfl rfl rfl rfl ?_)
    | split
    | dsimp only)

theorem kept_execSra {σ : State} (n : Nat) (c : Nat) (w : Word) (s : State)  (h : Kept σ s) : ResKept σ (execSra n c w s) := by
  unfold execSra
  try dsimp only
  repeat' (first
    | intro _
    | with_reducible assumption
    | with_reducible apply ResKept.need
    | with_reducible apply ResKept.always
    | with_reducible apply ResKept.next
    | with_reducible apply ResKept.fault
    | with_reducible apply ResKept.ite
    | refine Kept.of_eq (by with_reducible assumption) ?_
    | with_reducible apply Kept.ite
    | with_reducible apply Kept.ite1
    | with_reducible apply kept_regOp
    | with_reducible apply Kept.foldl
    | with_reducible apply Kept.foldl1
    | (fail_if_no_progress (with_reducible refine Kept.upd ?_ ?_ ?_ ?_ ?_; exact rfl; exact rfl; exact rfl; exact rfl))
    | (with_reducible refine Kept.filt rfl rfl rfl rfl ?_)
    | split
    | dsimp only)

theorem kept_execSlt {σ : State} (n : Nat) (c : Nat) (w : Word) (s : State)  (h : Kept σ s) : ResKept σ (execSlt n c w s) := by
  unfold execSlt
  try dsimp only
  repeat' (first
    | intro _
    | with_reducible assumption
    | with_reducible apply ResKept.need
    | with_reducible apply ResKept.always
    | with_reducible apply ResKept.next
    | with_reducible apply ResKept.fault
    | with_reducible apply ResKept.ite
    | refine Kept.of_eq (by with_reducible assumption) ?_
    | with_reducible apply Kept.ite
    | with_reducible apply Kept.ite1
    | with_reducible apply kept_regOp
    | with_reducible apply Kept.foldl
    | with_reducible apply Kept.foldl1
    | (fail_if_no_progress (with_reducible refine Kept.upd ?_ ?_ ?_ ?_ ?_; exact rfl; exact rfl; exact rfl; exact rfl))
    | (with_reducible refine Kept.filt rfl rfl rfl rfl ?_)
    | split
    | dsimp only)

theorem kept_execSltu {σ : State} (n : Nat) (c : Nat) (w : Word) (s : State)  (h : Kept σ s) : ResKept σ (execSltu n c w s) := by
  unfold execSltu
  try dsimp only
  repeat' (first
    | intro _
    | with_reducible assumption
    | with_reducible apply ResKept.need
    | with_reducible apply ResKept.always
    | with_reducible apply ResKept.next
    | with_reducible apply ResKept.fault
    | with_reducible apply ResKept.ite
    | refine Kept.of_eq (by with_reducible assumption) ?_
    | with_reducible apply Kept.ite
    | with_reducible apply Kept.ite1
    | with_reducible apply kept_regOp
    | with_reducible apply Kept.foldl
    | with_reducible apply Kept.foldl1
    | (fail_if_no_progress (with_reducible refine Kept.upd ?_ ?_ ?_ ?_ ?_; exact rfl; exact rfl; exact rfl; exact rfl))
    | (with_reducible refine Kept.filt rfl rfl rfl rfl ?_)
    | split
    | dsimp only)

theorem kept_execAddi {σ : State} (n : Nat) (c : Nat) (w : Word) (s : State)  (h : Kept σ s) : ResKept σ (execAddi n c w s) := by
  unfold execAddi
  try dsimp only
  repeat' (first
    | intro _
    | with_reducible assumption
    | with_reducible apply ResKept.need
    | with_reducible apply ResKept.always
    | with_reducible apply ResKept.next
    | with_reducible apply ResKept.fault
    | with_reducible apply ResKept.ite
    | refine Kept.of_eq (by with_reducible assumption) ?_
    | with_reducible apply Kept.ite
    | with_reducible apply Kept.ite1
    | with_reducible apply kept_immOp
    | with_reducible apply Kept.foldl
    | with_reducible apply Kept.foldl1
    | (fail_if_no_progress (with_reducible refine Kept.upd ?_ ?_ ?_ ?_ ?_; exact rfl; exact rfl; exact rfl; exact rfl))
    | (with_reducible refine Kept.filt rfl rfl rfl rfl ?_)
    | split
    | dsimp only)

theorem kept_execAndi {σ : State} (n : Nat) (c : Nat) (w : Word) (s : State)  (h : Kept σ s) : ResKept σ (execAndi n c w s) := by
  unfold execAndi
  try dsimp only
  repeat' (first
    | intro _
    | with_reducible assumption
    | with_reducible apply ResKept.need
    | with_reducible apply ResKept.always
    | with_reducible apply ResKept.next
    | with_reducible apply ResKept.fault
    | with_reducible apply ResKept.ite
    | refine Kept.of_eq (by with_reducible assumption) ?_
    | with_reducible apply Kept.ite
    | with_reducible apply Kept.ite1
    | with_reducible apply kept_immOp
    | with_reducible apply Kept.foldl
    | with_reducible apply Kept.foldl1
    | (fail_if_no_progress (with_reducible refine Kept.upd ?_ ?_ ?_ ?_ ?_; exact rfl; exact rfl; exact rfl; exact rfl))
    | (with_reducible refine Kept.filt rfl rfl rfl rfl ?_)
    | split
    | dsimp only)

theorem kept_execOri {σ : State} (n : Nat) (c : Nat) (w : Word) (s : State)  (h : Kept σ s) : ResKept σ (execOri n c w s) := by
  unfold execOri
  try dsimp only
  repeat' (first
    | intro _
    | with_reducible assumption
    | with_reducible apply ResKept.need
    | with_reducible apply ResKept.always
    | with_reducible apply ResKept.next
    | with_reducible apply ResKept.fault
    | with_reducible apply ResKept.ite
    | refine Kept.of_eq (by with_reducible assumption) ?_
    | with_reducible apply Kept.ite
    | with_reducible apply Kept.ite1
    | with_reducible apply kept_immOp
    | with_reducible apply Kept.foldl
    | with_reducible apply Kept.foldl1
    | (fail_if_no_progress (with_reducible refine Kept.upd ?_ ?_ ?_ ?_ ?_; exact rfl; exact rfl; exact rfl; exact rfl))
    | (with_reducible refine Kept.filt rfl rfl rfl rfl ?_)
    | split
    | dsimp only)

theorem kept_execLui {σ : State} (n : Nat) (c : Nat) (w : Word) (s : State)  (h : Kept σ s) : ResKept σ (execLui n c w s) := by
  unfold execLui
  try dsimp only
  repeat' (first
    | intro _
    | with_reducible assumption
    | with_reducible apply ResKept.need
    | with_reducible apply ResKept.always
    | with_reducible apply ResKept.next
    | with_reducible apply ResKept.fault
    | with_reducible apply ResKept.ite
    | refine Kept.of_eq (by with_reducible assumption) ?_
    | with_reducible apply Kept.ite
    | with_reducible apply Kept.ite1
    | with_reducible apply kept_regInstr
    | with_reducible apply Kept.foldl
    | with_reducible apply Kept.foldl1
    | (fail_if_no_progress (with_reducible refine Kept.upd ?_ ?_ ?_ ?_ ?_; exact rfl; exact rfl; exact rfl; exact rfl))
    | (with_reducible refine Kept.filt rfl rfl rfl rfl ?_)
    | split
    | dsimp only)

end Sys2Proof.Machine
end

