-- ==== Sys2Proof/Laws/KeptMarFloat.lean ====
section
/-! SUPPORT. The definitions of Machine/MarFloat.lean keep (Laws/Kept.lean). -/

namespace Sys2Proof.Machine

open Sys2Proof

theorem kept_floatOp {σ : State} (n : Nat) (c : Nat) (w : Word) (f : Fmt → Nat → Nat → Nat) (s : State)  (h : Kept σ s) : ResKept σ (floatOp n c w f s) := by
  unfold floatOp
  try dsimp only
  repeat' (first
    | intro _
    | with_reducible assumption
    | with_reducible apply ResKept.need
    | with_reducible apply ResKept.always
    | with_reducible apply ResKept.next
    | with_reducible apply ResKept.fault
    | with_reducible apply ResKept.ite
    | refine Kept.of_eq (by with_reducible assumption) ?_
    | with_reducible apply Kept.ite
    | with_reducible apply Kept.ite1
    | with_reducible apply kept_regInstr
    | with_reducible apply Kept.foldl
    | with_reducible apply Kept.foldl1
    | (fail_if_no_progress (with_reducible refine Kept.upd ?_ ?_ ?_ ?_ ?_; exact rfl; exact rfl; exact rfl; exact rfl))
    | (with_reducible refine Kept.filt rfl rfl rfl rfl ?_)
    | split
    | dsimp only)

theorem kept_execFadd {σ : State} (n : Nat) (c : Nat) (w : Word) (s : State)  (h : Kept σ s) : ResKept σ (execFadd n c w s) := by
  unfold execFadd
  try dsimp only
  repeat' (first
    | intro _
    | with_reducible assumption
    | with_reducible apply ResKept.need
    | with_reducible apply ResKept.always
    | with_reducible apply ResKept.next
    | with_reducible apply ResKept.fault
    | with_reducible apply ResKept.ite
    | refine Kept.of_eq (by with_reducible assumption) ?_
    | with_reducible apply Kept.ite
    | with_reducible apply Kept.ite1
    | with_reducible apply kept_floatOp
    | with_reducible apply Kept.foldl
    | with_reducible apply Kept.foldl1
    | (fail_if_no_progress (with_reducible refine Kept.upd ?_ ?_ ?_ ?_ ?_; exact rfl; exact rfl; exact rfl; exact rfl))
    | (with_reducible refine Kept.filt rfl rfl rfl rfl ?_)
    | split
    | dsimp only)

theorem kept_execFsub {σ : State} (n : Nat) (c : Nat) (w : Word) (s : State)  (h : Kept σ s) : ResKept σ (execFsub n c w s) := by
  unfold execFsub
  try dsimp only
  repeat' (first
    | intro _
    | with_reducible assumption
    | with_reducible apply ResKept.need
    | with_reducible apply ResKept.always
    | with_reducible apply ResKept.next
    | with_reducible apply ResKept.fault
    | with_reducible apply ResKept.ite
    | refine Kept.of_eq (by with_reducible assumption) ?_
    | with_reducible apply Kept.ite
    | with_reducible apply Kept.ite1
    | with_reducible apply kept_floatOp
    | with_reducible apply Kept.foldl
    | with_reducible apply Kept.foldl1
    | (fail_if_no_progress (with_reducible refine Kept.upd ?_ ?_ ?_ ?_ ?_; exact rfl; exact rfl; exact rfl; exact rfl))
    | (with_reducible refine Kept.filt rfl rfl rfl rfl ?_)
    | split
    | dsimp only)

theorem kept_execFmul {σ : State} (n : Nat) (c : Nat) (w : Word) (s : State)  (h : Kept σ s) : ResKept σ (execFmul n c w s) := by
  unfold execFmul
  try dsimp only
  repeat' (first
    | intro _
    | with_reducible assumption
    | with_reducible apply ResKept.need
    | with_reducible apply ResKept.always
    | with_reducible apply ResKept.next
    | with_reducible apply ResKept.fault
    | with_reducible apply ResKept.ite
    | refine Kept.of_eq (by with_reducible assumption) ?_
    | with_reducible apply Kept.ite
    | with_reducible apply Kept.ite1
    | with_reducible apply kept_floatOp
    | with_reducible apply Kept.foldl
    | with_reducible apply Kept.foldl1
    | (fail_if_no_progress (with_reducible refine Kept.upd ?_ ?_ ?_ ?_ ?_; exact rfl; exact rfl; exact rfl; exact rfl))
    | (with_reducible refine Kept.filt rfl rfl rfl rfl ?_)
    | split
    | dsimp only)

theorem kept_execFdiv {σ : State} (n : Nat) (c : Nat) (w : Word) (s : State)  (h : Kept σ s) : ResKept σ (execFdiv n c w s) := by
  unfold execFdiv
  try dsimp only
  repeat' (first
    | intro _
    | with_reducible assumption
    | with_reducible apply ResKept.need
    | with_reducible apply ResKept.always
    | with_reducible apply ResKept.next
    | with_reducible apply ResKept.fault
    | with_reducible apply ResKept.ite
    | refine Kept.of_eq (by with_reducible assumption) ?_
    | with_reducible apply Kept.ite
    | with_reducible apply Kept.ite1
    | with_reducible apply kept_floatOp
    | with_reducible apply Kept.foldl
    | with_reducible apply Kept.foldl1
    | (fail_if_no_progress (with_reducible refine Kept.upd ?_ ?_ ?_ ?_ ?_; exact rfl; exact rfl; exact rfl; exact rfl))
    | (with_reducible refine Kept.filt rfl rfl rfl rfl ?_)
    | split
    | dsimp only)

theorem kept_execFsqrt {σ : State} (n : Nat) (c : Nat) (w : Word) (s : State)  (h : Kept σ s) : ResKept σ (execFsqrt n c w s) := by
  unfold execFsqrt
  try dsimp only
  repeat' (first
    | intro _
    | with_reducible assumption
    | with_reducible apply ResKept.need
    | with_reducible apply ResKept.always
    | with_reducible apply ResKept.next
    | with_reducible apply ResKept.fault
    | with_reducible apply ResKept.ite
    | refine Kept.of_eq (by with_reducible assumption) ?_
    | with_reducible apply Kept.ite
    | with_reducible apply Kept.ite1
    | with_reducible apply kept_floatOp
    | with_reducible apply Kept.foldl
    | with_reducible apply Kept.foldl1
    | (fail_if_no_progress (with_reducible refine Kept.upd ?_ ?_ ?_ ?_ ?_; exact rfl; exact rfl; exact rfl; exact rfl))
    | (with_reducible refine Kept.filt rfl rfl rfl rfl ?_)
    | split
    | dsimp only)

theorem kept_execFmin {σ : State} (n : Nat) (c : Nat) (w : Word) (s : State)  (h : Kept σ s) : ResKept σ (execFmin n c w s) := by
  unfold execFmin
  try dsimp only
  repeat' (first
    | intro _
    | with_reducible assumption
    | with_reducible apply ResKept.need
    | with_reducible apply ResKept.always
    | with_reducible apply ResKept.next
    | with_reducible apply ResKept.fault
    | with_reducible apply ResKept.ite
    | refine Kept.of_eq (by with_reducible assumption) ?_
    | with_reducible apply Kept.ite
    | with_reducible apply Kept.ite1
    | with_reducible apply kept_floatOp
    | with_reducible apply Kept.foldl
    | with_reducible apply Kept.foldl1
    | (fail_if_no_progress (with_reducible refine Kept.upd ?_ ?_ ?_ ?_ ?_; exact rfl; exact rfl; exact rfl; exact rfl))
    | (with_reducible refine Kept.filt rfl rfl rfl rfl ?_)
    | split
    | dsimp only)

theorem kept_execFmax {σ : State} (n : Nat) (c : Nat) (w : Word) (s : State)  (h : Kept σ s) : ResKept σ (execFmax n c w s) := by
  unfold execFmax
  try dsimp only
  repeat' (first
    | intro _
    | with_reducible assumption
    | with_reducible apply ResKept.need
    | with_reducible apply ResKept.always
    | with_reducible apply ResKept.next
    | with_reducible apply ResKept.fault
    | with_reducible apply ResKept.ite
    | refine Kept.of_eq (by with_reducible assumption) ?_
    | with_reducible apply Kept.ite
    | with_reducible apply Kept.ite1
    | with_reducible apply kept_floatOp
    | with_reducible apply Kept.foldl
    | with_reducible apply Kept.foldl1
    | (fail_if_no_progress (with_reducible refine Kept.upd ?_ ?_ ?_ ?_ ?_; exact rfl; exact rfl; exact rfl; exact rfl))
    | (with_reducible refine Kept.filt rfl rfl rfl rfl ?_)
    | split
    | dsimp only)

theorem kept_branchOp {σ : State} (n : Nat) (c : Nat) (w : Word) (p : Word → Word → Bool) (s : State)  (h : Kept σ s) : ResKept σ (branchOp n c w p s) := by
  unfold branchOp
  try dsimp only
  repeat' (first
    | intro _
    | with_reducible assumption
    | with_reducible apply ResKept.need
    | with_reducible apply ResKept.always
    | with_reducible apply ResKept.next
    | with_reducible apply ResKept.fault
    | with_reducible apply ResKept.ite
    | refine Kept.of_eq (by with_reducible assumption) ?_
    | with_reducible apply Kept.ite
    | with_reducible apply Kept.ite1
    | with_reducible apply kept_modCore
    | with_reducible apply kept_coreInstr
    | with_reducible apply Kept.foldl
    | with_reducible apply Kept.foldl1
    | (fail_if_no_progress (with_reducible refine Kept.upd ?_ ?_ ?_ ?_ ?_; exact rfl; exact rfl; exact rfl; exact rfl))
    | (with_reducible refine Kept.filt rfl rfl rfl rfl ?_)
    | split
    | dsimp only)

theorem kept_execBeq {σ : State} (n : Nat) (c : Nat) (w : Word) (s : State)  (h : Kept σ s) : ResKept σ (execBeq n c w s) := by
  unfold execBeq
  try dsimp only
  repeat' (first
    | intro _
    | with_reducible assumption
    | with_reducible apply ResKept.need
    | with_reducible apply ResKept.always
    | with_reducible apply ResKept.next
    | with_reducible apply ResKept.fault
    | with_reducible apply ResKept.ite
    | refine Kept.of_eq (by with_reducible assumption) ?_
    | with_reducible apply Kept.ite
    | with_reducible apply Kept.ite1
    | with_reducible apply kept_branchOp
    | with_reducible apply Kept.foldl
    | with_reducible apply Kept.foldl1
    | (fail_if_no_progress (with_reducible refine Kept.upd ?_ ?_ ?_ ?_ ?_; exact rfl; exact rfl; exact rfl; exact rfl))
    | (with_reducible refine Kept.filt rfl rfl rfl rfl ?_)
    | split
    | dsimp only)

theorem kept_execBne {σ : State} (n : Nat) (c : Nat) (w : Word) (s : State)  (h : Kept σ s) : ResKept σ (execBne n c w s) := by
  unfold execBne
  try dsimp only
  repeat' (first
    | intro _
    | with_reducible assumption
    | with_reducible apply ResKept.need
    | with_reducible apply ResKept.always
    | with_reducible apply ResKept.next
    | with_reducible apply ResKept.fault
    | with_reducible apply ResKept.ite
    | refine Kept.of_eq (by with_reducible assumption) ?_
    | with_reducible apply Kept.ite
    | with_reducible apply Kept.ite1
    | with_reducible apply kept_branchOp
    | with_reducible apply Kept.foldl
    | with_reducible apply Kept.foldl1
    | (fail_if_no_progress (with_reducible refine Kept.upd ?_ ?_ ?_ ?_ ?_; exact rfl; exact rfl; exact rfl; exact rfl))
    | (with_reducible refine Kept.filt rfl rfl rfl rfl ?_)
    | split
    | dsimp only)

theorem kept_execBlt {σ : State} (n : Nat) (c : Nat) (w : Word) (s : State)  (h : Kept σ s) : ResKept σ (execBlt n c w s) := by
  unfold execBlt
  try dsimp only
  repeat' (first
    | intro _
    | with_reducible assumption
    | with_reducible apply ResKept.need
    | with_reducible apply ResKept.always
    | with_reducible apply ResKept.next
    | with_reducible apply ResKept.fault
    | with_reducible apply ResKept.ite
    | refine Kept.of_eq (by with_reducible assumption) ?_
    | with_reducible apply Kept.ite
    | with_reducible apply Kept.ite1
    | with_reducible apply kept_branchOp
    | with_reducible apply Kept.foldl
    | with_reducible apply Kept.foldl1
    | (fail_if_no_progress (with_reducible refine Kept.upd ?_ ?_ ?_ ?_ ?_; exact rfl; exact rfl; exact rfl; exact rfl))
    | (with_reducible refine Kept.filt rfl rfl rfl rfl ?_)
    | split
    | dsimp only)

theorem kept_execBge {σ : State} (n : Nat) (c : Nat) (w : Word) (s : State)  (h : Kept σ s) : ResKept σ (execBge n c w s) := by
  unfold execBge
  try dsimp only
  repeat' (first
    | intro _
    | with_reducible assumption
    | with_reducible apply ResKept.need
    | with_reducible apply ResKept.always
    | with_reducible apply ResKept.next
    | with_reducible apply ResKept.fault
    | with_reducible apply ResKept.ite
    | refine Kept.of_eq (by with_reducible assumption) ?_
    | with_reducible apply Kept.ite
    | with_reducible apply Kept.ite1
    | with_reducible apply kept_branchOp
    | with_reducible apply Kept.foldl
    | with_reducible apply Kept.foldl1
    | (fail_if_no_progress (with_reducible refine Kept.upd ?_ ?_ ?_ ?_ ?_; exact rfl; exact rfl; exact rfl; exact rfl))
    | (with_reducible refine Kept.filt rfl rfl rfl rfl ?_)
    | split
    | dsimp only)

theorem kept_execBltu {σ : State} (n : Nat) (c : Nat) (w : Word) (s : State)  (h : Kept σ s) : ResKept σ (execBltu n c w s) := by
  unfold execBltu
  try dsimp only
  repeat' (first
    | intro _
    | with_reducible assumption
    | with_reducible apply ResKept.need
    | with_reducible apply ResKept.always
    | with_reducible apply ResKept.next
    | with_reducible apply ResKept.fault
    | with_reducible apply ResKept.ite
    | refine Kept.of_eq (by with_reducible assumption) ?_
    | with_reducible apply Kept.ite
    | with_reducible apply Kept.ite1
    | with_reducible apply kept_branchOp
    | with_reducible apply Kept.foldl
    | with_reducible apply Kept.foldl1
    | (fail_if_no_progress (with_reducible refine Kept.upd ?_ ?_ ?_ ?_ ?_; exact rfl; exact rfl; exact rfl; exact rfl))
    | (with_reducible refine Kept.filt rfl rfl rfl rfl ?_)
    | split
    | dsimp only)

theorem kept_execBgeu {σ : State} (n : Nat) (c : Nat) (w : Word) (s : State)  (h : Kept σ s) : ResKept σ (execBgeu n c w s) := by
  unfold execBgeu
  try dsimp only
  repeat' (first
    | intro _
    | with_reducible assumption
    | with_reducible apply ResKept.need
    | with_reducible apply ResKept.always
    | with_reducible apply ResKept.next
    | with_reducible apply ResKept.fault
    | with_reducible apply ResKept.ite
    | refine Kept.of_eq (by with_reducible assumption) ?_
    | with_reducible apply Kept.ite
    | with_reducible apply Kept.ite1
    | with_reducible apply kept_branchOp
    | with_reducible apply Kept.foldl
    | with_reducible apply Kept.foldl1
    | (fail_if_no_progress (with_reducible refine Kept.upd ?_ ?_ ?_ ?_ ?_; exact rfl; exact rfl; exact rfl; exact rfl))
    | (with_reducible refine Kept.filt rfl rfl rfl rfl ?_)
    | split
    | dsimp only)

theorem kept_execJal {σ : State} (n : Nat) (c : Nat) (w : Word) (s : State)  (h : Kept σ s) : ResKept σ (execJal n c w s) := by
  unfold execJal
  try dsimp only
  repeat' (first
    | intro _
    | with_reducible assumption
    | with_reducible apply ResKept.need
    | with_reducible apply ResKept.always
    | with_reducible apply ResKept.next
    | with_reducible apply ResKept.fault
    | with_reducible apply ResKept.ite
    | refine Kept.of_eq (by with_reducible assumption) ?_
    | with_reducible apply Kept.ite
    | with_reducible apply Kept.ite1
    | with_reducible apply kept_modCore
    | with_reducible apply kept_coreInstr
    | with_reducible apply Kept.foldl
    | with_reducible apply Kept.foldl1
    | (fail_if_no_progress (with_reducible refine Kept.upd ?_ ?_ ?_ ?_ ?_; exact rfl; exact rfl; exact rfl; exact rfl))
    | (with_reducible refine Kept.filt rfl rfl rfl rfl ?_)
    | split
    | dsimp only)

theorem kept_execJalr {σ : State} (n : Nat) (c : Nat) (w : Word) (s : State)  (h : Kept σ s) : ResKept σ (execJalr n c w s) := by
  unfold execJalr
  try dsimp only
  repeat' (first
    | intro _
    | with_reducible assumption
    | with_reducible apply ResKept.need
    | with_reducible apply ResKept.always
    | with_reducible apply ResKept.next
    | with_reducible apply ResKept.fault
    | with_reducible apply ResKept.ite
    | refine Kept.of_eq (by with_reducible assumption) ?_
    | with_reducible apply Kept.ite
    | with_reducible apply Kept.ite1
    | with_reducible apply kept_modCore
    | with_reducible apply kept_coreInstr
    | with_reducible apply Kept.foldl
    | with_reducible apply Kept.foldl1
    | (fail_if_no_progress (with_reducible refine Kept.upd ?_ ?_ ?_ ?_ ?_; exact rfl; exact rfl; exact rfl; exact rfl))
    | (with_reducible refine Kept.filt rfl rfl rfl rfl ?_)
    | split
    | dsimp only)

end Sys2Proof.Machine
end

