-- ==== Sys2Proof/Laws/KeptMarMem.lean ====
section
/-! SUPPORT. The definitions of Machine/MarMem.lean keep (Laws/Kept.lean). -/

namespace Sys2Proof.Machine

open Sys2Proof

theorem kept_loadOp {σ : State} (n : Nat) (c : Nat) (w : Word) (bytes : Nat) (al : Nat) (f : List Byte → Core → Core) (s : State)  (h : Kept σ s) : Kept σ (loadOp n c w bytes al f s) := by
  unfold loadOp
  try dsimp only
  repeat' (first
    | intro _
    | with_reducible assumption
    | refine Kept.of_eq (by with_reducible assumption) ?_
    | with_reducible apply Kept.ite
    | with_reducible apply Kept.ite1
    | with_reducible apply kept_readMem
    | with_reducible apply kept_classed
    | with_reducible apply kept_coreFault
    | with_reducible apply kept_coreNext
    | with_reducible apply kept_coreHold
    | with_reducible apply Kept.foldl
    | with_reducible apply Kept.foldl1
    | (fail_if_no_progress (with_reducible refine Kept.upd ?_ ?_ ?_ ?_ ?_; exact rfl; exact rfl; exact rfl; exact rfl))
    | (with_reducible refine Kept.filt rfl rfl rfl rfl ?_)
    | split
    | dsimp only)

theorem kept_storeOp {σ : State} (n : Nat) (c : Nat) (w : Word) (bytes : Nat) (al : Nat) (gs : Core → List (Nat × List Byte)) (s : State)  (h : Kept σ s) : Kept σ (storeOp n c w bytes al gs s) := by
  unfold storeOp
  try dsimp only
  repeat' (first
    | intro _
    | with_reducible assumption
    | refine Kept.of_eq (by with_reducible assumption) ?_
    | with_reducible apply Kept.ite
    | with_reducible apply Kept.ite1
    | with_reducible apply kept_writeMem
    | with_reducible apply kept_classed
    | with_reducible apply kept_coreFault
    | with_reducible apply kept_coreNext
    | with_reducible apply Kept.foldl
    | with_reducible apply Kept.foldl1
    | (fail_if_no_progress (with_reducible refine Kept.upd ?_ ?_ ?_ ?_ ?_; exact rfl; exact rfl; exact rfl; exact rfl))
    | (with_reducible refine Kept.filt rfl rfl rfl rfl ?_)
    | split
    | dsimp only)

theorem kept_execLd {σ : State} (n : Nat) (c : Nat) (w : Word) (s : State)  (h : Kept σ s) : ResKept σ (execLd n c w s) := by
  unfold execLd
  try dsimp only
  repeat' (first
    | intro _
    | with_reducible assumption
    | with_reducible apply ResKept.need
    | with_reducible apply ResKept.always
    | with_reducible apply ResKept.next
    | with_reducible apply ResKept.fault
    | with_reducible apply ResKept.ite
    | refine Kept.of_eq (by with_reducible assumption) ?_
    | with_reducible apply Kept.ite
    | with_reducible apply Kept.ite1
    | with_reducible apply kept_coreInstr
    | with_reducible apply kept_loadOp
    | with_reducible apply Kept.foldl
    | with_reducible apply Kept.foldl1
    | (fail_if_no_progress (with_reducible refine Kept.upd ?_ ?_ ?_ ?_ ?_; exact rfl; exact rfl; exact rfl; exact rfl))
    | (with_reducible refine Kept.filt rfl rfl rfl rfl ?_)
    | split
    | dsimp only)

theorem kept_execSt {σ : State} (n : Nat) (c : Nat) (w : Word) (s : State)  (h : Kept σ s) : ResKept σ (execSt n c w s) := by
  unfold execSt
  try dsimp only
  repeat' (first
    | intro _
    | with_reducible assumption
    | with_reducible apply ResKept.need
    | with_reducible apply ResKept.always
    | with_reducible apply ResKept.next
    | with_reducible apply ResKept.fault
    | with_reducible apply ResKept.ite
    | refine Kept.of_eq (by with_reducible assumption) ?_
    | with_reducible apply Kept.ite
    | with_reducible apply Kept.ite1
    | with_reducible apply kept_coreInstr
    | with_reducible apply kept_storeOp
    | with_reducible apply Kept.foldl
    | with_reducible apply Kept.foldl1
    | (fail_if_no_progress (with_reducible refine Kept.upd ?_ ?_ ?_ ?_ ?_; exact rfl; exact rfl; exact rfl; exact rfl))
    | (with_reducible refine Kept.filt rfl rfl rfl rfl ?_)
    | split
    | dsimp only)

theorem kept_execVld {σ : State} (n : Nat) (c : Nat) (w : Word) (s : State)  (h : Kept σ s) : ResKept σ (execVld n c w s) := by
  unfold execVld
  try dsimp only
  repeat' (first
    | intro _
    | with_reducible assumption
    | with_reducible apply ResKept.need
    | with_reducible apply ResKept.always
    | with_reducible apply ResKept.next
    | with_reducible apply ResKept.fault
    | with_reducible apply ResKept.ite
    | refine Kept.of_eq (by with_reducible assumption) ?_
    | with_reducible apply Kept.ite
    | with_reducible apply Kept.ite1
    | with_reducible apply kept_coreInstr
    | with_reducible apply kept_loadOp
    | with_reducible apply Kept.foldl
    | with_reducible apply Kept.foldl1
    | (fail_if_no_progress (with_reducible refine Kept.upd ?_ ?_ ?_ ?_ ?_; exact rfl; exact rfl; exact rfl; exact rfl))
    | (with_reducible refine Kept.filt rfl rfl rfl rfl ?_)
    | split
    | dsimp only)

theorem kept_execVst {σ : State} (n : Nat) (c : Nat) (w : Word) (s : State)  (h : Kept σ s) : ResKept σ (execVst n c w s) := by
  unfold execVst
  try dsimp only
  repeat' (first
    | intro _
    | with_reducible assumption
    | with_reducible apply ResKept.need
    | with_reducible apply ResKept.always
    | with_reducible apply ResKept.next
    | with_reducible apply ResKept.fault
    | with_reducible apply ResKept.ite
    | refine Kept.of_eq (by with_reducible assumption) ?_
    | with_reducible apply Kept.ite
    | with_reducible apply Kept.ite1
    | with_reducible apply kept_coreInstr
    | with_reducible apply kept_storeOp
    | with_reducible apply Kept.foldl
    | with_reducible apply Kept.foldl1
    | (fail_if_no_progress (with_reducible refine Kept.upd ?_ ?_ ?_ ?_ ?_; exact rfl; exact rfl; exact rfl; exact rfl))
    | (with_reducible refine Kept.filt rfl rfl rfl rfl ?_)
    | split
    | dsimp only)

theorem kept_execPld {σ : State} (n : Nat) (c : Nat) (w : Word) (s : State)  (h : Kept σ s) : ResKept σ (execPld n c w s) := by
  unfold execPld
  try dsimp only
  repeat' (first
    | intro _
    | with_reducible assumption
    | with_reducible apply ResKept.need
    | with_reducible apply ResKept.always
    | with_reducible apply ResKept.next
    | with_reducible apply ResKept.fault
    | with_reducible apply ResKept.ite
    | refine Kept.of_eq (by with_reducible assumption) ?_
    | with_reducible apply Kept.ite
    | with_reducible apply Kept.ite1
    | with_reducible apply kept_coreInstr
    | with_reducible apply kept_loadOp
    | with_reducible apply Kept.foldl
    | with_reducible apply Kept.foldl1
    | (fail_if_no_progress (with_reducible refine Kept.upd ?_ ?_ ?_ ?_ ?_; exact rfl; exact rfl; exact rfl; exact rfl))
    | (with_reducible refine Kept.filt rfl rfl rfl rfl ?_)
    | split
    | dsimp only)

theorem kept_execPst {σ : State} (n : Nat) (c : Nat) (w : Word) (s : State)  (h : Kept σ s) : ResKept σ (execPst n c w s) := by
  unfold execPst
  try dsimp only
  repeat' (first
    | intro _
    | with_reducible assumption
    | with_reducible apply ResKept.need
    | with_reducible apply ResKept.always
    | with_reducible apply ResKept.next
    | with_reducible apply ResKept.fault
    | with_reducible apply ResKept.ite
    | refine Kept.of_eq (by with_reducible assumption) ?_
    | with_reducible apply Kept.ite
    | with_reducible apply Kept.ite1
    | with_reducible apply kept_coreInstr
    | with_reducible apply kept_storeOp
    | with_reducible apply Kept.foldl
    | with_reducible apply Kept.foldl1
    | (fail_if_no_progress (with_reducible refine Kept.upd ?_ ?_ ?_ ?_ ?_; exact rfl; exact rfl; exact rfl; exact rfl))
    | (with_reducible refine Kept.filt rfl rfl rfl rfl ?_)
    | split
    | dsimp only)

end Sys2Proof.Machine
end

