-- ==== Sys2Proof/Laws/KeptMarVec.lean ====
section
/-! SUPPORT. The definitions of Machine/MarVec.lean keep (Laws/Kept.lean). -/

namespace Sys2Proof.Machine

open Sys2Proof

theorem kept_vecArith {σ : State} (n : Nat) (c : Nat) (w : Word) (ff : Fmt → Nat → Nat → Nat) (fi : Option (Nat → Nat → Nat → Nat)) (s : State)  (h : Kept σ s) : ResKept σ (vecArith n c w ff fi s) := by
  unfold vecArith
  try dsimp only
  repeat' (first
    | intro _
    | with_reducible assumption
    | with_reducible apply ResKept.need
    | with_reducible apply ResKept.always
    | with_reducible apply ResKept.next
    | with_reducible apply ResKept.fault
    | with_reducible apply ResKept.ite
    | refine Kept.of_eq (by with_reducible assumption) ?_
    | with_reducible apply Kept.ite
    | with_reducible apply Kept.ite1
    | with_reducible apply kept_regInstr
    | with_reducible apply Kept.foldl
    | with_reducible apply Kept.foldl1
    | (fail_if_no_progress (with_reducible refine Kept.upd ?_ ?_ ?_ ?_ ?_; exact rfl; exact rfl; exact rfl; exact rfl))
    | (with_reducible refine Kept.filt rfl rfl rfl rfl ?_)
    | split
    | dsimp only)

theorem kept_execVadd {σ : State} (n : Nat) (c : Nat) (w : Word) (s : State)  (h : Kept σ s) : ResKept σ (execVadd n c w s) := by
  unfold execVadd
  try dsimp only
  repeat' (first
    | intro _
    | with_reducible assumption
    | with_reducible apply ResKept.need
    | with_reducible apply ResKept.always
    | with_reducible apply ResKept.next
    | with_reducible apply ResKept.fault
    | with_reducible apply ResKept.ite
    | refine Kept.of_eq (by with_reducible assumption) ?_
    | with_reducible apply Kept.ite
    | with_reducible apply Kept.ite1
    | with_reducible apply kept_vecArith
    | with_reducible apply Kept.foldl
    | with_reducible apply Kept.foldl1
    | (fail_if_no_progress (with_reducible refine Kept.upd ?_ ?_ ?_ ?_ ?_; exact rfl; exact rfl; exact rfl; exact rfl))
    | (with_reducible refine Kept.filt rfl rfl rfl rfl ?_)
    | split
    | dsimp only)

theorem kept_execVsub {σ : State} (n : Nat) (c : Nat) (w : Word) (s : State)  (h : Kept σ s) : ResKept σ (execVsub n c w s) := by
  unfold execVsub
  try dsimp only
  repeat' (first
    | intro _
    | with_reducible assumption
    | with_reducible apply ResKept.need
    | with_reducible apply ResKept.always
    | with_reducible apply ResKept.next
    | with_reducible apply ResKept.fault
    | with_reducible apply ResKept.ite
    | refine Kept.of_eq (by with_reducible assumption) ?_
    | with_reducible apply Kept.ite
    | with_reducible apply Kept.ite1
    | with_reducible apply kept_vecArith
    | with_reducible apply Kept.foldl
    | with_reducible apply Kept.foldl1
    | (fail_if_no_progress (with_reducible refine Kept.upd ?_ ?_ ?_ ?_ ?_; exact rfl; exact rfl; exact rfl; exact rfl))
    | (with_reducible refine Kept.filt rfl rfl rfl rfl ?_)
    | split
    | dsimp only)

theorem kept_execVmul {σ : State} (n : Nat) (c : Nat) (w : Word) (s : State)  (h : Kept σ s) : ResKept σ (execVmul n c w s) := by
  unfold execVmul
  try dsimp only
  repeat' (first
    | intro _
    | with_reducible assumption
    | with_reducible apply ResKept.need
    | with_reducible apply ResKept.always
    | with_reducible apply ResKept.next
    | with_reducible apply ResKept.fault
    | with_reducible apply ResKept.ite
    | refine Kept.of_eq (by with_reducible assumption) ?_
    | with_reducible apply Kept.ite
    | with_reducible apply Kept.ite1
    | with_reducible apply kept_vecArith
    | with_reducible apply Kept.foldl
    | with_reducible apply Kept.foldl1
    | (fail_if_no_progress (with_reducible refine Kept.upd ?_ ?_ ?_ ?_ ?_; exact rfl; exact rfl; exact rfl; exact rfl))
    | (with_reducible refine Kept.filt rfl rfl rfl rfl ?_)
    | split
    | dsimp only)

theorem kept_execVdiv {σ : State} (n : Nat) (c : Nat) (w : Word) (s : State)  (h : Kept σ s) : ResKept σ (execVdiv n c w s) := by
  unfold execVdiv
  try dsimp only
  repeat' (first
    | intro _
    | with_reducible assumption
    | with_reducible apply ResKept.need
    | with_reducible apply ResKept.always
    | with_reducible apply ResKept.next
    | with_reducible apply ResKept.fault
    | with_reducible apply ResKept.ite
    | refine Kept.of_eq (by with_reducible assumption) ?_
    | with_reducible apply Kept.ite
    | with_reducible apply Kept.ite1
    | with_reducible apply kept_vecArith
    | with_reducible apply Kept.foldl
    | with_reducible apply Kept.foldl1
    | (fail_if_no_progress (with_reducible refine Kept.upd ?_ ?_ ?_ ?_ ?_; exact rfl; exact rfl; exact rfl; exact rfl))
    | (with_reducible refine Kept.filt rfl rfl rfl rfl ?_)
    | split
    | dsimp only)

theorem kept_execVsqrt {σ : State} (n : Nat) (c : Nat) (w : Word) (s : State)  (h : Kept σ s) : ResKept σ (execVsqrt n c w s) := by
  unfold execVsqrt
  try dsimp only
  repeat' (first
    | intro _
    | with_reducible assumption
    | with_reducible apply ResKept.need
    | with_reducible apply ResKept.always
    | with_reducible apply ResKept.next
    | with_reducible apply ResKept.fault
    | with_reducible apply ResKept.ite
    | refine Kept.of_eq (by with_reducible assumption) ?_
    | with_reducible apply Kept.ite
    | with_reducible apply Kept.ite1
    | with_reducible apply kept_vecArith
    | with_reducible apply Kept.foldl
    | with_reducible apply Kept.foldl1
    | (fail_if_no_progress (with_reducible refine Kept.upd ?_ ?_ ?_ ?_ ?_; exact rfl; exact rfl; exact rfl; exact rfl))
    | (with_reducible refine Kept.filt rfl rfl rfl rfl ?_)
    | split
    | dsimp only)

theorem kept_execVmin {σ : State} (n : Nat) (c : Nat) (w : Word) (s : State)  (h : Kept σ s) : ResKept σ (execVmin n c w s) := by
  unfold execVmin
  try dsimp only
  repeat' (first
    | intro _
    | with_reducible assumption
    | with_reducible apply ResKept.need
    | with_reducible apply ResKept.always
    | with_reducible apply ResKept.next
    | with_reducible apply ResKept.fault
    | with_reducible apply ResKept.ite
    | refine Kept.of_eq (by with_reducible assumption) ?_
    | with_reducible apply Kept.ite
    | with_reducible apply Kept.ite1
    | with_reducible apply kept_vecArith
    | with_reducible apply Kept.foldl
    | with_reducible apply Kept.foldl1
    | (fail_if_no_progress (with_reducible refine Kept.upd ?_ ?_ ?_ ?_ ?_; exact rfl; exact rfl; exact rfl; exact rfl))
    | (with_reducible refine Kept.filt rfl rfl rfl rfl ?_)
    | split
    | dsimp only)

theorem kept_execVmax {σ : State} (n : Nat) (c : Nat) (w : Word) (s : State)  (h : Kept σ s) : ResKept σ (execVmax n c w s) := by
  unfold execVmax
  try dsimp only
  repeat' (first
    | intro _
    | with_reducible assumption
    | with_reducible apply ResKept.need
    | with_reducible apply ResKept.always
    | with_reducible apply ResKept.next
    | with_reducible apply ResKept.fault
    | with_reducible apply ResKept.ite
    | refine Kept.of_eq (by with_reducible assumption) ?_
    | with_reducible apply Kept.ite
    | with_reducible apply Kept.ite1
    | with_reducible apply kept_vecArith
    | with_reducible apply Kept.foldl
    | with_reducible apply Kept.foldl1
    | (fail_if_no_progress (with_reducible refine Kept.upd ?_ ?_ ?_ ?_ ?_; exact rfl; exact rfl; exact rfl; exact rfl))
    | (with_reducible refine Kept.filt rfl rfl rfl rfl ?_)
    | split
    | dsimp only)

theorem kept_execVabs {σ : State} (n : Nat) (c : Nat) (w : Word) (s : State)  (h : Kept σ s) : ResKept σ (execVabs n c w s) := by
  unfold execVabs
  try dsimp only
  repeat' (first
    | intro _
    | with_reducible assumption
    | with_reducible apply ResKept.need
    | with_reducible apply ResKept.always
    | with_reducible apply ResKept.next
    | with_reducible apply ResKept.fault
    | with_reducible apply ResKept.ite
    | refine Kept.of_eq (by with_reducible assumption) ?_
    | with_reducible apply Kept.ite
    | with_reducible apply Kept.ite1
    | with_reducible apply kept_vecArith
    | with_reducible apply Kept.foldl
    | with_reducible apply Kept.foldl1
    | (fail_if_no_progress (with_reducible refine Kept.upd ?_ ?_ ?_ ?_ ?_; exact rfl; exact rfl; exact rfl; exact rfl))
    | (with_reducible refine Kept.filt rfl rfl rfl rfl ?_)
    | split
    | dsimp only)

theorem kept_vecLogic {σ : State} (n : Nat) (c : Nat) (w : Word) (f : Nat → Nat → Nat → Nat) (s : State)  (h : Kept σ s) : ResKept σ (vecLogic n c w f s) := by
  unfold vecLogic
  try dsimp only
  repeat' (first
    | intro _
    | with_reducible assumption
    | with_reducible apply ResKept.need
    | with_reducible apply ResKept.always
    | with_reducible apply ResKept.next
    | with_reducible apply ResKept.fault
    | with_reducible apply ResKept.ite
    | refine Kept.of_eq (by with_reducible assumption) ?_
    | with_reducible apply Kept.ite
    | with_reducible apply Kept.ite1
    | with_reducible apply kept_regInstr
    | with_reducible apply Kept.foldl
    | with_reducible apply Kept.foldl1
    | (fail_if_no_progress (with_reducible refine Kept.upd ?_ ?_ ?_ ?_ ?_; exact rfl; exact rfl; exact rfl; exact rfl))
    | (with_reducible refine Kept.filt rfl rfl rfl rfl ?_)
    | split
    | dsimp only)

theorem kept_execVand {σ : State} (n : Nat) (c : Nat) (w : Word) (s : State)  (h : Kept σ s) : ResKept σ (execVand n c w s) := by
  unfold execVand
  try dsimp only
  repeat' (first
    | intro _
    | with_reducible assumption
    | with_reducible apply ResKept.need
    | with_reducible apply ResKept.always
    | with_reducible apply ResKept.next
    | with_reducible apply ResKept.fault
    | with_reducible apply ResKept.ite
    | refine Kept.of_eq (by with_reducible assumption) ?_
    | with_reducible apply Kept.ite
    | with_reducible apply Kept.ite1
    | with_reducible apply kept_vecLogic
    | with_reducible apply Kept.foldl
    | with_reducible apply Kept.foldl1
    | (fail_if_no_progress (with_reducible refine Kept.upd ?_ ?_ ?_ ?_ ?_; exact rfl; exact rfl; exact rfl; exact rfl))
    | (with_reducible refine Kept.filt rfl rfl rfl rfl ?_)
    | split
    | dsimp only)

theorem kept_execVor {σ : State} (n : Nat) (c : Nat) (w : Word) (s : State)  (h : Kept σ s) : ResKept σ (execVor n c w s) := by
  unfold execVor
  try dsimp only
  repeat' (first
    | intro _
    | with_reducible assumption
    | with_reducible apply ResKept.need
    | with_reducible apply ResKept.always
    | with_reducible apply ResKept.next
    | with_reducible apply ResKept.fault
    | with_reducible apply ResKept.ite
    | refine Kept.of_eq (by with_reducible assumption) ?_
    | with_reducible apply Kept.ite
    | with_reducible apply Kept.ite1
    | with_reducible apply kept_vecLogic
    | with_reducible apply Kept.foldl
    | with_reducible apply Kept.foldl1
    | (fail_if_no_progress (with_reducible refine Kept.upd ?_ ?_ ?_ ?_ ?_; exact rfl; exact rfl; exact rfl; exact rfl))
    | (with_reducible refine Kept.filt rfl rfl rfl rfl ?_)
    | split
    | dsimp only)

theorem kept_execVxor {σ : State} (n : Nat) (c : Nat) (w : Word) (s : State)  (h : Kept σ s) : ResKept σ (execVxor n c w s) := by
  unfold execVxor
  try dsimp only
  repeat' (first
    | intro _
    | with_reducible assumption
    | with_reducible apply ResKept.need
    | with_reducible apply ResKept.always
    | with_reducible apply ResKept.next
    | with_reducible apply ResKept.fault
    | with_reducible apply ResKept.ite
    | refine Kept.of_eq (by with_reducible assumption) ?_
    | with_reducible apply Kept.ite
    | with_reducible apply Kept.ite1
    | with_reducible apply kept_vecLogic
    | with_reducible apply Kept.foldl
    | with_reducible apply Kept.foldl1
    | (fail_if_no_progress (with_reducible refine Kept.upd ?_ ?_ ?_ ?_ ?_; exact rfl; exact rfl; exact rfl; exact rfl))
    | (with_reducible refine Kept.filt rfl rfl rfl rfl ?_)
    | split
    | dsimp only)

theorem kept_execVshl {σ : State} (n : Nat) (c : Nat) (w : Word) (s : State)  (h : Kept σ s) : ResKept σ (execVshl n c w s) := by
  unfold execVshl
  try dsimp only
  repeat' (first
    | intro _
    | with_reducible assumption
    | with_reducible apply ResKept.need
    | with_reducible apply ResKept.always
    | with_reducible apply ResKept.next
    | with_reducible apply ResKept.fault
    | with_reducible apply ResKept.ite
    | refine Kept.of_eq (by with_reducible assumption) ?_
    | with_reducible apply Kept.ite
    | with_reducible apply Kept.ite1
    | with_reducible apply kept_vecLogic
    | with_reducible apply Kept.foldl
    | with_reducible apply Kept.foldl1
    | (fail_if_no_progress (with_reducible refine Kept.upd ?_ ?_ ?_ ?_ ?_; exact rfl; exact rfl; exact rfl; exact rfl))
    | (with_reducible refine Kept.filt rfl rfl rfl rfl ?_)
    | split
    | dsimp only)

theorem kept_execVshr {σ : State} (n : Nat) (c : Nat) (w : Word) (s : State)  (h : Kept σ s) : ResKept σ (execVshr n c w s) := by
  unfold execVshr
  try dsimp only
  repeat' (first
    | intro _
    | with_reducible assumption
    | with_reducible apply ResKept.need
    | with_reducible apply ResKept.always
    | with_reducible apply ResKept.next
    | with_reducible apply ResKept.fault
    | with_reducible apply ResKept.ite
    | refine Kept.of_eq (by with_reducible assumption) ?_
    | with_reducible apply Kept.ite
    | with_reducible apply Kept.ite1
    | with_reducible apply kept_vecLogic
    | with_reducible apply Kept.foldl
    | with_reducible apply Kept.foldl1
    | (fail_if_no_progress (with_reducible refine Kept.upd ?_ ?_ ?_ ?_ ?_; exact rfl; exact rfl; exact rfl; exact rfl))
    | (with_reducible refine Kept.filt rfl rfl rfl rfl ?_)
    | split
    | dsimp only)

theorem kept_execVcmp {σ : State} (n : Nat) (c : Nat) (w : Word) (s : State)  (h : Kept σ s) : ResKept σ (execVcmp n c w s) := by
  unfold execVcmp
  try dsimp only
  repeat' (first
    | intro _
    | with_reducible assumption
    | with_reducible apply ResKept.need
    | with_reducible apply ResKept.always
    | with_reducible apply ResKept.next
    | with_reducible apply ResKept.fault
    | with_reducible apply ResKept.ite
    | refine Kept.of_eq (by with_reducible assumption) ?_
    | with_reducible apply Kept.ite
    | with_reducible apply Kept.ite1
    | with_reducible apply kept_regInstr
    | with_reducible apply Kept.foldl
    | with_reducible apply Kept.foldl1
    | (fail_if_no_progress (with_reducible refine Kept.upd ?_ ?_ ?_ ?_ ?_; exact rfl; exact rfl; exact rfl; exact rfl))
    | (with_reducible refine Kept.filt rfl rfl rfl rfl ?_)
    | split
    | dsimp only)

theorem kept_execVsel {σ : State} (n : Nat) (c : Nat) (w : Word) (s : State)  (h : Kept σ s) : ResKept σ (execVsel n c w s) := by
  unfold execVsel
  try dsimp only
  repeat' (first
    | intro _
    | with_reducible assumption
    | with_reducible apply ResKept.need
    | with_reducible apply ResKept.always
    | with_reducible apply ResKept.next
    | with_reducible apply ResKept.fault
    | with_reducible apply ResKept.ite
    | refine Kept.of_eq (by with_reducible assumption) ?_
    | with_reducible apply Kept.ite
    | with_reducible apply Kept.ite1
    | with_reducible apply kept_regInstr
    | with_reducible apply Kept.foldl
    | with_reducible apply Kept.foldl1
    | (fail_if_no_progress (with_reducible refine Kept.upd ?_ ?_ ?_ ?_ ?_; exact rfl; exact rfl; exact rfl; exact rfl))
    | (with_reducible refine Kept.filt rfl rfl rfl rfl ?_)
    | split
    | dsimp only)

theorem kept_execVperm {σ : State} (n : Nat) (c : Nat) (w : Word) (s : State)  (h : Kept σ s) : ResKept σ (execVperm n c w s) := by
  unfold execVperm
  try dsimp only
  repeat' (first
    | intro _
    | with_reducible assumption
    | with_reducible apply ResKept.need
    | with_reducible apply ResKept.always
    | with_reducible apply ResKept.next
    | with_reducible apply ResKept.fault
    | with_reducible apply ResKept.ite
    | refine Kept.of_eq (by with_reducible assumption) ?_
    | with_reducible apply Kept.ite
    | with_reducible apply Kept.ite1
    | with_reducible apply kept_regInstr
    | with_reducible apply Kept.foldl
    | with_reducible apply Kept.foldl1
    | (fail_if_no_progress (with_reducible refine Kept.upd ?_ ?_ ?_ ?_ ?_; exact rfl; exact rfl; exact rfl; exact rfl))
    | (with_reducible refine Kept.filt rfl rfl rfl rfl ?_)
    | split
    | dsimp only)

theorem kept_execVbcast {σ : State} (n : Nat) (c : Nat) (w : Word) (s : State)  (h : Kept σ s) : ResKept σ (execVbcast n c w s) := by
  unfold execVbcast
  try dsimp only
  repeat' (first
    | intro _
    | with_reducible assumption
    | with_reducible apply ResKept.need
    | with_reducible apply ResKept.always
    | with_reducible apply ResKept.next
    | with_reducible apply ResKept.fault
    | with_reducible apply ResKept.ite
    | refine Kept.of_eq (by with_reducible assumption) ?_
    | with_reducible apply Kept.ite
    | with_reducible apply Kept.ite1
    | with_reducible apply kept_regInstr
    | with_reducible apply Kept.foldl
    | with_reducible apply Kept.foldl1
    | (fail_if_no_progress (with_reducible refine Kept.upd ?_ ?_ ?_ ?_ ?_; exact rfl; exact rfl; exact rfl; exact rfl))
    | (with_reducible refine Kept.filt rfl rfl rfl rfl ?_)
    | split
    | dsimp only)

theorem kept_execVmovg {σ : State} (n : Nat) (c : Nat) (w : Word) (s : State)  (h : Kept σ s) : ResKept σ (execVmovg n c w s) := by
  unfold execVmovg
  try dsimp only
  repeat' (first
    | intro _
    | with_reducible assumption
    | with_reducible apply ResKept.need
    | with_reducible apply ResKept.always
    | with_reducible apply ResKept.next
    | with_reducible apply ResKept.fault
    | with_reducible apply ResKept.ite
    | refine Kept.of_eq (by with_reducible assumption) ?_
    | with_reducible apply Kept.ite
    | with_reducible apply Kept.ite1
    | with_reducible apply kept_regInstr
    | with_reducible apply Kept.foldl
    | with_reducible apply Kept.foldl1
    | (fail_if_no_progress (with_reducible refine Kept.upd ?_ ?_ ?_ ?_ ?_; exact rfl; exact rfl; exact rfl; exact rfl))
    | (with_reducible refine Kept.filt rfl rfl rfl rfl ?_)
    | split
    | dsimp only)

theorem kept_execVmovv {σ : State} (n : Nat) (c : Nat) (w : Word) (s : State)  (h : Kept σ s) : ResKept σ (execVmovv n c w s) := by
  unfold execVmovv
  try dsimp only
  repeat' (first
    | intro _
    | with_reducible assumption
    | with_reducible apply ResKept.need
    | with_reducible apply ResKept.always
    | with_reducible apply ResKept.next
    | with_reducible apply ResKept.fault
    | with_reducible apply ResKept.ite
    | refine Kept.of_eq (by with_reducible assumption) ?_
    | with_reducible apply Kept.ite
    | with_reducible apply Kept.ite1
    | with_reducible apply kept_regInstr
    | with_reducible apply Kept.foldl
    | with_reducible apply Kept.foldl1
    | (fail_if_no_progress (with_reducible refine Kept.upd ?_ ?_ ?_ ?_ ?_; exact rfl; exact rfl; exact rfl; exact rfl))
    | (with_reducible refine Kept.filt rfl rfl rfl rfl ?_)
    | split
    | dsimp only)

theorem kept_execVreduce {σ : State} (n : Nat) (c : Nat) (w : Word) (s : State)  (h : Kept σ s) : ResKept σ (execVreduce n c w s) := by
  unfold execVreduce
  try dsimp only
  repeat' (first
    | intro _
    | with_reducible assumption
    | with_reducible apply ResKept.need
    | with_reducible apply ResKept.always
    | with_reducible apply ResKept.next
    | with_reducible apply ResKept.fault
    | with_reducible apply ResKept.ite
    | refine Kept.of_eq (by with_reducible assumption) ?_
    | with_reducible apply Kept.ite
    | with_reducible apply Kept.ite1
    | with_reducible apply kept_regInstr
    | with_reducible apply Kept.foldl
    | with_reducible apply Kept.foldl1
    | (fail_if_no_progress (with_reducible refine Kept.upd ?_ ?_ ?_ ?_ ?_; exact rfl; exact rfl; exact rfl; exact rfl))
    | (with_reducible refine Kept.filt rfl rfl rfl rfl ?_)
    | split
    | dsimp only)

theorem kept_predOp {σ : State} (n : Nat) (c : Nat) (w : Word) (f : Bool → Bool → Bool) (s : State)  (h : Kept σ s) : ResKept σ (predOp n c w f s) := by
  unfold predOp
  try dsimp only
  repeat' (first
    | intro _
    | with_reducible assumption
    | with_reducible apply ResKept.need
    | with_reducible apply ResKept.always
    | with_reducible apply ResKept.next
    | with_reducible apply ResKept.fault
    | with_reducible apply ResKept.ite
    | refine Kept.of_eq (by with_reducible assumption) ?_
    | with_reducible apply Kept.ite
    | with_reducible apply Kept.ite1
    | with_reducible apply kept_regInstr
    | with_reducible apply Kept.foldl
    | with_reducible apply Kept.foldl1
    | (fail_if_no_progress (with_reducible refine Kept.upd ?_ ?_ ?_ ?_ ?_; exact rfl; exact rfl; exact rfl; exact rfl))
    | (with_reducible refine Kept.filt rfl rfl rfl rfl ?_)
    | split
    | dsimp only)

theorem kept_execPand {σ : State} (n : Nat) (c : Nat) (w : Word) (s : State)  (h : Kept σ s) : ResKept σ (execPand n c w s) := by
  unfold execPand
  try dsimp only
  repeat' (first
    | intro _
    | with_reducible assumption
    | with_reducible apply ResKept.need
    | with_reducible apply ResKept.always
    | with_reducible apply ResKept.next
    | with_reducible apply ResKept.fault
    | with_reducible apply ResKept.ite
    | refine Kept.of_eq (by with_reducible assumption) ?_
    | with_reducible apply Kept.ite
    | with_reducible apply Kept.ite1
    | with_reducible apply kept_predOp
    | with_reducible apply Kept.foldl
    | with_reducible apply Kept.foldl1
    | (fail_if_no_progress (with_reducible refine Kept.upd ?_ ?_ ?_ ?_ ?_; exact rfl; exact rfl; exact rfl; exact rfl))
    | (with_reducible refine Kept.filt rfl rfl rfl rfl ?_)
    | split
    | dsimp only)

theorem kept_execPor {σ : State} (n : Nat) (c : Nat) (w : Word) (s : State)  (h : Kept σ s) : ResKept σ (execPor n c w s) := by
  unfold execPor
  try dsimp only
  repeat' (first
    | intro _
    | with_reducible assumption
    | with_reducible apply ResKept.need
    | with_reducible apply ResKept.always
    | with_reducible apply ResKept.next
    | with_reducible apply ResKept.fault
    | with_reducible apply ResKept.ite
    | refine Kept.of_eq (by with_reducible assumption) ?_
    | with_reducible apply Kept.ite
    | with_reducible apply Kept.ite1
    | with_reducible apply kept_predOp
    | with_reducible apply Kept.foldl
    | with_reducible apply Kept.foldl1
    | (fail_if_no_progress (with_reducible refine Kept.upd ?_ ?_ ?_ ?_ ?_; exact rfl; exact rfl; exact rfl; exact rfl))
    | (with_reducible refine Kept.filt rfl rfl rfl rfl ?_)
    | split
    | dsimp only)

theorem kept_execPnot {σ : State} (n : Nat) (c : Nat) (w : Word) (s : State)  (h : Kept σ s) : ResKept σ (execPnot n c w s) := by
  unfold execPnot
  try dsimp only
  repeat' (first
    | intro _
    | with_reducible assumption
    | with_reducible apply ResKept.need
    | with_reducible apply ResKept.always
    | with_reducible apply ResKept.next
    | with_reducible apply ResKept.fault
    | with_reducible apply ResKept.ite
    | refine Kept.of_eq (by with_reducible assumption) ?_
    | with_reducible apply Kept.ite
    | with_reducible apply Kept.ite1
    | with_reducible apply kept_predOp
    | with_reducible apply Kept.foldl
    | with_reducible apply Kept.foldl1
    | (fail_if_no_progress (with_reducible refine Kept.upd ?_ ?_ ?_ ?_ ?_; exact rfl; exact rfl; exact rfl; exact rfl))
    | (with_reducible refine Kept.filt rfl rfl rfl rfl ?_)
    | split
    | dsimp only)

theorem kept_execPcnt {σ : State} (n : Nat) (c : Nat) (w : Word) (s : State)  (h : Kept σ s) : ResKept σ (execPcnt n c w s) := by
  unfold execPcnt
  try dsimp only
  repeat' (first
    | intro _
    | with_reducible assumption
    | with_reducible apply ResKept.need
    | with_reducible apply ResKept.always
    | with_reducible apply ResKept.next
    | with_reducible apply ResKept.fault
    | with_reducible apply ResKept.ite
    | refine Kept.of_eq (by with_reducible assumption) ?_
    | with_reducible apply Kept.ite
    | with_reducible apply Kept.ite1
    | with_reducible apply kept_regInstr
    | with_reducible apply Kept.foldl
    | with_reducible apply Kept.foldl1
    | (fail_if_no_progress (with_reducible refine Kept.upd ?_ ?_ ?_ ?_ ?_; exact rfl; exact rfl; exact rfl; exact rfl))
    | (with_reducible refine Kept.filt rfl rfl rfl rfl ?_)
    | split
    | dsimp only)

end Sys2Proof.Machine
end

