-- ==== Sys2Proof/Laws/KeptProduct.lean ====
section
/-! SUPPORT. The definitions of Machine/Product.lean keep (Laws/Kept.lean). -/

namespace Sys2Proof.Machine

open Sys2Proof

theorem kept_readStore {σ : State} (ag : Agent) (n : Nat) (a : Nat) (k : Nat) (s : State)  (h : Kept σ s) : Kept σ (readStore ag n a k s).1 := by
  unfold readStore
  try dsimp only
  repeat' (first
    | intro _
    | with_reducible assumption
    | refine Kept.of_eq (by with_reducible assumption) ?_
    | with_reducible apply Kept.ite
    | with_reducible apply Kept.ite1
    | with_reducible apply kept_readMem
    | with_reducible apply Kept.foldl
    | with_reducible apply Kept.foldl1
    | (fail_if_no_progress (with_reducible refine Kept.upd ?_ ?_ ?_ ?_ ?_; exact rfl; exact rfl; exact rfl; exact rfl))
    | (with_reducible refine Kept.filt rfl rfl rfl rfl ?_)
    | split
    | dsimp only)

theorem kept_readTile {σ : State} (ag : Agent) (n : Nat) (a : Nat) (l : List (Nat × Nat)) (s : State) (h : Kept σ s) : Kept σ (readTile ag n a l s).1 := by
  induction l generalizing s with
  | nil => exact h
  | cons x xs ih =>
    obtain ⟨_, _⟩ := x
    unfold readTile
    try dsimp only
    repeat' (first
      | with_reducible assumption
      | refine Kept.of_eq (by with_reducible assumption) ?_
      | with_reducible apply ih
      | with_reducible apply kept_readStore
      | split
      | dsimp only)

theorem kept_readTiles {σ : State} (ag : Agent) (n : Nat) (l : List (Nat × List (Nat × Nat))) (s : State) (h : Kept σ s) : Kept σ (readTiles ag n l s).1 := by
  induction l generalizing s with
  | nil => exact h
  | cons x xs ih =>
    obtain ⟨_, _⟩ := x
    unfold readTiles
    try dsimp only
    repeat' (first
      | with_reducible assumption
      | refine Kept.of_eq (by with_reducible assumption) ?_
      | with_reducible apply ih
      | with_reducible apply kept_readTile
      | split
      | dsimp only)

theorem kept_readOperand {σ : State} (ag : Agent) (n : Nat) (c : Nat) (stepMajor : Bool) (k : Nat) (a : Nat) (stride : Nat) (sa : Nat) (s : State)  (h : Kept σ s) : Kept σ (readOperand ag n c stepMajor k a stride sa s).1 := by
  unfold readOperand
  try dsimp only
  repeat' (first
    | intro _
    | with_reducible assumption
    | refine Kept.of_eq (by with_reducible assumption) ?_
    | with_reducible apply Kept.ite
    | with_reducible apply Kept.ite1
    | with_reducible apply kept_readTiles
    | with_reducible apply Kept.foldl
    | with_reducible apply Kept.foldl1
    | (fail_if_no_progress (with_reducible refine Kept.upd ?_ ?_ ?_ ?_ ?_; exact rfl; exact rfl; exact rfl; exact rfl))
    | (with_reducible refine Kept.filt rfl rfl rfl rfl ?_)
    | split
    | dsimp only)

theorem kept_readPass {σ : State} (ag : Agent) (n : Nat) (p : PassWord) (s : State)  (h : Kept σ s) : Kept σ (readPass ag n p s).1 := by
  unfold readPass
  try dsimp only
  repeat' (first
    | intro _
    | with_reducible assumption
    | refine Kept.of_eq (by with_reducible assumption) ?_
    | with_reducible apply Kept.ite
    | with_reducible apply Kept.ite1
    | with_reducible apply kept_readOperand
    | with_reducible apply Kept.foldl
    | with_reducible apply Kept.foldl1
    | (fail_if_no_progress (with_reducible refine Kept.upd ?_ ?_ ?_ ?_ ?_; exact rfl; exact rfl; exact rfl; exact rfl))
    | (with_reducible refine Kept.filt rfl rfl rfl rfl ?_)
    | split
    | dsimp only)

end Sys2Proof.Machine
end

