-- ==== Sys2Proof/Laws/KeptOutput.lean ====
section
/-! SUPPORT. The definitions of Machine/Output.lean keep (Laws/Kept.lean). -/

namespace Sys2Proof.Machine

open Sys2Proof

theorem kept_readAux {σ : State} (ag : Agent) (d : List Word) (x : Pos) (s : State)  (h : Kept σ s) : Kept σ (readAux ag d x s).1 := by
  unfold readAux
  try dsimp only
  repeat' (first
    | intro _
    | with_reducible assumption
    | refine Kept.of_eq (by with_reducible assumption) ?_
    | with_reducible apply Kept.ite
    | with_reducible apply Kept.ite1
    | with_reducible apply kept_readMem
    | with_reducible apply Kept.foldl
    | with_reducible apply Kept.foldl1
    | (fail_if_no_progress (with_reducible refine Kept.upd ?_ ?_ ?_ ?_ ?_; exact rfl; exact rfl; exact rfl; exact rfl))
    | (with_reducible refine Kept.filt rfl rfl rfl rfl ?_)
    | split
    | dsimp only)

theorem kept_stage4 {σ : State} (ag : Agent) (p : PassWord) (d : List Word) (e : Engine) (x : Pos) (s : State)  (h : Kept σ s) : Kept σ (stage4 ag p d e x s).1 := by
  unfold stage4
  try dsimp only
  repeat' (first
    | intro _
    | with_reducible assumption
    | refine Kept.of_eq (by with_reducible assumption) ?_
    | with_reducible apply Kept.ite
    | with_reducible apply Kept.ite1
    | with_reducible apply kept_readMem
    | with_reducible apply kept_readAux
    | with_reducible apply Kept.foldl
    | with_reducible apply Kept.foldl1
    | (fail_if_no_progress (with_reducible refine Kept.upd ?_ ?_ ?_ ?_ ?_; exact rfl; exact rfl; exact rfl; exact rfl))
    | (with_reducible refine Kept.filt rfl rfl rfl rfl ?_)
    | split
    | dsimp only)

theorem kept_stages {σ : State} (ag : Agent) (p : PassWord) (d : List Word) (e : Engine) (l : List Pos) (s : State) (h : Kept σ s) : Kept σ (stages ag p d e l s).1 := by
  induction l generalizing s with
  | nil => exact h
  | cons x xs ih =>
    unfold stages
    try dsimp only
    repeat' (first
      | with_reducible assumption
      | refine Kept.of_eq (by with_reducible assumption) ?_
      | with_reducible apply ih
      | with_reducible apply kept_stage4
      | split
      | dsimp only)

theorem kept_confProbe {σ : State} (p : PassWord) (s : State)  (h : Kept σ s) : Kept σ (confProbe p s) := by
  unfold confProbe
  try dsimp only
  repeat' (first
    | intro _
    | with_reducible assumption
    | refine Kept.of_eq (by with_reducible assumption) ?_
    | with_reducible apply Kept.ite
    | with_reducible apply Kept.ite1
    | with_reducible apply kept_probe
    | with_reducible apply Kept.foldl
    | with_reducible apply Kept.foldl1
    | (fail_if_no_progress (with_reducible refine Kept.upd ?_ ?_ ?_ ?_ ?_; exact rfl; exact rfl; exact rfl; exact rfl))
    | (with_reducible refine Kept.filt rfl rfl rfl rfl ?_)
    | split
    | dsimp only)

theorem kept_writeRow {σ : State} (ag : Agent) (p : PassWord) (d : List Word) (row : Nat × List Conv) (s : State)  (h : Kept σ s) : Kept σ (writeRow ag p d row s) := by
  unfold writeRow
  try dsimp only
  repeat' (first
    | intro _
    | with_reducible assumption
    | refine Kept.of_eq (by with_reducible assumption) ?_
    | with_reducible apply Kept.ite
    | with_reducible apply Kept.ite1
    | with_reducible apply kept_writeMem
    | with_reducible apply Kept.foldl
    | with_reducible apply Kept.foldl1
    | (fail_if_no_progress (with_reducible refine Kept.upd ?_ ?_ ?_ ?_ ?_; exact rfl; exact rfl; exact rfl; exact rfl))
    | (with_reducible refine Kept.filt rfl rfl rfl rfl ?_)
    | split
    | dsimp only)

end Sys2Proof.Machine
end

