-- ==== Sys2Proof/Laws/KeptHealth.lean ====
section
/-! SUPPORT. The definitions of Machine/Health.lean keep (Laws/Kept.lean). -/

namespace Sys2Proof.Machine

open Sys2Proof

theorem mapWrite_fixed (es : List HmapEntry) (p : Part) : (mapWrite es p).fixed = p.fixed := by
  unfold mapWrite
  split <;> rfl

theorem mapWrite_minSvn (es : List HmapEntry) (p : Part) : (mapWrite es p).minSvn = p.minSvn := by
  unfold mapWrite
  split <;> rfl

theorem kept_hmapRecord {σ : State} (e : HmapEntry) (s : State)  (h : Kept σ s) : Kept σ (hmapRecord e s) := by
  unfold hmapRecord
  try dsimp only
  repeat' (first
    | intro _
    | with_reducible assumption
    | refine Kept.of_eq (by with_reducible assumption) ?_
    | with_reducible apply Kept.ite
    | with_reducible apply Kept.ite1
    | (with_reducible refine Kept.upd ?_ ?_ ?_ ?_ ?_; exact mapWrite_fixed _ _; exact mapWrite_minSvn _ _; exact rfl; exact rfl)
    | with_reducible apply Kept.foldl
    | with_reducible apply Kept.foldl1
    | (fail_if_no_progress (with_reducible refine Kept.upd ?_ ?_ ?_ ?_ ?_; exact rfl; exact rfl; exact rfl; exact rfl))
    | (with_reducible refine Kept.filt rfl rfl rfl rfl ?_)
    | split
    | dsimp only)

end Sys2Proof.Machine
end

