-- ==== Sys2Proof/Laws/KeptGovern.lean ====
section
/-! SUPPORT. The definitions of Machine/Govern.lean keep (Laws/Kept.lean). -/

namespace Sys2Proof.Machine

open Sys2Proof

theorem kept_govConf {σ : State} (l : Nat) (s : State)  (h : Kept σ s) : Kept σ (govConf l s).1 := by
  unfold govConf
  try dsimp only
  repeat' (first
    | intro _
    | with_reducible assumption
    | refine Kept.of_eq (by with_reducible assumption) ?_
    | with_reducible apply Kept.ite
    | with_reducible apply Kept.ite1
    | with_reducible apply Kept.foldl
    | with_reducible apply Kept.foldl1
    | (fail_if_no_progress (with_reducible refine Kept.upd ?_ ?_ ?_ ?_ ?_; exact rfl; exact rfl; exact rfl; exact rfl))
    | (with_reducible refine Kept.filt rfl rfl rfl rfl ?_)
    | split
    | dsimp only)

theorem kept_writeRaw {σ : State} (a : Nat) (ws : List Word) (s : State) (h : Kept σ s) : Kept σ (govLayer.writeRaw a ws s) :=
  kept_writeWords _ _ _ h

theorem kept_govLayer {σ : State} (s : State) (l : Nat)  (h : Kept σ s) : Kept σ (govLayer s l) := by
  unfold govLayer
  try dsimp only
  repeat' (first
    | intro _
    | with_reducible assumption
    | refine Kept.of_eq (by with_reducible assumption) ?_
    | with_reducible apply Kept.ite
    | with_reducible apply Kept.ite1
    | with_reducible apply kept_writeRaw
    | with_reducible apply kept_writeWords
    | with_reducible apply kept_govConf
    | with_reducible apply kept_governor
    | with_reducible apply Kept.foldl
    | with_reducible apply Kept.foldl1
    | (fail_if_no_progress (with_reducible refine Kept.upd ?_ ?_ ?_ ?_ ?_; exact rfl; exact rfl; exact rfl; exact rfl))
    | (with_reducible refine Kept.filt rfl rfl rfl rfl ?_)
    | split
    | dsimp only)

theorem kept_govScale {σ : State} (s : State) (l : Nat) (d : Nat)  (h : Kept σ s) : Kept σ (govScale s l d) := by
  unfold govScale
  try dsimp only
  repeat' (first
    | intro _
    | with_reducible assumption
    | refine Kept.of_eq (by with_reducible assumption) ?_
    | with_reducible apply Kept.ite
    | with_reducible apply Kept.ite1
    | with_reducible apply kept_writeWords
    | with_reducible apply Kept.foldl
    | with_reducible apply Kept.foldl1
    | (fail_if_no_progress (with_reducible refine Kept.upd ?_ ?_ ?_ ?_ ?_; exact rfl; exact rfl; exact rfl; exact rfl))
    | (with_reducible refine Kept.filt rfl rfl rfl rfl ?_)
    | split
    | dsimp only)

theorem kept_govReads {σ : State} (s : State) (l : Nat) (h : Kept σ s) : Kept σ (govReads s l) :=
  Kept.foldl h fun _ _ g => kept_probe _ _ _ g

theorem kept_governor {σ : State} (s : State) (h : Kept σ s) : Kept σ (governor s) := by
  unfold governor
  have h1 : Kept σ ((List.range (nLayers s)).foldl govReads s) := Kept.foldl h fun _ _ g => kept_govReads _ _ g
  generalize (List.range (nLayers s)).foldl govReads s = a at h1 ⊢
  dsimp only
  apply Kept.upd rfl rfl rfl rfl
  have run (b : State) (hb : Kept σ b) : Kept σ (if ((List.range (nLayers b)).foldl govLayer b).gov.enable = true then
      (layerDirs ((List.range (nLayers b)).foldl govLayer b)).foldl (fun t (x : Nat × Nat) => govScale t x.1 x.2)
        ((List.range (nLayers b)).foldl govLayer b) else (List.range (nLayers b)).foldl govLayer b) :=
    have h3 := Kept.foldl hb fun _ _ g => kept_govLayer _ _ g
    Kept.ite (Kept.foldl h3 fun _ x g => kept_govScale _ x.1 x.2 g) h3
  refine run _ (Kept.ite ?_ h1)
  exact kept_clearStatsOnly _ (Kept.upd rfl rfl rfl rfl (kept_probes _ _ h1))

theorem kept_execGovernorRun {σ : State} (s : State)  (h : Kept σ s) : ResKept σ (execGovernorRun s) := by
  unfold execGovernorRun
  try dsimp only
  repeat' (first
    | intro _
    | with_reducible assumption
    | with_reducible apply ResKept.need
    | with_reducible apply ResKept.always
    | with_reducible apply ResKept.next
    | with_reducible apply ResKept.fault
    | with_reducible apply ResKept.ite
    | refine Kept.of_eq (by with_reducible assumption) ?_
    | with_reducible apply Kept.ite
    | with_reducible apply Kept.ite1
    | with_reducible apply kept_settle
    | with_reducible apply kept_governor
    | with_reducible apply Kept.foldl
    | with_reducible apply Kept.foldl1
    | (fail_if_no_progress (with_reducible refine Kept.upd ?_ ?_ ?_ ?_ ?_; exact rfl; exact rfl; exact rfl; exact rfl))
    | (with_reducible refine Kept.filt rfl rfl rfl rfl ?_)
    | split
    | dsimp only)

theorem kept_stale {σ : State} (s : State)  (h : Kept σ s) : Kept σ (stale s) := by
  unfold stale
  try dsimp only
  repeat' (first
    | intro _
    | with_reducible assumption
    | refine Kept.of_eq (by with_reducible assumption) ?_
    | with_reducible apply Kept.ite
    | with_reducible apply Kept.ite1
    | with_reducible apply Kept.foldl
    | with_reducible apply Kept.foldl1
    | (fail_if_no_progress (with_reducible refine Kept.upd ?_ ?_ ?_ ?_ ?_; exact rfl; exact rfl; exact rfl; exact rfl))
    | (with_reducible refine Kept.filt rfl rfl rfl rfl ?_)
    | split
    | dsimp only)

theorem kept_redCount {σ : State} (body : RedBody) (s : State)  (h : Kept σ s) : Kept σ (redCount body s) := by
  unfold redCount
  try dsimp only
  repeat' (first
    | intro _
    | with_reducible assumption
    | refine Kept.of_eq (by with_reducible assumption) ?_
    | with_reducible apply Kept.ite
    | with_reducible apply Kept.ite1
    | with_reducible apply Kept.foldl
    | with_reducible apply Kept.foldl1
    | (fail_if_no_progress (with_reducible refine Kept.upd ?_ ?_ ?_ ?_ ?_; exact rfl; exact rfl; exact rfl; exact rfl))
    | (with_reducible refine Kept.filt rfl rfl rfl rfl ?_)
    | split
    | dsimp only)

theorem kept_redIn {σ : State} (tag : Word) (body : RedBody) (ok : Bool) (f : State → State) (s : State) (hf : ∀  t, Kept σ t → Kept σ (f  t)) (h : Kept σ s) : Kept σ (redIn tag body ok f s) := by
  unfold redIn
  try dsimp only
  repeat' (first
    | intro _
    | with_reducible assumption
    | refine Kept.of_eq (by with_reducible assumption) ?_
    | with_reducible apply Kept.ite
    | with_reducible apply Kept.ite1
    | with_reducible apply hf
    | with_reducible apply kept_ackRed
    | with_reducible apply kept_stale
    | with_reducible apply kept_redCount
    | with_reducible apply Kept.foldl
    | with_reducible apply Kept.foldl1
    | (fail_if_no_progress (with_reducible refine Kept.upd ?_ ?_ ?_ ?_ ?_; exact rfl; exact rfl; exact rfl; exact rfl))
    | (with_reducible refine Kept.filt rfl rfl rfl rfl ?_)
    | split
    | dsimp only)

theorem kept_execRecordUp {σ : State} (tag : Word) (first : Nat) (bs : List (List Word)) (s : State)  (h : Kept σ s) : ResKept σ (execRecordUp tag first bs s) := by
  unfold execRecordUp
  try dsimp only
  repeat' (first
    | intro _
    | with_reducible assumption
    | with_reducible apply ResKept.need
    | with_reducible apply ResKept.always
    | with_reducible apply ResKept.next
    | with_reducible apply ResKept.fault
    | with_reducible apply ResKept.ite
    | refine Kept.of_eq (by with_reducible assumption) ?_
    | with_reducible apply Kept.ite
    | with_reducible apply Kept.ite1
    | with_reducible apply kept_ackRed
    | with_reducible apply kept_exchangeUp
    | with_reducible apply kept_redIn
    | with_reducible apply Kept.foldl
    | with_reducible apply Kept.foldl1
    | (fail_if_no_progress (with_reducible refine Kept.upd ?_ ?_ ?_ ?_ ?_; exact rfl; exact rfl; exact rfl; exact rfl))
    | (with_reducible refine Kept.filt rfl rfl rfl rfl ?_)
    | split
    | dsimp only)

theorem kept_execRecordDown {σ : State} (tag : Word) (first : Nat) (bs : List (List Word)) (s : State)  (h : Kept σ s) : ResKept σ (execRecordDown tag first bs s) := by
  unfold execRecordDown
  try dsimp only
  repeat' (first
    | intro _
    | with_reducible assumption
    | with_reducible apply ResKept.need
    | with_reducible apply ResKept.always
    | with_reducible apply ResKept.next
    | with_reducible apply ResKept.fault
    | with_reducible apply ResKept.ite
    | refine Kept.of_eq (by with_reducible assumption) ?_
    | with_reducible apply Kept.ite
    | with_reducible apply Kept.ite1
    | with_reducible apply kept_ackRed
    | with_reducible apply kept_recordReduced
    | with_reducible apply kept_redIn
    | with_reducible apply Kept.foldl
    | with_reducible apply Kept.foldl1
    | (fail_if_no_progress (with_reducible refine Kept.upd ?_ ?_ ?_ ?_ ?_; exact rfl; exact rfl; exact rfl; exact rfl))
    | (with_reducible refine Kept.filt rfl rfl rfl rfl ?_)
    | split
    | dsimp only)

end Sys2Proof.Machine
end

