-- ==== Sys2Proof/Laws/KeptUpdate.lean ====
section
/-! SUPPORT. The definitions of Machine/Update.lean keep (Laws/Kept.lean). -/

namespace Sys2Proof.Machine

open Sys2Proof

theorem kept_readList {σ : State} (ag : Agent) (l : List (Nat × Nat)) (s : State) (h : Kept σ s) : Kept σ (readList ag l s).1 := by
  induction l generalizing s with
  | nil => exact h
  | cons x xs ih =>
    obtain ⟨_, _⟩ := x
    unfold readList
    try dsimp only
    repeat' (first
      | with_reducible assumption
      | refine Kept.of_eq (by with_reducible assumption) ?_
      | with_reducible apply ih
      | with_reducible apply kept_readMem
      | split
      | dsimp only)

theorem kept_readBlocks {σ : State} (ag : Agent) (d : List Word) (l : List Nat) (s : State) (h : Kept σ s) : Kept σ (readBlocks ag d l s).1 := by
  induction l generalizing s with
  | nil => exact h
  | cons x xs ih =>
    unfold readBlocks
    try dsimp only
    repeat' (first
      | with_reducible assumption
      | refine Kept.of_eq (by with_reducible assumption) ?_
      | with_reducible apply ih
      | with_reducible apply kept_readList
      | split
      | dsimp only)

theorem kept_writeBlock {σ : State} (n : Nat) (q : Nat) (c : Nat) (w0 : Word) (x : List (Nat × List Byte) × CFlags) (s : State)  (h : Kept σ s) : Kept σ (writeBlock n q c w0 x s) := by
  unfold writeBlock
  try dsimp only
  repeat' (first
    | intro _
    | with_reducible assumption
    | refine Kept.of_eq (by with_reducible assumption) ?_
    | with_reducible apply Kept.ite
    | with_reducible apply Kept.ite1
    | with_reducible apply kept_modCore
    | with_reducible apply kept_writeMem
    | with_reducible apply Kept.foldl
    | with_reducible apply Kept.foldl1
    | (fail_if_no_progress (with_reducible refine Kept.upd ?_ ?_ ?_ ?_ ?_; exact rfl; exact rfl; exact rfl; exact rfl))
    | (with_reducible refine Kept.filt rfl rfl rfl rfl ?_)
    | split
    | dsimp only)

theorem kept_updWrites {σ : State} (n : Nat) (q : Nat) (mask : Nat) (w0 : Word) (d : List Word) (u : List Word) (p : UpdPar) (xs : List UpdIn) (s : State)  (h : Kept σ s) : Kept σ (updWrites n q mask w0 d u p xs s) := by
  unfold updWrites
  try dsimp only
  repeat' (first
    | intro _
    | with_reducible assumption
    | refine Kept.of_eq (by with_reducible assumption) ?_
    | with_reducible apply Kept.ite
    | with_reducible apply Kept.ite1
    | with_reducible apply kept_writeMem
    | with_reducible apply kept_writeBlock
    | with_reducible apply Kept.foldl
    | with_reducible apply Kept.foldl1
    | (fail_if_no_progress (with_reducible refine Kept.upd ?_ ?_ ?_ ?_ ?_; exact rfl; exact rfl; exact rfl; exact rfl))
    | (with_reducible refine Kept.filt rfl rfl rfl rfl ?_)
    | split
    | dsimp only)

theorem kept_updBody {σ : State} (n : Nat) (q : Nat) (mask : Nat) (w0 : Word) (w1 : Word) (s : State)  (h : Kept σ s) : Kept σ (updBody n q mask w0 w1 s) := by
  unfold updBody
  try dsimp only
  repeat' (first
    | intro _
    | with_reducible assumption
    | refine Kept.of_eq (by with_reducible assumption) ?_
    | with_reducible apply Kept.ite
    | with_reducible apply Kept.ite1
    | with_reducible apply kept_modThl
    | with_reducible apply kept_postPeg
    | with_reducible apply kept_classed
    | with_reducible apply kept_haltAt
    | with_reducible apply kept_haltMem
    | with_reducible apply kept_strmNext
    | with_reducible apply kept_updWrites
    | with_reducible apply kept_readList
    | with_reducible apply kept_readBlocks
    | with_reducible apply Kept.foldl
    | with_reducible apply Kept.foldl1
    | split
    | (fail_if_no_progress (with_reducible refine Kept.upd ?_ ?_ ?_ ?_ ?_; exact rfl; exact rfl; exact rfl; exact rfl))
    | (with_reducible refine Kept.filt rfl rfl rfl rfl ?_)
    | split
    | dsimp only)

theorem kept_execUpd {σ : State} (n : Nat) (q : Nat) (w0 : Word) (w1 : Word) (s : State)  (h : Kept σ s) : ResKept σ (execUpd n q w0 w1 s) := by
  unfold execUpd
  try dsimp only
  repeat' (first
    | intro _
    | with_reducible assumption
    | with_reducible apply ResKept.need
    | with_reducible apply ResKept.always
    | with_reducible apply ResKept.next
    | with_reducible apply ResKept.fault
    | with_reducible apply ResKept.ite
    | refine Kept.of_eq (by with_reducible assumption) ?_
    | with_reducible apply Kept.ite
    | with_reducible apply Kept.ite1
    | with_reducible apply kept_haltAt
    | with_reducible apply kept_strmHold
    | with_reducible apply kept_strmInstr
    | with_reducible apply kept_updBody
    | with_reducible apply Kept.foldl
    | with_reducible apply Kept.foldl1
    | (fail_if_no_progress (with_reducible refine Kept.upd ?_ ?_ ?_ ?_ ?_; exact rfl; exact rfl; exact rfl; exact rfl))
    | (with_reducible refine Kept.filt rfl rfl rfl rfl ?_)
    | split
    | dsimp only)

theorem kept_execUpdComplete {σ : State} (n : Nat) (k : Nat) (s : State)  (h : Kept σ s) : ResKept σ (execUpdComplete n k s) := by
  unfold execUpdComplete
  try dsimp only
  repeat' (first
    | intro _
    | with_reducible assumption
    | with_reducible apply ResKept.need
    | with_reducible apply ResKept.always
    | with_reducible apply ResKept.next
    | with_reducible apply ResKept.fault
    | with_reducible apply ResKept.ite
    | refine Kept.of_eq (by with_reducible assumption) ?_
    | with_reducible apply Kept.ite
    | with_reducible apply Kept.ite1
    | with_reducible apply kept_modThl
    | with_reducible apply kept_endRun
    | with_reducible apply Kept.foldl
    | with_reducible apply Kept.foldl1
    | (fail_if_no_progress (with_reducible refine Kept.upd ?_ ?_ ?_ ?_ ?_; exact rfl; exact rfl; exact rfl; exact rfl))
    | (with_reducible refine Kept.filt rfl rfl rfl rfl ?_)
    | split
    | dsimp only)

end Sys2Proof.Machine
end

