-- ==== Sys2Proof/Laws/KeptReduce.lean ====
section
/-! SUPPORT. The definitions of Machine/Reduce.lean keep (Laws/Kept.lean). -/

namespace Sys2Proof.Machine

open Sys2Proof

theorem kept_sendFinal {σ : State} (b : Nat) (s : State)  (h : Kept σ s) : Kept σ (sendFinal b s) := by
  unfold sendFinal
  try dsimp only
  repeat' (first
    | intro _
    | with_reducible assumption
    | refine Kept.of_eq (by with_reducible assumption) ?_
    | with_reducible apply Kept.ite
    | with_reducible apply Kept.ite1
    | with_reducible apply kept_modBkt
    | with_reducible apply kept_sendRed
    | with_reducible apply Kept.foldl
    | with_reducible apply Kept.foldl1
    | (fail_if_no_progress (with_reducible refine Kept.upd ?_ ?_ ?_ ?_ ?_; exact rfl; exact rfl; exact rfl; exact rfl))
    | (with_reducible refine Kept.filt rfl rfl rfl rfl ?_)
    | split
    | dsimp only)

theorem kept_doSeal {σ : State} (b : Nat) (s : State) (h : Kept σ s) : Kept σ (doSeal b s) := by
  unfold doSeal
  extract_lets x n parts drop s1 _ s2 s3 s4
  have h1 : Kept σ s1 := kept_modBkt _ _ _ h
  have h2 : Kept σ s2 := by
    clear_value drop s1
    cases drop
    · exact h1
    · exact kept_rdxEv _ _ _ _ _ _ (Kept.upd (X := s1) rfl rfl rfl rfl h1)
  clear_value s2
  have h3 : Kept σ s3 := Kept.ite (Kept.foldl h2 fun _ _ g => kept_snapEv _ _ _ _ _ g) h2
  have h4 : Kept σ s4 := Kept.foldl h3 fun _ _ g => Kept.foldl g fun _ _ g => kept_sendB _ _ _ _ g
  exact Kept.ite (kept_sendFinal _ _ h4) h4

theorem kept_onAnnounce {σ : State} (b src : Nat) (kind : AnnKind) (count digest : Nat) (s0 : State) (h : Kept σ s0) :
    Kept σ (onAnnounce b src kind count digest s0) := by
  unfold onAnnounce
  extract_lets k s
  have hs : Kept σ s := Kept.ite (kept_probe _ _ _ h) h
  clear_value s
  split
  · exact kept_stale _ hs
  · refine Kept.ite (kept_stale _ hs) (Kept.ite (kept_rdxEv _ _ _ _ _ _ (Kept.upd (X := s) rfl rfl rfl rfl hs)) (Kept.ite hs ?_))
    exact Kept.ite (kept_doSeal _ _ (kept_modBkt _ _ _ hs)) (kept_modBkt _ _ _ hs)

theorem kept_modShard {σ : State} (b : Nat) (j : Nat) (f : ShardSt → ShardSt) (s : State)  (h : Kept σ s) : Kept σ (modShard b j f s) := by
  unfold modShard
  try dsimp only
  repeat' (first
    | intro _
    | with_reducible assumption
    | refine Kept.of_eq (by with_reducible assumption) ?_
    | with_reducible apply Kept.ite
    | with_reducible apply Kept.ite1
    | with_reducible apply kept_modBkt
    | with_reducible apply Kept.foldl
    | with_reducible apply Kept.foldl1
    | (fail_if_no_progress (with_reducible refine Kept.upd ?_ ?_ ?_ ?_ ?_; exact rfl; exact rfl; exact rfl; exact rfl))
    | (with_reducible refine Kept.filt rfl rfl rfl rfl ?_)
    | split
    | dsimp only)

theorem kept_placeRun {σ : State} (b : Nat) (off : Nat) (vs : List W32) (s : State)  (h : Kept σ s) : Kept σ (placeRun b off vs s) := by
  unfold placeRun
  try dsimp only
  repeat' (first
    | intro _
    | with_reducible assumption
    | refine Kept.of_eq (by with_reducible assumption) ?_
    | with_reducible apply Kept.ite
    | with_reducible apply Kept.ite1
    | with_reducible apply kept_writeMem
    | with_reducible apply kept_modBkt
    | with_reducible apply Kept.foldl
    | with_reducible apply Kept.foldl1
    | (fail_if_no_progress (with_reducible refine Kept.upd ?_ ?_ ?_ ?_ ?_; exact rfl; exact rfl; exact rfl; exact rfl))
    | (with_reducible refine Kept.filt rfl rfl rfl rfl ?_)
    | split
    | dsimp only)

theorem kept_shardDone {σ : State} (b : Nat) (j : Nat) (vs : List W32) (x : Summary) (s : State)  (h : Kept σ s) : Kept σ (shardDone b j vs x s) := by
  unfold shardDone
  try dsimp only
  repeat' (first
    | intro _
    | with_reducible assumption
    | refine Kept.of_eq (by with_reducible assumption) ?_
    | with_reducible apply Kept.ite
    | with_reducible apply Kept.ite1
    | with_reducible apply kept_sendRed
    | with_reducible apply kept_sendB
    | with_reducible apply kept_tryComplete
    | with_reducible apply kept_modShard
    | with_reducible apply kept_placeRun
    | with_reducible apply Kept.foldl
    | with_reducible apply Kept.foldl1
    | (fail_if_no_progress (with_reducible refine Kept.upd ?_ ?_ ?_ ?_ ?_; exact rfl; exact rfl; exact rfl; exact rfl))
    | (with_reducible refine Kept.filt rfl rfl rfl rfl ?_)
    | split
    | dsimp only)

theorem kept_closeWin {σ : State} (b : Nat) (w : Window) (s : State)  (h : Kept σ s) : Kept σ (closeWin b w s) := by
  unfold closeWin
  try dsimp only
  repeat' (first
    | intro _
    | with_reducible assumption
    | refine Kept.of_eq (by with_reducible assumption) ?_
    | with_reducible apply Kept.ite
    | with_reducible apply Kept.ite1
    | with_reducible apply kept_modBkt
    | with_reducible apply kept_modShard
    | with_reducible apply kept_shardDone
    | with_reducible apply Kept.foldl
    | with_reducible apply Kept.foldl1
    | (fail_if_no_progress (with_reducible refine Kept.upd ?_ ?_ ?_ ?_ ?_; exact rfl; exact rfl; exact rfl; exact rfl))
    | (with_reducible refine Kept.filt rfl rfl rfl rfl ?_)
    | split
    | dsimp only)

theorem kept_openGo {σ : State} (u : Nat) (k : Nat)  (s : State) (h : Kept σ s) : Kept σ (openGo u k  s) := by
  induction k generalizing  s with
  | zero => exact h
  | succ k ih =>
    unfold openGo
    try dsimp only
    repeat' (first
      | with_reducible assumption
      | refine Kept.of_eq (by with_reducible assumption) ?_
      | with_reducible apply ih
      | with_reducible apply Kept.ite
      | with_reducible apply Kept.ite1
      | with_reducible apply kept_closeWin
      | with_reducible apply kept_sendB
      | with_reducible apply kept_modBkt
      | with_reducible apply kept_modShard
      | with_reducible apply Kept.foldl
      | (fail_if_no_progress (with_reducible refine Kept.upd ?_ ?_ ?_ ?_ ?_; exact rfl; exact rfl; exact rfl; exact rfl))
      | intro _
      | split
      | dsimp only)

theorem kept_openUnit {σ : State} (u : Nat) (s : State)  (h : Kept σ s) : Kept σ (openUnit u s) := by
  unfold openUnit
  try dsimp only
  repeat' (first
    | intro _
    | with_reducible assumption
    | refine Kept.of_eq (by with_reducible assumption) ?_
    | with_reducible apply Kept.ite
    | with_reducible apply Kept.ite1
    | with_reducible apply kept_openGo
    | with_reducible apply Kept.foldl
    | with_reducible apply Kept.foldl1
    | (fail_if_no_progress (with_reducible refine Kept.upd ?_ ?_ ?_ ?_ ?_; exact rfl; exact rfl; exact rfl; exact rfl))
    | (with_reducible refine Kept.filt rfl rfl rfl rfl ?_)
    | split
    | dsimp only)

theorem kept_checkWin {σ : State} (b : Nat) (j : Nat) (w : Nat) (s : State)  (h : Kept σ s) : Kept σ (checkWin b j w s) := by
  unfold checkWin
  try dsimp only
  repeat' (first
    | intro _
    | with_reducible assumption
    | refine Kept.of_eq (by with_reducible assumption) ?_
    | with_reducible apply Kept.ite
    | with_reducible apply Kept.ite1
    | with_reducible apply kept_closeWin
    | with_reducible apply kept_openUnit
    | with_reducible apply Kept.foldl
    | with_reducible apply Kept.foldl1
    | (fail_if_no_progress (with_reducible refine Kept.upd ?_ ?_ ?_ ?_ ?_; exact rfl; exact rfl; exact rfl; exact rfl))
    | (with_reducible refine Kept.filt rfl rfl rfl rfl ?_)
    | split
    | dsimp only)

theorem kept_onGrant {σ : State} (b : Nat) (src : Nat) (j : Nat) (w : Nat) (s : State)  (h : Kept σ s) : Kept σ (onGrant b src j w s) := by
  unfold onGrant
  try dsimp only
  repeat' (first
    | intro _
    | with_reducible assumption
    | refine Kept.of_eq (by with_reducible assumption) ?_
    | with_reducible apply Kept.ite
    | with_reducible apply Kept.ite1
    | with_reducible apply kept_sendB
    | with_reducible apply kept_contribVals
    | with_reducible apply Kept.foldl
    | with_reducible apply Kept.foldl1
    | (fail_if_no_progress (with_reducible refine Kept.upd ?_ ?_ ?_ ?_ ?_; exact rfl; exact rfl; exact rfl; exact rfl))
    | (with_reducible refine Kept.filt rfl rfl rfl rfl ?_)
    | split
    | dsimp only)

theorem kept_onData {σ : State} (b : Nat) (src : Nat) (off : Nat) (j : Nat) (w : Nat) (vs : List W32) (s : State)  (h : Kept σ s) : Kept σ (onData b src off j w vs s) := by
  unfold onData
  try dsimp only
  repeat' (first
    | intro _
    | with_reducible assumption
    | refine Kept.of_eq (by with_reducible assumption) ?_
    | with_reducible apply Kept.ite
    | with_reducible apply Kept.ite1
    | with_reducible apply kept_stale
    | with_reducible apply kept_modBkt
    | with_reducible apply kept_checkWin
    | with_reducible apply Kept.foldl
    | with_reducible apply Kept.foldl1
    | (fail_if_no_progress (with_reducible refine Kept.upd ?_ ?_ ?_ ?_ ?_; exact rfl; exact rfl; exact rfl; exact rfl))
    | (with_reducible refine Kept.filt rfl rfl rfl rfl ?_)
    | split
    | dsimp only)

theorem kept_onDataEnd {σ : State} (b : Nat) (src : Nat) (j : Nat) (w : Nat) (sent : Nat) (s : State)  (h : Kept σ s) : Kept σ (onDataEnd b src j w sent s) := by
  unfold onDataEnd
  try dsimp only
  repeat' (first
    | intro _
    | with_reducible assumption
    | refine Kept.of_eq (by with_reducible assumption) ?_
    | with_reducible apply Kept.ite
    | with_reducible apply Kept.ite1
    | with_reducible apply kept_stale
    | with_reducible apply kept_modBkt
    | with_reducible apply kept_checkWin
    | with_reducible apply Kept.foldl
    | with_reducible apply Kept.foldl1
    | (fail_if_no_progress (with_reducible refine Kept.upd ?_ ?_ ?_ ?_ ?_; exact rfl; exact rfl; exact rfl; exact rfl))
    | (with_reducible refine Kept.filt rfl rfl rfl rfl ?_)
    | split
    | dsimp only)

theorem kept_hopEsc {σ : State} (b : Nat) (s : State)  (h : Kept σ s) : Kept σ (hopEsc b s) := by
  unfold hopEsc
  try dsimp only
  repeat' (first
    | intro _
    | with_reducible assumption
    | refine Kept.of_eq (by with_reducible assumption) ?_
    | with_reducible apply Kept.ite
    | with_reducible apply Kept.ite1
    | with_reducible apply kept_modBkt
    | with_reducible apply kept_sendRed
    | with_reducible apply Kept.foldl
    | with_reducible apply Kept.foldl1
    | (fail_if_no_progress (with_reducible refine Kept.upd ?_ ?_ ?_ ?_ ?_; exact rfl; exact rfl; exact rfl; exact rfl))
    | (with_reducible refine Kept.filt rfl rfl rfl rfl ?_)
    | split
    | dsimp only)

theorem kept_ringFold {σ : State} (b : Nat) (s : State)  (h : Kept σ s) : Kept σ (ringFold b s) := by
  unfold ringFold
  try dsimp only
  repeat' (first
    | intro _
    | with_reducible assumption
    | refine Kept.of_eq (by with_reducible assumption) ?_
    | with_reducible apply Kept.ite
    | with_reducible apply Kept.ite1
    | with_reducible apply kept_writeMem
    | with_reducible apply kept_modBkt
    | with_reducible apply kept_contribVals
    | with_reducible apply kept_hopEsc
    | with_reducible apply Kept.foldl
    | with_reducible apply Kept.foldl1
    | (fail_if_no_progress (with_reducible refine Kept.upd ?_ ?_ ?_ ?_ ?_; exact rfl; exact rfl; exact rfl; exact rfl))
    | (with_reducible refine Kept.filt rfl rfl rfl rfl ?_)
    | split
    | dsimp only)

theorem kept_ringOwner {σ : State} (b : Nat) (j : Nat) (off : Nat) (ps : List Int) (esc : Bool) (warm : Bool) (s : State)  (h : Kept σ s) : Kept σ (ringOwner b j off ps esc warm s) := by
  unfold ringOwner
  try dsimp only
  repeat' (first
    | intro _
    | with_reducible assumption
    | refine Kept.of_eq (by with_reducible assumption) ?_
    | with_reducible apply Kept.ite
    | with_reducible apply Kept.ite1
    | with_reducible apply kept_sendRed
    | with_reducible apply kept_modShard
    | with_reducible apply kept_shardDone
    | with_reducible apply Kept.foldl
    | with_reducible apply Kept.foldl1
    | (fail_if_no_progress (with_reducible refine Kept.upd ?_ ?_ ?_ ?_ ?_; exact rfl; exact rfl; exact rfl; exact rfl))
    | (with_reducible refine Kept.filt rfl rfl rfl rfl ?_)
    | split
    | dsimp only)

theorem kept_ringHop {σ : State} (b : Nat) (off : Nat) (ps : List Int) (esc : Bool) (warm : Bool) (s : State)  (h : Kept σ s) : Kept σ (ringHop b off ps esc warm s) := by
  unfold ringHop
  try dsimp only
  repeat' (first
    | intro _
    | with_reducible assumption
    | refine Kept.of_eq (by with_reducible assumption) ?_
    | with_reducible apply Kept.ite
    | with_reducible apply Kept.ite1
    | with_reducible apply kept_unitRead
    | with_reducible apply kept_sendRed
    | with_reducible apply kept_hopEsc
    | with_reducible apply kept_ringOwner
    | with_reducible apply Kept.foldl
    | with_reducible apply Kept.foldl1
    | (fail_if_no_progress (with_reducible refine Kept.upd ?_ ?_ ?_ ?_ ?_; exact rfl; exact rfl; exact rfl; exact rfl))
    | (with_reducible refine Kept.filt rfl rfl rfl rfl ?_)
    | split
    | dsimp only)

theorem kept_ringStart {σ : State} (b : Nat) (s : State)  (h : Kept σ s) : Kept σ (ringStart b s) := by
  unfold ringStart
  try dsimp only
  repeat' (first
    | intro _
    | with_reducible assumption
    | refine Kept.of_eq (by with_reducible assumption) ?_
    | with_reducible apply Kept.ite
    | with_reducible apply Kept.ite1
    | with_reducible apply kept_ringFold
    | with_reducible apply kept_ringHop
    | with_reducible apply Kept.foldl
    | with_reducible apply Kept.foldl1
    | (fail_if_no_progress (with_reducible refine Kept.upd ?_ ?_ ?_ ?_ ?_; exact rfl; exact rfl; exact rfl; exact rfl))
    | (with_reducible refine Kept.filt rfl rfl rfl rfl ?_)
    | split
    | dsimp only)

theorem kept_gotSeal {σ : State} (b : Nat) (x : Seal) (s : State)  (h : Kept σ s) : Kept σ (gotSeal b x s) := by
  unfold gotSeal
  try dsimp only
  repeat' (first
    | intro _
    | with_reducible assumption
    | refine Kept.of_eq (by with_reducible assumption) ?_
    | with_reducible apply Kept.ite
    | with_reducible apply Kept.ite1
    | with_reducible apply kept_modBkt
    | with_reducible apply kept_rdxFault
    | with_reducible apply kept_sealedOut
    | with_reducible apply kept_tryComplete
    | with_reducible apply kept_openUnit
    | with_reducible apply kept_ringStart
    | with_reducible apply Kept.foldl
    | with_reducible apply Kept.foldl1
    | (fail_if_no_progress (with_reducible refine Kept.upd ?_ ?_ ?_ ?_ ?_; exact rfl; exact rfl; exact rfl; exact rfl))
    | (with_reducible refine Kept.filt rfl rfl rfl rfl ?_)
    | split
    | dsimp only)

theorem kept_onSeal {σ : State} (b : Nat) (src : Nat) (total : Nat) (att : Attempt) (part : Nat) (bits : List Bool) (s : State)  (h : Kept σ s) : Kept σ (onSeal b src total att part bits s) := by
  unfold onSeal
  try dsimp only
  repeat' (first
    | intro _
    | with_reducible assumption
    | refine Kept.of_eq (by with_reducible assumption) ?_
    | with_reducible apply Kept.ite
    | with_reducible apply Kept.ite1
    | with_reducible apply kept_stale
    | with_reducible apply kept_modBkt
    | with_reducible apply kept_gotSeal
    | with_reducible apply Kept.foldl
    | with_reducible apply Kept.foldl1
    | (fail_if_no_progress (with_reducible refine Kept.upd ?_ ?_ ?_ ?_ ?_; exact rfl; exact rfl; exact rfl; exact rfl))
    | (with_reducible refine Kept.filt rfl rfl rfl rfl ?_)
    | split
    | dsimp only)

theorem kept_rootEsc {σ : State} (b : Nat) (s : State)  (h : Kept σ s) : Kept σ (rootEsc b s) := by
  unfold rootEsc
  try dsimp only
  repeat' (first
    | intro _
    | with_reducible assumption
    | refine Kept.of_eq (by with_reducible assumption) ?_
    | with_reducible apply Kept.ite
    | with_reducible apply Kept.ite1
    | with_reducible apply kept_modBkt
    | with_reducible apply kept_sendRed
    | with_reducible apply Kept.foldl
    | with_reducible apply Kept.foldl1
    | (fail_if_no_progress (with_reducible refine Kept.upd ?_ ?_ ?_ ?_ ?_; exact rfl; exact rfl; exact rfl; exact rfl))
    | (with_reducible refine Kept.filt rfl rfl rfl rfl ?_)
    | split
    | dsimp only)

theorem kept_escalate {σ : State} (b : Nat) (s : State)  (h : Kept σ s) : Kept σ (escalate b s) := by
  unfold escalate
  try dsimp only
  repeat' (first
    | intro _
    | with_reducible assumption
    | refine Kept.of_eq (by with_reducible assumption) ?_
    | with_reducible apply Kept.ite
    | with_reducible apply Kept.ite1
    | with_reducible apply kept_modBkt
    | with_reducible apply kept_rdxEv
    | with_reducible apply kept_openUnit
    | with_reducible apply Kept.foldl
    | with_reducible apply Kept.foldl1
    | (fail_if_no_progress (with_reducible refine Kept.upd ?_ ?_ ?_ ?_ ?_; exact rfl; exact rfl; exact rfl; exact rfl))
    | (with_reducible refine Kept.filt rfl rfl rfl rfl ?_)
    | split
    | dsimp only)

theorem kept_onEsc {σ : State} (b : Nat) (src : Nat) (tag : Word) (s : State)  (h : Kept σ s) : Kept σ (onEsc b src tag s) := by
  unfold onEsc
  try dsimp only
  repeat' (first
    | intro _
    | with_reducible assumption
    | refine Kept.of_eq (by with_reducible assumption) ?_
    | with_reducible apply Kept.ite
    | with_reducible apply Kept.ite1
    | with_reducible apply kept_stale
    | with_reducible apply kept_rootEsc
    | with_reducible apply kept_escalate
    | with_reducible apply Kept.foldl
    | with_reducible apply Kept.foldl1
    | (fail_if_no_progress (with_reducible refine Kept.upd ?_ ?_ ?_ ?_ ?_; exact rfl; exact rfl; exact rfl; exact rfl))
    | (with_reducible refine Kept.filt rfl rfl rfl rfl ?_)
    | split
    | dsimp only)

theorem kept_onShardSum {σ : State} (b : Nat) (tag : Word) (j : Nat) (x : Summary) (s : State)  (h : Kept σ s) : Kept σ (onShardSum b tag j x s) := by
  unfold onShardSum
  try dsimp only
  repeat' (first
    | intro _
    | with_reducible assumption
    | refine Kept.of_eq (by with_reducible assumption) ?_
    | with_reducible apply Kept.ite
    | with_reducible apply Kept.ite1
    | with_reducible apply kept_stale
    | with_reducible apply kept_modBkt
    | with_reducible apply kept_sendFinal
    | with_reducible apply kept_rootEsc
    | with_reducible apply Kept.foldl
    | with_reducible apply Kept.foldl1
    | (fail_if_no_progress (with_reducible refine Kept.upd ?_ ?_ ?_ ?_ ?_; exact rfl; exact rfl; exact rfl; exact rfl))
    | (with_reducible refine Kept.filt rfl rfl rfl rfl ?_)
    | split
    | dsimp only)

theorem kept_onResult {σ : State} (b : Nat) (off : Nat) (vs : List W32) (s : State)  (h : Kept σ s) : Kept σ (onResult b off vs s) := by
  unfold onResult
  try dsimp only
  repeat' (first
    | intro _
    | with_reducible assumption
    | refine Kept.of_eq (by with_reducible assumption) ?_
    | with_reducible apply Kept.ite
    | with_reducible apply Kept.ite1
    | with_reducible apply kept_tryComplete
    | with_reducible apply kept_placeRun
    | with_reducible apply Kept.foldl
    | with_reducible apply Kept.foldl1
    | (fail_if_no_progress (with_reducible refine Kept.upd ?_ ?_ ?_ ?_ ?_; exact rfl; exact rfl; exact rfl; exact rfl))
    | (with_reducible refine Kept.filt rfl rfl rfl rfl ?_)
    | split
    | dsimp only)

theorem kept_onFinal {σ : State} (b : Nat) (src : Nat) (x : Summary) (s : State)  (h : Kept σ s) : Kept σ (onFinal b src x s) := by
  unfold onFinal
  try dsimp only
  repeat' (first
    | intro _
    | with_reducible assumption
    | refine Kept.of_eq (by with_reducible assumption) ?_
    | with_reducible apply Kept.ite
    | with_reducible apply Kept.ite1
    | with_reducible apply kept_stale
    | with_reducible apply kept_modBkt
    | with_reducible apply kept_tryComplete
    | with_reducible apply Kept.foldl
    | with_reducible apply Kept.foldl1
    | (fail_if_no_progress (with_reducible refine Kept.upd ?_ ?_ ?_ ?_ ?_; exact rfl; exact rfl; exact rfl; exact rfl))
    | (with_reducible refine Kept.filt rfl rfl rfl rfl ?_)
    | split
    | dsimp only)

theorem kept_redMsg {σ : State} (b : Nat) (tag : Word) (body : RedBody) (s : State)  (h : Kept σ s) : Kept σ (redMsg b tag body s) := by
  unfold redMsg
  try dsimp only
  repeat' (first
    | intro _
    | with_reducible assumption
    | refine Kept.of_eq (by with_reducible assumption) ?_
    | with_reducible apply Kept.ite
    | with_reducible apply Kept.ite1
    | with_reducible apply kept_stale
    | with_reducible apply kept_onAnnounce
    | with_reducible apply kept_onGrant
    | with_reducible apply kept_onData
    | with_reducible apply kept_onDataEnd
    | with_reducible apply kept_ringHop
    | with_reducible apply kept_onSeal
    | with_reducible apply kept_onEsc
    | with_reducible apply kept_onShardSum
    | with_reducible apply kept_onResult
    | with_reducible apply kept_onFinal
    | with_reducible apply Kept.foldl
    | with_reducible apply Kept.foldl1
    | (fail_if_no_progress (with_reducible refine Kept.upd ?_ ?_ ?_ ?_ ?_; exact rfl; exact rfl; exact rfl; exact rfl))
    | (with_reducible refine Kept.filt rfl rfl rfl rfl ?_)
    | split
    | dsimp only)

theorem kept_drainWait {σ : State} (b : Nat) (k : Nat)  (s : State) (h : Kept σ s) : Kept σ (drainWait b k  s) := by
  induction k generalizing  s with
  | zero => exact h
  | succ k ih =>
    unfold drainWait
    try dsimp only
    repeat' (first
      | with_reducible assumption
      | refine Kept.of_eq (by with_reducible assumption) ?_
      | with_reducible apply ih
      | with_reducible apply Kept.ite
      | with_reducible apply Kept.ite1
      | with_reducible apply kept_ackRed
      | with_reducible apply kept_redMsg
      | with_reducible apply kept_modBkt
      | with_reducible apply Kept.foldl
      | (fail_if_no_progress (with_reducible refine Kept.upd ?_ ?_ ?_ ?_ ?_; exact rfl; exact rfl; exact rfl; exact rfl))
      | intro _
      | split
      | dsimp only)

theorem kept_lateData {σ : State} (b : Nat) (src : Nat) (s : State)  (h : Kept σ s) : Kept σ (lateData b src s) := by
  unfold lateData
  try dsimp only
  repeat' (first
    | intro _
    | with_reducible assumption
    | refine Kept.of_eq (by with_reducible assumption) ?_
    | with_reducible apply Kept.ite
    | with_reducible apply Kept.ite1
    | with_reducible apply kept_cmtEv
    | with_reducible apply kept_modBkt
    | with_reducible apply Kept.foldl
    | with_reducible apply Kept.foldl1
    | (fail_if_no_progress (with_reducible refine Kept.upd ?_ ?_ ?_ ?_ ?_; exact rfl; exact rfl; exact rfl; exact rfl))
    | (with_reducible refine Kept.filt rfl rfl rfl rfl ?_)
    | split
    | dsimp only)

theorem kept_bktMsg {σ : State} (tag : Word) (body : RedBody) (s : State)  (h : Kept σ s) : Kept σ (bktMsg tag body s) := by
  unfold bktMsg
  try dsimp only
  repeat' (first
    | intro _
    | with_reducible assumption
    | refine Kept.of_eq (by with_reducible assumption) ?_
    | with_reducible apply Kept.ite
    | with_reducible apply Kept.ite1
    | with_reducible apply kept_ackRed
    | with_reducible apply kept_settle
    | with_reducible apply kept_redIn
    | with_reducible apply kept_modBkt
    | with_reducible apply kept_openBkt
    | with_reducible apply kept_redMsg
    | with_reducible apply kept_lateData
    | with_reducible apply kept_drainWait
    | with_reducible apply Kept.foldl
    | with_reducible apply Kept.foldl1
    | (fail_if_no_progress (with_reducible refine Kept.upd ?_ ?_ ?_ ?_ ?_; exact rfl; exact rfl; exact rfl; exact rfl))
    | (with_reducible refine Kept.filt rfl rfl rfl rfl ?_)
    | split
    | dsimp only)

theorem kept_execAnnounce {σ : State} (tag : Word) (kind : AnnKind) (count : Nat) (digest : Nat) (s : State)  (h : Kept σ s) : ResKept σ (execAnnounce tag kind count digest s) := by
  unfold execAnnounce
  try dsimp only
  repeat' (first
    | intro _
    | with_reducible assumption
    | with_reducible apply ResKept.need
    | with_reducible apply ResKept.always
    | with_reducible apply ResKept.next
    | with_reducible apply ResKept.fault
    | with_reducible apply ResKept.ite
    | refine Kept.of_eq (by with_reducible assumption) ?_
    | with_reducible apply Kept.ite
    | with_reducible apply Kept.ite1
    | with_reducible apply kept_bktMsg
    | with_reducible apply Kept.foldl
    | with_reducible apply Kept.foldl1
    | (fail_if_no_progress (with_reducible refine Kept.upd ?_ ?_ ?_ ?_ ?_; exact rfl; exact rfl; exact rfl; exact rfl))
    | (with_reducible refine Kept.filt rfl rfl rfl rfl ?_)
    | split
    | dsimp only)

theorem kept_execSealDeadline {σ : State} (b : Nat) (s : State)  (h : Kept σ s) : ResKept σ (execSealDeadline b s) := by
  unfold execSealDeadline
  try dsimp only
  repeat' (first
    | intro _
    | with_reducible assumption
    | with_reducible apply ResKept.need
    | with_reducible apply ResKept.always
    | with_reducible apply ResKept.next
    | with_reducible apply ResKept.fault
    | with_reducible apply ResKept.ite
    | refine Kept.of_eq (by with_reducible assumption) ?_
    | with_reducible apply Kept.ite
    | with_reducible apply Kept.ite1
    | with_reducible apply kept_settle
    | with_reducible apply kept_doSeal
    | with_reducible apply Kept.foldl
    | with_reducible apply Kept.foldl1
    | (fail_if_no_progress (with_reducible refine Kept.upd ?_ ?_ ?_ ?_ ?_; exact rfl; exact rfl; exact rfl; exact rfl))
    | (with_reducible refine Kept.filt rfl rfl rfl rfl ?_)
    | split
    | dsimp only)

theorem kept_execSeal {σ : State} (tag : Word) (total : Nat) (att : Attempt) (part : Nat) (parts : Nat) (members : Nat) (bits : List Bool) (s : State)  (h : Kept σ s) : ResKept σ (execSeal tag total att part parts members bits s) := by
  unfold execSeal
  try dsimp only
  repeat' (first
    | intro _
    | with_reducible assumption
    | with_reducible apply ResKept.need
    | with_reducible apply ResKept.always
    | with_reducible apply ResKept.next
    | with_reducible apply ResKept.fault
    | with_reducible apply ResKept.ite
    | refine Kept.of_eq (by with_reducible assumption) ?_
    | with_reducible apply Kept.ite
    | with_reducible apply Kept.ite1
    | with_reducible apply kept_bktMsg
    | with_reducible apply Kept.foldl
    | with_reducible apply Kept.foldl1
    | (fail_if_no_progress (with_reducible refine Kept.upd ?_ ?_ ?_ ?_ ?_; exact rfl; exact rfl; exact rfl; exact rfl))
    | (with_reducible refine Kept.filt rfl rfl rfl rfl ?_)
    | split
    | dsimp only)

theorem kept_execGrant {σ : State} (tag : Word) (j : Nat) (w : Nat) (s : State)  (h : Kept σ s) : ResKept σ (execGrant tag j w s) := by
  unfold execGrant
  try dsimp only
  repeat' (first
    | intro _
    | with_reducible assumption
    | with_reducible apply ResKept.need
    | with_reducible apply ResKept.always
    | with_reducible apply ResKept.next
    | with_reducible apply ResKept.fault
    | with_reducible apply ResKept.ite
    | refine Kept.of_eq (by with_reducible assumption) ?_
    | with_reducible apply Kept.ite
    | with_reducible apply Kept.ite1
    | with_reducible apply kept_bktMsg
    | with_reducible apply Kept.foldl
    | with_reducible apply Kept.foldl1
    | (fail_if_no_progress (with_reducible refine Kept.upd ?_ ?_ ?_ ?_ ?_; exact rfl; exact rfl; exact rfl; exact rfl))
    | (with_reducible refine Kept.filt rfl rfl rfl rfl ?_)
    | split
    | dsimp only)

theorem kept_execData {σ : State} (tag : Word) (off : Nat) (j : Nat) (w : Nat) (vs : List W32) (s : State)  (h : Kept σ s) : ResKept σ (execData tag off j w vs s) := by
  unfold execData
  try dsimp only
  repeat' (first
    | intro _
    | with_reducible assumption
    | with_reducible apply ResKept.need
    | with_reducible apply ResKept.always
    | with_reducible apply ResKept.next
    | with_reducible apply ResKept.fault
    | with_reducible apply ResKept.ite
    | refine Kept.of_eq (by with_reducible assumption) ?_
    | with_reducible apply Kept.ite
    | with_reducible apply Kept.ite1
    | with_reducible apply kept_bktMsg
    | with_reducible apply Kept.foldl
    | with_reducible apply Kept.foldl1
    | (fail_if_no_progress (with_reducible refine Kept.upd ?_ ?_ ?_ ?_ ?_; exact rfl; exact rfl; exact rfl; exact rfl))
    | (with_reducible refine Kept.filt rfl rfl rfl rfl ?_)
    | split
    | dsimp only)

theorem kept_execDataEnd {σ : State} (tag : Word) (j : Nat) (w : Nat) (sent : Nat) (s : State)  (h : Kept σ s) : ResKept σ (execDataEnd tag j w sent s) := by
  unfold execDataEnd
  try dsimp only
  repeat' (first
    | intro _
    | with_reducible assumption
    | with_reducible apply ResKept.need
    | with_reducible apply ResKept.always
    | with_reducible apply ResKept.next
    | with_reducible apply ResKept.fault
    | with_reducible apply ResKept.ite
    | refine Kept.of_eq (by with_reducible assumption) ?_
    | with_reducible apply Kept.ite
    | with_reducible apply Kept.ite1
    | with_reducible apply kept_bktMsg
    | with_reducible apply Kept.foldl
    | with_reducible apply Kept.foldl1
    | (fail_if_no_progress (with_reducible refine Kept.upd ?_ ?_ ?_ ?_ ?_; exact rfl; exact rfl; exact rfl; exact rfl))
    | (with_reducible refine Kept.filt rfl rfl rfl rfl ?_)
    | split
    | dsimp only)

theorem kept_execRing {σ : State} (tag : Word) (off : Nat) (vs : List W32) (s : State)  (h : Kept σ s) : ResKept σ (execRing tag off vs s) := by
  unfold execRing
  try dsimp only
  repeat' (first
    | intro _
    | with_reducible assumption
    | with_reducible apply ResKept.need
    | with_reducible apply ResKept.always
    | with_reducible apply ResKept.next
    | with_reducible apply ResKept.fault
    | with_reducible apply ResKept.ite
    | refine Kept.of_eq (by with_reducible assumption) ?_
    | with_reducible apply Kept.ite
    | with_reducible apply Kept.ite1
    | with_reducible apply kept_bktMsg
    | with_reducible apply Kept.foldl
    | with_reducible apply Kept.foldl1
    | (fail_if_no_progress (with_reducible refine Kept.upd ?_ ?_ ?_ ?_ ?_; exact rfl; exact rfl; exact rfl; exact rfl))
    | (with_reducible refine Kept.filt rfl rfl rfl rfl ?_)
    | split
    | dsimp only)

theorem kept_execEsc {σ : State} (tag : Word) (s : State)  (h : Kept σ s) : ResKept σ (execEsc tag s) := by
  unfold execEsc
  try dsimp only
  repeat' (first
    | intro _
    | with_reducible assumption
    | with_reducible apply ResKept.need
    | with_reducible apply ResKept.always
    | with_reducible apply ResKept.next
    | with_reducible apply ResKept.fault
    | with_reducible apply ResKept.ite
    | refine Kept.of_eq (by with_reducible assumption) ?_
    | with_reducible apply Kept.ite
    | with_reducible apply Kept.ite1
    | with_reducible apply kept_bktMsg
    | with_reducible apply Kept.foldl
    | with_reducible apply Kept.foldl1
    | (fail_if_no_progress (with_reducible refine Kept.upd ?_ ?_ ?_ ?_ ?_; exact rfl; exact rfl; exact rfl; exact rfl))
    | (with_reducible refine Kept.filt rfl rfl rfl rfl ?_)
    | split
    | dsimp only)

theorem kept_execResult {σ : State} (tag : Word) (off : Nat) (vs : List W32) (s : State)  (h : Kept σ s) : ResKept σ (execResult tag off vs s) := by
  unfold execResult
  try dsimp only
  repeat' (first
    | intro _
    | with_reducible assumption
    | with_reducible apply ResKept.need
    | with_reducible apply ResKept.always
    | with_reducible apply ResKept.next
    | with_reducible apply ResKept.fault
    | with_reducible apply ResKept.ite
    | refine Kept.of_eq (by with_reducible assumption) ?_
    | with_reducible apply Kept.ite
    | with_reducible apply Kept.ite1
    | with_reducible apply kept_bktMsg
    | with_reducible apply Kept.foldl
    | with_reducible apply Kept.foldl1
    | (fail_if_no_progress (with_reducible refine Kept.upd ?_ ?_ ?_ ?_ ?_; exact rfl; exact rfl; exact rfl; exact rfl))
    | (with_reducible refine Kept.filt rfl rfl rfl rfl ?_)
    | split
    | dsimp only)

theorem kept_execShardSum {σ : State} (tag : Word) (j : Nat) (x : Summary) (s : State)  (h : Kept σ s) : ResKept σ (execShardSum tag j x s) := by
  unfold execShardSum
  try dsimp only
  repeat' (first
    | intro _
    | with_reducible assumption
    | with_reducible apply ResKept.need
    | with_reducible apply ResKept.always
    | with_reducible apply ResKept.next
    | with_reducible apply ResKept.fault
    | with_reducible apply ResKept.ite
    | refine Kept.of_eq (by with_reducible assumption) ?_
    | with_reducible apply Kept.ite
    | with_reducible apply Kept.ite1
    | with_reducible apply kept_bktMsg
    | with_reducible apply Kept.foldl
    | with_reducible apply Kept.foldl1
    | (fail_if_no_progress (with_reducible refine Kept.upd ?_ ?_ ?_ ?_ ?_; exact rfl; exact rfl; exact rfl; exact rfl))
    | (with_reducible refine Kept.filt rfl rfl rfl rfl ?_)
    | split
    | dsimp only)

theorem kept_execFinal {σ : State} (tag : Word) (x : Summary) (s : State)  (h : Kept σ s) : ResKept σ (execFinal tag x s) := by
  unfold execFinal
  try dsimp only
  repeat' (first
    | intro _
    | with_reducible assumption
    | with_reducible apply ResKept.need
    | with_reducible apply ResKept.always
    | with_reducible apply ResKept.next
    | with_reducible apply ResKept.fault
    | with_reducible apply ResKept.ite
    | refine Kept.of_eq (by with_reducible assumption) ?_
    | with_reducible apply Kept.ite
    | with_reducible apply Kept.ite1
    | with_reducible apply kept_bktMsg
    | with_reducible apply Kept.foldl
    | with_reducible apply Kept.foldl1
    | (fail_if_no_progress (with_reducible refine Kept.upd ?_ ?_ ?_ ?_ ?_; exact rfl; exact rfl; exact rfl; exact rfl))
    | (with_reducible refine Kept.filt rfl rfl rfl rfl ?_)
    | split
    | dsimp only)

theorem kept_execCollectiveTimeout {σ : State} (b : Option Nat) (s : State)  (h : Kept σ s) : ResKept σ (execCollectiveTimeout b s) := by
  unfold execCollectiveTimeout
  try dsimp only
  repeat' (first
    | intro _
    | with_reducible assumption
    | with_reducible apply ResKept.need
    | with_reducible apply ResKept.always
    | with_reducible apply ResKept.next
    | with_reducible apply ResKept.fault
    | with_reducible apply ResKept.ite
    | refine Kept.of_eq (by with_reducible assumption) ?_
    | with_reducible apply Kept.ite
    | with_reducible apply Kept.ite1
    | with_reducible apply kept_ackAll
    | with_reducible apply kept_cmtFault
    | with_reducible apply kept_settle
    | with_reducible apply kept_modBkt
    | with_reducible apply Kept.foldl
    | with_reducible apply Kept.foldl1
    | (fail_if_no_progress (with_reducible refine Kept.upd ?_ ?_ ?_ ?_ ?_; exact rfl; exact rfl; exact rfl; exact rfl))
    | (with_reducible refine Kept.filt rfl rfl rfl rfl ?_)
    | split
    | dsimp only)

end Sys2Proof.Machine
end

