-- ==== Sys2Proof/Laws/KeptRegList.lean ====
section
/-! SUPPORT. The definitions of Machine/RegList.lean keep (Laws/Kept.lean). -/

namespace Sys2Proof.Machine

open Sys2Proof

/-- Writes of the register keep. -/
structure PutKept (r : Reg) : Prop where
  mk ::
  put : ∀ x σ t, Kept σ t → Kept σ (r.put x t)

/-- Writes of the register that may be at an offset keep. -/
structure RegKept (o : Option Reg) : Prop where
  mk ::
  put : ∀ r, o = some r → PutKept r

theorem PutKept.ro (w : Word) : PutKept (Reg.ro w) := ⟨fun _ _ _ h => h⟩

theorem PutKept.k {s : State} {w : Word} {l : List (Nat × Nat)} {f : Wr → State → State} (h : ∀ x σ t, Kept σ t → Kept σ (f x t)) :
    PutKept (Reg.k s w l f) := ⟨h⟩

theorem RegKept.none : RegKept .none := ⟨fun _ h => by cases h⟩

theorem RegKept.some {r : Reg} (h : PutKept r) : RegKept (.some r) := ⟨fun _ e => by cases e; exact h⟩

theorem RegKept.of_eq {r : Reg} {o : Option Reg} (e : o = .some r) (h : RegKept o) : PutKept r := h.put r e

theorem RegKept.ite {a b : Option Reg} {c : Prop} [Decidable c] (ha : RegKept a) (hb : RegKept b) : RegKept (if c then a else b) := by
  split <;> assumption

theorem RegKept.counter (base : Nat) (cs : List Word) (o : Nat) : RegKept (counterAt base cs o) := by
  unfold counterAt
  split
  · refine ⟨fun r e => ?_⟩
    cases h : cs[(o - base) / 8]? with
    | none => rw [h] at e; cases e
    | some w => rw [h] at e; cases e; exact PutKept.ro w
  · exact RegKept.none

theorem regkept_govReg (s : State) (o : Nat) : RegKept (govReg s o) := by
  unfold govReg
  try dsimp only
  repeat' (first
    | with_reducible exact RegKept.none
    | with_reducible apply RegKept.some
    | with_reducible exact RegKept.counter _ _ _
    | with_reducible apply PutKept.k
    | with_reducible exact PutKept.ro _
    | with_reducible apply RegKept.ite
    | (refine RegKept.of_eq (by with_reducible assumption) ?_)
    | (refine PutKept.mk (fun x σ t h => ?_); try dsimp only)
    | intro _
    | with_reducible assumption
    | refine Kept.of_eq (by with_reducible assumption) ?_
    | with_reducible apply Kept.ite
    | with_reducible apply Kept.ite1
    | with_reducible apply Kept.foldl
    | with_reducible apply Kept.foldl1
    | (fail_if_no_progress (with_reducible refine Kept.upd ?_ ?_ ?_ ?_ ?_; exact rfl; exact rfl; exact rfl; exact rfl))
    | (with_reducible refine Kept.filt rfl rfl rfl rfl ?_)
    | split
    | dsimp only)

theorem regkept_rdxReg (s : State) (o : Nat) : RegKept (rdxReg s o) := by
  unfold rdxReg
  try dsimp only
  repeat' (first
    | with_reducible exact RegKept.none
    | with_reducible apply RegKept.some
    | with_reducible exact RegKept.counter _ _ _
    | with_reducible apply PutKept.k
    | with_reducible exact PutKept.ro _
    | with_reducible apply RegKept.ite
    | (refine RegKept.of_eq (by with_reducible assumption) ?_)
    | (refine PutKept.mk (fun x σ t h => ?_); try dsimp only)
    | intro _
    | with_reducible assumption
    | refine Kept.of_eq (by with_reducible assumption) ?_
    | with_reducible apply Kept.ite
    | with_reducible apply Kept.ite1
    | with_reducible apply kept_latchRdx
    | with_reducible apply Kept.foldl
    | with_reducible apply Kept.foldl1
    | (fail_if_no_progress (with_reducible refine Kept.upd ?_ ?_ ?_ ?_ ?_; exact rfl; exact rfl; exact rfl; exact rfl))
    | (with_reducible refine Kept.filt rfl rfl rfl rfl ?_)
    | split
    | dsimp only)

theorem kept_tmoNow {σ : State} (s : State)  (h : Kept σ s) : Kept σ (tmoNow s) := by
  unfold tmoNow
  try dsimp only
  repeat' (first
    | intro _
    | with_reducible assumption
    | refine Kept.of_eq (by with_reducible assumption) ?_
    | with_reducible apply Kept.ite
    | with_reducible apply Kept.ite1
    | with_reducible apply Kept.foldl
    | with_reducible apply Kept.foldl1
    | (fail_if_no_progress (with_reducible refine Kept.upd ?_ ?_ ?_ ?_ ?_; exact rfl; exact rfl; exact rfl; exact rfl))
    | (with_reducible refine Kept.filt rfl rfl rfl rfl ?_)
    | split
    | dsimp only)

theorem regkept_cmtReg (s : State) (o : Nat) : RegKept (cmtReg s o) := by
  unfold cmtReg
  try dsimp only
  repeat' (first
    | with_reducible exact RegKept.none
    | with_reducible apply RegKept.some
    | with_reducible exact RegKept.counter _ _ _
    | with_reducible apply PutKept.k
    | with_reducible exact PutKept.ro _
    | with_reducible apply RegKept.ite
    | (refine RegKept.of_eq (by with_reducible assumption) ?_)
    | (refine PutKept.mk (fun x σ t h => ?_); try dsimp only)
    | intro _
    | with_reducible assumption
    | refine Kept.of_eq (by with_reducible assumption) ?_
    | with_reducible apply Kept.ite
    | with_reducible apply Kept.ite1
    | with_reducible apply kept_tmoNow
    | with_reducible apply Kept.foldl
    | with_reducible apply Kept.foldl1
    | (fail_if_no_progress (with_reducible refine Kept.upd ?_ ?_ ?_ ?_ ?_; exact rfl; exact rfl; exact rfl; exact rfl))
    | (with_reducible refine Kept.filt rfl rfl rfl rfl ?_)
    | split
    | dsimp only)

theorem kept_modSnap {σ : State} (f : SnapReg → SnapReg) (s : State)  (h : Kept σ s) : Kept σ (modSnap f s) := by
  unfold modSnap
  try dsimp only
  repeat' (first
    | intro _
    | with_reducible assumption
    | refine Kept.of_eq (by with_reducible assumption) ?_
    | with_reducible apply Kept.ite
    | with_reducible apply Kept.ite1
    | with_reducible apply Kept.foldl
    | with_reducible apply Kept.foldl1
    | (fail_if_no_progress (with_reducible refine Kept.upd ?_ ?_ ?_ ?_ ?_; exact rfl; exact rfl; exact rfl; exact rfl))
    | (with_reducible refine Kept.filt rfl rfl rfl rfl ?_)
    | split
    | dsimp only)

theorem regkept_snapReg1 (s : State) (o : Nat) : RegKept (snapReg1 s o) := by
  unfold snapReg1
  try dsimp only
  repeat' (first
    | with_reducible exact RegKept.none
    | with_reducible apply RegKept.some
    | with_reducible exact RegKept.counter _ _ _
    | with_reducible apply PutKept.k
    | with_reducible exact PutKept.ro _
    | with_reducible apply RegKept.ite
    | (refine RegKept.of_eq (by with_reducible assumption) ?_)
    | (refine PutKept.mk (fun x σ t h => ?_); try dsimp only)
    | intro _
    | with_reducible assumption
    | refine Kept.of_eq (by with_reducible assumption) ?_
    | with_reducible apply Kept.ite
    | with_reducible apply Kept.ite1
    | with_reducible apply kept_modSnap
    | with_reducible apply Kept.foldl
    | with_reducible apply Kept.foldl1
    | (fail_if_no_progress (with_reducible refine Kept.upd ?_ ?_ ?_ ?_ ?_; exact rfl; exact rfl; exact rfl; exact rfl))
    | (with_reducible refine Kept.filt rfl rfl rfl rfl ?_)
    | split
    | dsimp only)

theorem regkept_snapReg (s : State) (o : Nat) : RegKept (snapReg s o) := by
  unfold snapReg
  try dsimp only
  repeat' (first
    | with_reducible exact RegKept.none
    | with_reducible apply RegKept.some
    | with_reducible exact RegKept.counter _ _ _
    | with_reducible apply PutKept.k
    | with_reducible exact PutKept.ro _
    | with_reducible apply RegKept.ite
    | with_reducible apply regkept_snapReg1
    | (refine RegKept.of_eq (by with_reducible assumption) ?_)
    | (refine PutKept.mk (fun x σ t h => ?_); try dsimp only)
    | intro _
    | with_reducible assumption
    | refine Kept.of_eq (by with_reducible assumption) ?_
    | with_reducible apply Kept.ite
    | with_reducible apply Kept.ite1
    | with_reducible apply kept_snapCtrlWrite
    | with_reducible apply kept_pushWrite
    | with_reducible apply kept_modSnap
    | with_reducible apply Kept.foldl
    | with_reducible apply Kept.foldl1
    | (fail_if_no_progress (with_reducible refine Kept.upd ?_ ?_ ?_ ?_ ?_; exact rfl; exact rfl; exact rfl; exact rfl))
    | (with_reducible refine Kept.filt rfl rfl rfl rfl ?_)
    | split
    | dsimp only)

theorem kept_modWin {σ : State} (k : Nat) (f : Win → Win) (s : State)  (h : Kept σ s) : Kept σ (modWin k f s) := by
  unfold modWin
  try dsimp only
  repeat' (first
    | intro _
    | with_reducible assumption
    | refine Kept.of_eq (by with_reducible assumption) ?_
    | with_reducible apply Kept.ite
    | with_reducible apply Kept.ite1
    | with_reducible apply Kept.foldl
    | with_reducible apply Kept.foldl1
    | (fail_if_no_progress (with_reducible refine Kept.upd ?_ ?_ ?_ ?_ ?_; exact rfl; exact rfl; exact rfl; exact rfl))
    | (with_reducible refine Kept.filt rfl rfl rfl rfl ?_)
    | split
    | dsimp only)

theorem regkept_winReg (s : State) (k : Nat) (o : Nat) : RegKept (winReg s k o) := by
  unfold winReg
  try dsimp only
  repeat' (first
    | with_reducible exact RegKept.none
    | with_reducible apply RegKept.some
    | with_reducible exact RegKept.counter _ _ _
    | with_reducible apply PutKept.k
    | with_reducible exact PutKept.ro _
    | with_reducible apply RegKept.ite
    | (refine RegKept.of_eq (by with_reducible assumption) ?_)
    | (refine PutKept.mk (fun x σ t h => ?_); try dsimp only)
    | intro _
    | with_reducible assumption
    | refine Kept.of_eq (by with_reducible assumption) ?_
    | with_reducible apply Kept.ite
    | with_reducible apply Kept.ite1
    | with_reducible apply kept_modWin
    | with_reducible apply Kept.foldl
    | with_reducible apply Kept.foldl1
    | (fail_if_no_progress (with_reducible refine Kept.upd ?_ ?_ ?_ ?_ ?_; exact rfl; exact rfl; exact rfl; exact rfl))
    | (with_reducible refine Kept.filt rfl rfl rfl rfl ?_)
    | split
    | dsimp only)

theorem putkept_odtReg (s : State) (n : Nat) : PutKept (odtReg s n) := by
  unfold odtReg
  try dsimp only
  repeat' (first
    | with_reducible exact RegKept.none
    | with_reducible apply RegKept.some
    | with_reducible exact RegKept.counter _ _ _
    | with_reducible apply PutKept.k
    | with_reducible exact PutKept.ro _
    | with_reducible apply RegKept.ite
    | (refine RegKept.of_eq (by with_reducible assumption) ?_)
    | (refine PutKept.mk (fun x σ t h => ?_); try dsimp only)
    | intro _
    | with_reducible assumption
    | refine Kept.of_eq (by with_reducible assumption) ?_
    | with_reducible apply Kept.ite
    | with_reducible apply Kept.ite1
    | with_reducible apply kept_modThl
    | with_reducible apply Kept.foldl
    | with_reducible apply Kept.foldl1
    | (fail_if_no_progress (with_reducible refine Kept.upd ?_ ?_ ?_ ?_ ?_; exact rfl; exact rfl; exact rfl; exact rfl))
    | (with_reducible refine Kept.filt rfl rfl rfl rfl ?_)
    | split
    | dsimp only)

theorem putkept_progReg (s : State) (n : Nat) (q : Nat) : PutKept (progReg s n q) := by
  unfold progReg
  try dsimp only
  repeat' (first
    | with_reducible exact RegKept.none
    | with_reducible apply RegKept.some
    | with_reducible exact RegKept.counter _ _ _
    | with_reducible apply PutKept.k
    | with_reducible exact PutKept.ro _
    | with_reducible apply RegKept.ite
    | (refine RegKept.of_eq (by with_reducible assumption) ?_)
    | (refine PutKept.mk (fun x σ t h => ?_); try dsimp only)
    | intro _
    | with_reducible assumption
    | refine Kept.of_eq (by with_reducible assumption) ?_
    | with_reducible apply Kept.ite
    | with_reducible apply Kept.ite1
    | with_reducible apply kept_modStrm
    | with_reducible apply Kept.foldl
    | with_reducible apply Kept.foldl1
    | (fail_if_no_progress (with_reducible refine Kept.upd ?_ ?_ ?_ ?_ ?_; exact rfl; exact rfl; exact rfl; exact rfl))
    | (with_reducible refine Kept.filt rfl rfl rfl rfl ?_)
    | split
    | dsimp only)

theorem putkept_scrubReg (s : State) : PutKept (scrubReg s) := by
  unfold scrubReg
  try dsimp only
  repeat' (first
    | with_reducible exact RegKept.none
    | with_reducible apply RegKept.some
    | with_reducible exact RegKept.counter _ _ _
    | with_reducible apply PutKept.k
    | with_reducible exact PutKept.ro _
    | with_reducible apply RegKept.ite
    | (refine RegKept.of_eq (by with_reducible assumption) ?_)
    | (refine PutKept.mk (fun x σ t h => ?_); try dsimp only)
    | intro _
    | with_reducible assumption
    | refine Kept.of_eq (by with_reducible assumption) ?_
    | with_reducible apply Kept.ite
    | with_reducible apply Kept.ite1
    | with_reducible apply Kept.foldl
    | with_reducible apply Kept.foldl1
    | (fail_if_no_progress (with_reducible refine Kept.upd ?_ ?_ ?_ ?_ ?_; exact rfl; exact rfl; exact rfl; exact rfl))
    | (with_reducible refine Kept.filt rfl rfl rfl rfl ?_)
    | split
    | dsimp only)

theorem putkept_rtReg (s : State) : PutKept (rtReg s) := by
  unfold rtReg
  try dsimp only
  repeat' (first
    | with_reducible exact RegKept.none
    | with_reducible apply RegKept.some
    | with_reducible exact RegKept.counter _ _ _
    | with_reducible apply PutKept.k
    | with_reducible exact PutKept.ro _
    | with_reducible apply RegKept.ite
    | (refine RegKept.of_eq (by with_reducible assumption) ?_)
    | (refine PutKept.mk (fun x σ t h => ?_); try dsimp only)
    | intro _
    | with_reducible assumption
    | refine Kept.of_eq (by with_reducible assumption) ?_
    | with_reducible apply Kept.ite
    | with_reducible apply Kept.ite1
    | with_reducible apply kept_rtWrite
    | with_reducible apply Kept.foldl
    | with_reducible apply Kept.foldl1
    | (fail_if_no_progress (with_reducible refine Kept.upd ?_ ?_ ?_ ?_ ?_; exact rfl; exact rfl; exact rfl; exact rfl))
    | (with_reducible refine Kept.filt rfl rfl rfl rfl ?_)
    | split
    | dsimp only)

theorem kept_modWw {σ : State} (k : Nat) (f : WatchWin → WatchWin) (s : State)  (h : Kept σ s) : Kept σ (modWw k f s) := by
  unfold modWw
  try dsimp only
  repeat' (first
    | intro _
    | with_reducible assumption
    | refine Kept.of_eq (by with_reducible assumption) ?_
    | with_reducible apply Kept.ite
    | with_reducible apply Kept.ite1
    | with_reducible apply Kept.foldl
    | with_reducible apply Kept.foldl1
    | (fail_if_no_progress (with_reducible refine Kept.upd ?_ ?_ ?_ ?_ ?_; exact rfl; exact rfl; exact rfl; exact rfl))
    | (with_reducible refine Kept.filt rfl rfl rfl rfl ?_)
    | split
    | dsimp only)

theorem regkept_wwReg (s : State) (k : Nat) (o : Nat) : RegKept (wwReg s k o) := by
  unfold wwReg
  try dsimp only
  repeat' (first
    | with_reducible exact RegKept.none
    | with_reducible apply RegKept.some
    | with_reducible exact RegKept.counter _ _ _
    | with_reducible apply PutKept.k
    | with_reducible exact PutKept.ro _
    | with_reducible apply RegKept.ite
    | (refine RegKept.of_eq (by with_reducible assumption) ?_)
    | (refine PutKept.mk (fun x σ t h => ?_); try dsimp only)
    | intro _
    | with_reducible assumption
    | refine Kept.of_eq (by with_reducible assumption) ?_
    | with_reducible apply Kept.ite
    | with_reducible apply Kept.ite1
    | with_reducible apply kept_modWw
    | with_reducible apply Kept.foldl
    | with_reducible apply Kept.foldl1
    | (fail_if_no_progress (with_reducible refine Kept.upd ?_ ?_ ?_ ?_ ?_; exact rfl; exact rfl; exact rfl; exact rfl))
    | (with_reducible refine Kept.filt rfl rfl rfl rfl ?_)
    | split
    | dsimp only)

theorem regkept_jobReg (s : State) (off : Nat) : RegKept (jobReg s off) := by
  unfold jobReg
  try dsimp only
  repeat' (first
    | with_reducible exact RegKept.none
    | with_reducible apply RegKept.some
    | with_reducible exact RegKept.counter _ _ _
    | with_reducible apply PutKept.k
    | with_reducible exact PutKept.ro _
    | with_reducible apply RegKept.ite
    | with_reducible apply regkept_govReg
    | with_reducible apply regkept_rdxReg
    | with_reducible apply regkept_cmtReg
    | with_reducible apply regkept_snapReg
    | with_reducible apply regkept_winReg
    | with_reducible apply putkept_odtReg
    | with_reducible apply putkept_progReg
    | with_reducible apply putkept_scrubReg
    | with_reducible apply putkept_rtReg
    | with_reducible apply regkept_wwReg
    | (refine RegKept.of_eq (by with_reducible assumption) ?_)
    | (refine PutKept.mk (fun x σ t h => ?_); try dsimp only)
    | intro _
    | with_reducible assumption
    | refine Kept.of_eq (by with_reducible assumption) ?_
    | with_reducible apply Kept.ite
    | with_reducible apply Kept.ite1
    | with_reducible apply Kept.foldl
    | with_reducible apply Kept.foldl1
    | (fail_if_no_progress (with_reducible refine Kept.upd ?_ ?_ ?_ ?_ ?_; exact rfl; exact rfl; exact rfl; exact rfl))
    | (with_reducible refine Kept.filt rfl rfl rfl rfl ?_)
    | split
    | dsimp only)

theorem kept_latchIdle {σ : State} (s : State)  (h : Kept σ s) : Kept σ (latchIdle s) := by
  unfold latchIdle
  try dsimp only
  repeat' (first
    | intro _
    | with_reducible assumption
    | refine Kept.of_eq (by with_reducible assumption) ?_
    | with_reducible apply Kept.ite
    | with_reducible apply Kept.ite1
    | with_reducible apply kept_latchRdx
    | with_reducible apply kept_tmoNow
    | with_reducible apply Kept.foldl
    | with_reducible apply Kept.foldl1
    | (fail_if_no_progress (with_reducible refine Kept.upd ?_ ?_ ?_ ?_ ?_; exact rfl; exact rfl; exact rfl; exact rfl))
    | (with_reducible refine Kept.filt rfl rfl rfl rfl ?_)
    | split
    | dsimp only)

end Sys2Proof.Machine
end

