-- ==== Sys2Proof/Laws/KeptJob.lean ====
section
/-! SUPPORT. The definitions of Machine/Job.lean keep (Laws/Kept.lean). -/

namespace Sys2Proof.Machine

open Sys2Proof

theorem kept_snapUnload {σ : State} (s : State)  (h : Kept σ s) : Kept σ (snapUnload s) := by
  unfold snapUnload
  try dsimp only
  repeat' (first
    | intro _
    | with_reducible assumption
    | refine Kept.of_eq (by with_reducible assumption) ?_
    | with_reducible apply Kept.ite
    | with_reducible apply Kept.ite1
    | with_reducible apply kept_abandonSnap
    | with_reducible apply kept_drainAbandon
    | with_reducible apply kept_mirrorAbandon
    | with_reducible apply kept_replay
    | with_reducible apply Kept.foldl
    | with_reducible apply Kept.foldl1
    | (fail_if_no_progress (with_reducible refine Kept.upd ?_ ?_ ?_ ?_ ?_; exact rfl; exact rfl; exact rfl; exact rfl))
    | (with_reducible refine Kept.filt rfl rfl rfl rfl ?_)
    | split
    | dsimp only)

theorem kept_linksUnload {σ : State} (s : State)  (h : Kept σ s) : Kept σ (linksUnload s) := by
  unfold linksUnload
  try dsimp only
  repeat' (first
    | intro _
    | with_reducible assumption
    | refine Kept.of_eq (by with_reducible assumption) ?_
    | with_reducible apply Kept.ite
    | with_reducible apply Kept.ite1
    | with_reducible apply kept_ask
    | with_reducible apply kept_becomeWilling
    | with_reducible apply Kept.foldl
    | with_reducible apply Kept.foldl1
    | (fail_if_no_progress (with_reducible refine Kept.upd ?_ ?_ ?_ ?_ ?_; exact rfl; exact rfl; exact rfl; exact rfl))
    | (with_reducible refine Kept.filt rfl rfl rfl rfl ?_)
    | split
    | dsimp only)

theorem kept_unload {σ : State} (req : BitVec 16) (s : State)  (h : Kept σ s) : Kept σ (unload req s) := by
  unfold unload
  try dsimp only
  repeat' (first
    | intro _
    | with_reducible assumption
    | refine Kept.of_eq (by with_reducible assumption) ?_
    | with_reducible apply Kept.ite
    | with_reducible apply Kept.ite1
    | with_reducible apply kept_touchField
    | with_reducible apply kept_govClear
    | with_reducible apply kept_stopWork
    | with_reducible apply kept_rdxClear
    | with_reducible apply kept_clearPegs
    | with_reducible apply kept_latchIdle
    | with_reducible apply kept_hostEv
    | with_reducible apply kept_pwrUpdate
    | with_reducible apply kept_snapUnload
    | with_reducible apply kept_linksUnload
    | with_reducible apply Kept.foldl
    | with_reducible apply Kept.foldl1
    | (fail_if_no_progress (with_reducible refine Kept.upd ?_ ?_ ?_ ?_ ?_; exact rfl; exact rfl; exact rfl; exact rfl))
    | (with_reducible refine Kept.filt rfl rfl rfl rfl ?_)
    | split
    | dsimp only)

theorem kept_jobUnload {σ : State} (req : BitVec 16) (s : State)  (h : Kept σ s) : Kept σ (jobUnload req s) := by
  unfold jobUnload
  try dsimp only
  repeat' (first
    | intro _
    | with_reducible assumption
    | refine Kept.of_eq (by with_reducible assumption) ?_
    | with_reducible apply Kept.ite
    | with_reducible apply Kept.ite1
    | with_reducible apply kept_unload
    | with_reducible apply Kept.foldl
    | with_reducible apply Kept.foldl1
    | (fail_if_no_progress (with_reducible refine Kept.upd ?_ ?_ ?_ ?_ ?_; exact rfl; exact rfl; exact rfl; exact rfl))
    | (with_reducible refine Kept.filt rfl rfl rfl rfl ?_)
    | split
    | dsimp only)

theorem kept_writeList {σ : State} (s0 : State) (a n : Nat) (s : State) (h : Kept σ s) : Kept σ (writeList s0 a n s) := by
  unfold writeList
  refine Kept.foldl h fun t i g => ?_
  dsimp only
  split
  · exact (RegKept.of_eq (by assumption) (regkept_jobReg _ _)).put _ _ _ g
  · exact g

theorem kept_refuseEv {σ : State} (r : Refuse) (page : Nat) (s : State)  (h : Kept σ s) : Kept σ (refuseEv r page s) := by
  unfold refuseEv
  try dsimp only
  repeat' (first
    | intro _
    | with_reducible assumption
    | refine Kept.of_eq (by with_reducible assumption) ?_
    | with_reducible apply Kept.ite
    | with_reducible apply Kept.ite1
    | with_reducible apply kept_logEv
    | with_reducible apply kept_snapEv
    | with_reducible apply kept_cmtEv
    | with_reducible apply kept_rdxEv
    | with_reducible apply Kept.foldl
    | with_reducible apply Kept.foldl1
    | (fail_if_no_progress (with_reducible refine Kept.upd ?_ ?_ ?_ ?_ ?_; exact rfl; exact rfl; exact rfl; exact rfl))
    | (with_reducible refine Kept.filt rfl rfl rfl rfl ?_)
    | split
    | dsimp only)

theorem kept_moveRange {σ : State} (src : Nat) (dst : Nat) (n : Nat) (s0 : State) (s : State)  (h : Kept σ s) : Kept σ (moveRange src dst n s0 s) := by
  unfold moveRange
  try dsimp only
  repeat' (first
    | intro _
    | with_reducible assumption
    | refine Kept.of_eq (by with_reducible assumption) ?_
    | with_reducible apply Kept.ite
    | with_reducible apply Kept.ite1
    | with_reducible apply kept_poke
    | with_reducible apply kept_zeroPhys
    | with_reducible apply Kept.foldl
    | with_reducible apply Kept.foldl1
    | (fail_if_no_progress (with_reducible refine Kept.upd ?_ ?_ ?_ ?_ ?_; exact rfl; exact rfl; exact rfl; exact rfl))
    | (with_reducible refine Kept.filt rfl rfl rfl rfl ?_)
    | split
    | dsimp only)

theorem kept_restore {σ : State} (page : Nat) (s : State)  (h : Kept σ s) : Kept σ (restore page s) := by
  unfold restore
  try dsimp only
  repeat' (first
    | intro _
    | with_reducible assumption
    | refine Kept.of_eq (by with_reducible assumption) ?_
    | with_reducible apply Kept.ite
    | with_reducible apply Kept.ite1
    | with_reducible apply kept_writeMem
    | with_reducible apply kept_snapEv
    | with_reducible apply kept_replay
    | with_reducible apply kept_moveRange
    | with_reducible apply Kept.foldl
    | with_reducible apply Kept.foldl1
    | (fail_if_no_progress (with_reducible refine Kept.upd ?_ ?_ ?_ ?_ ?_; exact rfl; exact rfl; exact rfl; exact rfl))
    | (with_reducible refine Kept.filt rfl rfl rfl rfl ?_)
    | split
    | dsimp only)

theorem kept_refuseLoad {σ : State} (cause : Nat) (index : Nat) (flag : Bool) (s : State)  (h : Kept σ s) : Kept σ (refuseLoad cause index flag s) := by
  unfold refuseLoad
  try dsimp only
  repeat' (first
    | intro _
    | with_reducible assumption
    | refine Kept.of_eq (by with_reducible assumption) ?_
    | with_reducible apply Kept.ite
    | with_reducible apply Kept.ite1
    | with_reducible apply kept_pwrUpdate
    | with_reducible apply Kept.foldl
    | with_reducible apply Kept.foldl1
    | (fail_if_no_progress (with_reducible refine Kept.upd ?_ ?_ ?_ ?_ ?_; exact rfl; exact rfl; exact rfl; exact rfl))
    | (with_reducible refine Kept.filt rfl rfl rfl rfl ?_)
    | split
    | dsimp only)

theorem kept_refusePage {σ : State} (req : BitVec 16) (page : Nat) (index : Nat) (flag : Bool) (s : State)  (h : Kept σ s) : Kept σ (refusePage req page index flag s) := by
  unfold refusePage
  try dsimp only
  repeat' (first
    | intro _
    | with_reducible assumption
    | refine Kept.of_eq (by with_reducible assumption) ?_
    | with_reducible apply Kept.ite
    | with_reducible apply Kept.ite1
    | with_reducible apply kept_hostEv
    | with_reducible apply kept_refuseLoad
    | with_reducible apply Kept.foldl
    | with_reducible apply Kept.foldl1
    | (fail_if_no_progress (with_reducible refine Kept.upd ?_ ?_ ?_ ?_ ?_; exact rfl; exact rfl; exact rfl; exact rfl))
    | (with_reducible refine Kept.filt rfl rfl rfl rfl ?_)
    | split
    | dsimp only)

theorem kept_initBuckets {σ : State} (s : State)  (h : Kept σ s) : Kept σ (initBuckets s) := by
  unfold initBuckets
  try dsimp only
  repeat' (first
    | intro _
    | with_reducible assumption
    | refine Kept.of_eq (by with_reducible assumption) ?_
    | with_reducible apply Kept.ite
    | with_reducible apply Kept.ite1
    | with_reducible apply kept_writeWords
    | with_reducible apply Kept.foldl
    | with_reducible apply Kept.foldl1
    | (fail_if_no_progress (with_reducible refine Kept.upd ?_ ?_ ?_ ?_ ?_; exact rfl; exact rfl; exact rfl; exact rfl))
    | (with_reducible refine Kept.filt rfl rfl rfl rfl ?_)
    | split
    | dsimp only)

theorem kept_loadActs {σ : State} (a : Nat) (s : State)  (h : Kept σ s) : Kept σ (loadActs a s).1 := by
  unfold loadActs
  try dsimp only
  repeat' (first
    | intro _
    | with_reducible assumption
    | refine Kept.of_eq (by with_reducible assumption) ?_
    | with_reducible apply Kept.ite
    | with_reducible apply Kept.ite1
    | with_reducible apply kept_modEng
    | with_reducible apply kept_actLoadEnd
    | with_reducible apply Kept.foldl
    | with_reducible apply Kept.foldl1
    | (fail_if_no_progress (with_reducible refine Kept.upd ?_ ?_ ?_ ?_ ?_; exact rfl; exact rfl; exact rfl; exact rfl))
    | (with_reducible refine Kept.filt rfl rfl rfl rfl ?_)
    | split
    | dsimp only)

theorem kept_entryBad {σ : State} (a : Nat) (i : Nat) (s : State)  (h : Kept σ s) : Kept σ (entryBad a i s).1 := by
  unfold entryBad
  try dsimp only
  repeat' (first
    | intro _
    | with_reducible assumption
    | refine Kept.of_eq (by with_reducible assumption) ?_
    | with_reducible apply Kept.ite
    | with_reducible apply Kept.ite1
    | with_reducible apply kept_readMem
    | with_reducible apply kept_jobReg
    | with_reducible apply Kept.foldl
    | with_reducible apply Kept.foldl1
    | (fail_if_no_progress (with_reducible refine Kept.upd ?_ ?_ ?_ ?_ ?_; exact rfl; exact rfl; exact rfl; exact rfl))
    | (with_reducible refine Kept.filt rfl rfl rfl rfl ?_)
    | split
    | dsimp only)

theorem kept_pageCheck {σ : State} (page : Nat) (s : State)  (h : Kept σ s) : Kept σ (pageCheck page s).1 := by
  unfold pageCheck
  try dsimp only
  repeat' (first
    | intro _
    | with_reducible assumption
    | refine Kept.of_eq (by with_reducible assumption) ?_
    | with_reducible apply Kept.ite
    | with_reducible apply Kept.ite1
    | with_reducible apply kept_readMem
    | with_reducible apply kept_entryBad
    | with_reducible apply Kept.foldl
    | with_reducible apply Kept.foldl1
    | (fail_if_no_progress (with_reducible refine Kept.upd ?_ ?_ ?_ ?_ ?_; exact rfl; exact rfl; exact rfl; exact rfl))
    | (with_reducible refine Kept.filt rfl rfl rfl rfl ?_)
    | split
    | dsimp only)

theorem kept_loadRegs {σ : State} (page : Nat) (s : State)  (h : Kept σ s) : Kept σ (loadRegs page s) := by
  unfold loadRegs
  try dsimp only
  repeat' (first
    | intro _
    | with_reducible assumption
    | refine Kept.of_eq (by with_reducible assumption) ?_
    | with_reducible apply Kept.ite
    | with_reducible apply Kept.ite1
    | with_reducible apply kept_rtLoad
    | with_reducible apply kept_writeList
    | with_reducible apply Kept.foldl
    | with_reducible apply Kept.foldl1
    | (fail_if_no_progress (with_reducible refine Kept.upd ?_ ?_ ?_ ?_ ?_; exact rfl; exact rfl; exact rfl; exact rfl))
    | (with_reducible refine Kept.filt rfl rfl rfl rfl ?_)
    | split
    | dsimp only)

theorem kept_loadCheck {σ : State} (page : Nat) (s : State)  (h : Kept σ s) : Kept σ (loadCheck page s).1 := by
  unfold loadCheck
  try dsimp only
  repeat' (first
    | intro _
    | with_reducible assumption
    | refine Kept.of_eq (by with_reducible assumption) ?_
    | with_reducible apply Kept.ite
    | with_reducible apply Kept.ite1
    | with_reducible apply kept_probes
    | with_reducible apply Kept.foldl
    | with_reducible apply Kept.foldl1
    | (fail_if_no_progress (with_reducible refine Kept.upd ?_ ?_ ?_ ?_ ?_; exact rfl; exact rfl; exact rfl; exact rfl))
    | (with_reducible refine Kept.filt rfl rfl rfl rfl ?_)
    | split
    | dsimp only)

theorem kept_loadInit {σ : State} (page : Nat) (s : State)  (h : Kept σ s) : Kept σ (loadInit page s) := by
  unfold loadInit
  try dsimp only
  repeat' (first
    | intro _
    | with_reducible assumption
    | refine Kept.of_eq (by with_reducible assumption) ?_
    | with_reducible apply Kept.ite
    | with_reducible apply Kept.ite1
    | with_reducible apply kept_replay
    | with_reducible apply kept_initBuckets
    | with_reducible apply Kept.foldl
    | with_reducible apply Kept.foldl1
    | (fail_if_no_progress (with_reducible refine Kept.upd ?_ ?_ ?_ ?_ ?_; exact rfl; exact rfl; exact rfl; exact rfl))
    | (with_reducible refine Kept.filt rfl rfl rfl rfl ?_)
    | split
    | dsimp only)

theorem kept_loadDone {σ : State} (req : BitVec 16) (page : Nat) (s : State)  (h : Kept σ s) : Kept σ (loadDone req page s) := by
  unfold loadDone
  try dsimp only
  repeat' (first
    | intro _
    | with_reducible assumption
    | refine Kept.of_eq (by with_reducible assumption) ?_
    | with_reducible apply Kept.ite
    | with_reducible apply Kept.ite1
    | with_reducible apply kept_settle
    | with_reducible apply kept_adjLoaded
    | with_reducible apply kept_hostEv
    | with_reducible apply kept_pwrUpdate
    | with_reducible apply Kept.foldl
    | with_reducible apply Kept.foldl1
    | (fail_if_no_progress (with_reducible refine Kept.upd ?_ ?_ ?_ ?_ ?_; exact rfl; exact rfl; exact rfl; exact rfl))
    | (with_reducible refine Kept.filt rfl rfl rfl rfl ?_)
    | split
    | dsimp only)

theorem kept_loadRest {σ : State} (req : BitVec 16) (page : Nat) (s : State) (h : Kept σ s) : Kept σ (loadRest req page s) := by
  unfold loadRest
  have ha := kept_loadActs (field (peekWord s (page + 32)) 43 0) s h
  dsimp only
  generalize loadActs (field (peekWord s (page + 32)) 43 0) s = r at ha ⊢
  obtain ⟨s1, ok⟩ := r
  cases ok
  · exact kept_refusePage _ _ _ _ _ ha
  · exact kept_loadDone _ _ _ (Kept.ite (kept_restore _ _ (kept_loadInit _ _ ha)) (kept_loadInit _ _ ha))

theorem kept_loadJob {σ : State} (req : BitVec 16) (page : Nat) (s : State)  (h : Kept σ s) : Kept σ (loadJob req page s) := by
  unfold loadJob
  try dsimp only
  repeat' (first
    | intro _
    | with_reducible assumption
    | refine Kept.of_eq (by with_reducible assumption) ?_
    | with_reducible apply Kept.ite
    | with_reducible apply Kept.ite1
    | with_reducible apply kept_refuseEv
    | with_reducible apply kept_refuseLoad
    | with_reducible apply kept_loadRegs
    | with_reducible apply kept_loadCheck
    | with_reducible apply kept_loadRest
    | with_reducible apply Kept.foldl
    | with_reducible apply Kept.foldl1
    | (fail_if_no_progress (with_reducible refine Kept.upd ?_ ?_ ?_ ?_ ?_; exact rfl; exact rfl; exact rfl; exact rfl))
    | (with_reducible refine Kept.filt rfl rfl rfl rfl ?_)
    | split
    | dsimp only)

theorem kept_loadNow {σ : State} (req : BitVec 16) (page : Nat) (s : State)  (h : Kept σ s) : Kept σ (loadNow req page s) := by
  unfold loadNow
  try dsimp only
  repeat' (first
    | intro _
    | with_reducible assumption
    | refine Kept.of_eq (by with_reducible assumption) ?_
    | with_reducible apply Kept.ite
    | with_reducible apply Kept.ite1
    | with_reducible apply kept_refusePage
    | with_reducible apply kept_pageCheck
    | with_reducible apply kept_loadJob
    | with_reducible apply Kept.foldl
    | with_reducible apply Kept.foldl1
    | (fail_if_no_progress (with_reducible refine Kept.upd ?_ ?_ ?_ ?_ ?_; exact rfl; exact rfl; exact rfl; exact rfl))
    | (with_reducible refine Kept.filt rfl rfl rfl rfl ?_)
    | split
    | dsimp only)

theorem kept_loadGo {σ : State} (s : State)  (h : Kept σ s) : Kept σ (loadGo s) := by
  unfold loadGo
  try dsimp only
  repeat' (first
    | intro _
    | with_reducible assumption
    | refine Kept.of_eq (by with_reducible assumption) ?_
    | with_reducible apply Kept.ite
    | with_reducible apply Kept.ite1
    | with_reducible apply kept_ask
    | with_reducible apply kept_loadNow
    | with_reducible apply Kept.foldl
    | with_reducible apply Kept.foldl1
    | (fail_if_no_progress (with_reducible refine Kept.upd ?_ ?_ ?_ ?_ ?_; exact rfl; exact rfl; exact rfl; exact rfl))
    | (with_reducible refine Kept.filt rfl rfl rfl rfl ?_)
    | split
    | dsimp only)

theorem kept_jobLoad {σ : State} (req : BitVec 16) (page : Nat) (s : State)  (h : Kept σ s) : Kept σ (jobLoad req page s) := by
  unfold jobLoad
  try dsimp only
  repeat' (first
    | intro _
    | with_reducible assumption
    | refine Kept.of_eq (by with_reducible assumption) ?_
    | with_reducible apply Kept.ite
    | with_reducible apply Kept.ite1
    | with_reducible apply kept_hostEv
    | with_reducible apply kept_refuseLoad
    | with_reducible apply kept_refusePage
    | with_reducible apply kept_loadGo
    | with_reducible apply Kept.foldl
    | with_reducible apply Kept.foldl1
    | (fail_if_no_progress (with_reducible refine Kept.upd ?_ ?_ ?_ ?_ ?_; exact rfl; exact rfl; exact rfl; exact rfl))
    | (with_reducible refine Kept.filt rfl rfl rfl rfl ?_)
    | split
    | dsimp only)

end Sys2Proof.Machine
end

