-- ==== Sys2Proof/Laws/KeptBoot.lean ====
section
/-! SUPPORT. The definitions of Machine/Boot.lean keep (Laws/Kept.lean). -/

namespace Sys2Proof.Machine

open Sys2Proof

theorem kept_secEv {σ : State} (cause : Nat) (reason : Nat) (w3 : Nat) (s : State)  (h : Kept σ s) : Kept σ (secEv cause reason w3 s) := by
  unfold secEv
  try dsimp only
  repeat' (first
    | intro _
    | with_reducible assumption
    | refine Kept.of_eq (by with_reducible assumption) ?_
    | with_reducible apply Kept.ite
    | with_reducible apply Kept.ite1
    | with_reducible apply kept_logEv
    | with_reducible apply Kept.foldl
    | with_reducible apply Kept.foldl1
    | (fail_if_no_progress (with_reducible refine Kept.upd ?_ ?_ ?_ ?_ ?_; exact rfl; exact rfl; exact rfl; exact rfl))
    | (with_reducible refine Kept.filt rfl rfl rfl rfl ?_)
    | split
    | dsimp only)

theorem kept_recover {σ : State} (reason : Nat) (s : State)  (h : Kept σ s) : Kept σ (recover reason s) := by
  unfold recover
  try dsimp only
  repeat' (first
    | intro _
    | with_reducible assumption
    | refine Kept.of_eq (by with_reducible assumption) ?_
    | with_reducible apply Kept.ite
    | with_reducible apply Kept.ite1
    | with_reducible apply kept_secEv
    | with_reducible apply Kept.foldl
    | with_reducible apply Kept.foldl1
    | (fail_if_no_progress (with_reducible refine Kept.upd ?_ ?_ ?_ ?_ ?_; exact rfl; exact rfl; exact rfl; exact rfl))
    | (with_reducible refine Kept.filt rfl rfl rfl rfl ?_)
    | split
    | dsimp only)

theorem kept_startImage {σ : State} (img : List Byte) (redelivered : Bool) (s : State)  (h : Kept σ s) : Kept σ (startImage img redelivered s) := by
  unfold startImage
  try dsimp only
  repeat' (first
    | intro _
    | with_reducible assumption
    | refine Kept.of_eq (by with_reducible assumption) ?_
    | with_reducible apply Kept.ite
    | with_reducible apply Kept.ite1
    | with_reducible apply kept_ask
    | with_reducible apply Kept.foldl
    | with_reducible apply Kept.foldl1
    | (fail_if_no_progress (with_reducible refine Kept.upd ?_ ?_ ?_ ?_ ?_; exact rfl; exact rfl; exact rfl; exact rfl))
    | (with_reducible refine Kept.filt rfl rfl rfl rfl ?_)
    | split
    | dsimp only)

theorem kept_execBootRom {σ : State} (flashOk : Bool) (s : State)  (h : Kept σ s) : ResKept σ (execBootRom flashOk s) := by
  unfold execBootRom
  try dsimp only
  repeat' (first
    | intro _
    | with_reducible assumption
    | with_reducible apply ResKept.need
    | with_reducible apply ResKept.always
    | with_reducible apply ResKept.next
    | with_reducible apply ResKept.fault
    | with_reducible apply ResKept.ite
    | refine Kept.of_eq (by with_reducible assumption) ?_
    | with_reducible apply Kept.ite
    | with_reducible apply Kept.ite1
    | with_reducible apply kept_recover
    | with_reducible apply kept_startImage
    | with_reducible apply Kept.foldl
    | with_reducible apply Kept.foldl1
    | (fail_if_no_progress (with_reducible refine Kept.upd ?_ ?_ ?_ ?_ ?_; exact rfl; exact rfl; exact rfl; exact rfl))
    | (with_reducible refine Kept.filt rfl rfl rfl rfl ?_)
    | split
    | dsimp only)

theorem kept_recovGo {σ : State} (s : State)  (h : Kept σ s) : Kept σ (recovGo s) := by
  unfold recovGo
  try dsimp only
  repeat' (first
    | intro _
    | with_reducible assumption
    | refine Kept.of_eq (by with_reducible assumption) ?_
    | with_reducible apply Kept.ite
    | with_reducible apply Kept.ite1
    | with_reducible apply Kept.foldl
    | with_reducible apply Kept.foldl1
    | (fail_if_no_progress (with_reducible refine Kept.upd ?_ ?_ ?_ ?_ ?_; exact rfl; exact rfl; exact rfl; exact rfl))
    | (with_reducible refine Kept.filt rfl rfl rfl rfl ?_)
    | split
    | dsimp only)

theorem kept_recovVerdict {σ : State} (s : State) (h : Kept σ s) : Kept σ (recovVerdict s) := by
  unfold recovVerdict
  generalize stagedImage s = img
  dsimp only
  split
  · exact h
  · split
    · exact kept_recover _ _ h
    · exact kept_startImage _ _ _ (kept_secEv _ _ _ _ h)

theorem kept_fwCopy {σ : State} (s : State) (h : Kept σ s) : Kept σ (fwCopy s) := by
  unfold fwCopy
  dsimp only
  refine Kept.ite h ?_
  split
  · exact kept_want _ _ h
  · have hl := kept_look (4096 * s.sec.fwAddr.toNat) (imgSpan s (4096 * s.sec.fwAddr.toNat)) s h
    generalize look (4096 * s.sec.fwAddr.toNat) (imgSpan s (4096 * s.sec.fwAddr.toNat)) s = r at hl ⊢
    obtain ⟨s0, img⟩ := r
    dsimp only at hl ⊢
    generalize imgBad s.part img = o
    cases o
    · exact Kept.upd (X := s0) rfl rfl rfl rfl hl
    · exact kept_secEv _ _ _ _ (Kept.upd (X := s0) rfl rfl rfl rfl hl)

theorem kept_fwProgram {σ : State} (s : State) (h : Kept σ s) : Kept σ (fwProgram s) :=
  kept_fwCopy _ (Kept.upd (X := s) rfl rfl rfl rfl h)

theorem kept_fwAdvance {σ : State} (s : State) (h : Kept σ s) : Kept σ (fwAdvance s) := by
  unfold fwAdvance
  dsimp only
  generalize imgBad s.part s.part.image = o
  generalize imgSvn s.part.image = n
  split
  · exact kept_secEv _ _ _ _ (Kept.upd (X := s) rfl rfl rfl rfl h)
  · rename_i c
    apply kept_secEv
    have hv : s.part.minSvn ≤ s.sec.svn.toNat := by
      simp only [Bool.or_eq_true, decide_eq_true_eq, not_or] at c
      omega
    exact ⟨h.pending, h.fixed, h.minSvn.trans hv, h.mem, h.log⟩

theorem kept_hmapRetest {σ : State} (s : State) (h : Kept σ s) : Kept σ (hmapRetest s) :=
  Kept.upd (X := s) rfl rfl rfl rfl h

theorem kept_fwObey {σ : State} (c : FwCmd) (s : State)  (h : Kept σ s) : Kept σ (fwObey c s) := by
  unfold fwObey
  try dsimp only
  repeat' (first
    | intro _
    | with_reducible assumption
    | refine Kept.of_eq (by with_reducible assumption) ?_
    | with_reducible apply Kept.ite
    | with_reducible apply Kept.ite1
    | with_reducible apply kept_unload
    | with_reducible apply kept_jobUnload
    | with_reducible apply kept_jobLoad
    | with_reducible apply kept_fwProgram
    | with_reducible apply kept_fwAdvance
    | with_reducible apply kept_hmapRetest
    | with_reducible apply Kept.foldl
    | with_reducible apply Kept.foldl1
    | (fail_if_no_progress (with_reducible refine Kept.upd ?_ ?_ ?_ ?_ ?_; exact rfl; exact rfl; exact rfl; exact rfl))
    | (with_reducible refine Kept.filt rfl rfl rfl rfl ?_)
    | split
    | dsimp only)

theorem kept_fwTell {σ : State} (c : FwCmd) (s : State)  (h : Kept σ s) : Kept σ (fwTell c s) := by
  unfold fwTell
  try dsimp only
  repeat' (first
    | intro _
    | with_reducible assumption
    | refine Kept.of_eq (by with_reducible assumption) ?_
    | with_reducible apply Kept.ite
    | with_reducible apply Kept.ite1
    | with_reducible apply kept_fwObey
    | with_reducible apply Kept.foldl
    | with_reducible apply Kept.foldl1
    | (fail_if_no_progress (with_reducible refine Kept.upd ?_ ?_ ?_ ?_ ?_; exact rfl; exact rfl; exact rfl; exact rfl))
    | (with_reducible refine Kept.filt rfl rfl rfl rfl ?_)
    | split
    | dsimp only)

theorem kept_fwDrain {σ : State} (s : State)  (h : Kept σ s) : Kept σ (fwDrain s) := by
  unfold fwDrain
  try dsimp only
  repeat' (first
    | intro _
    | with_reducible assumption
    | refine Kept.of_eq (by with_reducible assumption) ?_
    | with_reducible apply Kept.ite
    | with_reducible apply Kept.ite1
    | with_reducible apply kept_fwTell
    | with_reducible apply Kept.foldl
    | with_reducible apply Kept.foldl1
    | (fail_if_no_progress (with_reducible refine Kept.upd ?_ ?_ ?_ ?_ ?_; exact rfl; exact rfl; exact rfl; exact rfl))
    | (with_reducible refine Kept.filt rfl rfl rfl rfl ?_)
    | split
    | dsimp only)

theorem kept_execFwProgramDone {σ : State} (flashOk : Bool) (s : State) (h : Kept σ s) : ResKept σ (execFwProgramDone flashOk s) := by
  unfold execFwProgramDone
  refine ResKept.need (kept_fwDrain _ ?_)
  dsimp only
  generalize stagedImage s = img
  split
  · exact kept_secEv _ _ _ _ (Kept.upd (X := s) rfl rfl rfl rfl h)
  · exact kept_secEv _ _ _ _ (Kept.upd (X := s) rfl rfl rfl rfl h)

theorem kept_fwWrite {σ : State} (x : Wr) (s : State)  (h : Kept σ s) : Kept σ (fwWrite x s) := by
  unfold fwWrite
  try dsimp only
  repeat' (first
    | intro _
    | with_reducible assumption
    | refine Kept.of_eq (by with_reducible assumption) ?_
    | with_reducible apply Kept.ite
    | with_reducible apply Kept.ite1
    | with_reducible apply kept_fwTell
    | with_reducible apply Kept.foldl
    | with_reducible apply Kept.foldl1
    | (fail_if_no_progress (with_reducible refine Kept.upd ?_ ?_ ?_ ?_ ?_; exact rfl; exact rfl; exact rfl; exact rfl))
    | (with_reducible refine Kept.filt rfl rfl rfl rfl ?_)
    | split
    | dsimp only)

theorem putkept_fwReg (s : State) : PutKept (fwReg s) := by
  unfold fwReg
  try dsimp only
  repeat' (first
    | with_reducible exact RegKept.none
    | with_reducible apply RegKept.some
    | with_reducible exact RegKept.counter _ _ _
    | with_reducible apply PutKept.k
    | with_reducible exact PutKept.ro _
    | with_reducible apply RegKept.ite
    | (refine RegKept.of_eq (by with_reducible assumption) ?_)
    | (refine PutKept.mk (fun x σ t h => ?_); try dsimp only)
    | intro _
    | with_reducible assumption
    | refine Kept.of_eq (by with_reducible assumption) ?_
    | with_reducible apply Kept.ite
    | with_reducible apply Kept.ite1
    | with_reducible apply kept_fwWrite
    | with_reducible apply Kept.foldl
    | with_reducible apply Kept.foldl1
    | (fail_if_no_progress (with_reducible refine Kept.upd ?_ ?_ ?_ ?_ ?_; exact rfl; exact rfl; exact rfl; exact rfl))
    | (with_reducible refine Kept.filt rfl rfl rfl rfl ?_)
    | split
    | dsimp only)

end Sys2Proof.Machine
end

