-- ==== Sys2Proof/Laws/KeptSelfTest.lean ====
section
/-! SUPPORT. The definitions of Machine/SelfTest.lean keep (Laws/Kept.lean). -/

namespace Sys2Proof.Machine

open Sys2Proof

theorem kept_bistEv {σ : State} (cause : Nat) (entry : Nat) (w3 : Nat) (s : State)  (h : Kept σ s) : Kept σ (bistEv cause entry w3 s) := by
  unfold bistEv
  try dsimp only
  repeat' (first
    | intro _
    | with_reducible assumption
    | refine Kept.of_eq (by with_reducible assumption) ?_
    | with_reducible apply Kept.ite
    | with_reducible apply Kept.ite1
    | with_reducible apply kept_logEv
    | with_reducible apply Kept.foldl
    | with_reducible apply Kept.foldl1
    | (fail_if_no_progress (with_reducible refine Kept.upd ?_ ?_ ?_ ?_ ?_; exact rfl; exact rfl; exact rfl; exact rfl))
    | (with_reducible refine Kept.filt rfl rfl rfl rfl ?_)
    | split
    | dsimp only)

theorem partAfter_fixed (hm : Nat) (old found : List HmapEntry) (s : State) : (partAfter hm old found s).fixed = s.part.fixed := by
  unfold partAfter
  split
  · rfl
  · rw [mapWrite_fixed]
    split
    · exact mapWrite_fixed _ _
    · rfl

theorem partAfter_minSvn (hm : Nat) (old found : List HmapEntry) (s : State) : (partAfter hm old found s).minSvn = s.part.minSvn := by
  unfold partAfter
  split
  · rfl
  · rw [mapWrite_minSvn]
    split
    · exact mapWrite_minSvn _ _
    · rfl

theorem kept_selftestDone {σ : State} (s : State)  (h : Kept σ s) : Kept σ (selftestDone s) := by
  unfold selftestDone
  try dsimp only
  repeat' (first
    | intro _
    | with_reducible assumption
    | refine Kept.of_eq (by with_reducible assumption) ?_
    | with_reducible apply Kept.ite
    | with_reducible apply Kept.ite1
    | with_reducible apply kept_fieldDown
    | with_reducible apply kept_secEv
    | with_reducible apply kept_bistEv
    | (with_reducible refine Kept.upd (X := s) ?_ ?_ ?_ ?_ h; exact partAfter_fixed _ _ _ s; exact partAfter_minSvn _ _ _ s; exact rfl; exact rfl)
    | with_reducible apply Kept.foldl
    | with_reducible apply Kept.foldl1
    | (fail_if_no_progress (with_reducible refine Kept.upd ?_ ?_ ?_ ?_ ?_; exact rfl; exact rfl; exact rfl; exact rfl))
    | (with_reducible refine Kept.filt rfl rfl rfl rfl ?_)
    | split
    | dsimp only)

theorem kept_groupFinds {σ : State} (f : Nat) (fails : List TestFail) (s : State)  (h : Kept σ s) : Kept σ (groupFinds f fails s) := by
  unfold groupFinds
  try dsimp only
  repeat' (first
    | intro _
    | with_reducible assumption
    | refine Kept.of_eq (by with_reducible assumption) ?_
    | with_reducible apply Kept.ite
    | with_reducible apply Kept.ite1
    | with_reducible apply kept_bistEv
    | with_reducible apply Kept.foldl
    | with_reducible apply Kept.foldl1
    | (fail_if_no_progress (with_reducible refine Kept.upd ?_ ?_ ?_ ?_ ?_; exact rfl; exact rfl; exact rfl; exact rfl))
    | (with_reducible refine Kept.filt rfl rfl rfl rfl ?_)
    | split
    | dsimp only)

theorem kept_nextGroup {σ : State} (f : Nat) (phase : Nat) (s : State)  (h : Kept σ s) : Kept σ (nextGroup f phase s) := by
  unfold nextGroup
  try dsimp only
  repeat' (first
    | intro _
    | with_reducible assumption
    | refine Kept.of_eq (by with_reducible assumption) ?_
    | with_reducible apply Kept.ite
    | with_reducible apply Kept.ite1
    | with_reducible apply kept_ask
    | with_reducible apply Kept.foldl
    | with_reducible apply Kept.foldl1
    | (fail_if_no_progress (with_reducible refine Kept.upd ?_ ?_ ?_ ?_ ?_; exact rfl; exact rfl; exact rfl; exact rfl))
    | (with_reducible refine Kept.filt rfl rfl rfl rfl ?_)
    | split
    | dsimp only)

theorem kept_execSelftestGroup {σ : State} (f : Nat) (phase : Nat) (last : Bool) (fails : List TestFail) (s : State)  (h : Kept σ s) : ResKept σ (execSelftestGroup f phase last fails s) := by
  unfold execSelftestGroup
  try dsimp only
  repeat' (first
    | intro _
    | with_reducible assumption
    | with_reducible apply ResKept.need
    | with_reducible apply ResKept.always
    | with_reducible apply ResKept.next
    | with_reducible apply ResKept.fault
    | with_reducible apply ResKept.ite
    | refine Kept.of_eq (by with_reducible assumption) ?_
    | with_reducible apply Kept.ite
    | with_reducible apply Kept.ite1
    | with_reducible apply kept_fieldUp
    | with_reducible apply kept_selftestDone
    | with_reducible apply kept_groupFinds
    | with_reducible apply kept_nextGroup
    | with_reducible apply Kept.foldl
    | with_reducible apply Kept.foldl1
    | (fail_if_no_progress (with_reducible refine Kept.upd ?_ ?_ ?_ ?_ ?_; exact rfl; exact rfl; exact rfl; exact rfl))
    | (with_reducible refine Kept.filt rfl rfl rfl rfl ?_)
    | split
    | dsimp only)

theorem putkept_hmapCtrl (s : State) : PutKept (hmapCtrl s) := by
  unfold hmapCtrl
  try dsimp only
  repeat' (first
    | with_reducible exact RegKept.none
    | with_reducible apply RegKept.some
    | with_reducible exact RegKept.counter _ _ _
    | with_reducible apply PutKept.k
    | with_reducible exact PutKept.ro _
    | with_reducible apply RegKept.ite
    | (refine RegKept.of_eq (by with_reducible assumption) ?_)
    | (refine PutKept.mk (fun x σ t h => ?_); try dsimp only)
    | intro _
    | with_reducible assumption
    | refine Kept.of_eq (by with_reducible assumption) ?_
    | with_reducible apply Kept.ite
    | with_reducible apply Kept.ite1
    | with_reducible apply kept_fwTell
    | with_reducible apply Kept.foldl
    | with_reducible apply Kept.foldl1
    | (fail_if_no_progress (with_reducible refine Kept.upd ?_ ?_ ?_ ?_ ?_; exact rfl; exact rfl; exact rfl; exact rfl))
    | (with_reducible refine Kept.filt rfl rfl rfl rfl ?_)
    | split
    | dsimp only)

theorem kept_execSliceDue {σ : State} (s : State)  (h : Kept σ s) : ResKept σ (execSliceDue s) := by
  unfold execSliceDue
  try dsimp only
  repeat' (first
    | intro _
    | with_reducible assumption
    | with_reducible apply ResKept.need
    | with_reducible apply ResKept.always
    | with_reducible apply ResKept.next
    | with_reducible apply ResKept.fault
    | with_reducible apply ResKept.ite
    | refine Kept.of_eq (by with_reducible assumption) ?_
    | with_reducible apply Kept.ite
    | with_reducible apply Kept.ite1
    | with_reducible apply kept_modEng
    | with_reducible apply kept_latchBist
    | with_reducible apply kept_bistEv
    | with_reducible apply Kept.foldl
    | with_reducible apply Kept.foldl1
    | (fail_if_no_progress (with_reducible refine Kept.upd ?_ ?_ ?_ ?_ ?_; exact rfl; exact rfl; exact rfl; exact rfl))
    | (with_reducible refine Kept.filt rfl rfl rfl rfl ?_)
    | split
    | dsimp only)

theorem kept_sliceAsk {σ : State} (s : State)  (h : Kept σ s) : Kept σ (sliceAsk s) := by
  unfold sliceAsk
  try dsimp only
  repeat' (first
    | intro _
    | with_reducible assumption
    | refine Kept.of_eq (by with_reducible assumption) ?_
    | with_reducible apply Kept.ite
    | with_reducible apply Kept.ite1
    | with_reducible apply kept_ask
    | with_reducible apply Kept.foldl
    | with_reducible apply Kept.foldl1
    | (fail_if_no_progress (with_reducible refine Kept.upd ?_ ?_ ?_ ?_ ?_; exact rfl; exact rfl; exact rfl; exact rfl))
    | (with_reducible refine Kept.filt rfl rfl rfl rfl ?_)
    | split
    | dsimp only)

theorem kept_sliceRecord {σ : State} (kind : Nat) (n : Nat) (sub : Nat) (row : Nat) (s : State)  (h : Kept σ s) : Kept σ (sliceRecord kind n sub row s) := by
  unfold sliceRecord
  try dsimp only
  repeat' (first
    | intro _
    | with_reducible assumption
    | refine Kept.of_eq (by with_reducible assumption) ?_
    | with_reducible apply Kept.ite
    | with_reducible apply Kept.ite1
    | with_reducible apply kept_hmapRecord
    | with_reducible apply kept_bistEv
    | with_reducible apply Kept.foldl
    | with_reducible apply Kept.foldl1
    | (fail_if_no_progress (with_reducible refine Kept.upd ?_ ?_ ?_ ?_ ?_; exact rfl; exact rfl; exact rfl; exact rfl))
    | (with_reducible refine Kept.filt rfl rfl rfl rfl ?_)
    | split
    | dsimp only)

theorem kept_withdrawOnce {σ : State} (n : Nat) (m : Nat) (f : Nat) (s : State)  (h : Kept σ s) : Kept σ (withdrawOnce n m f s) := by
  unfold withdrawOnce
  try dsimp only
  repeat' (first
    | intro _
    | with_reducible assumption
    | refine Kept.of_eq (by with_reducible assumption) ?_
    | with_reducible apply Kept.ite
    | with_reducible apply Kept.ite1
    | with_reducible apply kept_withdraw
    | with_reducible apply Kept.foldl
    | with_reducible apply Kept.foldl1
    | (fail_if_no_progress (with_reducible refine Kept.upd ?_ ?_ ?_ ?_ ?_; exact rfl; exact rfl; exact rfl; exact rfl))
    | (with_reducible refine Kept.filt rfl rfl rfl rfl ?_)
    | split
    | dsimp only)

theorem kept_sliceFail {σ : State} (n : Nat) (m : Nat) (many : Nat → Bool) (x : SliceFail) (s : State)  (h : Kept σ s) : Kept σ (sliceFail n m many x s) := by
  unfold sliceFail
  try dsimp only
  repeat' (first
    | intro _
    | with_reducible assumption
    | refine Kept.of_eq (by with_reducible assumption) ?_
    | with_reducible apply Kept.ite
    | with_reducible apply Kept.ite1
    | with_reducible apply kept_modFrond
    | with_reducible apply kept_sliceRecord
    | with_reducible apply kept_withdrawOnce
    | with_reducible apply Kept.foldl
    | with_reducible apply Kept.foldl1
    | (fail_if_no_progress (with_reducible refine Kept.upd ?_ ?_ ?_ ?_ ?_; exact rfl; exact rfl; exact rfl; exact rfl))
    | (with_reducible refine Kept.filt rfl rfl rfl rfl ?_)
    | split
    | dsimp only)

theorem kept_execSliceEnd {σ : State} (fails : List SliceFail) (s : State)  (h : Kept σ s) : ResKept σ (execSliceEnd fails s) := by
  unfold execSliceEnd
  try dsimp only
  repeat' (first
    | intro _
    | with_reducible assumption
    | with_reducible apply ResKept.need
    | with_reducible apply ResKept.always
    | with_reducible apply ResKept.next
    | with_reducible apply ResKept.fault
    | with_reducible apply ResKept.ite
    | refine Kept.of_eq (by with_reducible assumption) ?_
    | with_reducible apply Kept.ite
    | with_reducible apply Kept.ite1
    | with_reducible apply kept_modEng
    | with_reducible apply kept_obeyOff
    | with_reducible apply kept_sliceFail
    | with_reducible apply Kept.foldl
    | with_reducible apply Kept.foldl1
    | (fail_if_no_progress (with_reducible refine Kept.upd ?_ ?_ ?_ ?_ ?_; exact rfl; exact rfl; exact rfl; exact rfl))
    | (with_reducible refine Kept.filt rfl rfl rfl rfl ?_)
    | split
    | dsimp only)

end Sys2Proof.Machine
end

