-- ==== Sys2Proof/Laws/KeptRegs.lean ====
section
/-! SUPPORT. The definitions of Machine/Regs.lean keep (Laws/Kept.lean). -/

namespace Sys2Proof.Machine

open Sys2Proof

theorem putkept_trateReg (s : State) (f : Nat) : PutKept (trateReg s f) := by
  unfold trateReg
  try dsimp only
  repeat' (first
    | with_reducible exact RegKept.none
    | with_reducible apply RegKept.some
    | with_reducible exact RegKept.counter _ _ _
    | with_reducible apply PutKept.k
    | with_reducible exact PutKept.ro _
    | with_reducible apply RegKept.ite
    | (refine RegKept.of_eq (by with_reducible assumption) ?_)
    | (refine PutKept.mk (fun x σ t h => ?_); try dsimp only)
    | intro _
    | with_reducible assumption
    | refine Kept.of_eq (by with_reducible assumption) ?_
    | with_reducible apply Kept.ite
    | with_reducible apply Kept.ite1
    | with_reducible apply kept_trateClear
    | with_reducible apply Kept.foldl
    | with_reducible apply Kept.foldl1
    | (fail_if_no_progress (with_reducible refine Kept.upd ?_ ?_ ?_ ?_ ?_; exact rfl; exact rfl; exact rfl; exact rfl))
    | (with_reducible refine Kept.filt rfl rfl rfl rfl ?_)
    | split
    | dsimp only)

theorem regkept_devReg (s : State) (off : Nat) : RegKept (devReg s off) := by
  unfold devReg
  try dsimp only
  repeat' (first
    | with_reducible exact RegKept.none
    | with_reducible apply RegKept.some
    | with_reducible exact RegKept.counter _ _ _
    | with_reducible apply PutKept.k
    | with_reducible exact PutKept.ro _
    | with_reducible apply RegKept.ite
    | with_reducible apply putkept_trateReg
    | (refine RegKept.of_eq (by with_reducible assumption) ?_)
    | (refine PutKept.mk (fun x σ t h => ?_); try dsimp only)
    | intro _
    | with_reducible assumption
    | refine Kept.of_eq (by with_reducible assumption) ?_
    | with_reducible apply Kept.ite
    | with_reducible apply Kept.ite1
    | with_reducible apply Kept.foldl
    | with_reducible apply Kept.foldl1
    | (fail_if_no_progress (with_reducible refine Kept.upd ?_ ?_ ?_ ?_ ?_; exact rfl; exact rfl; exact rfl; exact rfl))
    | (with_reducible refine Kept.filt rfl rfl rfl rfl ?_)
    | split
    | dsimp only)

theorem regkept_hbmReg (s : State) (k : Nat) (o : Nat) : RegKept (hbmReg s k o) := by
  unfold hbmReg
  try dsimp only
  repeat' (first
    | with_reducible exact RegKept.none
    | with_reducible apply RegKept.some
    | with_reducible exact RegKept.counter _ _ _
    | with_reducible apply PutKept.k
    | with_reducible exact PutKept.ro _
    | with_reducible apply RegKept.ite
    | (refine RegKept.of_eq (by with_reducible assumption) ?_)
    | (refine PutKept.mk (fun x σ t h => ?_); try dsimp only)
    | intro _
    | with_reducible assumption
    | refine Kept.of_eq (by with_reducible assumption) ?_
    | with_reducible apply Kept.ite
    | with_reducible apply Kept.ite1
    | with_reducible apply Kept.foldl
    | with_reducible apply Kept.foldl1
    | (fail_if_no_progress (with_reducible refine Kept.upd ?_ ?_ ?_ ?_ ?_; exact rfl; exact rfl; exact rfl; exact rfl))
    | (with_reducible refine Kept.filt rfl rfl rfl rfl ?_)
    | split
    | dsimp only)

theorem regkept_linkReg (s : State) (l : Nat) (o : Nat) : RegKept (linkReg s l o) := by
  unfold linkReg
  try dsimp only
  repeat' (first
    | with_reducible exact RegKept.none
    | with_reducible apply RegKept.some
    | with_reducible exact RegKept.counter _ _ _
    | with_reducible apply PutKept.k
    | with_reducible exact PutKept.ro _
    | with_reducible apply RegKept.ite
    | (refine RegKept.of_eq (by with_reducible assumption) ?_)
    | (refine PutKept.mk (fun x σ t h => ?_); try dsimp only)
    | intro _
    | with_reducible assumption
    | refine Kept.of_eq (by with_reducible assumption) ?_
    | with_reducible apply Kept.ite
    | with_reducible apply Kept.ite1
    | with_reducible apply kept_linkCtrlWrite
    | with_reducible apply Kept.foldl
    | with_reducible apply Kept.foldl1
    | (fail_if_no_progress (with_reducible refine Kept.upd ?_ ?_ ?_ ?_ ?_; exact rfl; exact rfl; exact rfl; exact rfl))
    | (with_reducible refine Kept.filt rfl rfl rfl rfl ?_)
    | split
    | dsimp only)

theorem kept_devIdPut {σ : State} (x : Wr) (s : State)  (h : Kept σ s) : Kept σ (devIdPut x s) := by
  unfold devIdPut
  try dsimp only
  repeat' (first
    | intro _
    | with_reducible assumption
    | refine Kept.of_eq (by with_reducible assumption) ?_
    | with_reducible apply Kept.ite
    | with_reducible apply Kept.ite1
    | with_reducible apply kept_train
    | with_reducible apply kept_chooseRoot
    | with_reducible apply Kept.foldl
    | with_reducible apply Kept.foldl1
    | (fail_if_no_progress (with_reducible refine Kept.upd ?_ ?_ ?_ ?_ ?_; exact rfl; exact rfl; exact rfl; exact rfl))
    | (with_reducible refine Kept.filt rfl rfl rfl rfl ?_)
    | split
    | dsimp only)

theorem regkept_lnkReg (s : State) (o : Nat) : RegKept (lnkReg s o) := by
  unfold lnkReg
  try dsimp only
  repeat' (first
    | with_reducible exact RegKept.none
    | with_reducible apply RegKept.some
    | with_reducible exact RegKept.counter _ _ _
    | with_reducible apply PutKept.k
    | with_reducible exact PutKept.ro _
    | with_reducible apply RegKept.ite
    | (refine RegKept.of_eq (by with_reducible assumption) ?_)
    | (refine PutKept.mk (fun x σ t h => ?_); try dsimp only)
    | intro _
    | with_reducible assumption
    | refine Kept.of_eq (by with_reducible assumption) ?_
    | with_reducible apply Kept.ite
    | with_reducible apply Kept.ite1
    | with_reducible apply kept_devIdPut
    | with_reducible apply Kept.foldl
    | with_reducible apply Kept.foldl1
    | (fail_if_no_progress (with_reducible refine Kept.upd ?_ ?_ ?_ ?_ ?_; exact rfl; exact rfl; exact rfl; exact rfl))
    | (with_reducible refine Kept.filt rfl rfl rfl rfl ?_)
    | split
    | dsimp only)

theorem regkept_timeReg (s : State) (o : Nat) : RegKept (timeReg s o) := by
  unfold timeReg
  try dsimp only
  repeat' (first
    | with_reducible exact RegKept.none
    | with_reducible apply RegKept.some
    | with_reducible exact RegKept.counter _ _ _
    | with_reducible apply PutKept.k
    | with_reducible exact PutKept.ro _
    | with_reducible apply RegKept.ite
    | (refine RegKept.of_eq (by with_reducible assumption) ?_)
    | (refine PutKept.mk (fun x σ t h => ?_); try dsimp only)
    | intro _
    | with_reducible assumption
    | refine Kept.of_eq (by with_reducible assumption) ?_
    | with_reducible apply Kept.ite
    | with_reducible apply Kept.ite1
    | with_reducible apply kept_chooseRoot
    | with_reducible apply kept_timeSet
    | with_reducible apply Kept.foldl
    | with_reducible apply Kept.foldl1
    | (fail_if_no_progress (with_reducible refine Kept.upd ?_ ?_ ?_ ?_ ?_; exact rfl; exact rfl; exact rfl; exact rfl))
    | (with_reducible refine Kept.filt rfl rfl rfl rfl ?_)
    | split
    | dsimp only)

theorem kept_modPci {σ : State} (f : Pci → Pci) (s : State)  (h : Kept σ s) : Kept σ (modPci f s) := by
  unfold modPci
  try dsimp only
  repeat' (first
    | intro _
    | with_reducible assumption
    | refine Kept.of_eq (by with_reducible assumption) ?_
    | with_reducible apply Kept.ite
    | with_reducible apply Kept.ite1
    | with_reducible apply Kept.foldl
    | with_reducible apply Kept.foldl1
    | (fail_if_no_progress (with_reducible refine Kept.upd ?_ ?_ ?_ ?_ ?_; exact rfl; exact rfl; exact rfl; exact rfl))
    | (with_reducible refine Kept.filt rfl rfl rfl rfl ?_)
    | split
    | dsimp only)

theorem kept_jobPut {σ : State} (x : Wr) (s : State)  (h : Kept σ s) : Kept σ (jobPut x s) := by
  unfold jobPut
  try dsimp only
  repeat' (first
    | intro _
    | with_reducible assumption
    | refine Kept.of_eq (by with_reducible assumption) ?_
    | with_reducible apply Kept.ite
    | with_reducible apply Kept.ite1
    | with_reducible apply kept_unload
    | with_reducible apply kept_fwTell
    | with_reducible apply kept_modPci
    | with_reducible apply Kept.foldl
    | with_reducible apply Kept.foldl1
    | (fail_if_no_progress (with_reducible refine Kept.upd ?_ ?_ ?_ ?_ ?_; exact rfl; exact rfl; exact rfl; exact rfl))
    | (with_reducible refine Kept.filt rfl rfl rfl rfl ?_)
    | split
    | dsimp only)

theorem kept_pubPut {σ : State} (x : Wr) (s : State)  (h : Kept σ s) : Kept σ (pubPut x s) := by
  unfold pubPut
  try dsimp only
  repeat' (first
    | intro _
    | with_reducible assumption
    | refine Kept.of_eq (by with_reducible assumption) ?_
    | with_reducible apply Kept.ite
    | with_reducible apply Kept.ite1
    | with_reducible apply kept_modPci
    | with_reducible apply Kept.foldl
    | with_reducible apply Kept.foldl1
    | (fail_if_no_progress (with_reducible refine Kept.upd ?_ ?_ ?_ ?_ ?_; exact rfl; exact rfl; exact rfl; exact rfl))
    | (with_reducible refine Kept.filt rfl rfl rfl rfl ?_)
    | split
    | dsimp only)

theorem regkept_pciReg1 (s : State) (o : Nat) : RegKept (pciReg1 s o) := by
  unfold pciReg1
  try dsimp only
  repeat' (first
    | with_reducible exact RegKept.none
    | with_reducible apply RegKept.some
    | with_reducible exact RegKept.counter _ _ _
    | with_reducible apply PutKept.k
    | with_reducible exact PutKept.ro _
    | with_reducible apply RegKept.ite
    | (refine RegKept.of_eq (by with_reducible assumption) ?_)
    | (refine PutKept.mk (fun x σ t h => ?_); try dsimp only)
    | intro _
    | with_reducible assumption
    | refine Kept.of_eq (by with_reducible assumption) ?_
    | with_reducible apply Kept.ite
    | with_reducible apply Kept.ite1
    | with_reducible apply kept_modPci
    | with_reducible apply kept_jobPut
    | with_reducible apply kept_pubPut
    | with_reducible apply Kept.foldl
    | with_reducible apply Kept.foldl1
    | (fail_if_no_progress (with_reducible refine Kept.upd ?_ ?_ ?_ ?_ ?_; exact rfl; exact rfl; exact rfl; exact rfl))
    | (with_reducible refine Kept.filt rfl rfl rfl rfl ?_)
    | split
    | dsimp only)

theorem regkept_pciReg (s : State) (o : Nat) : RegKept (pciReg s o) := by
  unfold pciReg
  try dsimp only
  repeat' (first
    | with_reducible exact RegKept.none
    | with_reducible apply RegKept.some
    | with_reducible exact RegKept.counter _ _ _
    | with_reducible apply PutKept.k
    | with_reducible exact PutKept.ro _
    | with_reducible apply RegKept.ite
    | with_reducible apply regkept_pciReg1
    | (refine RegKept.of_eq (by with_reducible assumption) ?_)
    | (refine PutKept.mk (fun x σ t h => ?_); try dsimp only)
    | intro _
    | with_reducible assumption
    | refine Kept.of_eq (by with_reducible assumption) ?_
    | with_reducible apply Kept.ite
    | with_reducible apply Kept.ite1
    | with_reducible apply kept_modPci
    | with_reducible apply Kept.foldl
    | with_reducible apply Kept.foldl1
    | (fail_if_no_progress (with_reducible refine Kept.upd ?_ ?_ ?_ ?_ ?_; exact rfl; exact rfl; exact rfl; exact rfl))
    | (with_reducible refine Kept.filt rfl rfl rfl rfl ?_)
    | split
    | dsimp only)

theorem kept_modPwr {σ : State} (f : Pwr → Pwr) (s : State)  (h : Kept σ s) : Kept σ (modPwr f s) := by
  unfold modPwr
  try dsimp only
  repeat' (first
    | intro _
    | with_reducible assumption
    | refine Kept.of_eq (by with_reducible assumption) ?_
    | with_reducible apply Kept.ite
    | with_reducible apply Kept.ite1
    | with_reducible apply Kept.foldl
    | with_reducible apply Kept.foldl1
    | (fail_if_no_progress (with_reducible refine Kept.upd ?_ ?_ ?_ ?_ ?_; exact rfl; exact rfl; exact rfl; exact rfl))
    | (with_reducible refine Kept.filt rfl rfl rfl rfl ?_)
    | split
    | dsimp only)

theorem kept_obeyCtrl {σ : State} (s : State)  (h : Kept σ s) : Kept σ (obeyCtrl s) := by
  unfold obeyCtrl
  try dsimp only
  repeat' (first
    | intro _
    | with_reducible assumption
    | refine Kept.of_eq (by with_reducible assumption) ?_
    | with_reducible apply Kept.ite
    | with_reducible apply Kept.ite1
    | with_reducible apply kept_ask
    | with_reducible apply kept_obeyOff
    | with_reducible apply kept_goSleep
    | with_reducible apply Kept.foldl
    | with_reducible apply Kept.foldl1
    | (fail_if_no_progress (with_reducible refine Kept.upd ?_ ?_ ?_ ?_ ?_; exact rfl; exact rfl; exact rfl; exact rfl))
    | (with_reducible refine Kept.filt rfl rfl rfl rfl ?_)
    | split
    | dsimp only)

theorem kept_pwrCtrlPut {σ : State} (x : Wr) (s : State)  (h : Kept σ s) : Kept σ (pwrCtrlPut x s) := by
  unfold pwrCtrlPut
  try dsimp only
  repeat' (first
    | intro _
    | with_reducible assumption
    | refine Kept.of_eq (by with_reducible assumption) ?_
    | with_reducible apply Kept.ite
    | with_reducible apply Kept.ite1
    | with_reducible apply kept_ignoreWrite
    | with_reducible apply kept_modPwr
    | with_reducible apply kept_obeyCtrl
    | with_reducible apply Kept.foldl
    | with_reducible apply Kept.foldl1
    | (fail_if_no_progress (with_reducible refine Kept.upd ?_ ?_ ?_ ?_ ?_; exact rfl; exact rfl; exact rfl; exact rfl))
    | (with_reducible refine Kept.filt rfl rfl rfl rfl ?_)
    | split
    | dsimp only)

theorem putkept_pwrCtrl (s : State) : PutKept (pwrCtrl s) := by
  unfold pwrCtrl
  try dsimp only
  repeat' (first
    | with_reducible exact RegKept.none
    | with_reducible apply RegKept.some
    | with_reducible exact RegKept.counter _ _ _
    | with_reducible apply PutKept.k
    | with_reducible exact PutKept.ro _
    | with_reducible apply RegKept.ite
    | (refine RegKept.of_eq (by with_reducible assumption) ?_)
    | (refine PutKept.mk (fun x σ t h => ?_); try dsimp only)
    | intro _
    | with_reducible assumption
    | refine Kept.of_eq (by with_reducible assumption) ?_
    | with_reducible apply Kept.ite
    | with_reducible apply Kept.ite1
    | with_reducible apply kept_pwrCtrlPut
    | with_reducible apply Kept.foldl
    | with_reducible apply Kept.foldl1
    | (fail_if_no_progress (with_reducible refine Kept.upd ?_ ?_ ?_ ?_ ?_; exact rfl; exact rfl; exact rfl; exact rfl))
    | (with_reducible refine Kept.filt rfl rfl rfl rfl ?_)
    | split
    | dsimp only)

theorem regkept_pwrReg1 (s : State) (o : Nat) : RegKept (pwrReg1 s o) := by
  unfold pwrReg1
  try dsimp only
  repeat' (first
    | with_reducible exact RegKept.none
    | with_reducible apply RegKept.some
    | with_reducible exact RegKept.counter _ _ _
    | with_reducible apply PutKept.k
    | with_reducible exact PutKept.ro _
    | with_reducible apply RegKept.ite
    | with_reducible apply putkept_pwrCtrl
    | (refine RegKept.of_eq (by with_reducible assumption) ?_)
    | (refine PutKept.mk (fun x σ t h => ?_); try dsimp only)
    | intro _
    | with_reducible assumption
    | refine Kept.of_eq (by with_reducible assumption) ?_
    | with_reducible apply Kept.ite
    | with_reducible apply Kept.ite1
    | with_reducible apply kept_modPwr
    | with_reducible apply Kept.foldl
    | with_reducible apply Kept.foldl1
    | (fail_if_no_progress (with_reducible refine Kept.upd ?_ ?_ ?_ ?_ ?_; exact rfl; exact rfl; exact rfl; exact rfl))
    | (with_reducible refine Kept.filt rfl rfl rfl rfl ?_)
    | split
    | dsimp only)

theorem regkept_pwrReg (s : State) (o : Nat) : RegKept (pwrReg s o) := by
  unfold pwrReg
  try dsimp only
  repeat' (first
    | with_reducible exact RegKept.none
    | with_reducible apply RegKept.some
    | with_reducible exact RegKept.counter _ _ _
    | with_reducible apply PutKept.k
    | with_reducible exact PutKept.ro _
    | with_reducible apply RegKept.ite
    | with_reducible apply regkept_pwrReg1
    | (refine RegKept.of_eq (by with_reducible assumption) ?_)
    | (refine PutKept.mk (fun x σ t h => ?_); try dsimp only)
    | intro _
    | with_reducible assumption
    | refine Kept.of_eq (by with_reducible assumption) ?_
    | with_reducible apply Kept.ite
    | with_reducible apply Kept.ite1
    | with_reducible apply Kept.foldl
    | with_reducible apply Kept.foldl1
    | (fail_if_no_progress (with_reducible refine Kept.upd ?_ ?_ ?_ ?_ ?_; exact rfl; exact rfl; exact rfl; exact rfl))
    | (with_reducible refine Kept.filt rfl rfl rfl rfl ?_)
    | split
    | dsimp only)

theorem regkept_secReg (s : State) (o : Nat) : RegKept (secReg s o) := by
  unfold secReg
  try dsimp only
  repeat' (first
    | with_reducible exact RegKept.none
    | with_reducible apply RegKept.some
    | with_reducible exact RegKept.counter _ _ _
    | with_reducible apply PutKept.k
    | with_reducible exact PutKept.ro _
    | with_reducible apply RegKept.ite
    | with_reducible apply putkept_fwReg
    | (refine RegKept.of_eq (by with_reducible assumption) ?_)
    | (refine PutKept.mk (fun x σ t h => ?_); try dsimp only)
    | intro _
    | with_reducible assumption
    | refine Kept.of_eq (by with_reducible assumption) ?_
    | with_reducible apply Kept.ite
    | with_reducible apply Kept.ite1
    | with_reducible apply kept_recovGo
    | with_reducible apply Kept.foldl
    | with_reducible apply Kept.foldl1
    | (fail_if_no_progress (with_reducible refine Kept.upd ?_ ?_ ?_ ?_ ?_; exact rfl; exact rfl; exact rfl; exact rfl))
    | (with_reducible refine Kept.filt rfl rfl rfl rfl ?_)
    | split
    | dsimp only)

theorem kept_slicePut {σ : State} (x : Wr) (s : State)  (h : Kept σ s) : Kept σ (slicePut x s) := by
  unfold slicePut
  try dsimp only
  repeat' (first
    | intro _
    | with_reducible assumption
    | refine Kept.of_eq (by with_reducible assumption) ?_
    | with_reducible apply Kept.ite
    | with_reducible apply Kept.ite1
    | with_reducible apply kept_latchBist
    | with_reducible apply Kept.foldl
    | with_reducible apply Kept.foldl1
    | (fail_if_no_progress (with_reducible refine Kept.upd ?_ ?_ ?_ ?_ ?_; exact rfl; exact rfl; exact rfl; exact rfl))
    | (with_reducible refine Kept.filt rfl rfl rfl rfl ?_)
    | split
    | dsimp only)

theorem regkept_bistReg (s : State) (o : Nat) : RegKept (bistReg s o) := by
  unfold bistReg
  try dsimp only
  repeat' (first
    | with_reducible exact RegKept.none
    | with_reducible apply RegKept.some
    | with_reducible exact RegKept.counter _ _ _
    | with_reducible apply PutKept.k
    | with_reducible exact PutKept.ro _
    | with_reducible apply RegKept.ite
    | with_reducible apply putkept_hmapCtrl
    | (refine RegKept.of_eq (by with_reducible assumption) ?_)
    | (refine PutKept.mk (fun x σ t h => ?_); try dsimp only)
    | intro _
    | with_reducible assumption
    | refine Kept.of_eq (by with_reducible assumption) ?_
    | with_reducible apply Kept.ite
    | with_reducible apply Kept.ite1
    | with_reducible apply kept_slicePut
    | with_reducible apply Kept.foldl
    | with_reducible apply Kept.foldl1
    | (fail_if_no_progress (with_reducible refine Kept.upd ?_ ?_ ?_ ?_ ?_; exact rfl; exact rfl; exact rfl; exact rfl))
    | (with_reducible refine Kept.filt rfl rfl rfl rfl ?_)
    | split
    | dsimp only)

theorem regkept_frdReg (s : State) (n : Nat) (o : Nat) : RegKept (frdReg s n o) := by
  unfold frdReg
  try dsimp only
  repeat' (first
    | with_reducible exact RegKept.none
    | with_reducible apply RegKept.some
    | with_reducible exact RegKept.counter _ _ _
    | with_reducible apply PutKept.k
    | with_reducible exact PutKept.ro _
    | with_reducible apply RegKept.ite
    | (refine RegKept.of_eq (by with_reducible assumption) ?_)
    | (refine PutKept.mk (fun x σ t h => ?_); try dsimp only)
    | intro _
    | with_reducible assumption
    | refine Kept.of_eq (by with_reducible assumption) ?_
    | with_reducible apply Kept.ite
    | with_reducible apply Kept.ite1
    | with_reducible apply Kept.foldl
    | with_reducible apply Kept.foldl1
    | (fail_if_no_progress (with_reducible refine Kept.upd ?_ ?_ ?_ ?_ ?_; exact rfl; exact rfl; exact rfl; exact rfl))
    | (with_reducible refine Kept.filt rfl rfl rfl rfl ?_)
    | split
    | dsimp only)

theorem regkept_engReg (s : State) (n : Nat) (m : Nat) (o : Nat) : RegKept (engReg s n m o) := by
  unfold engReg
  try dsimp only
  repeat' (first
    | with_reducible exact RegKept.none
    | with_reducible apply RegKept.some
    | with_reducible exact RegKept.counter _ _ _
    | with_reducible apply PutKept.k
    | with_reducible exact PutKept.ro _
    | with_reducible apply RegKept.ite
    | (refine RegKept.of_eq (by with_reducible assumption) ?_)
    | (refine PutKept.mk (fun x σ t h => ?_); try dsimp only)
    | intro _
    | with_reducible assumption
    | refine Kept.of_eq (by with_reducible assumption) ?_
    | with_reducible apply Kept.ite
    | with_reducible apply Kept.ite1
    | with_reducible apply kept_modEng
    | with_reducible apply kept_actLoadWrite
    | with_reducible apply Kept.foldl
    | with_reducible apply Kept.foldl1
    | (fail_if_no_progress (with_reducible refine Kept.upd ?_ ?_ ?_ ?_ ?_; exact rfl; exact rfl; exact rfl; exact rfl))
    | (with_reducible refine Kept.filt rfl rfl rfl rfl ?_)
    | split
    | dsimp only)

theorem regkept_strmReg (s : State) (n : Nat) (q : Nat) (o : Nat) : RegKept (strmReg s n q o) := by
  unfold strmReg
  try dsimp only
  repeat' (first
    | with_reducible exact RegKept.none
    | with_reducible apply RegKept.some
    | with_reducible exact RegKept.counter _ _ _
    | with_reducible apply PutKept.k
    | with_reducible exact PutKept.ro _
    | with_reducible apply RegKept.ite
    | with_reducible apply putkept_progReg
    | (refine RegKept.of_eq (by with_reducible assumption) ?_)
    | (refine PutKept.mk (fun x σ t h => ?_); try dsimp only)
    | intro _
    | with_reducible assumption
    | refine Kept.of_eq (by with_reducible assumption) ?_
    | with_reducible apply Kept.ite
    | with_reducible apply Kept.ite1
    | with_reducible apply kept_strmCtrlWrite
    | with_reducible apply Kept.foldl
    | with_reducible apply Kept.foldl1
    | (fail_if_no_progress (with_reducible refine Kept.upd ?_ ?_ ?_ ?_ ?_; exact rfl; exact rfl; exact rfl; exact rfl))
    | (with_reducible refine Kept.filt rfl rfl rfl rfl ?_)
    | split
    | dsimp only)

theorem regkept_coreReg (s : State) (n : Nat) (c : Nat) (o : Nat) : RegKept (coreReg s n c o) := by
  unfold coreReg
  try dsimp only
  repeat' (first
    | with_reducible exact RegKept.none
    | with_reducible apply RegKept.some
    | with_reducible exact RegKept.counter _ _ _
    | with_reducible apply PutKept.k
    | with_reducible exact PutKept.ro _
    | with_reducible apply RegKept.ite
    | (refine RegKept.of_eq (by with_reducible assumption) ?_)
    | (refine PutKept.mk (fun x σ t h => ?_); try dsimp only)
    | intro _
    | with_reducible assumption
    | refine Kept.of_eq (by with_reducible assumption) ?_
    | with_reducible apply Kept.ite
    | with_reducible apply Kept.ite1
    | with_reducible apply kept_modCore
    | with_reducible apply Kept.foldl
    | with_reducible apply Kept.foldl1
    | (fail_if_no_progress (with_reducible refine Kept.upd ?_ ?_ ?_ ?_ ?_; exact rfl; exact rfl; exact rfl; exact rfl))
    | (with_reducible refine Kept.filt rfl rfl rfl rfl ?_)
    | split
    | dsimp only)

theorem regkept_thlReg (s : State) (n : Nat) (o : Nat) : RegKept (thlReg s n o) := by
  unfold thlReg
  try dsimp only
  repeat' (first
    | with_reducible exact RegKept.none
    | with_reducible apply RegKept.some
    | with_reducible exact RegKept.counter _ _ _
    | with_reducible apply PutKept.k
    | with_reducible exact PutKept.ro _
    | with_reducible apply RegKept.ite
    | with_reducible apply putkept_odtReg
    | with_reducible apply regkept_engReg
    | with_reducible apply regkept_strmReg
    | with_reducible apply regkept_coreReg
    | (refine RegKept.of_eq (by with_reducible assumption) ?_)
    | (refine PutKept.mk (fun x σ t h => ?_); try dsimp only)
    | intro _
    | with_reducible assumption
    | refine Kept.of_eq (by with_reducible assumption) ?_
    | with_reducible apply Kept.ite
    | with_reducible apply Kept.ite1
    | with_reducible apply Kept.foldl
    | with_reducible apply Kept.foldl1
    | (fail_if_no_progress (with_reducible refine Kept.upd ?_ ?_ ?_ ?_ ?_; exact rfl; exact rfl; exact rfl; exact rfl))
    | (with_reducible refine Kept.filt rfl rfl rfl rfl ?_)
    | split
    | dsimp only)

theorem regkept_regAt (s : State) (off : Nat) : RegKept (regAt s off) := by
  unfold regAt
  try dsimp only
  repeat' (first
    | with_reducible exact RegKept.none
    | with_reducible apply RegKept.some
    | with_reducible exact RegKept.counter _ _ _
    | with_reducible apply PutKept.k
    | with_reducible exact PutKept.ro _
    | with_reducible apply RegKept.ite
    | with_reducible apply regkept_jobReg
    | with_reducible apply regkept_devReg
    | with_reducible apply regkept_hbmReg
    | with_reducible apply regkept_linkReg
    | with_reducible apply regkept_lnkReg
    | with_reducible apply regkept_timeReg
    | with_reducible apply regkept_pciReg
    | with_reducible apply regkept_pwrReg
    | with_reducible apply regkept_secReg
    | with_reducible apply regkept_bistReg
    | with_reducible apply regkept_frdReg
    | with_reducible apply regkept_thlReg
    | (refine RegKept.of_eq (by with_reducible assumption) ?_)
    | (refine PutKept.mk (fun x σ t h => ?_); try dsimp only)
    | intro _
    | with_reducible assumption
    | refine Kept.of_eq (by with_reducible assumption) ?_
    | with_reducible apply Kept.ite
    | with_reducible apply Kept.ite1
    | with_reducible apply Kept.foldl
    | with_reducible apply Kept.foldl1
    | (fail_if_no_progress (with_reducible refine Kept.upd ?_ ?_ ?_ ?_ ?_; exact rfl; exact rfl; exact rfl; exact rfl))
    | (with_reducible refine Kept.filt rfl rfl rfl rfl ?_)
    | split
    | dsimp only)

theorem kept_msixPut {σ : State} (off : Nat) (size : Nat) (v : Word) (s : State)  (h : Kept σ s) : Kept σ (msixPut off size v s) := by
  unfold msixPut
  try dsimp only
  repeat' (first
    | intro _
    | with_reducible assumption
    | refine Kept.of_eq (by with_reducible assumption) ?_
    | with_reducible apply Kept.ite
    | with_reducible apply Kept.ite1
    | with_reducible apply kept_msixWrite
    | with_reducible apply Kept.foldl
    | with_reducible apply Kept.foldl1
    | (fail_if_no_progress (with_reducible refine Kept.upd ?_ ?_ ?_ ?_ ?_; exact rfl; exact rfl; exact rfl; exact rfl))
    | (with_reducible refine Kept.filt rfl rfl rfl rfl ?_)
    | split
    | dsimp only)

theorem kept_putReg {σ : State} (who : Who) (off : Nat) (size : Nat) (v : Word) (s : State)  (h : Kept σ s) : Kept σ (putReg who off size v s) := by
  unfold putReg
  try dsimp only
  repeat' (first
    | intro _
    | with_reducible assumption
    | refine Kept.of_eq (by with_reducible assumption) ?_
    | with_reducible apply Kept.ite
    | with_reducible apply Kept.ite1
    | with_reducible apply kept_holeEv
    | with_reducible apply kept_rwk
    | with_reducible apply kept_regAt
    | exact (RegKept.of_eq (by with_reducible assumption) (regkept_regAt _ _)).put _ _ _ (by with_reducible assumption)
    | with_reducible apply Kept.foldl
    | with_reducible apply Kept.foldl1
    | (fail_if_no_progress (with_reducible refine Kept.upd ?_ ?_ ?_ ?_ ?_; exact rfl; exact rfl; exact rfl; exact rfl))
    | (with_reducible refine Kept.filt rfl rfl rfl rfl ?_)
    | split
    | dsimp only)

theorem kept_spaceWrite {σ : State} (who : Who) (off : Nat) (size : Nat) (v : Word) (s : State)  (h : Kept σ s) : Kept σ (spaceWrite who off size v s) := by
  unfold spaceWrite
  try dsimp only
  repeat' (first
    | intro _
    | with_reducible assumption
    | refine Kept.of_eq (by with_reducible assumption) ?_
    | with_reducible apply Kept.ite
    | with_reducible apply Kept.ite1
    | with_reducible apply kept_holeEv
    | with_reducible apply kept_msixPut
    | with_reducible apply kept_putReg
    | with_reducible apply Kept.foldl
    | with_reducible apply Kept.foldl1
    | (fail_if_no_progress (with_reducible refine Kept.upd ?_ ?_ ?_ ?_ ?_; exact rfl; exact rfl; exact rfl; exact rfl))
    | (with_reducible refine Kept.filt rfl rfl rfl rfl ?_)
    | split
    | dsimp only)

theorem kept_spaceRead {σ : State} (who : Who) (off : Nat) (size : Nat) (s : State)  (h : Kept σ s) : Kept σ (spaceRead who off size s).1 := by
  unfold spaceRead
  try dsimp only
  repeat' (first
    | intro _
    | with_reducible assumption
    | refine Kept.of_eq (by with_reducible assumption) ?_
    | with_reducible apply Kept.ite
    | with_reducible apply Kept.ite1
    | with_reducible apply kept_holeEv
    | with_reducible apply kept_regAt
    | with_reducible apply Kept.foldl
    | with_reducible apply Kept.foldl1
    | (fail_if_no_progress (with_reducible refine Kept.upd ?_ ?_ ?_ ?_ ?_; exact rfl; exact rfl; exact rfl; exact rfl))
    | (with_reducible refine Kept.filt rfl rfl rfl rfl ?_)
    | split
    | dsimp only)

end Sys2Proof.Machine
end

