-- ==== Sys2Proof/Laws/Memory.lean ====
section
/-! SUPPORT. Memory: reading present, correctable locations gives their bytes, writing plain memory stores them, and neither changes anything else. -/

namespace Sys2Proof.Machine

open Sys2Proof

theorem gets_append (m : Mem) (a i j : Nat) : m.gets a (i + j) = m.gets a i ++ m.gets (a + i) j := by
  induction i generalizing a with
  | zero => simp [Mem.gets]
  | succ i ih =>
    rw [Nat.add_right_comm]
    simp only [Mem.gets, List.cons_append]
    rw [ih, Nat.add_assoc, Nat.add_comm 1 i]

theorem sets_append {w : Nat} (m : Sparse w) (a : Nat) (xs ys : List (BitVec w)) :
    Sparse.sets m a (xs ++ ys) = Sparse.sets (Sparse.sets m a xs) (a + xs.length) ys := by
  induction xs generalizing m a with
  | nil => rfl
  | cons x xs ih =>
    simp only [List.cons_append, Sparse.sets, List.length_cons]
    rw [ih, Nat.add_assoc, Nat.add_comm 1]

theorem poke_poke (p : Nat) (xs ys : List Byte) (s : State) : poke (p + xs.length) ys (poke p xs s) = poke p (xs ++ ys) s := by
  unfold poke
  rw [sets_append]

theorem poke_nil (p : Nat) (s : State) : poke p [] s = s := rfl

theorem plain_poke {s : State} {a n : Nat} (h : Plain s a n) (p : Nat) (bs : List Byte) : Plain (poke p bs s) a n := h

theorem plain_drop {s : State} {a n : Nat} (h : Plain s a n) (k : Nat) (hk : k ≤ n) : Plain s (a + k) (n - k) := by
  intro i hi
  rw [Nat.add_assoc]
  exact h (k + i) (by omega)

theorem isHbm_line {p i : Nat} (h : p % 64 + i < 64) : isHbm (p + i) = isHbm p := by
  unfold isHbm hbmEnd
  by_cases e : p < 0x00C000000000
  · have : p + i < 0x00C000000000 := by omega
    simp [e, this]
  · have : ¬ p + i < 0x00C000000000 := by omega
    simp [e, this]

theorem winAt_line (s : State) (o i : Nat) (h : o % 64 + i < 64) : winAt s (o + i) = winAt s o := by
  unfold winAt
  congr 1
  congr 1
  funext x
  obtain ⟨w, k⟩ := x
  have h1 : w.start = 64 * (0x8000 * w.spanOff.toNat) := by unfold Win.start; omega
  have h2 : w.bytes = 64 * (0x8000 * (w.sizeM1.toNat + 1)) := by unfold Win.bytes; omega
  simp only
  generalize w.start = x at *
  generalize w.bytes = y at *
  congr 1
  · congr 1
    simp only [decide_eq_decide]; omega
  · simp only [decide_eq_decide]; omega

theorem regionOf_line (a i : Nat) (h : a % 64 + i < 64) :
    (regionOf (a + i) = .hbm ↔ regionOf a = .hbm) ∧ (regionOf (a + i) = .cur ↔ regionOf a = .cur) ∧ (regionOf (a + i) = .nxt ↔ regionOf a = .nxt) ∧
    (∀ n, regionOf (a + i) = .store n ↔ regionOf a = .store n) ∧ (∀ n c, regionOf (a + i) = .scratch n c ↔ regionOf a = .scratch n c) := by
  have hs : a + i < storeEnd → (a + i - storeBase) / 0x1000000 = (a - storeBase) / 0x1000000 := by unfold storeBase; omega
  have hc : (a + i - scratchBase) / 0x80000 = (a - scratchBase) / 0x80000 ∧ (a + i - scratchBase) / 0x10000 = (a - scratchBase) / 0x10000 := by
    unfold scratchBase; omega
  unfold regionOf
  rw [hc.1, hc.2]
  by_cases h1 : a < hbmEnd
  · rw [if_pos h1, if_pos (by unfold hbmEnd at *; omega)]; simp
  rw [if_neg h1, if_neg (by unfold hbmEnd at *; omega)]
  by_cases h2 : a < nextBase
  · rw [if_pos h2, if_pos (by unfold nextBase at *; omega)]; simp
  rw [if_neg h2, if_neg (by unfold nextBase at *; omega)]
  by_cases h3 : a < storeBase
  · rw [if_pos h3, if_pos (by unfold storeBase at *; omega)]; simp
  rw [if_neg h3, if_neg (by unfold storeBase at *; omega)]
  by_cases h4 : a < storeEnd
  · have h4' : a + i < storeEnd := by unfold storeEnd at *; omega
    rw [if_pos h4, if_pos h4', hs h4']; simp
  rw [if_neg h4, if_neg (by unfold storeEnd at *; omega)]
  by_cases h5 : a < scratchBase
  · rw [if_pos h5, if_pos (by unfold scratchBase at *; omega)]; simp
  rw [if_neg h5, if_neg (by unfold scratchBase at *; omega)]
  by_cases h6 : a < scratchEnd
  · rw [if_pos h6, if_pos (by unfold scratchEnd at *; omega)]; simp
  rw [if_neg h6, if_neg (by unfold scratchEnd at *; omega)]
  by_cases h7 : a < regBase
  · rw [if_pos h7, if_pos (by unfold regBase at *; omega)]; simp
  rw [if_neg h7, if_neg (by unfold regBase at *; omega)]
  by_cases h8 : a < regEnd
  · rw [if_pos h8, if_pos (by unfold regEnd at *; omega)]; simp
  rw [if_neg h8, if_neg (by unfold regEnd at *; omega)]; simp

theorem region_cases (a i : Nat) (h : a % 64 + i < 64) : regionOf (a + i) = regionOf a ∨
    ((regionOf a = .regs ∨ regionOf a = .reserved) ∧ (regionOf (a + i) = .regs ∨ regionOf (a + i) = .reserved)) := by
  obtain ⟨h1, h2, h3, h4, h5⟩ := regionOf_line a i h
  cases hr : regionOf a with
  | hbm => exact Or.inl (h1.2 hr)
  | cur => exact Or.inl (h2.2 hr)
  | nxt => exact Or.inl (h3.2 hr)
  | store n => exact Or.inl ((h4 n).2 hr)
  | scratch n c => exact Or.inl ((h5 n c).2 hr)
  | regs => 
    right; refine ⟨Or.inl rfl, ?_⟩
    cases hq : regionOf (a + i) with
    | hbm => rw [h1.1 hq] at hr; cases hr
    | cur => rw [h2.1 hq] at hr; cases hr
    | nxt => rw [h3.1 hq] at hr; cases hr
    | store n => rw [(h4 n).1 hq] at hr; cases hr
    | scratch n c => rw [(h5 n c).1 hq] at hr; cases hr
    | regs => exact Or.inl rfl
    | reserved => exact Or.inr rfl
  | reserved =>
    right; refine ⟨Or.inr rfl, ?_⟩
    cases hq : regionOf (a + i) with
    | hbm => rw [h1.1 hq] at hr; cases hr
    | cur => rw [h2.1 hq] at hr; cases hr
    | nxt => rw [h3.1 hq] at hr; cases hr
    | store n => rw [(h4 n).1 hq] at hr; cases hr
    | scratch n c => rw [(h5 n c).1 hq] at hr; cases hr
    | regs => exact Or.inl rfl
    | reserved => exact Or.inr rfl

theorem target_line (s : State) (a i : Nat) (h : a % 64 + i < 64) : target s (a + i) = (target s a).map (· + i) := by
  unfold target
  rcases region_cases a i h with hr | ⟨h1, h2⟩
  · rw [hr]
    cases hq : regionOf a with
    | hbm =>
      simp only
      have : hbmBytes s = 64 * (gib * popCount s.caps.stackEn) := by unfold hbmBytes; rw [Nat.mul_assoc]
      rw [this]
      by_cases hl : a < 64 * (gib * popCount s.caps.stackEn)
      · rw [if_pos hl, if_pos (by omega)]; rfl
      · rw [if_neg hl, if_neg (by omega)]; rfl
    | cur =>
      have hge : curBase ≤ a := by
        unfold regionOf at hq
        by_contra hc
        rw [if_pos (by unfold hbmEnd curBase at *; omega)] at hq; cases hq
      simp only
      rw [show a + i - curBase = (a - curBase) + i by omega, winAt_line _ _ _ (by unfold curBase at *; omega)]
      cases hw : winAt s (a - curBase) with
      | none => rfl
      | some x =>
        have hst : x.2.start ≤ a - curBase := by
          unfold winAt at hw
          rw [Option.map_eq_some_iff] at hw
          obtain ⟨y, hy, rfl⟩ := hw
          have := List.find?_some hy
          simp only [Bool.and_eq_true, decide_eq_true_eq] at this
          exact this.1.2
        simp only [Option.map_some, Option.some.injEq]
        omega
    | nxt =>
      have hge : nextBase ≤ a := by
        unfold regionOf at hq
        by_contra hc
        by_cases hb : a < hbmEnd
        · rw [if_pos hb] at hq; cases hq
        · rw [if_neg hb, if_pos (by omega)] at hq; cases hq
      simp only
      rw [show a + i - nextBase = (a - nextBase) + i by omega, winAt_line _ _ _ (by unfold nextBase at *; omega)]
      cases hw : winAt s (a - nextBase) with
      | none => rfl
      | some x =>
        have hst : x.2.start ≤ a - nextBase := by
          unfold winAt at hw
          rw [Option.map_eq_some_iff] at hw
          obtain ⟨y, hy, rfl⟩ := hw
          have := List.find?_some hy
          simp only [Bool.and_eq_true, decide_eq_true_eq] at this
          exact this.1.2
        simp only [Option.map_some, Option.some.injEq]
        omega
    | store n => simp only; split <;> rfl
    | scratch n c => simp only; split <;> rfl
    | regs => rfl
    | reserved => rfl
  · rcases h1 with h1 | h1 <;> rcases h2 with h2 | h2 <;> rw [h1, h2] <;> rfl

/-- The physical address lies at the same place of its line. -/
theorem target_mod {s : State} {a p : Nat} (h : target s a = some p) : p % 64 = a % 64 := by
  have key : ∀ (b : Nat) (e : Bool), b % 64 = 0 → b ≤ a → ∀ x, winAt s (a - b) = some x →
      (x.2.copyBase e + (a - b - x.2.start)) % 64 = a % 64 := by
    intro b e hb hle x hx
    have hst : x.2.start ≤ a - b := by
      unfold winAt at hx
      rw [Option.map_eq_some_iff] at hx
      obtain ⟨y, hy, rfl⟩ := hx
      have := List.find?_some hy
      simp only [Bool.and_eq_true, decide_eq_true_eq] at this
      exact this.1.2
    unfold Win.copyBase Win.start at *
    omega
  unfold target at h
  cases hr : regionOf a with
  | hbm => rw [hr] at h; simp only at h; split at h <;> cases h; rfl
  | cur =>
    have hge : curBase ≤ a := by
      unfold regionOf at hr
      by_contra hc
      rw [if_pos (by unfold hbmEnd curBase at *; omega)] at hr; cases hr
    rw [hr] at h; simp only [Option.map_eq_some_iff] at h
    obtain ⟨x, hx, rfl⟩ := h
    exact key curBase _ (by decide) hge x hx
  | nxt =>
    have hge : nextBase ≤ a := by
      unfold regionOf at hr
      by_contra hc
      by_cases hb : a < hbmEnd
      · rw [if_pos hb] at hr; cases hr
      · rw [if_neg hb, if_pos (by omega)] at hr; cases hr
    rw [hr] at h; simp only [Option.map_eq_some_iff] at h
    obtain ⟨x, hx, rfl⟩ := h
    exact key nextBase _ (by decide) hge x hx
  | store n => rw [hr] at h; simp only at h; split at h <;> cases h; rfl
  | scratch n c => rw [hr] at h; simp only at h; split at h <;> cases h; rfl
  | regs => rw [hr] at h; cases h
  | reserved => rw [hr] at h; cases h

theorem hbmGo_line (s : State) (k a i : Nat) (h : a % 64 + i < 64) : (hbmGo s (a + i) k).1 = (hbmGo s a k).1 := by
  induction k generalizing a with
  | zero => rfl
  | succ k ih =>
    unfold hbmGo
    simp only
    generalize (List.range 3).filterMap (fun j => if s.caps.stackEn.getLsbD (3 * (3 - k) + j) then some (3 * (3 - k) + j) else none) = en
    have hs : 64 * gib * en.length = 64 * (gib * en.length) := Nat.mul_assoc ..
    rw [hs]
    by_cases hl : a < 64 * (gib * en.length)
    · rw [if_pos hl, if_pos (by omega), show (a + i) / 256 = a / 256 by omega]
    · rw [if_neg hl, if_neg (by omega), show a + i - 64 * (gib * en.length) = (a - 64 * (gib * en.length)) + i by omega]
      exact ih _ (by omega)

theorem memField_line (s : State) (p i : Nat) (h : p % 64 + i < 64) : memField s (p + i) = memField s p := by
  unfold memField hbmPlace
  rcases region_cases p i h with hr | ⟨h1, h2⟩
  · rw [hr, hbmGo_line s 4 p i h]
  · rcases h1 with h1 | h1 <;> rcases h2 with h2 | h2 <;> rw [h1, h2]

theorem compatOff_line (s : State) (a i : Nat) (h : a % 64 + i < 64) : compatOff s (a + i) = compatOff s a := by
  unfold compatOff
  rw [target_line s a i h]
  cases ht : target s a with
  | none => rfl
  | some p =>
    simp only [Option.map_some, Option.bind_some]
    rw [memField_line s p i (by have := target_mod ht; omega)]

theorem resolve_line (s : State) (a i : Nat) (h : a % 64 + i < 64) : resolve s (a + i) = (resolve s a).map (· + i) := by
  unfold resolve
  rw [compatOff_line s a i h, target_line s a i h]
  split <;> rfl

theorem gets_getD (m : Mem) (p n : Nat) (bs : List Byte) (hl : bs.length = n) (h : ∀ i < n, bs.getD i 0 = m.get (p + i)) : m.gets p n = bs := by
  induction n generalizing p bs with
  | zero => simp only [Mem.gets]; exact (List.length_eq_zero_iff.mp hl).symm
  | succ n ih =>
    cases bs with
    | nil => simp at hl
    | cons b bs =>
      simp only [Mem.gets]
      have h0 := h 0 (by omega)
      simp only [List.getD_cons_zero, Nat.add_zero] at h0
      rw [← h0, ih (p + 1) bs (by simpa using hl)]
      intro i hi
      have := h (i + 1) (by omega)
      simp only [List.getD_cons_succ] at this
      rw [this]; congr 1; omega

theorem readsAs_take {s : State} {a n k : Nat} {bs : List Byte} (h : ReadsAs s a n bs) (hk : k ≤ n) : ReadsAs s a k (bs.take k) := by
  refine ⟨by rw [List.length_take, h.1]; omega, fun i hi => ?_⟩
  obtain ⟨p, h1, h2, h3⟩ := h.2 i (by omega)
  refine ⟨p, h1, h2, ?_⟩
  rw [← h3]; simp [List.getD_eq_getElem?_getD, List.getElem?_take_of_lt hi]

theorem readsAs_drop {s : State} {a n k : Nat} {bs : List Byte} (h : ReadsAs s a n bs) (hk : k ≤ n) : ReadsAs s (a + k) (n - k) (bs.drop k) := by
  refine ⟨by rw [List.length_drop, h.1], fun i hi => ?_⟩
  obtain ⟨p, h1, h2, h3⟩ := h.2 (k + i) (by omega)
  rw [Nat.add_assoc]
  refine ⟨p, h1, h2, ?_⟩
  rw [← h3]; simp [List.getD_eq_getElem?_getD]

theorem readPiece_as {s : State} {ag : Agent} {a n : Nat} {bs : List Byte} (h : ReadsAs s a n bs) (hn : 0 < n) (hl : a % 64 + n ≤ 64) :
    readPiece ag a n s = (s, some bs) := by
  unfold readPiece
  obtain ⟨p, h1, h2, h3⟩ := h.2 0 hn
  rw [Nat.add_zero] at h1
  rw [h1]
  have key : ∀ i < n, s.mem.bad (p + i) = false ∧ bs.getD i 0 = s.mem.get (p + i) := by
    intro i hi
    obtain ⟨q, g1, g2, g3⟩ := h.2 i hi
    rw [resolve_line s a i (by omega), h1] at g1
    simp only [Option.map_some, Option.some.injEq] at g1
    subst g1
    exact ⟨g2, g3⟩
  have : (List.range n).find? (fun i => s.mem.bad (p + i)) = none := by
    rw [List.find?_eq_none]
    intro i hi
    rw [(key i (List.mem_range.mp hi)).1]
    decide
  simp only [this]
  rw [gets_getD s.mem p n bs h.1 (fun i hi => (key i hi).2)]

theorem readGo_as {s : State} {ag : Agent} {fuel a n : Nat} {bs : List Byte} (h : ReadsAs s a n bs) (hf : n = 0 ∨ a % 64 + n ≤ 64 * fuel) :
    readGo ag fuel a n s = (s, some bs) := by
  induction fuel generalizing a n bs with
  | zero =>
    have : n = 0 := by omega
    subst this
    rw [List.length_eq_zero_iff.mp h.1]; rfl
  | succ fuel ih =>
    unfold readGo
    by_cases hn : n = 0
    · subst hn; rw [List.length_eq_zero_iff.mp h.1]; rfl
    · rw [if_neg (by simpa using hn)]
      have hk : min n (64 - a % 64) ≤ n := Nat.min_le_left _ _
      have hk0 : 0 < min n (64 - a % 64) := by omega
      simp only [readPiece_as (readsAs_take h hk) hk0 (by omega)]
      rw [ih (readsAs_drop h hk) (by omega)]
      simp only [List.take_append_drop]

/-- Reading present, correctable locations gives their bytes and changes nothing. -/
theorem readMem_as {s : State} {ag : Agent} {a n : Nat} {bs : List Byte} (h : ReadsAs s a n bs) : readMem ag a n s = (s, some bs) := by
  unfold readMem
  exact readGo_as h (by omega)

theorem gets_length (m : Mem) (a n : Nat) : (m.gets a n).length = n := by
  induction n generalizing a with
  | zero => rfl
  | succ n ih => simp [Mem.gets, ih]

theorem gets_at (m : Mem) (a n i : Nat) (h : i < n) : (m.gets a n).getD i 0 = m.get (a + i) := by
  induction n generalizing a i with
  | zero => omega
  | succ n ih =>
    cases i with
    | zero => rfl
    | succ i =>
      simp only [Mem.gets, List.getD_cons_succ]
      rw [ih _ _ (by omega)]; congr 1; omega

theorem Plain.reads {s : State} {a n : Nat} (h : Plain s a n) : ReadsAs s a n (s.mem.gets a n) :=
  ⟨gets_length _ _ _, fun i hi => ⟨a + i, (h i hi).2.2.1, (h i hi).2.2.2, gets_at _ _ _ _ hi⟩⟩

theorem readMem_plain {s : State} {ag : Agent} {a n : Nat} (h : Plain s a n) : readMem ag a n s = (s, some (s.mem.gets a n)) :=
  readMem_as h.reads

theorem bad_word {s : State} {p : Nat} (hh : isHbm p = false) (hb : s.mem.bad p = false) : s.mem.badWords.contains (p / 8) = false := by
  unfold Mem.bad at hb; rw [hh] at hb; simpa using hb

theorem writeStore_plain {s : State} {fuel p : Nat} {bs : List Byte} (h : Plain s p bs.length) (hh : isHbm p = false)
    (hl : p % 64 + bs.length ≤ 64) (hf : p % 8 + bs.length < 8 * fuel) : writeStore fuel p bs s = poke p bs s := by
  induction fuel generalizing s p bs with
  | zero => omega
  | succ fuel ih =>
    unfold writeStore
    by_cases hn : bs = []
    · subst hn; rfl
    · have hn' : 0 < bs.length := List.length_pos_iff.mpr hn
      rw [if_neg (by simpa using hn)]
      have hb := bad_word hh (h 0 hn').2.2.2
      have hw : writeWord p (bs.take (8 - p % 8)) s = poke p (bs.take (8 - p % 8)) s := by
        unfold writeWord; rw [hb]; rfl
      simp only
      rw [hw]
      have hlen : (bs.take (8 - p % 8)).length = min (8 - p % 8) bs.length := List.length_take
      by_cases hd : bs.drop (8 - p % 8) = []
      · rw [hd]
        have ht : bs.take (8 - p % 8) = bs := by
          have := List.take_append_drop (8 - p % 8) bs
          rw [hd, List.append_nil] at this; exact this
        rw [ht]
        cases fuel <;> simp [writeStore]
      · have hlt : 8 - p % 8 < bs.length := by
          by_contra hc
          exact hd (List.drop_eq_nil_of_le (by omega))
        rw [Nat.min_eq_left (by omega)]
        rw [ih (s := poke p (bs.take (8 - p % 8)) s) (p := p + (8 - p % 8)) (bs := bs.drop (8 - p % 8)) ?_ ?_ ?_ ?_]
        · have := poke_poke p (bs.take (8 - p % 8)) (bs.drop (8 - p % 8)) s
          rw [hlen, Nat.min_eq_left (by omega), List.take_append_drop] at this
          exact this
        · rw [List.length_drop]
          exact plain_poke (plain_drop h _ (by omega)) _ _
        · rw [isHbm_line (by omega)]; exact hh
        · rw [List.length_drop]; omega
        · rw [List.length_drop]; omega

theorem writePhys_plain {s : State} {p : Nat} {bs : List Byte} (h : Plain s p bs.length) (hn : 0 < bs.length)
    (hl : p % 64 + bs.length ≤ 64) : writePhys p bs s = poke p bs s := by
  unfold writePhys
  cases hh : isHbm p with
  | true =>
    simp only [if_true]
    unfold writeHbm
    have := (h 0 hn).2.2.2
    unfold Mem.bad at this
    rw [Nat.add_zero, hh] at this
    simp only [if_true] at this
    simp only [this]
    rfl
  | false =>
    simp only [Bool.false_eq_true, if_false]
    exact writeStore_plain h hh hl (by omega)

theorem writePiece_plain {s : State} {ag : Agent} {p : Nat} {bs : List Byte} (h : Plain s p bs.length) (hn : 0 < bs.length)
    (hl : p % 64 + bs.length ≤ 64) : writePiece ag p bs s = poke p bs s := by
  unfold writePiece
  obtain ⟨h1, h2, h3, h4⟩ := h 0 hn
  rw [Nat.add_zero] at h1 h2 h3
  rw [h3]
  simp only
  have := writePhys_plain h hn hl
  cases hr : regionOf p <;> simp only [hr] at * <;> exact this

theorem writeGo_plain {s : State} {ag : Agent} {fuel p : Nat} {bs : List Byte} (h : Plain s p bs.length)
    (hf : p % 64 + bs.length < 64 * fuel) : writeGo ag fuel p bs s = poke p bs s := by
  induction fuel generalizing s p bs with
  | zero => omega
  | succ fuel ih =>
    unfold writeGo
    by_cases hn : bs = []
    · subst hn; rfl
    · have hn' : 0 < bs.length := List.length_pos_iff.mpr hn
      rw [if_neg (by simpa using hn)]
      have hlen : (bs.take (64 - p % 64)).length = min (64 - p % 64) bs.length := List.length_take
      simp only
      rw [writePiece_plain (bs := bs.take (64 - p % 64)) (fun i hi => h i (by omega)) (by omega) (by omega)]
      by_cases hlt : 64 - p % 64 < bs.length
      · rw [Nat.min_eq_left (by omega), ih ?_ ?_]
        · have := poke_poke p (bs.take (64 - p % 64)) (bs.drop (64 - p % 64)) s
          rw [hlen, Nat.min_eq_left (by omega), List.take_append_drop] at this
          exact this
        · rw [List.length_drop]; exact plain_poke (plain_drop h _ (by omega)) _ _
        · rw [List.length_drop]; omega
      · rw [List.drop_eq_nil_of_le (by omega), List.take_of_length_le (by omega)]
        cases fuel <;> simp [writeGo]

/-- Writing plain memory stores the bytes and changes nothing else. -/
theorem writeMem_plain {s : State} {ag : Agent} {a : Nat} {bs : List Byte} (h : Plain s a bs.length) :
    writeMem ag a bs s = poke a bs s := by
  unfold writeMem
  exact writeGo_plain h (by omega)

end Sys2Proof.Machine
end

