-- ==== Sys2Proof/Laws/RegAccess.lean ====
section
/-! SUPPORT. A register access: bits outside the mask stay, a whole write replaces the value, an access to a register that is there is its own put or value. -/

namespace Sys2Proof.Machine

open Sys2Proof

theorem merge_bit {w : Nat} (x : Wr) (old : BitVec w) (lo i : Nat) (hi : i < w) :
    (x.merge old lo).getLsbD i = if x.mask.getLsbD (lo + i) then x.data.getLsbD (lo + i) else old.getLsbD i := by
  unfold Wr.merge
  have h1 (y : Word) : (BitVec.ofNat w (y.toNat >>> lo)).getLsbD i = y.getLsbD (lo + i) := by
    rw [BitVec.getLsbD_ofNat]
    simp only [hi, decide_true, Bool.true_and, Nat.testBit_shiftRight]
    rfl
  simp only [BitVec.getLsbD_or, BitVec.getLsbD_and, BitVec.getLsbD_not, h1, hi, decide_true, Bool.true_and]
  cases x.mask.getLsbD (lo + i) <;> simp

theorem merge_full {w : Nat} (who : Who) (off : Nat) (v : Word) (old : BitVec w) (lo : Nat) (hw : lo + w ≤ 64) :
    ({ who := who, off := off, data := v } : Wr).merge old lo = BitVec.ofNat w (v.toNat >>> lo) := by
  apply BitVec.eq_of_getLsbD_eq
  intro i hi
  rw [merge_bit _ _ _ _ hi, BitVec.getLsbD_ofNat]
  have : (BitVec.allOnes 64).getLsbD (lo + i) = true := by rw [BitVec.getLsbD_allOnes]; simp; omega
  rw [show ({ who := who, off := off, data := v } : Wr).mask = BitVec.allOnes 64 from rfl, this, if_pos rfl]
  simp only [hi, decide_true, Bool.true_and, Nat.testBit_shiftRight]
  rfl

theorem ignore_only (x : Wr) (c : Nat) (s : State) : ignoredOnly x c s (ignoreWrite x c s) := by
  unfold ignoreWrite
  exact logEv_form _ _ _ _ _ _ _

theorem not_msix {off : Nat} (h : off < 0x02000000) : inMsix off = false ∧ inPba off = false := by
  unfold inMsix inPba
  constructor <;> (rw [Bool.and_eq_false_iff]; left; rw [decide_eq_false_iff_not]; omega)

theorem space_write {who : Who} {off size : Nat} {v : Word} {s : State} (h1 : off < 0x02000000) (h2 : inDbg off = false) :
    spaceWrite who off size v s = putReg who off size v s := by
  unfold spaceWrite
  rw [(not_msix h1).1, (not_msix h1).2, h2, Bool.or_false, if_neg (by decide), if_neg (by decide), if_neg (by simpa using h1)]

theorem put_some {who : Who} {off size : Nat} {v : Word} {s : State} {r : Reg} (h : regAt s (off / 8 * 8) = some r) :
    putReg who off size v s = rwk { who := who, off := off / 8 * 8, mask := accMask off size, data := accData off size v } r.locks r.inUse
      (r.put { who := who, off := off / 8 * 8, mask := accMask off size, data := accData off size v }) s := by
  unfold putReg
  dsimp only
  rw [h]

theorem space_read {who : Who} {off size : Nat} {s : State} {r : Reg} (h1 : off < 0x02000000) (h2 : inDbg off = false) (h : regAt s (off / 8 * 8) = some r) :
    spaceRead who off size s = if off / 8 * 8 == 0x7800 then
        ({ s with time := { s.time with fracLatch := s.time.frac } }, accPart off size r.val)
      else (s, accPart off size r.val) := by
  unfold spaceRead
  have e : ¬ 0x02000000 ≤ off := by omega
  dsimp only
  rw [(not_msix h1).1, (not_msix h1).2, if_neg (by decide), if_neg (by decide), if_neg e, h2, if_neg (by simp; omega), h]
  dsimp only
  rw [if_neg e]

theorem space_put {who : Who} {off : Nat} {v : Word} {s : State} {r : Reg} (h1 : off < 0x02000000) (h2 : inDbg off = false) (h8 : off % 8 = 0)
    (hr : regAt s off = some r) (hu : r.inUse = false ∨ r.locks = []) : spaceWrite who off 8 v s = r.put { who := who, off := off, data := v } s := by
  have h3 : off / 8 * 8 = off := by omega
  rw [space_write h1 h2, put_some (by rw [h3]; exact hr)]
  unfold rwk
  have : (r.inUse && r.locks.any fun (hi, lo) => (Wr.mk who (off / 8 * 8) (accMask off 8) (accData off 8 v)).touches hi lo) = false := by
    rcases hu with hu | hu <;> rw [hu] <;> simp
  rw [this, if_neg (by decide), h3]
  rfl

end Sys2Proof.Machine
end

