-- ==== Sys2Proof/Laws/State.lean ====
section
/-! SUPPORT. One lemma for each field of the state that each update of one unit leaves, so that no proof unfolds a record update. -/

namespace Sys2Proof.Machine

open Sys2Proof

@[simp] theorem modThl_pending (n : Nat) (f : Thallus → Thallus) (s : State) : (modThl n f s).pending = s.pending := rfl
@[simp] theorem modThl_part (n : Nat) (f : Thallus → Thallus) (s : State) : (modThl n f s).part = s.part := rfl
@[simp] theorem modThl_pins (n : Nat) (f : Thallus → Thallus) (s : State) : (modThl n f s).pins = s.pins := rfl
@[simp] theorem modThl_rst (n : Nat) (f : Thallus → Thallus) (s : State) : (modThl n f s).rst = s.rst := rfl
@[simp] theorem modThl_refclkLost (n : Nat) (f : Thallus → Thallus) (s : State) : (modThl n f s).refclkLost = s.refclkLost := rfl
@[simp] theorem modThl_caps (n : Nat) (f : Thallus → Thallus) (s : State) : (modThl n f s).caps = s.caps := rfl
@[simp] theorem modThl_time (n : Nat) (f : Thallus → Thallus) (s : State) : (modThl n f s).time = s.time := rfl
@[simp] theorem modThl_trate (n : Nat) (f : Thallus → Thallus) (s : State) : (modThl n f s).trate = s.trate := rfl
@[simp] theorem modThl_mem (n : Nat) (f : Thallus → Thallus) (s : State) : (modThl n f s).mem = s.mem := rfl
@[simp] theorem modThl_hbm (n : Nat) (f : Thallus → Thallus) (s : State) : (modThl n f s).hbm = s.hbm := rfl
@[simp] theorem modThl_scrubPeriod (n : Nat) (f : Thallus → Thallus) (s : State) : (modThl n f s).scrubPeriod = s.scrubPeriod := rfl
@[simp] theorem modThl_gov (n : Nat) (f : Thallus → Thallus) (s : State) : (modThl n f s).gov = s.gov := rfl
@[simp] theorem modThl_rdx (n : Nat) (f : Thallus → Thallus) (s : State) : (modThl n f s).rdx = s.rdx := rfl
@[simp] theorem modThl_cmt (n : Nat) (f : Thallus → Thallus) (s : State) : (modThl n f s).cmt = s.cmt := rfl
@[simp] theorem modThl_crun (n : Nat) (f : Thallus → Thallus) (s : State) : (modThl n f s).crun = s.crun := rfl
@[simp] theorem modThl_win (n : Nat) (f : Thallus → Thallus) (s : State) : (modThl n f s).win = s.win := rfl
@[simp] theorem modThl_snap (n : Nat) (f : Thallus → Thallus) (s : State) : (modThl n f s).snap = s.snap := rfl
@[simp] theorem modThl_srun (n : Nat) (f : Thallus → Thallus) (s : State) : (modThl n f s).srun = s.srun := rfl
@[simp] theorem modThl_lnk (n : Nat) (f : Thallus → Thallus) (s : State) : (modThl n f s).lnk = s.lnk := rfl
@[simp] theorem modThl_pci (n : Nat) (f : Thallus → Thallus) (s : State) : (modThl n f s).pci = s.pci := rfl
@[simp] theorem modThl_port (n : Nat) (f : Thallus → Thallus) (s : State) : (modThl n f s).port = s.port := rfl
@[simp] theorem modThl_log (n : Nat) (f : Thallus → Thallus) (s : State) : (modThl n f s).log = s.log := rfl
@[simp] theorem modThl_pwr (n : Nat) (f : Thallus → Thallus) (s : State) : (modThl n f s).pwr = s.pwr := rfl
@[simp] theorem modThl_prun (n : Nat) (f : Thallus → Thallus) (s : State) : (modThl n f s).prun = s.prun := rfl
@[simp] theorem modThl_sec (n : Nat) (f : Thallus → Thallus) (s : State) : (modThl n f s).sec = s.sec := rfl
@[simp] theorem modThl_dbg (n : Nat) (f : Thallus → Thallus) (s : State) : (modThl n f s).dbg = s.dbg := rfl
@[simp] theorem modThl_bist (n : Nat) (f : Thallus → Thallus) (s : State) : (modThl n f s).bist = s.bist := rfl
@[simp] theorem modThl_reg (n : Nat) (f : Thallus → Thallus) (s : State) : (modThl n f s).reg = s.reg := rfl
@[simp] theorem modThl_nonce (n : Nat) (f : Thallus → Thallus) (s : State) : (modThl n f s).nonce = s.nonce := rfl
@[simp] theorem modThl_out (n : Nat) (f : Thallus → Thallus) (s : State) : (modThl n f s).out = s.out := rfl
@[simp] theorem modStrm_pending (n q : Nat) (f : Stream → Stream) (s : State) : (modStrm n q f s).pending = s.pending := rfl
@[simp] theorem modStrm_part (n q : Nat) (f : Stream → Stream) (s : State) : (modStrm n q f s).part = s.part := rfl
@[simp] theorem modStrm_pins (n q : Nat) (f : Stream → Stream) (s : State) : (modStrm n q f s).pins = s.pins := rfl
@[simp] theorem modStrm_rst (n q : Nat) (f : Stream → Stream) (s : State) : (modStrm n q f s).rst = s.rst := rfl
@[simp] theorem modStrm_refclkLost (n q : Nat) (f : Stream → Stream) (s : State) : (modStrm n q f s).refclkLost = s.refclkLost := rfl
@[simp] theorem modStrm_caps (n q : Nat) (f : Stream → Stream) (s : State) : (modStrm n q f s).caps = s.caps := rfl
@[simp] theorem modStrm_time (n q : Nat) (f : Stream → Stream) (s : State) : (modStrm n q f s).time = s.time := rfl
@[simp] theorem modStrm_trate (n q : Nat) (f : Stream → Stream) (s : State) : (modStrm n q f s).trate = s.trate := rfl
@[simp] theorem modStrm_mem (n q : Nat) (f : Stream → Stream) (s : State) : (modStrm n q f s).mem = s.mem := rfl
@[simp] theorem modStrm_hbm (n q : Nat) (f : Stream → Stream) (s : State) : (modStrm n q f s).hbm = s.hbm := rfl
@[simp] theorem modStrm_scrubPeriod (n q : Nat) (f : Stream → Stream) (s : State) : (modStrm n q f s).scrubPeriod = s.scrubPeriod := rfl
@[simp] theorem modStrm_gov (n q : Nat) (f : Stream → Stream) (s : State) : (modStrm n q f s).gov = s.gov := rfl
@[simp] theorem modStrm_rdx (n q : Nat) (f : Stream → Stream) (s : State) : (modStrm n q f s).rdx = s.rdx := rfl
@[simp] theorem modStrm_cmt (n q : Nat) (f : Stream → Stream) (s : State) : (modStrm n q f s).cmt = s.cmt := rfl
@[simp] theorem modStrm_crun (n q : Nat) (f : Stream → Stream) (s : State) : (modStrm n q f s).crun = s.crun := rfl
@[simp] theorem modStrm_win (n q : Nat) (f : Stream → Stream) (s : State) : (modStrm n q f s).win = s.win := rfl
@[simp] theorem modStrm_snap (n q : Nat) (f : Stream → Stream) (s : State) : (modStrm n q f s).snap = s.snap := rfl
@[simp] theorem modStrm_srun (n q : Nat) (f : Stream → Stream) (s : State) : (modStrm n q f s).srun = s.srun := rfl
@[simp] theorem modStrm_lnk (n q : Nat) (f : Stream → Stream) (s : State) : (modStrm n q f s).lnk = s.lnk := rfl
@[simp] theorem modStrm_pci (n q : Nat) (f : Stream → Stream) (s : State) : (modStrm n q f s).pci = s.pci := rfl
@[simp] theorem modStrm_port (n q : Nat) (f : Stream → Stream) (s : State) : (modStrm n q f s).port = s.port := rfl
@[simp] theorem modStrm_log (n q : Nat) (f : Stream → Stream) (s : State) : (modStrm n q f s).log = s.log := rfl
@[simp] theorem modStrm_pwr (n q : Nat) (f : Stream → Stream) (s : State) : (modStrm n q f s).pwr = s.pwr := rfl
@[simp] theorem modStrm_prun (n q : Nat) (f : Stream → Stream) (s : State) : (modStrm n q f s).prun = s.prun := rfl
@[simp] theorem modStrm_sec (n q : Nat) (f : Stream → Stream) (s : State) : (modStrm n q f s).sec = s.sec := rfl
@[simp] theorem modStrm_dbg (n q : Nat) (f : Stream → Stream) (s : State) : (modStrm n q f s).dbg = s.dbg := rfl
@[simp] theorem modStrm_bist (n q : Nat) (f : Stream → Stream) (s : State) : (modStrm n q f s).bist = s.bist := rfl
@[simp] theorem modStrm_reg (n q : Nat) (f : Stream → Stream) (s : State) : (modStrm n q f s).reg = s.reg := rfl
@[simp] theorem modStrm_nonce (n q : Nat) (f : Stream → Stream) (s : State) : (modStrm n q f s).nonce = s.nonce := rfl
@[simp] theorem modStrm_out (n q : Nat) (f : Stream → Stream) (s : State) : (modStrm n q f s).out = s.out := rfl
@[simp] theorem modEng_pending (n m : Nat) (f : Engine → Engine) (s : State) : (modEng n m f s).pending = s.pending := rfl
@[simp] theorem modEng_part (n m : Nat) (f : Engine → Engine) (s : State) : (modEng n m f s).part = s.part := rfl
@[simp] theorem modEng_pins (n m : Nat) (f : Engine → Engine) (s : State) : (modEng n m f s).pins = s.pins := rfl
@[simp] theorem modEng_rst (n m : Nat) (f : Engine → Engine) (s : State) : (modEng n m f s).rst = s.rst := rfl
@[simp] theorem modEng_refclkLost (n m : Nat) (f : Engine → Engine) (s : State) : (modEng n m f s).refclkLost = s.refclkLost := rfl
@[simp] theorem modEng_caps (n m : Nat) (f : Engine → Engine) (s : State) : (modEng n m f s).caps = s.caps := rfl
@[simp] theorem modEng_time (n m : Nat) (f : Engine → Engine) (s : State) : (modEng n m f s).time = s.time := rfl
@[simp] theorem modEng_trate (n m : Nat) (f : Engine → Engine) (s : State) : (modEng n m f s).trate = s.trate := rfl
@[simp] theorem modEng_mem (n m : Nat) (f : Engine → Engine) (s : State) : (modEng n m f s).mem = s.mem := rfl
@[simp] theorem modEng_hbm (n m : Nat) (f : Engine → Engine) (s : State) : (modEng n m f s).hbm = s.hbm := rfl
@[simp] theorem modEng_scrubPeriod (n m : Nat) (f : Engine → Engine) (s : State) : (modEng n m f s).scrubPeriod = s.scrubPeriod := rfl
@[simp] theorem modEng_gov (n m : Nat) (f : Engine → Engine) (s : State) : (modEng n m f s).gov = s.gov := rfl
@[simp] theorem modEng_rdx (n m : Nat) (f : Engine → Engine) (s : State) : (modEng n m f s).rdx = s.rdx := rfl
@[simp] theorem modEng_cmt (n m : Nat) (f : Engine → Engine) (s : State) : (modEng n m f s).cmt = s.cmt := rfl
@[simp] theorem modEng_crun (n m : Nat) (f : Engine → Engine) (s : State) : (modEng n m f s).crun = s.crun := rfl
@[simp] theorem modEng_win (n m : Nat) (f : Engine → Engine) (s : State) : (modEng n m f s).win = s.win := rfl
@[simp] theorem modEng_snap (n m : Nat) (f : Engine → Engine) (s : State) : (modEng n m f s).snap = s.snap := rfl
@[simp] theorem modEng_srun (n m : Nat) (f : Engine → Engine) (s : State) : (modEng n m f s).srun = s.srun := rfl
@[simp] theorem modEng_lnk (n m : Nat) (f : Engine → Engine) (s : State) : (modEng n m f s).lnk = s.lnk := rfl
@[simp] theorem modEng_pci (n m : Nat) (f : Engine → Engine) (s : State) : (modEng n m f s).pci = s.pci := rfl
@[simp] theorem modEng_port (n m : Nat) (f : Engine → Engine) (s : State) : (modEng n m f s).port = s.port := rfl
@[simp] theorem modEng_log (n m : Nat) (f : Engine → Engine) (s : State) : (modEng n m f s).log = s.log := rfl
@[simp] theorem modEng_pwr (n m : Nat) (f : Engine → Engine) (s : State) : (modEng n m f s).pwr = s.pwr := rfl
@[simp] theorem modEng_prun (n m : Nat) (f : Engine → Engine) (s : State) : (modEng n m f s).prun = s.prun := rfl
@[simp] theorem modEng_sec (n m : Nat) (f : Engine → Engine) (s : State) : (modEng n m f s).sec = s.sec := rfl
@[simp] theorem modEng_dbg (n m : Nat) (f : Engine → Engine) (s : State) : (modEng n m f s).dbg = s.dbg := rfl
@[simp] theorem modEng_bist (n m : Nat) (f : Engine → Engine) (s : State) : (modEng n m f s).bist = s.bist := rfl
@[simp] theorem modEng_reg (n m : Nat) (f : Engine → Engine) (s : State) : (modEng n m f s).reg = s.reg := rfl
@[simp] theorem modEng_nonce (n m : Nat) (f : Engine → Engine) (s : State) : (modEng n m f s).nonce = s.nonce := rfl
@[simp] theorem modEng_out (n m : Nat) (f : Engine → Engine) (s : State) : (modEng n m f s).out = s.out := rfl
@[simp] theorem modCore_pending (n c : Nat) (f : Core → Core) (s : State) : (modCore n c f s).pending = s.pending := rfl
@[simp] theorem modCore_part (n c : Nat) (f : Core → Core) (s : State) : (modCore n c f s).part = s.part := rfl
@[simp] theorem modCore_pins (n c : Nat) (f : Core → Core) (s : State) : (modCore n c f s).pins = s.pins := rfl
@[simp] theorem modCore_rst (n c : Nat) (f : Core → Core) (s : State) : (modCore n c f s).rst = s.rst := rfl
@[simp] theorem modCore_refclkLost (n c : Nat) (f : Core → Core) (s : State) : (modCore n c f s).refclkLost = s.refclkLost := rfl
@[simp] theorem modCore_caps (n c : Nat) (f : Core → Core) (s : State) : (modCore n c f s).caps = s.caps := rfl
@[simp] theorem modCore_time (n c : Nat) (f : Core → Core) (s : State) : (modCore n c f s).time = s.time := rfl
@[simp] theorem modCore_trate (n c : Nat) (f : Core → Core) (s : State) : (modCore n c f s).trate = s.trate := rfl
@[simp] theorem modCore_mem (n c : Nat) (f : Core → Core) (s : State) : (modCore n c f s).mem = s.mem := rfl
@[simp] theorem modCore_hbm (n c : Nat) (f : Core → Core) (s : State) : (modCore n c f s).hbm = s.hbm := rfl
@[simp] theorem modCore_scrubPeriod (n c : Nat) (f : Core → Core) (s : State) : (modCore n c f s).scrubPeriod = s.scrubPeriod := rfl
@[simp] theorem modCore_gov (n c : Nat) (f : Core → Core) (s : State) : (modCore n c f s).gov = s.gov := rfl
@[simp] theorem modCore_rdx (n c : Nat) (f : Core → Core) (s : State) : (modCore n c f s).rdx = s.rdx := rfl
@[simp] theorem modCore_cmt (n c : Nat) (f : Core → Core) (s : State) : (modCore n c f s).cmt = s.cmt := rfl
@[simp] theorem modCore_crun (n c : Nat) (f : Core → Core) (s : State) : (modCore n c f s).crun = s.crun := rfl
@[simp] theorem modCore_win (n c : Nat) (f : Core → Core) (s : State) : (modCore n c f s).win = s.win := rfl
@[simp] theorem modCore_snap (n c : Nat) (f : Core → Core) (s : State) : (modCore n c f s).snap = s.snap := rfl
@[simp] theorem modCore_srun (n c : Nat) (f : Core → Core) (s : State) : (modCore n c f s).srun = s.srun := rfl
@[simp] theorem modCore_lnk (n c : Nat) (f : Core → Core) (s : State) : (modCore n c f s).lnk = s.lnk := rfl
@[simp] theorem modCore_pci (n c : Nat) (f : Core → Core) (s : State) : (modCore n c f s).pci = s.pci := rfl
@[simp] theorem modCore_port (n c : Nat) (f : Core → Core) (s : State) : (modCore n c f s).port = s.port := rfl
@[simp] theorem modCore_log (n c : Nat) (f : Core → Core) (s : State) : (modCore n c f s).log = s.log := rfl
@[simp] theorem modCore_pwr (n c : Nat) (f : Core → Core) (s : State) : (modCore n c f s).pwr = s.pwr := rfl
@[simp] theorem modCore_prun (n c : Nat) (f : Core → Core) (s : State) : (modCore n c f s).prun = s.prun := rfl
@[simp] theorem modCore_sec (n c : Nat) (f : Core → Core) (s : State) : (modCore n c f s).sec = s.sec := rfl
@[simp] theorem modCore_dbg (n c : Nat) (f : Core → Core) (s : State) : (modCore n c f s).dbg = s.dbg := rfl
@[simp] theorem modCore_bist (n c : Nat) (f : Core → Core) (s : State) : (modCore n c f s).bist = s.bist := rfl
@[simp] theorem modCore_reg (n c : Nat) (f : Core → Core) (s : State) : (modCore n c f s).reg = s.reg := rfl
@[simp] theorem modCore_nonce (n c : Nat) (f : Core → Core) (s : State) : (modCore n c f s).nonce = s.nonce := rfl
@[simp] theorem modCore_out (n c : Nat) (f : Core → Core) (s : State) : (modCore n c f s).out = s.out := rfl
@[simp] theorem modFrond_pending (n m k : Nat) (f : Frond → Frond) (s : State) : (modFrond n m k f s).pending = s.pending := rfl
@[simp] theorem modFrond_part (n m k : Nat) (f : Frond → Frond) (s : State) : (modFrond n m k f s).part = s.part := rfl
@[simp] theorem modFrond_pins (n m k : Nat) (f : Frond → Frond) (s : State) : (modFrond n m k f s).pins = s.pins := rfl
@[simp] theorem modFrond_rst (n m k : Nat) (f : Frond → Frond) (s : State) : (modFrond n m k f s).rst = s.rst := rfl
@[simp] theorem modFrond_refclkLost (n m k : Nat) (f : Frond → Frond) (s : State) : (modFrond n m k f s).refclkLost = s.refclkLost := rfl
@[simp] theorem modFrond_caps (n m k : Nat) (f : Frond → Frond) (s : State) : (modFrond n m k f s).caps = s.caps := rfl
@[simp] theorem modFrond_time (n m k : Nat) (f : Frond → Frond) (s : State) : (modFrond n m k f s).time = s.time := rfl
@[simp] theorem modFrond_trate (n m k : Nat) (f : Frond → Frond) (s : State) : (modFrond n m k f s).trate = s.trate := rfl
@[simp] theorem modFrond_mem (n m k : Nat) (f : Frond → Frond) (s : State) : (modFrond n m k f s).mem = s.mem := rfl
@[simp] theorem modFrond_hbm (n m k : Nat) (f : Frond → Frond) (s : State) : (modFrond n m k f s).hbm = s.hbm := rfl
@[simp] theorem modFrond_scrubPeriod (n m k : Nat) (f : Frond → Frond) (s : State) : (modFrond n m k f s).scrubPeriod = s.scrubPeriod := rfl
@[simp] theorem modFrond_gov (n m k : Nat) (f : Frond → Frond) (s : State) : (modFrond n m k f s).gov = s.gov := rfl
@[simp] theorem modFrond_rdx (n m k : Nat) (f : Frond → Frond) (s : State) : (modFrond n m k f s).rdx = s.rdx := rfl
@[simp] theorem modFrond_cmt (n m k : Nat) (f : Frond → Frond) (s : State) : (modFrond n m k f s).cmt = s.cmt := rfl
@[simp] theorem modFrond_crun (n m k : Nat) (f : Frond → Frond) (s : State) : (modFrond n m k f s).crun = s.crun := rfl
@[simp] theorem modFrond_win (n m k : Nat) (f : Frond → Frond) (s : State) : (modFrond n m k f s).win = s.win := rfl
@[simp] theorem modFrond_snap (n m k : Nat) (f : Frond → Frond) (s : State) : (modFrond n m k f s).snap = s.snap := rfl
@[simp] theorem modFrond_srun (n m k : Nat) (f : Frond → Frond) (s : State) : (modFrond n m k f s).srun = s.srun := rfl
@[simp] theorem modFrond_lnk (n m k : Nat) (f : Frond → Frond) (s : State) : (modFrond n m k f s).lnk = s.lnk := rfl
@[simp] theorem modFrond_pci (n m k : Nat) (f : Frond → Frond) (s : State) : (modFrond n m k f s).pci = s.pci := rfl
@[simp] theorem modFrond_port (n m k : Nat) (f : Frond → Frond) (s : State) : (modFrond n m k f s).port = s.port := rfl
@[simp] theorem modFrond_log (n m k : Nat) (f : Frond → Frond) (s : State) : (modFrond n m k f s).log = s.log := rfl
@[simp] theorem modFrond_pwr (n m k : Nat) (f : Frond → Frond) (s : State) : (modFrond n m k f s).pwr = s.pwr := rfl
@[simp] theorem modFrond_prun (n m k : Nat) (f : Frond → Frond) (s : State) : (modFrond n m k f s).prun = s.prun := rfl
@[simp] theorem modFrond_sec (n m k : Nat) (f : Frond → Frond) (s : State) : (modFrond n m k f s).sec = s.sec := rfl
@[simp] theorem modFrond_dbg (n m k : Nat) (f : Frond → Frond) (s : State) : (modFrond n m k f s).dbg = s.dbg := rfl
@[simp] theorem modFrond_bist (n m k : Nat) (f : Frond → Frond) (s : State) : (modFrond n m k f s).bist = s.bist := rfl
@[simp] theorem modFrond_reg (n m k : Nat) (f : Frond → Frond) (s : State) : (modFrond n m k f s).reg = s.reg := rfl
@[simp] theorem modFrond_nonce (n m k : Nat) (f : Frond → Frond) (s : State) : (modFrond n m k f s).nonce = s.nonce := rfl
@[simp] theorem modFrond_out (n m k : Nat) (f : Frond → Frond) (s : State) : (modFrond n m k f s).out = s.out := rfl
@[simp] theorem modDma_pending (n ch : Nat) (f : List DmaEntry → List DmaEntry) (s : State) : (modDma n ch f s).pending = s.pending := rfl
@[simp] theorem modDma_part (n ch : Nat) (f : List DmaEntry → List DmaEntry) (s : State) : (modDma n ch f s).part = s.part := rfl
@[simp] theorem modDma_pins (n ch : Nat) (f : List DmaEntry → List DmaEntry) (s : State) : (modDma n ch f s).pins = s.pins := rfl
@[simp] theorem modDma_rst (n ch : Nat) (f : List DmaEntry → List DmaEntry) (s : State) : (modDma n ch f s).rst = s.rst := rfl
@[simp] theorem modDma_refclkLost (n ch : Nat) (f : List DmaEntry → List DmaEntry) (s : State) : (modDma n ch f s).refclkLost = s.refclkLost := rfl
@[simp] theorem modDma_caps (n ch : Nat) (f : List DmaEntry → List DmaEntry) (s : State) : (modDma n ch f s).caps = s.caps := rfl
@[simp] theorem modDma_time (n ch : Nat) (f : List DmaEntry → List DmaEntry) (s : State) : (modDma n ch f s).time = s.time := rfl
@[simp] theorem modDma_trate (n ch : Nat) (f : List DmaEntry → List DmaEntry) (s : State) : (modDma n ch f s).trate = s.trate := rfl
@[simp] theorem modDma_mem (n ch : Nat) (f : List DmaEntry → List DmaEntry) (s : State) : (modDma n ch f s).mem = s.mem := rfl
@[simp] theorem modDma_hbm (n ch : Nat) (f : List DmaEntry → List DmaEntry) (s : State) : (modDma n ch f s).hbm = s.hbm := rfl
@[simp] theorem modDma_scrubPeriod (n ch : Nat) (f : List DmaEntry → List DmaEntry) (s : State) : (modDma n ch f s).scrubPeriod = s.scrubPeriod := rfl
@[simp] theorem modDma_gov (n ch : Nat) (f : List DmaEntry → List DmaEntry) (s : State) : (modDma n ch f s).gov = s.gov := rfl
@[simp] theorem modDma_rdx (n ch : Nat) (f : List DmaEntry → List DmaEntry) (s : State) : (modDma n ch f s).rdx = s.rdx := rfl
@[simp] theorem modDma_cmt (n ch : Nat) (f : List DmaEntry → List DmaEntry) (s : State) : (modDma n ch f s).cmt = s.cmt := rfl
@[simp] theorem modDma_crun (n ch : Nat) (f : List DmaEntry → List DmaEntry) (s : State) : (modDma n ch f s).crun = s.crun := rfl
@[simp] theorem modDma_win (n ch : Nat) (f : List DmaEntry → List DmaEntry) (s : State) : (modDma n ch f s).win = s.win := rfl
@[simp] theorem modDma_snap (n ch : Nat) (f : List DmaEntry → List DmaEntry) (s : State) : (modDma n ch f s).snap = s.snap := rfl
@[simp] theorem modDma_srun (n ch : Nat) (f : List DmaEntry → List DmaEntry) (s : State) : (modDma n ch f s).srun = s.srun := rfl
@[simp] theorem modDma_lnk (n ch : Nat) (f : List DmaEntry → List DmaEntry) (s : State) : (modDma n ch f s).lnk = s.lnk := rfl
@[simp] theorem modDma_pci (n ch : Nat) (f : List DmaEntry → List DmaEntry) (s : State) : (modDma n ch f s).pci = s.pci := rfl
@[simp] theorem modDma_port (n ch : Nat) (f : List DmaEntry → List DmaEntry) (s : State) : (modDma n ch f s).port = s.port := rfl
@[simp] theorem modDma_log (n ch : Nat) (f : List DmaEntry → List DmaEntry) (s : State) : (modDma n ch f s).log = s.log := rfl
@[simp] theorem modDma_pwr (n ch : Nat) (f : List DmaEntry → List DmaEntry) (s : State) : (modDma n ch f s).pwr = s.pwr := rfl
@[simp] theorem modDma_prun (n ch : Nat) (f : List DmaEntry → List DmaEntry) (s : State) : (modDma n ch f s).prun = s.prun := rfl
@[simp] theorem modDma_sec (n ch : Nat) (f : List DmaEntry → List DmaEntry) (s : State) : (modDma n ch f s).sec = s.sec := rfl
@[simp] theorem modDma_dbg (n ch : Nat) (f : List DmaEntry → List DmaEntry) (s : State) : (modDma n ch f s).dbg = s.dbg := rfl
@[simp] theorem modDma_bist (n ch : Nat) (f : List DmaEntry → List DmaEntry) (s : State) : (modDma n ch f s).bist = s.bist := rfl
@[simp] theorem modDma_reg (n ch : Nat) (f : List DmaEntry → List DmaEntry) (s : State) : (modDma n ch f s).reg = s.reg := rfl
@[simp] theorem modDma_nonce (n ch : Nat) (f : List DmaEntry → List DmaEntry) (s : State) : (modDma n ch f s).nonce = s.nonce := rfl
@[simp] theorem modDma_out (n ch : Nat) (f : List DmaEntry → List DmaEntry) (s : State) : (modDma n ch f s).out = s.out := rfl
@[simp] theorem modLink_pending (l : Nat) (f : Link → Link) (s : State) : (modLink l f s).pending = s.pending := rfl
@[simp] theorem modLink_part (l : Nat) (f : Link → Link) (s : State) : (modLink l f s).part = s.part := rfl
@[simp] theorem modLink_pins (l : Nat) (f : Link → Link) (s : State) : (modLink l f s).pins = s.pins := rfl
@[simp] theorem modLink_rst (l : Nat) (f : Link → Link) (s : State) : (modLink l f s).rst = s.rst := rfl
@[simp] theorem modLink_refclkLost (l : Nat) (f : Link → Link) (s : State) : (modLink l f s).refclkLost = s.refclkLost := rfl
@[simp] theorem modLink_caps (l : Nat) (f : Link → Link) (s : State) : (modLink l f s).caps = s.caps := rfl
@[simp] theorem modLink_time (l : Nat) (f : Link → Link) (s : State) : (modLink l f s).time = s.time := rfl
@[simp] theorem modLink_trate (l : Nat) (f : Link → Link) (s : State) : (modLink l f s).trate = s.trate := rfl
@[simp] theorem modLink_mem (l : Nat) (f : Link → Link) (s : State) : (modLink l f s).mem = s.mem := rfl
@[simp] theorem modLink_hbm (l : Nat) (f : Link → Link) (s : State) : (modLink l f s).hbm = s.hbm := rfl
@[simp] theorem modLink_scrubPeriod (l : Nat) (f : Link → Link) (s : State) : (modLink l f s).scrubPeriod = s.scrubPeriod := rfl
@[simp] theorem modLink_thl (l : Nat) (f : Link → Link) (s : State) : (modLink l f s).thl = s.thl := rfl
@[simp] theorem modLink_gov (l : Nat) (f : Link → Link) (s : State) : (modLink l f s).gov = s.gov := rfl
@[simp] theorem modLink_rdx (l : Nat) (f : Link → Link) (s : State) : (modLink l f s).rdx = s.rdx := rfl
@[simp] theorem modLink_cmt (l : Nat) (f : Link → Link) (s : State) : (modLink l f s).cmt = s.cmt := rfl
@[simp] theorem modLink_crun (l : Nat) (f : Link → Link) (s : State) : (modLink l f s).crun = s.crun := rfl
@[simp] theorem modLink_win (l : Nat) (f : Link → Link) (s : State) : (modLink l f s).win = s.win := rfl
@[simp] theorem modLink_snap (l : Nat) (f : Link → Link) (s : State) : (modLink l f s).snap = s.snap := rfl
@[simp] theorem modLink_srun (l : Nat) (f : Link → Link) (s : State) : (modLink l f s).srun = s.srun := rfl
@[simp] theorem modLink_pci (l : Nat) (f : Link → Link) (s : State) : (modLink l f s).pci = s.pci := rfl
@[simp] theorem modLink_port (l : Nat) (f : Link → Link) (s : State) : (modLink l f s).port = s.port := rfl
@[simp] theorem modLink_log (l : Nat) (f : Link → Link) (s : State) : (modLink l f s).log = s.log := rfl
@[simp] theorem modLink_pwr (l : Nat) (f : Link → Link) (s : State) : (modLink l f s).pwr = s.pwr := rfl
@[simp] theorem modLink_prun (l : Nat) (f : Link → Link) (s : State) : (modLink l f s).prun = s.prun := rfl
@[simp] theorem modLink_sec (l : Nat) (f : Link → Link) (s : State) : (modLink l f s).sec = s.sec := rfl
@[simp] theorem modLink_dbg (l : Nat) (f : Link → Link) (s : State) : (modLink l f s).dbg = s.dbg := rfl
@[simp] theorem modLink_bist (l : Nat) (f : Link → Link) (s : State) : (modLink l f s).bist = s.bist := rfl
@[simp] theorem modLink_reg (l : Nat) (f : Link → Link) (s : State) : (modLink l f s).reg = s.reg := rfl
@[simp] theorem modLink_nonce (l : Nat) (f : Link → Link) (s : State) : (modLink l f s).nonce = s.nonce := rfl
@[simp] theorem modLink_out (l : Nat) (f : Link → Link) (s : State) : (modLink l f s).out = s.out := rfl
@[simp] theorem modBkt_pending (b : Nat) (f : Bkt → Bkt) (s : State) : (modBkt b f s).pending = s.pending := rfl
@[simp] theorem modBkt_part (b : Nat) (f : Bkt → Bkt) (s : State) : (modBkt b f s).part = s.part := rfl
@[simp] theorem modBkt_pins (b : Nat) (f : Bkt → Bkt) (s : State) : (modBkt b f s).pins = s.pins := rfl
@[simp] theorem modBkt_rst (b : Nat) (f : Bkt → Bkt) (s : State) : (modBkt b f s).rst = s.rst := rfl
@[simp] theorem modBkt_refclkLost (b : Nat) (f : Bkt → Bkt) (s : State) : (modBkt b f s).refclkLost = s.refclkLost := rfl
@[simp] theorem modBkt_caps (b : Nat) (f : Bkt → Bkt) (s : State) : (modBkt b f s).caps = s.caps := rfl
@[simp] theorem modBkt_time (b : Nat) (f : Bkt → Bkt) (s : State) : (modBkt b f s).time = s.time := rfl
@[simp] theorem modBkt_trate (b : Nat) (f : Bkt → Bkt) (s : State) : (modBkt b f s).trate = s.trate := rfl
@[simp] theorem modBkt_mem (b : Nat) (f : Bkt → Bkt) (s : State) : (modBkt b f s).mem = s.mem := rfl
@[simp] theorem modBkt_hbm (b : Nat) (f : Bkt → Bkt) (s : State) : (modBkt b f s).hbm = s.hbm := rfl
@[simp] theorem modBkt_scrubPeriod (b : Nat) (f : Bkt → Bkt) (s : State) : (modBkt b f s).scrubPeriod = s.scrubPeriod := rfl
@[simp] theorem modBkt_thl (b : Nat) (f : Bkt → Bkt) (s : State) : (modBkt b f s).thl = s.thl := rfl
@[simp] theorem modBkt_gov (b : Nat) (f : Bkt → Bkt) (s : State) : (modBkt b f s).gov = s.gov := rfl
@[simp] theorem modBkt_cmt (b : Nat) (f : Bkt → Bkt) (s : State) : (modBkt b f s).cmt = s.cmt := rfl
@[simp] theorem modBkt_crun (b : Nat) (f : Bkt → Bkt) (s : State) : (modBkt b f s).crun = s.crun := rfl
@[simp] theorem modBkt_win (b : Nat) (f : Bkt → Bkt) (s : State) : (modBkt b f s).win = s.win := rfl
@[simp] theorem modBkt_snap (b : Nat) (f : Bkt → Bkt) (s : State) : (modBkt b f s).snap = s.snap := rfl
@[simp] theorem modBkt_srun (b : Nat) (f : Bkt → Bkt) (s : State) : (modBkt b f s).srun = s.srun := rfl
@[simp] theorem modBkt_lnk (b : Nat) (f : Bkt → Bkt) (s : State) : (modBkt b f s).lnk = s.lnk := rfl
@[simp] theorem modBkt_pci (b : Nat) (f : Bkt → Bkt) (s : State) : (modBkt b f s).pci = s.pci := rfl
@[simp] theorem modBkt_port (b : Nat) (f : Bkt → Bkt) (s : State) : (modBkt b f s).port = s.port := rfl
@[simp] theorem modBkt_log (b : Nat) (f : Bkt → Bkt) (s : State) : (modBkt b f s).log = s.log := rfl
@[simp] theorem modBkt_pwr (b : Nat) (f : Bkt → Bkt) (s : State) : (modBkt b f s).pwr = s.pwr := rfl
@[simp] theorem modBkt_prun (b : Nat) (f : Bkt → Bkt) (s : State) : (modBkt b f s).prun = s.prun := rfl
@[simp] theorem modBkt_sec (b : Nat) (f : Bkt → Bkt) (s : State) : (modBkt b f s).sec = s.sec := rfl
@[simp] theorem modBkt_dbg (b : Nat) (f : Bkt → Bkt) (s : State) : (modBkt b f s).dbg = s.dbg := rfl
@[simp] theorem modBkt_bist (b : Nat) (f : Bkt → Bkt) (s : State) : (modBkt b f s).bist = s.bist := rfl
@[simp] theorem modBkt_reg (b : Nat) (f : Bkt → Bkt) (s : State) : (modBkt b f s).reg = s.reg := rfl
@[simp] theorem modBkt_nonce (b : Nat) (f : Bkt → Bkt) (s : State) : (modBkt b f s).nonce = s.nonce := rfl
@[simp] theorem modBkt_out (b : Nat) (f : Bkt → Bkt) (s : State) : (modBkt b f s).out = s.out := rfl
@[simp] theorem modPci_pending (f : Pci → Pci) (s : State) : (modPci f s).pending = s.pending := rfl
@[simp] theorem modPci_part (f : Pci → Pci) (s : State) : (modPci f s).part = s.part := rfl
@[simp] theorem modPci_pins (f : Pci → Pci) (s : State) : (modPci f s).pins = s.pins := rfl
@[simp] theorem modPci_rst (f : Pci → Pci) (s : State) : (modPci f s).rst = s.rst := rfl
@[simp] theorem modPci_refclkLost (f : Pci → Pci) (s : State) : (modPci f s).refclkLost = s.refclkLost := rfl
@[simp] theorem modPci_caps (f : Pci → Pci) (s : State) : (modPci f s).caps = s.caps := rfl
@[simp] theorem modPci_time (f : Pci → Pci) (s : State) : (modPci f s).time = s.time := rfl
@[simp] theorem modPci_trate (f : Pci → Pci) (s : State) : (modPci f s).trate = s.trate := rfl
@[simp] theorem modPci_mem (f : Pci → Pci) (s : State) : (modPci f s).mem = s.mem := rfl
@[simp] theorem modPci_hbm (f : Pci → Pci) (s : State) : (modPci f s).hbm = s.hbm := rfl
@[simp] theorem modPci_scrubPeriod (f : Pci → Pci) (s : State) : (modPci f s).scrubPeriod = s.scrubPeriod := rfl
@[simp] theorem modPci_thl (f : Pci → Pci) (s : State) : (modPci f s).thl = s.thl := rfl
@[simp] theorem modPci_gov (f : Pci → Pci) (s : State) : (modPci f s).gov = s.gov := rfl
@[simp] theorem modPci_rdx (f : Pci → Pci) (s : State) : (modPci f s).rdx = s.rdx := rfl
@[simp] theorem modPci_cmt (f : Pci → Pci) (s : State) : (modPci f s).cmt = s.cmt := rfl
@[simp] theorem modPci_crun (f : Pci → Pci) (s : State) : (modPci f s).crun = s.crun := rfl
@[simp] theorem modPci_win (f : Pci → Pci) (s : State) : (modPci f s).win = s.win := rfl
@[simp] theorem modPci_snap (f : Pci → Pci) (s : State) : (modPci f s).snap = s.snap := rfl
@[simp] theorem modPci_srun (f : Pci → Pci) (s : State) : (modPci f s).srun = s.srun := rfl
@[simp] theorem modPci_lnk (f : Pci → Pci) (s : State) : (modPci f s).lnk = s.lnk := rfl
@[simp] theorem modPci_port (f : Pci → Pci) (s : State) : (modPci f s).port = s.port := rfl
@[simp] theorem modPci_log (f : Pci → Pci) (s : State) : (modPci f s).log = s.log := rfl
@[simp] theorem modPci_pwr (f : Pci → Pci) (s : State) : (modPci f s).pwr = s.pwr := rfl
@[simp] theorem modPci_prun (f : Pci → Pci) (s : State) : (modPci f s).prun = s.prun := rfl
@[simp] theorem modPci_sec (f : Pci → Pci) (s : State) : (modPci f s).sec = s.sec := rfl
@[simp] theorem modPci_dbg (f : Pci → Pci) (s : State) : (modPci f s).dbg = s.dbg := rfl
@[simp] theorem modPci_bist (f : Pci → Pci) (s : State) : (modPci f s).bist = s.bist := rfl
@[simp] theorem modPci_reg (f : Pci → Pci) (s : State) : (modPci f s).reg = s.reg := rfl
@[simp] theorem modPci_nonce (f : Pci → Pci) (s : State) : (modPci f s).nonce = s.nonce := rfl
@[simp] theorem modPci_out (f : Pci → Pci) (s : State) : (modPci f s).out = s.out := rfl
@[simp] theorem modSpdm_pending (t : Transport) (f : Spdm → Spdm) (s : State) : (modSpdm t f s).pending = s.pending := by cases t <;> rfl
@[simp] theorem modSpdm_part (t : Transport) (f : Spdm → Spdm) (s : State) : (modSpdm t f s).part = s.part := by cases t <;> rfl
@[simp] theorem modSpdm_pins (t : Transport) (f : Spdm → Spdm) (s : State) : (modSpdm t f s).pins = s.pins := by cases t <;> rfl
@[simp] theorem modSpdm_rst (t : Transport) (f : Spdm → Spdm) (s : State) : (modSpdm t f s).rst = s.rst := by cases t <;> rfl
@[simp] theorem modSpdm_refclkLost (t : Transport) (f : Spdm → Spdm) (s : State) : (modSpdm t f s).refclkLost = s.refclkLost := by cases t <;> rfl
@[simp] theorem modSpdm_caps (t : Transport) (f : Spdm → Spdm) (s : State) : (modSpdm t f s).caps = s.caps := by cases t <;> rfl
@[simp] theorem modSpdm_time (t : Transport) (f : Spdm → Spdm) (s : State) : (modSpdm t f s).time = s.time := by cases t <;> rfl
@[simp] theorem modSpdm_trate (t : Transport) (f : Spdm → Spdm) (s : State) : (modSpdm t f s).trate = s.trate := by cases t <;> rfl
@[simp] theorem modSpdm_mem (t : Transport) (f : Spdm → Spdm) (s : State) : (modSpdm t f s).mem = s.mem := by cases t <;> rfl
@[simp] theorem modSpdm_hbm (t : Transport) (f : Spdm → Spdm) (s : State) : (modSpdm t f s).hbm = s.hbm := by cases t <;> rfl
@[simp] theorem modSpdm_scrubPeriod (t : Transport) (f : Spdm → Spdm) (s : State) : (modSpdm t f s).scrubPeriod = s.scrubPeriod := by cases t <;> rfl
@[simp] theorem modSpdm_thl (t : Transport) (f : Spdm → Spdm) (s : State) : (modSpdm t f s).thl = s.thl := by cases t <;> rfl
@[simp] theorem modSpdm_gov (t : Transport) (f : Spdm → Spdm) (s : State) : (modSpdm t f s).gov = s.gov := by cases t <;> rfl
@[simp] theorem modSpdm_rdx (t : Transport) (f : Spdm → Spdm) (s : State) : (modSpdm t f s).rdx = s.rdx := by cases t <;> rfl
@[simp] theorem modSpdm_cmt (t : Transport) (f : Spdm → Spdm) (s : State) : (modSpdm t f s).cmt = s.cmt := by cases t <;> rfl
@[simp] theorem modSpdm_crun (t : Transport) (f : Spdm → Spdm) (s : State) : (modSpdm t f s).crun = s.crun := by cases t <;> rfl
@[simp] theorem modSpdm_win (t : Transport) (f : Spdm → Spdm) (s : State) : (modSpdm t f s).win = s.win := by cases t <;> rfl
@[simp] theorem modSpdm_snap (t : Transport) (f : Spdm → Spdm) (s : State) : (modSpdm t f s).snap = s.snap := by cases t <;> rfl
@[simp] theorem modSpdm_srun (t : Transport) (f : Spdm → Spdm) (s : State) : (modSpdm t f s).srun = s.srun := by cases t <;> rfl
@[simp] theorem modSpdm_lnk (t : Transport) (f : Spdm → Spdm) (s : State) : (modSpdm t f s).lnk = s.lnk := by cases t <;> rfl
@[simp] theorem modSpdm_pci (t : Transport) (f : Spdm → Spdm) (s : State) : (modSpdm t f s).pci = s.pci := by cases t <;> rfl
@[simp] theorem modSpdm_port (t : Transport) (f : Spdm → Spdm) (s : State) : (modSpdm t f s).port = s.port := by cases t <;> rfl
@[simp] theorem modSpdm_log (t : Transport) (f : Spdm → Spdm) (s : State) : (modSpdm t f s).log = s.log := by cases t <;> rfl
@[simp] theorem modSpdm_pwr (t : Transport) (f : Spdm → Spdm) (s : State) : (modSpdm t f s).pwr = s.pwr := by cases t <;> rfl
@[simp] theorem modSpdm_prun (t : Transport) (f : Spdm → Spdm) (s : State) : (modSpdm t f s).prun = s.prun := by cases t <;> rfl
@[simp] theorem modSpdm_dbg (t : Transport) (f : Spdm → Spdm) (s : State) : (modSpdm t f s).dbg = s.dbg := by cases t <;> rfl
@[simp] theorem modSpdm_bist (t : Transport) (f : Spdm → Spdm) (s : State) : (modSpdm t f s).bist = s.bist := by cases t <;> rfl
@[simp] theorem modSpdm_reg (t : Transport) (f : Spdm → Spdm) (s : State) : (modSpdm t f s).reg = s.reg := by cases t <;> rfl
@[simp] theorem modSpdm_nonce (t : Transport) (f : Spdm → Spdm) (s : State) : (modSpdm t f s).nonce = s.nonce := by cases t <;> rfl
@[simp] theorem modSpdm_out (t : Transport) (f : Spdm → Spdm) (s : State) : (modSpdm t f s).out = s.out := by cases t <;> rfl
@[simp] theorem modDbg_pending (f : Dbg → Dbg) (s : State) : (modDbg f s).pending = s.pending := rfl
@[simp] theorem modDbg_part (f : Dbg → Dbg) (s : State) : (modDbg f s).part = s.part := rfl
@[simp] theorem modDbg_pins (f : Dbg → Dbg) (s : State) : (modDbg f s).pins = s.pins := rfl
@[simp] theorem modDbg_rst (f : Dbg → Dbg) (s : State) : (modDbg f s).rst = s.rst := rfl
@[simp] theorem modDbg_refclkLost (f : Dbg → Dbg) (s : State) : (modDbg f s).refclkLost = s.refclkLost := rfl
@[simp] theorem modDbg_caps (f : Dbg → Dbg) (s : State) : (modDbg f s).caps = s.caps := rfl
@[simp] theorem modDbg_time (f : Dbg → Dbg) (s : State) : (modDbg f s).time = s.time := rfl
@[simp] theorem modDbg_trate (f : Dbg → Dbg) (s : State) : (modDbg f s).trate = s.trate := rfl
@[simp] theorem modDbg_mem (f : Dbg → Dbg) (s : State) : (modDbg f s).mem = s.mem := rfl
@[simp] theorem modDbg_hbm (f : Dbg → Dbg) (s : State) : (modDbg f s).hbm = s.hbm := rfl
@[simp] theorem modDbg_scrubPeriod (f : Dbg → Dbg) (s : State) : (modDbg f s).scrubPeriod = s.scrubPeriod := rfl
@[simp] theorem modDbg_thl (f : Dbg → Dbg) (s : State) : (modDbg f s).thl = s.thl := rfl
@[simp] theorem modDbg_gov (f : Dbg → Dbg) (s : State) : (modDbg f s).gov = s.gov := rfl
@[simp] theorem modDbg_rdx (f : Dbg → Dbg) (s : State) : (modDbg f s).rdx = s.rdx := rfl
@[simp] theorem modDbg_cmt (f : Dbg → Dbg) (s : State) : (modDbg f s).cmt = s.cmt := rfl
@[simp] theorem modDbg_crun (f : Dbg → Dbg) (s : State) : (modDbg f s).crun = s.crun := rfl
@[simp] theorem modDbg_win (f : Dbg → Dbg) (s : State) : (modDbg f s).win = s.win := rfl
@[simp] theorem modDbg_snap (f : Dbg → Dbg) (s : State) : (modDbg f s).snap = s.snap := rfl
@[simp] theorem modDbg_srun (f : Dbg → Dbg) (s : State) : (modDbg f s).srun = s.srun := rfl
@[simp] theorem modDbg_lnk (f : Dbg → Dbg) (s : State) : (modDbg f s).lnk = s.lnk := rfl
@[simp] theorem modDbg_pci (f : Dbg → Dbg) (s : State) : (modDbg f s).pci = s.pci := rfl
@[simp] theorem modDbg_port (f : Dbg → Dbg) (s : State) : (modDbg f s).port = s.port := rfl
@[simp] theorem modDbg_log (f : Dbg → Dbg) (s : State) : (modDbg f s).log = s.log := rfl
@[simp] theorem modDbg_pwr (f : Dbg → Dbg) (s : State) : (modDbg f s).pwr = s.pwr := rfl
@[simp] theorem modDbg_prun (f : Dbg → Dbg) (s : State) : (modDbg f s).prun = s.prun := rfl
@[simp] theorem modDbg_sec (f : Dbg → Dbg) (s : State) : (modDbg f s).sec = s.sec := rfl
@[simp] theorem modDbg_bist (f : Dbg → Dbg) (s : State) : (modDbg f s).bist = s.bist := rfl
@[simp] theorem modDbg_reg (f : Dbg → Dbg) (s : State) : (modDbg f s).reg = s.reg := rfl
@[simp] theorem modDbg_nonce (f : Dbg → Dbg) (s : State) : (modDbg f s).nonce = s.nonce := rfl
@[simp] theorem modDbg_out (f : Dbg → Dbg) (s : State) : (modDbg f s).out = s.out := rfl
@[simp] theorem emit_pending (o : Out) (s : State) : (emit o s).pending = s.pending := rfl
@[simp] theorem emit_part (o : Out) (s : State) : (emit o s).part = s.part := rfl
@[simp] theorem emit_pins (o : Out) (s : State) : (emit o s).pins = s.pins := rfl
@[simp] theorem emit_rst (o : Out) (s : State) : (emit o s).rst = s.rst := rfl
@[simp] theorem emit_refclkLost (o : Out) (s : State) : (emit o s).refclkLost = s.refclkLost := rfl
@[simp] theorem emit_caps (o : Out) (s : State) : (emit o s).caps = s.caps := rfl
@[simp] theorem emit_time (o : Out) (s : State) : (emit o s).time = s.time := rfl
@[simp] theorem emit_trate (o : Out) (s : State) : (emit o s).trate = s.trate := rfl
@[simp] theorem emit_mem (o : Out) (s : State) : (emit o s).mem = s.mem := rfl
@[simp] theorem emit_hbm (o : Out) (s : State) : (emit o s).hbm = s.hbm := rfl
@[simp] theorem emit_scrubPeriod (o : Out) (s : State) : (emit o s).scrubPeriod = s.scrubPeriod := rfl
@[simp] theorem emit_thl (o : Out) (s : State) : (emit o s).thl = s.thl := rfl
@[simp] theorem emit_gov (o : Out) (s : State) : (emit o s).gov = s.gov := rfl
@[simp] theorem emit_rdx (o : Out) (s : State) : (emit o s).rdx = s.rdx := rfl
@[simp] theorem emit_cmt (o : Out) (s : State) : (emit o s).cmt = s.cmt := rfl
@[simp] theorem emit_crun (o : Out) (s : State) : (emit o s).crun = s.crun := rfl
@[simp] theorem emit_win (o : Out) (s : State) : (emit o s).win = s.win := rfl
@[simp] theorem emit_snap (o : Out) (s : State) : (emit o s).snap = s.snap := rfl
@[simp] theorem emit_srun (o : Out) (s : State) : (emit o s).srun = s.srun := rfl
@[simp] theorem emit_lnk (o : Out) (s : State) : (emit o s).lnk = s.lnk := rfl
@[simp] theorem emit_pci (o : Out) (s : State) : (emit o s).pci = s.pci := rfl
@[simp] theorem emit_port (o : Out) (s : State) : (emit o s).port = s.port := rfl
@[simp] theorem emit_log (o : Out) (s : State) : (emit o s).log = s.log := rfl
@[simp] theorem emit_pwr (o : Out) (s : State) : (emit o s).pwr = s.pwr := rfl
@[simp] theorem emit_prun (o : Out) (s : State) : (emit o s).prun = s.prun := rfl
@[simp] theorem emit_sec (o : Out) (s : State) : (emit o s).sec = s.sec := rfl
@[simp] theorem emit_dbg (o : Out) (s : State) : (emit o s).dbg = s.dbg := rfl
@[simp] theorem emit_bist (o : Out) (s : State) : (emit o s).bist = s.bist := rfl
@[simp] theorem emit_reg (o : Out) (s : State) : (emit o s).reg = s.reg := rfl
@[simp] theorem emit_nonce (o : Out) (s : State) : (emit o s).nonce = s.nonce := rfl
@[simp] theorem poke_pending (p : Nat) (bs : List Byte) (s : State) : (poke p bs s).pending = s.pending := rfl
@[simp] theorem poke_part (p : Nat) (bs : List Byte) (s : State) : (poke p bs s).part = s.part := rfl
@[simp] theorem poke_pins (p : Nat) (bs : List Byte) (s : State) : (poke p bs s).pins = s.pins := rfl
@[simp] theorem poke_rst (p : Nat) (bs : List Byte) (s : State) : (poke p bs s).rst = s.rst := rfl
@[simp] theorem poke_refclkLost (p : Nat) (bs : List Byte) (s : State) : (poke p bs s).refclkLost = s.refclkLost := rfl
@[simp] theorem poke_caps (p : Nat) (bs : List Byte) (s : State) : (poke p bs s).caps = s.caps := rfl
@[simp] theorem poke_time (p : Nat) (bs : List Byte) (s : State) : (poke p bs s).time = s.time := rfl
@[simp] theorem poke_trate (p : Nat) (bs : List Byte) (s : State) : (poke p bs s).trate = s.trate := rfl
@[simp] theorem poke_hbm (p : Nat) (bs : List Byte) (s : State) : (poke p bs s).hbm = s.hbm := rfl
@[simp] theorem poke_scrubPeriod (p : Nat) (bs : List Byte) (s : State) : (poke p bs s).scrubPeriod = s.scrubPeriod := rfl
@[simp] theorem poke_thl (p : Nat) (bs : List Byte) (s : State) : (poke p bs s).thl = s.thl := rfl
@[simp] theorem poke_gov (p : Nat) (bs : List Byte) (s : State) : (poke p bs s).gov = s.gov := rfl
@[simp] theorem poke_rdx (p : Nat) (bs : List Byte) (s : State) : (poke p bs s).rdx = s.rdx := rfl
@[simp] theorem poke_cmt (p : Nat) (bs : List Byte) (s : State) : (poke p bs s).cmt = s.cmt := rfl
@[simp] theorem poke_crun (p : Nat) (bs : List Byte) (s : State) : (poke p bs s).crun = s.crun := rfl
@[simp] theorem poke_win (p : Nat) (bs : List Byte) (s : State) : (poke p bs s).win = s.win := rfl
@[simp] theorem poke_snap (p : Nat) (bs : List Byte) (s : State) : (poke p bs s).snap = s.snap := rfl
@[simp] theorem poke_srun (p : Nat) (bs : List Byte) (s : State) : (poke p bs s).srun = s.srun := rfl
@[simp] theorem poke_lnk (p : Nat) (bs : List Byte) (s : State) : (poke p bs s).lnk = s.lnk := rfl
@[simp] theorem poke_pci (p : Nat) (bs : List Byte) (s : State) : (poke p bs s).pci = s.pci := rfl
@[simp] theorem poke_port (p : Nat) (bs : List Byte) (s : State) : (poke p bs s).port = s.port := rfl
@[simp] theorem poke_log (p : Nat) (bs : List Byte) (s : State) : (poke p bs s).log = s.log := rfl
@[simp] theorem poke_pwr (p : Nat) (bs : List Byte) (s : State) : (poke p bs s).pwr = s.pwr := rfl
@[simp] theorem poke_prun (p : Nat) (bs : List Byte) (s : State) : (poke p bs s).prun = s.prun := rfl
@[simp] theorem poke_sec (p : Nat) (bs : List Byte) (s : State) : (poke p bs s).sec = s.sec := rfl
@[simp] theorem poke_dbg (p : Nat) (bs : List Byte) (s : State) : (poke p bs s).dbg = s.dbg := rfl
@[simp] theorem poke_bist (p : Nat) (bs : List Byte) (s : State) : (poke p bs s).bist = s.bist := rfl
@[simp] theorem poke_reg (p : Nat) (bs : List Byte) (s : State) : (poke p bs s).reg = s.reg := rfl
@[simp] theorem poke_nonce (p : Nat) (bs : List Byte) (s : State) : (poke p bs s).nonce = s.nonce := rfl
@[simp] theorem poke_out (p : Nat) (bs : List Byte) (s : State) : (poke p bs s).out = s.out := rfl
@[simp] theorem withBytes_pending (m : Sparse 8) (s : State) : (withBytes m s).pending = s.pending := rfl
@[simp] theorem withBytes_part (m : Sparse 8) (s : State) : (withBytes m s).part = s.part := rfl
@[simp] theorem withBytes_pins (m : Sparse 8) (s : State) : (withBytes m s).pins = s.pins := rfl
@[simp] theorem withBytes_rst (m : Sparse 8) (s : State) : (withBytes m s).rst = s.rst := rfl
@[simp] theorem withBytes_refclkLost (m : Sparse 8) (s : State) : (withBytes m s).refclkLost = s.refclkLost := rfl
@[simp] theorem withBytes_caps (m : Sparse 8) (s : State) : (withBytes m s).caps = s.caps := rfl
@[simp] theorem withBytes_time (m : Sparse 8) (s : State) : (withBytes m s).time = s.time := rfl
@[simp] theorem withBytes_trate (m : Sparse 8) (s : State) : (withBytes m s).trate = s.trate := rfl
@[simp] theorem withBytes_hbm (m : Sparse 8) (s : State) : (withBytes m s).hbm = s.hbm := rfl
@[simp] theorem withBytes_scrubPeriod (m : Sparse 8) (s : State) : (withBytes m s).scrubPeriod = s.scrubPeriod := rfl
@[simp] theorem withBytes_thl (m : Sparse 8) (s : State) : (withBytes m s).thl = s.thl := rfl
@[simp] theorem withBytes_gov (m : Sparse 8) (s : State) : (withBytes m s).gov = s.gov := rfl
@[simp] theorem withBytes_rdx (m : Sparse 8) (s : State) : (withBytes m s).rdx = s.rdx := rfl
@[simp] theorem withBytes_cmt (m : Sparse 8) (s : State) : (withBytes m s).cmt = s.cmt := rfl
@[simp] theorem withBytes_crun (m : Sparse 8) (s : State) : (withBytes m s).crun = s.crun := rfl
@[simp] theorem withBytes_win (m : Sparse 8) (s : State) : (withBytes m s).win = s.win := rfl
@[simp] theorem withBytes_snap (m : Sparse 8) (s : State) : (withBytes m s).snap = s.snap := rfl
@[simp] theorem withBytes_srun (m : Sparse 8) (s : State) : (withBytes m s).srun = s.srun := rfl
@[simp] theorem withBytes_lnk (m : Sparse 8) (s : State) : (withBytes m s).lnk = s.lnk := rfl
@[simp] theorem withBytes_pci (m : Sparse 8) (s : State) : (withBytes m s).pci = s.pci := rfl
@[simp] theorem withBytes_port (m : Sparse 8) (s : State) : (withBytes m s).port = s.port := rfl
@[simp] theorem withBytes_log (m : Sparse 8) (s : State) : (withBytes m s).log = s.log := rfl
@[simp] theorem withBytes_pwr (m : Sparse 8) (s : State) : (withBytes m s).pwr = s.pwr := rfl
@[simp] theorem withBytes_prun (m : Sparse 8) (s : State) : (withBytes m s).prun = s.prun := rfl
@[simp] theorem withBytes_sec (m : Sparse 8) (s : State) : (withBytes m s).sec = s.sec := rfl
@[simp] theorem withBytes_dbg (m : Sparse 8) (s : State) : (withBytes m s).dbg = s.dbg := rfl
@[simp] theorem withBytes_bist (m : Sparse 8) (s : State) : (withBytes m s).bist = s.bist := rfl
@[simp] theorem withBytes_reg (m : Sparse 8) (s : State) : (withBytes m s).reg = s.reg := rfl
@[simp] theorem withBytes_nonce (m : Sparse 8) (s : State) : (withBytes m s).nonce = s.nonce := rfl
@[simp] theorem withBytes_out (m : Sparse 8) (s : State) : (withBytes m s).out = s.out := rfl
@[simp] theorem emit_out (o : Out) (s : State) : (emit o s).out = s.out ++ [o] := rfl
@[simp] theorem modThl_thl (n : Nat) (f : Thallus → Thallus) (s : State) : (modThl n f s).thl = s.thl.modify n f := rfl
@[simp] theorem modLink_link (l : Nat) (f : Link → Link) (s : State) : (modLink l f s).lnk.link = s.lnk.link.modify l f := rfl
@[simp] theorem modPci_pci (f : Pci → Pci) (s : State) : (modPci f s).pci = f s.pci := rfl
@[simp] theorem modDbg_dbg (f : Dbg → Dbg) (s : State) : (modDbg f s).dbg = f s.dbg := rfl
@[simp] theorem withBytes_bytes (m : Sparse 8) (s : State) : (withBytes m s).mem.bytes = m := rfl

end Sys2Proof.Machine
end

