-- ==== Sys2Proof/Laws/Steps.lean ====
section
/-! SUPPORT. What a unit does when it takes its next instruction undisturbed, and how an update of one unit is read back. -/

namespace Sys2Proof.Machine

open Sys2Proof

theorem need_true (t : State) : need true true t = .next t := rfl

theorem modCore_modCore (n c : Nat) (f g : Core → Core) (s : State) :
    modCore n c f (modCore n c g s) = modCore n c (f ∘ g) s := by
  unfold modCore modThl
  simp [List.modify_modify_eq, Function.comp_def]

theorem length_modThl (n : Nat) (f : Thallus → Thallus) (s : State) : (modThl n f s).thl.length = s.thl.length := by
  unfold modThl; simp

theorem target_modThl (n : Nat) (f : Thallus → Thallus) (s : State) (a : Nat) : target (modThl n f s) a = target s a := by
  unfold target
  rw [length_modThl]
  rfl

theorem resolve_modThl (n : Nat) (f : Thallus → Thallus) (s : State) (a : Nat) : resolve (modThl n f s) a = resolve s a := by
  unfold resolve compatOff
  rw [target_modThl]
  rfl

theorem thlOf_modThl {n : Nat} {s : State} (h : hasThl s n = true) (f : Thallus → Thallus) (m : Nat) :
    thlOf (modThl n f s) m = if m = n then f (thlOf s n) else thlOf s m := by
  have hn : n < s.thl.length := by simpa [hasThl] using h
  unfold thlOf modThl
  by_cases e : m = n
  · subst e
    simp [List.getD_eq_getElem?_getD, hn]
  · have e' : n ≠ m := fun h => e h.symm
    simp [List.getD_eq_getElem?_getD, e, e']

theorem coreOf_modCore {n c : Nat} {s : State} (h : hasCore s n c = true) (f : Core → Core) :
    coreOf (modCore n c f s) n c = f (coreOf s n c) := by
  have h' : hasThl s n = true ∧ c < (thlOf s n).core.length := by simpa [hasCore] using h
  unfold coreOf modCore
  rw [thlOf_modThl h'.1]
  simp [List.getD_eq_getElem?_getD, h'.2]

theorem fetchOk_taking {n c : Nat} {s : State} (h : hasCore s n c = true) (w : Word) :
    fetchOk (modCore n c (Core.taking w) s) n c = fetchOk s n c := by
  unfold fetchOk
  rw [coreOf_modCore h]
  unfold modCore
  rw [resolve_modThl]
  rfl

theorem coreStep_runs {n c : Nat} {s : State} (h : CoreAt s n c) (w : Word) (body : State → State) :
    coreStep n c w body s = body (modCore n c (Core.taking w) s) := by
  obtain ⟨h1, h2, h3, h4⟩ := h
  unfold coreStep
  have e : (if ((coreOf s n c).dbg.skipBp || (coreOf s n c).state == .held) = true then none else bpAt s 1 n c (coreOf s n c).pc) = none := by
    rcases h4 with h4 | h4 | h4 <;> simp [h4]
  dsimp only
  rw [e]
  have m : ((coreOf s n c).dbg.mode == 3) = false := by simpa using h3
  simp only [m]
  rfl

theorem coreInstr_runs {n c : Nat} {s : State} (h : CoreRuns s n c) (w : Word) (legal : Bool) (body : State → State) :
    coreInstr n c w legal body s = .next ((fun t => if legal then body t else coreFault n c 0x50 w t) (modCore n c (Core.taking w) s)) := by
  unfold coreInstr
  rw [h.1.1, h.1.2.1, coreStep_runs h.1]
  dsimp only
  rw [fetchOk_taking h.1.1, h.2]
  rfl

theorem regInstr_runs {n c : Nat} {s : State} (h : CoreRuns s n c) (w : Word) (f : Core → Core) :
    regInstr n c w true f s = .next (modCore n c (Core.after w f) s) := by
  unfold regInstr
  rw [coreInstr_runs h]
  simp only [if_true]
  unfold coreNext
  rw [modCore_modCore]
  rfl

theorem completes_regInstr (mk : Nat → Nat → Word → Instr) (ok : Word → Prop) (legal : Word → Bool) (f : Word → Core → Core)
    (he : ∀ n c w s, exec (mk n c w) s = regInstr n c w (legal w) (f w) s) (hl : ∀ w, ok w → legal w = true) : Completes mk ok f := by
  intro n c w s h hw
  rw [he, hl w hw, regInstr_runs h]

theorem modThl_modThl (n : Nat) (f g : Thallus → Thallus) (s : State) : modThl n f (modThl n g s) = modThl n (f ∘ g) s := by
  unfold modThl
  simp [List.modify_modify_eq, Function.comp_def]

theorem modStrm_modStrm (n q : Nat) (f g : Stream → Stream) (s : State) :
    modStrm n q f (modStrm n q g s) = modStrm n q (f ∘ g) s := by
  unfold modStrm modThl
  simp [List.modify_modify_eq, Function.comp_def]

theorem strmOf_modStrm {n q : Nat} {s : State} (h : hasStrm s n q = true) (f : Stream → Stream) :
    strmOf (modStrm n q f s) n q = f (strmOf s n q) := by
  have h' : hasThl s n = true ∧ q < (thlOf s n).strm.length := by simpa [hasStrm] using h
  unfold strmOf modStrm
  rw [thlOf_modThl h'.1]
  simp [List.getD_eq_getElem?_getD, h'.2]

theorem hasThl_of_hasStrm {n q : Nat} {s : State} (h : hasStrm s n q = true) : hasThl s n = true := by
  simp only [hasStrm, Bool.and_eq_true] at h; exact h.1

theorem hasThl_of_hasCore {n c : Nat} {s : State} (h : hasCore s n c = true) : hasThl s n = true := by
  simp only [hasCore, Bool.and_eq_true] at h; exact h.1

theorem fetchLost_modStrm (n q : Nat) (f : Stream → Stream) (s : State) (pc words : Nat) :
    fetchLost (modStrm n q f s) pc words = fetchLost s pc words := by
  unfold fetchLost modStrm
  simp only [resolve_modThl]
  rfl

/-- An instruction taken undisturbed is its body; a debug step ends with it only where the stream is then halted or at its end. -/
theorem strmStep_runs {n q words : Nat} {s : State} (h : StrmTakes s n q words) (w : Word) (body : State → State)
    (hb : (strmOf (body (modStrm n q (Stream.taking w) s)) n q).dbg.mode ≠ 3) :
    strmStep n q words w body s = body (modStrm n q (Stream.taking w) s) := by
  obtain ⟨h1, h2, h4, h5, h6⟩ := h
  unfold strmStep
  have e : (if ((strmOf s n q).dbg.skipBp || (strmOf s n q).state == .held) = true then none else bpAt s 2 n q (strmOf s n q).pc) = none := by
    rcases h5 with h5 | h5 | h5 <;> simp [h5]
  dsimp only
  rw [e]
  dsimp only
  rw [fetchLost_modStrm, h6]
  unfold stepEnds
  dsimp only
  have m : ((strmOf (body (modStrm n q (Stream.taking w) s)) n q).dbg.mode == 3) = false := by simpa using hb
  rw [m]
  rfl

theorem strmInstr_runs {n q words : Nat} {s : State} (h : StrmRuns s n q words) (w : Word) (who : List Nat) (hq : who.contains q = true)
    (body : State → State) (hb : (strmOf (body (modStrm n q (Stream.taking w) s)) n q).dbg.mode ≠ 3) :
    strmInstr n q words w who body s = .next (body (modStrm n q (Stream.taking w) s)) := by
  have hm : (strmOf (modStrm n q (Stream.taking w) s) n q).marked = false := by
    rw [strmOf_modStrm h.1.1]; exact h.2
  have e : (if (who.contains q && !(strmOf (modStrm n q (Stream.taking w) s) n q).marked) = true then
      body (modStrm n q (Stream.taking w) s) else haltAt n 0 q 0x30 w (modStrm n q (Stream.taking w) s)) =
      body (modStrm n q (Stream.taking w) s) := by
    rw [hq, hm]; rfl
  unfold strmInstr
  rw [strmStep_runs h.1 w _ (by rw [e]; exact hb), h.1.1, h.1.2.1, e]
  rfl

theorem linkOf_modLink {s : State} {l : Nat} (h : hasLink s l = true) (f : Link → Link) (m : Nat) :
    linkOf (modLink l f s) m = if m = l then f (linkOf s l) else linkOf s m := by
  have hn : l < s.lnk.link.length := by simp only [hasLink, Bool.and_eq_true, decide_eq_true_eq] at h; exact h.2
  unfold linkOf modLink
  by_cases e : m = l
  · subst e
    simp [List.getD_eq_getElem?_getD, hn]
  · have e' : l ≠ m := fun h => e h.symm
    simp [List.getD_eq_getElem?_getD, e, e']

theorem hasLink_modLink (s : State) (l m : Nat) (f : Link → Link) : hasLink (modLink l f s) m = hasLink s m := by
  unfold hasLink modLink; simp

theorem need_next {u r : Bool} (hu : u = true) (hr : r = true) (t : State) : need u r t = .next t := by subst hu; subst hr; rfl

theorem modLink_modLink (l : Nat) (f g : Link → Link) (s : State) : modLink l f (modLink l g s) = modLink l (f ∘ g) s := by
  unfold modLink
  simp [List.modify_modify_eq, Function.comp_def]

theorem runs_modCore (n c : Nat) (f : Core → Core) (s : State) (m : Nat) : (thlOf (modCore n c f s) m).runs = (thlOf s m).runs := by
  unfold thlOf modCore modThl
  simp only [List.getD_eq_getElem?_getD, List.getElem?_modify]
  split <;> (rename_i h; cases s.thl[m]? <;> rfl)

theorem runIdx_modCore (n c : Nat) (f : Core → Core) (s : State) (m d : Nat) : runIdx (modCore n c f s) m d = runIdx s m d := by
  unfold runIdx; rw [runs_modCore]

theorem runStream_modCore (n c : Nat) (f : Core → Core) (s : State) (m d : Nat) : runStream (modCore n c f s) m d = runStream s m d := by
  unfold runStream; rw [runs_modCore, runIdx_modCore]

theorem thlOf_modThl_any (n : Nat) (f : Thallus → Thallus) (s : State) (m : Nat) {α : Type} (g : Thallus → α) (hg : ∀ t, g (f t) = g t) :
    g (thlOf (modThl n f s) m) = g (thlOf s m) := by
  unfold thlOf modThl
  simp only [List.getD_eq_getElem?_getD, List.getElem?_modify]
  split
  · cases s.thl[m]?
    · rfl
    · exact hg _
  · cases s.thl[m]? <;> rfl

theorem dmaOf_modCore (n c : Nat) (f : Core → Core) (s : State) (m k : Nat) : dmaOf (modCore n c f s) m k = dmaOf s m k := by
  unfold dmaOf modCore
  exact thlOf_modThl_any n _ s m (fun t => t.dma.getD k []) (fun _ => rfl)

theorem core_next (n c : Nat) (w : Word) (f : Core → Core) (s : State) : coreNext n c f (modCore n c (Core.taking w) s) = modCore n c (Core.after w f) s := by
  unfold coreNext; rw [modCore_modCore]; rfl

theorem core_hold (n c : Nat) (w : Word) (s : State) : coreHold n c (modCore n c (Core.taking w) s) = modCore n c (fun k => { k.taking w with state := .held }) s := by
  unfold coreHold; rw [modCore_modCore]; rfl

theorem quiet_taking {n c : Nat} {w : Word} {s : State} (h : hasCore s n c = true) : coreQuiet (modCore n c (Core.taking w) s) n c = coreQuiet s n c := by
  unfold coreQuiet; rw [dmaOf_modCore, coreOf_modCore h]; rfl

theorem quiet_iff {n c : Nat} {s : State} : coreQuiet s n c = true ↔ (∀ d ∈ dmaOf s n 3, d.core ≠ some c) ∧ (coreOf s n c).dmaLost = false := by
  unfold coreQuiet; simp

end Sys2Proof.Machine
end

