-- ==== Sys2Proof/WellFormed.lean ====
section
/-! DEFINITION. Well-formed commands: unit numbers within the largest part (00 T0-2), the opcode and kind of an instruction word as
its row has them (06 T6-2, 08 T8-3), identifiers within the fabric (13 R274), and the bits that make a register write the command of
its row. What an instruction does with a field that it finds unusable is its meaning, not a matter of form. -/

namespace Sys2Proof

/-- A transaction between two fabric identifiers (13 R274). -/
def wfTxn (t : Txn) : Bool := t.dst < 16384 && t.src < 16384

/-- A flit: sequence numbers of 12 bits and at most 14 slots (13 R262, T13-2). -/
def wfFlit (fl : Flit) : Bool := fl.seq < 4096 && fl.ackSeq < 4096 && fl.slots.length ≤ 14

/-- An opcode that 08 T8-3 does not list; the row ADD takes it (log entry 7). -/
def unlistedOp (o : Nat) : Bool :=
  !((1 ≤ o && o ≤ 0x13) || (0x20 ≤ o && o ≤ 0x26) || (0x30 ≤ o && o ≤ 0x37) || (0x40 ≤ o && o ≤ 0x45) || (0x50 ≤ o && o ≤ 0x67) ||
    (0x70 ≤ o && o ≤ 0x7E))

/-- An opcode, or a kind of MARK, that 06 T6-2 reserves; the row ISSUE takes it (log entry 7). -/
def unlistedStrm (w0 : Word) : Bool :=
  let o := field w0 7 0
  o == 0 || 0x0D < o || (o == 7 && field w0 9 8 == 3)

/-- The command is well-formed. -/
def Instr.wf (i : Instr) : Bool :=
  match i with
  | .stepStart => true
  | .issue n s w0 _ => n < 152 && s < 3 && (field w0 7 0 == 0x01 || unlistedStrm w0)
  | .pegwait n s w => n < 152 && s < 3 && field w 7 0 == 0x02
  | .pegwaitTimeout n s => n < 152 && s < 3
  | .pegPostEv n p _ _ => n < 152 && p < 64
  | .pegpost n s w => n < 152 && s < 3 && field w 7 0 == 0x03
  | .pegpostFenceDone n s => n < 152 && s < 3
  | .dma n s w0 _ => n < 152 && s < 3 && field w0 7 0 == 0x04
  | .bopen n s w => n < 152 && s < 3 && field w 7 0 == 0x05
  | .bcontrib n s w0 _ _ => n < 152 && s < 3 && field w0 7 0 == 0x06
  | .markEndOfForward n s w0 _ => n < 152 && s < 3 && field w0 7 0 == 0x07 && field w0 9 8 == 0
  | .endOfForwardLossCheck n => n < 152
  | .forwardBarrierOpen => true
  | .markEnd n s w0 _ => n < 152 && s < 3 && field w0 7 0 == 0x07 && field w0 9 8 == 1
  | .markTrace n s w0 _ => n < 152 && s < 3 && field w0 7 0 == 0x07 && field w0 9 8 == 2
  | .epoch n s w => n < 152 && s < 3 && field w 7 0 == 0x08
  | .upd n s w0 _ => n < 152 && s < 3 && field w0 7 0 == 0x09
  | .updComplete n _ => n < 152
  | .mrun n s w0 _ => n < 152 && s < 3 && field w0 7 0 == 0x0A
  | .mrunComplete n _ => n < 152
  | .lset n s w0 _ => n < 152 && s < 3 && field w0 7 0 == 0x0B
  | .brung n s w0 _ _ => n < 152 && s < 3 && field w0 7 0 == 0x0C
  | .jump n s w => n < 152 && s < 3 && field w 7 0 == 0x0D
  | .streamResume n s _ => n < 152 && s < 3
  | .streamResumeSkip n s _ => n < 152 && s < 3
  | .passDispatch n m => n < 152 && m < 4
  | .passDrainComplete n m f => n < 152 && m < 4 && f < 8
  | .outputPathTile n m => n < 152 && m < 4
  | .passComplete n m => n < 152 && m < 4
  | .shadowCompare n m => n < 152 && m < 4
  | .statsRecordMerge n m => n < 152 && m < 4
  | .frondFault n m f => n < 152 && m < 4 && f < 8
  | .drainParityError n m f => n < 152 && m < 4 && f < 8
  | .accMemUncorrectable n m _ => n < 152 && m < 4
  | .engPreemptSet n m => n < 152 && m < 4
  | .engPreemptClear n m => n < 152 && m < 4
  | .actLoadStart _ _ d _ => bit d 48
  | .actLoadDone n m => n < 152 && m < 4
  | .governorRun => true
  | .recordUp _ _ _ => true
  | .recordDown _ _ _ => true
  | .dmaDescriptorStart n ch => n < 152 && ch < 4
  | .dmaComplete n ch => n < 152 && ch < 4
  | .hbmScrubLine addr _ => addr < 2 ^ 44
  | .add n c w => n < 152 && c < 8 && (field w 7 0 == 0x01 || unlistedOp (field w 7 0))
  | .sub n c w => n < 152 && c < 8 && field w 7 0 == 0x02
  | .mul n c w => n < 152 && c < 8 && field w 7 0 == 0x03
  | .mulh n c w => n < 152 && c < 8 && field w 7 0 == 0x04
  | .div n c w => n < 152 && c < 8 && field w 7 0 == 0x05
  | .divu n c w => n < 152 && c < 8 && field w 7 0 == 0x06
  | .rem n c w => n < 152 && c < 8 && field w 7 0 == 0x07
  | .and n c w => n < 152 && c < 8 && field w 7 0 == 0x08
  | .or n c w => n < 152 && c < 8 && field w 7 0 == 0x09
  | .xor n c w => n < 152 && c < 8 && field w 7 0 == 0x0A
  | .shl n c w => n < 152 && c < 8 && field w 7 0 == 0x0B
  | .shr n c w => n < 152 && c < 8 && field w 7 0 == 0x0C
  | .sra n c w => n < 152 && c < 8 && field w 7 0 == 0x0D
  | .slt n c w => n < 152 && c < 8 && field w 7 0 == 0x0E
  | .sltu n c w => n < 152 && c < 8 && field w 7 0 == 0x0F
  | .addi n c w => n < 152 && c < 8 && field w 7 0 == 0x10
  | .andi n c w => n < 152 && c < 8 && field w 7 0 == 0x11
  | .ori n c w => n < 152 && c < 8 && field w 7 0 == 0x12
  | .lui n c w => n < 152 && c < 8 && field w 7 0 == 0x13
  | .fadd n c w => n < 152 && c < 8 && field w 7 0 == 0x20
  | .fsub n c w => n < 152 && c < 8 && field w 7 0 == 0x21
  | .fmul n c w => n < 152 && c < 8 && field w 7 0 == 0x22
  | .fdiv n c w => n < 152 && c < 8 && field w 7 0 == 0x23
  | .fsqrt n c w => n < 152 && c < 8 && field w 7 0 == 0x24
  | .fmin n c w => n < 152 && c < 8 && field w 7 0 == 0x25
  | .fmax n c w => n < 152 && c < 8 && field w 7 0 == 0x26
  | .beq n c w => n < 152 && c < 8 && field w 7 0 == 0x30
  | .bne n c w => n < 152 && c < 8 && field w 7 0 == 0x31
  | .blt n c w => n < 152 && c < 8 && field w 7 0 == 0x32
  | .bge n c w => n < 152 && c < 8 && field w 7 0 == 0x33
  | .bltu n c w => n < 152 && c < 8 && field w 7 0 == 0x34
  | .bgeu n c w => n < 152 && c < 8 && field w 7 0 == 0x35
  | .jal n c w => n < 152 && c < 8 && field w 7 0 == 0x36
  | .jalr n c w => n < 152 && c < 8 && field w 7 0 == 0x37
  | .ld n c w => n < 152 && c < 8 && field w 7 0 == 0x40
  | .st n c w => n < 152 && c < 8 && field w 7 0 == 0x41
  | .vld n c w => n < 152 && c < 8 && field w 7 0 == 0x42
  | .vst n c w => n < 152 && c < 8 && field w 7 0 == 0x43
  | .pld n c w => n < 152 && c < 8 && field w 7 0 == 0x44
  | .pst n c w => n < 152 && c < 8 && field w 7 0 == 0x45
  | .vadd n c w => n < 152 && c < 8 && field w 7 0 == 0x50
  | .vsub n c w => n < 152 && c < 8 && field w 7 0 == 0x51
  | .vmul n c w => n < 152 && c < 8 && field w 7 0 == 0x52
  | .vdiv n c w => n < 152 && c < 8 && field w 7 0 == 0x53
  | .vsqrt n c w => n < 152 && c < 8 && field w 7 0 == 0x54
  | .vmin n c w => n < 152 && c < 8 && field w 7 0 == 0x55
  | .vmax n c w => n < 152 && c < 8 && field w 7 0 == 0x56
  | .vabs n c w => n < 152 && c < 8 && field w 7 0 == 0x57
  | .vand n c w => n < 152 && c < 8 && field w 7 0 == 0x58
  | .vor n c w => n < 152 && c < 8 && field w 7 0 == 0x59
  | .vxor n c w => n < 152 && c < 8 && field w 7 0 == 0x5A
  | .vshl n c w => n < 152 && c < 8 && field w 7 0 == 0x5B
  | .vshr n c w => n < 152 && c < 8 && field w 7 0 == 0x5C
  | .vcmp n c w => n < 152 && c < 8 && field w 7 0 == 0x5D
  | .vsel n c w => n < 152 && c < 8 && field w 7 0 == 0x5E
  | .vperm n c w => n < 152 && c < 8 && field w 7 0 == 0x5F
  | .vbcast n c w => n < 152 && c < 8 && field w 7 0 == 0x60
  | .vmovg n c w => n < 152 && c < 8 && field w 7 0 == 0x61
  | .vmovv n c w => n < 152 && c < 8 && field w 7 0 == 0x62
  | .vreduce n c w => n < 152 && c < 8 && field w 7 0 == 0x63
  | .pand n c w => n < 152 && c < 8 && field w 7 0 == 0x64
  | .por n c w => n < 152 && c < 8 && field w 7 0 == 0x65
  | .pnot n c w => n < 152 && c < 8 && field w 7 0 == 0x66
  | .pcnt n c w => n < 152 && c < 8 && field w 7 0 == 0x67
  | .vcvt n c w => n < 152 && c < 8 && field w 7 0 == 0x70
  | .vgather n c w => n < 152 && c < 8 && field w 7 0 == 0x71
  | .vscatter n c w => n < 152 && c < 8 && field w 7 0 == 0x72
  | .vscaddUnordered n c w => n < 152 && c < 8 && field w 7 0 == 0x73 && !bit w 35
  | .vscaddOrdered n c w => n < 152 && c < 8 && field w 7 0 == 0x73 && bit w 35
  | .osync n c w => n < 152 && c < 8 && field w 7 0 == 0x74
  | .osyncBarrierComplete n _ => n < 152
  | .vsegred n c w => n < 152 && c < 8 && field w 7 0 == 0x75
  | .visect n c w => n < 152 && c < 8 && field w 7 0 == 0x76
  | .vmerge n c w => n < 152 && c < 8 && field w 7 0 == 0x77
  | .mpegpost n c w => n < 152 && c < 8 && field w 7 0 == 0x78
  | .mpegwait n c w => n < 152 && c < 8 && field w 7 0 == 0x79
  | .mpegwaitTimeout n c => n < 152 && c < 8
  | .mdma n c w => n < 152 && c < 8 && field w 7 0 == 0x7A
  | .fence n c w => n < 152 && c < 8 && field w 7 0 == 0x7B
  | .stop n c w => n < 152 && c < 8 && field w 7 0 == 0x7C
  | .coreRunEnd n c => n < 152 && c < 8
  | .timerd n c w => n < 152 && c < 8 && field w 7 0 == 0x7D
  | .mcsr n c w => n < 152 && c < 8 && field w 7 0 == 0x7E
  | .tagWaitDiag n s => n < 152 && s < 3
  | .announce _ _ _ _ => true
  | .sealDeadline b => b < 4096
  | .seal _ _ _ _ _ _ _ => true
  | .grant _ _ _ => true
  | .data _ _ _ _ _ => true
  | .dataEnd _ _ _ _ => true
  | .ring _ _ _ => true
  | .esc _ => true
  | .result _ _ _ => true
  | .shardSum _ _ _ => true
  | .final _ _ => true
  | .collectiveTimeout _ => true
  | .deviceReady => true
  | .report src _ _ => src < 16384
  | .decideCommit src _ _ => src < 16384
  | .decideAbort src _ _ => src < 16384
  | .deviceQuiet => true
  | .done src _ _ => src < 16384
  | .release src _ _ => src < 16384
  | .rootDecisionTimeout => true
  | .decisionWaitExpired => true
  | .doneWaitExpired => true
  | .releaseWaitExpired => true
  | .stepTimeout => true
  | .snapPeriodElapsed => true
  | .snapRequest => true
  | .snapFillDone => true
  | .snapHeaderWrite => true
  | .mirrorAckTimeout => true
  | .drainFlushComplete => true
  | .snapPush _ _ => true
  | .dataFlit l fl _ => l < 32 && wfFlit fl
  | .idleFlit l fl _ => l < 32 && wfFlit fl
  | .timeFlit l fl _ _ => l < 32 && wfFlit fl
  | .linkControlFlit l fl _ _ => l < 32 && wfFlit fl
  | .ackTimeout l => l < 32
  | .replayExhausted l => l < 32
  | .laneFail l lane => l < 32 && lane < 8
  | .linkTrainRetry l => l < 32
  | .linkTrained l _ _ _ => l < 32
  | .linkRetrain _ d _ => bit d 1
  | .linkEnableWrite l _ _ => l < 32
  | .write _ t => wfTxn t
  | .writeFin _ t => wfTxn t
  | .ack _ t => wfTxn t
  | .nack _ t => wfTxn t
  | .transactionTimeout _ => true
  | .transactionForward l t => l < 32 && wfTxn t
  | .routeTableLoad d _ => bit d 44
  | .routeTableLoaded => true
  | .timeFlitSend l _ => l < 32
  | .rootAnnounceTimeout l => l < 32
  | .timeSet _ _ => true
  | .timeNowRead => true
  | .ppsInEdge => true
  | .ppsInTimeout => true
  | .ppsOutRise => true
  | .ppsOutFall => true
  | .trateIntervalEnd f _ => f < 4
  | .trateClear f => f < 4
  | .bar2Write _ offset _ => offset < 2 ^ 40
  | .bar2Read _ offset _ => offset < 2 ^ 40
  | .hostReadTimeout => true
  | .registerWrite _ _ _ _ => true
  | .jobLoad _ page => page % 4096 == 0 && page < 2 ^ 44
  | .jobUnload _ => true
  | .logWrite _ => true
  | .logConsWrite _ => true
  | .logIrqTimer => true
  | .timePublish => true
  | .ptmDialog _ => true
  | .outboundError _ _ => true
  | .functionLevelReset => true
  | .d3hotEntry => true
  | .d0Entry => true
  | .pwrTargetWrite _ _ => true
  | .fieldOffWrite _ _ => true
  | .fieldIdleSleep f => f < 4
  | .hbmIdleSelfRefresh f => f < 4
  | .wakeOnAccess _ => true
  | .fieldWakeComplete f => f ≤ 4
  | .smbusWake _ => true
  | .smbusStretchTimeout => true
  | .vstepChange _ => true
  | .avsTransitionDone _ => true
  | .avsRetry _ => true
  | .shaperUpdate _ => true
  | .shaperCalibrate _ => true
  | .thermalSample temps => temps != []
  | .perstAssert => true
  | .resetRampDone => true
  | .perstDeassert => true
  | .pwrOkRise => true
  | .pwrOkFall => true
  | .refclkLoss => true
  | .bootRom _ => true
  | .recovGo => true
  | .fwProgram value _ => field value 49 48 == 1
  | .fwProgramDone _ => true
  | .fwAdvanceSvn value _ => field value 49 48 == 2
  | .getVersion _ => true
  | .getCapabilities _ => true
  | .negotiateAlgorithms _ _ => true
  | .getDigests _ => true
  | .getCertificate _ _ _ _ => true
  | .challenge _ _ _ => true
  | .getMeasurements _ _ _ _ => true
  | .keyExchange _ _ _ => true
  | .finish _ _ _ => true
  | .heartbeat _ _ => true
  | .keyUpdate _ _ _ => true
  | .endSession _ _ => true
  | .vendorDefinedIdeKm _ _ _ _ _ => true
  | .pldmRequest _ _ => true
  | .idcode => true
  | .samplePreload _ => true
  | .extest _ => true
  | .clamp => true
  | .highz => true
  | .dbgAccessRead scan => scan < 2 ^ 48 && scan % 16 != 2
  | .dbgAccessWrite addr _ => addr < 2 ^ 44
  | .dbgStatus => true
  | .scanSel _ => true
  | .bypass code => !([0x01, 0x02, 0x03, 0x04, 0x05, 0x20, 0x21, 0x30] : List Nat).contains code.toNat
  | .tapReset => true
  | .dbgUnlock value _ => bit value 3 && !bit value 4
  | .dbgRelock => true
  | .dbgNonceRefresh => true
  | .dbgHalt => true
  | .dbgResume => true
  | .dbgStep => true
  | .selftestGroup field phase _ _ => field < 4 && 1 ≤ phase && phase ≤ 6
  | .sliceDue => true
  | .sliceEnd _ => true
  | .hmapRetest _ => true
  | .registerRead _ _ _ => true
  | .configurationRequest _ => true
  | .l1Exit => true
  | .pcieRefclkLoss => true
  | .hbmSelfRefreshExit f => f < 4
  | .doeDiscovery _ => true

end Sys2Proof
end

