-- ==== Sys2Proof/Tests/Slice0.lean ====
section
/-! SUPPORT. Tests of the model: an ill-formed command for each check of WellFormed, a state that meets the hypotheses of each
statement (clause by clause, at the ends of the ranges where a clause has one), and a few single steps worked out by hand. -/

namespace Sys2Proof.Tests

open Sys2Proof Sys2Proof.Machine

set_option Elab.async false

/-- The rows of instruction words of a core (08 T8-3): no row takes the word of another opcode, of an absent thallus or core. -/
def marRows : List (Nat → Nat → Word → Instr) := [.add, .sub, .mul, .mulh, .div, .divu, .rem, .and, .or, .xor, .shl, .shr, .sra, .slt,
    .sltu, .addi, .andi, .ori, .lui, .fadd, .fsub, .fmul, .fdiv, .fsqrt, .fmin, .fmax, .beq, .bne, .blt, .bge, .bltu, .bgeu, .jal,
    .jalr, .ld, .st, .vld, .vst, .pld, .pst, .vadd, .vsub, .vmul, .vdiv, .vsqrt, .vmin, .vmax, .vabs, .vand, .vor, .vxor, .vshl, .vshr,
    .vcmp, .vsel, .vperm, .vbcast, .vmovg, .vmovv, .vreduce, .pand, .por, .pnot, .pcnt, .vcvt, .vgather, .vscatter, .vscaddUnordered,
    .vscaddOrdered, .osync, .vsegred, .visect, .vmerge, .mpegpost, .mpegwait, .mdma, .fence, .stop, .timerd, .mcsr]

/-- Their opcodes (08 T8-3). -/
def marOps : List Nat :=
  (List.range 0x13).map (· + 1) ++ (List.range 7).map (· + 0x20) ++ (List.range 8).map (· + 0x30) ++ (List.range 6).map (· + 0x40) ++
    (List.range 24).map (· + 0x50) ++ [0x70, 0x71, 0x72, 0x73, 0x73] ++ (List.range 11).map (· + 0x74)

/-- A word of each row: its opcode, and fa[1] of ordered VSCADD (08 R180, R181). -/
def marWords : List Nat := marOps.zipIdx.map fun (o, i) => if i == 68 then o + 2 ^ 35 else o

/-- A row takes the word of its own opcode, for the last thallus and core. -/
theorem test_wf_core_rows_take_their_opcode :
    ((marRows.zip marWords).all fun (f, o) => (f 151 7 (BitVec.ofNat 64 o)).wf) = true ∧ marRows.length = 80 ∧ marOps.length = 80 := by
  decide +kernel

/-- Each form of VSCADD refuses the word of the other. -/
theorem test_wf_vscadd_forms : (Instr.vscaddUnordered 0 0 (BitVec.ofNat 64 (0x73 + 2 ^ 35))).wf = false ∧
    (Instr.vscaddOrdered 0 0 0x73).wf = false := by decide +kernel

/-- A row refuses the opcodes of the other rows. -/
theorem test_wf_core_rows_refuse_another_opcode :
    ((marRows.zip marOps).all fun (f, o) => marOps.all fun p => p == o || !(f 0 0 (BitVec.ofNat 64 p)).wf) = true := by decide +kernel

theorem test_wf_core_rows_refuse_absent_units :
    ((marRows.zip marOps).all fun (f, o) => !(f 152 0 (BitVec.ofNat 64 o)).wf && !(f 0 8 (BitVec.ofNat 64 o)).wf) = true := by decide +kernel

/-- The rows of instructions of a stream, with the first word of each (06 T6-2). -/
def strmRows : List ((Nat → Nat → Word → Instr) × Nat) := [(fun n s w => .issue n s w ⟨0, 0, 0, 0⟩, 0x01), (.pegwait, 0x02), (.pegpost, 0x03),
  (fun n s w => .dma n s w 0, 0x04), (.bopen, 0x05), (fun n s w => .bcontrib n s w 0 0, 0x06),
  (fun n s w => .markEndOfForward n s w 0, 0x07), (fun n s w => .markEnd n s w 0, 0x107), (fun n s w => .markTrace n s w 0, 0x207),
  (.epoch, 0x08), (fun n s w => .upd n s w 0, 0x09), (fun n s w => .mrun n s w 0, 0x0A), (fun n s w => .lset n s w 0, 0x0B),
  (fun n s w => .brung n s w 0 0, 0x0C), (.jump, 0x0D)]

theorem test_wf_stream_rows :
    (strmRows.all fun (f, o) => (f 151 2 (BitVec.ofNat 64 o)).wf && !(f 152 0 (BitVec.ofNat 64 o)).wf && !(f 0 3 (BitVec.ofNat 64 o)).wf &&
      strmRows.all fun (_, p) => p == o || !(f 0 0 (BitVec.ofNat 64 p)).wf) = true := by decide +kernel

/-- Rows of a thallus, stream, engine, frond, channel and core without a word: one unit number beyond the last each. -/
theorem test_wf_unit_numbers :
    ([.pegwaitTimeout 152 0, .pegwaitTimeout 0 3, .pegPostEv 152 0 0 0, .pegpostFenceDone 152 0, .pegpostFenceDone 0 3, .endOfForwardLossCheck 152,
      .updComplete 152 0, .mrunComplete 152 0, .streamResume 152 0 .debug, .streamResume 0 3 .debug, .streamResumeSkip 152 0 .debug,
      .streamResumeSkip 0 3 .debug, .passDispatch 152 0, .passDispatch 0 4, .passDrainComplete 152 0 0, .passDrainComplete 0 4 0,
      .passDrainComplete 0 0 8, .outputPathTile 152 0, .outputPathTile 0 4, .passComplete 152 0, .passComplete 0 4, .shadowCompare 152 0,
      .shadowCompare 0 4, .statsRecordMerge 152 0, .statsRecordMerge 0 4, .frondFault 152 0 0, .frondFault 0 4 0, .frondFault 0 0 8,
      .drainParityError 152 0 0, .drainParityError 0 4 0, .drainParityError 0 0 8, .accMemUncorrectable 152 0 0, .accMemUncorrectable 0 4 0,
      .engPreemptSet 152 0, .engPreemptSet 0 4, .engPreemptClear 152 0, .engPreemptClear 0 4, .actLoadDone 152 0, .actLoadDone 0 4,
      .dmaDescriptorStart 152 0, .dmaDescriptorStart 0 4, .dmaComplete 152 0, .dmaComplete 0 4, .osyncBarrierComplete 152 0,
      .mpegwaitTimeout 152 0, .mpegwaitTimeout 0 8, .coreRunEnd 152 0, .coreRunEnd 0 8, .tagWaitDiag 152 0, .tagWaitDiag 0 3] : List Instr).all
      (fun i => !i.wf) = true := by decide +kernel

/-- Pegs, buckets, addresses, device identifiers and pages. -/
theorem test_wf_operand_ranges :
    ([.pegPostEv 0 64 0 0, .hbmScrubLine (2 ^ 44) .clean, .sealDeadline 4096, .report 16384 0 0, .decideCommit 16384 0 0, .decideAbort 16384 0 0,
      .done 16384 0 0, .release 16384 0 0, .bar2Write 0 (2 ^ 40) [], .bar2Read 0 (2 ^ 40) 4, .jobLoad 0 2048, .jobLoad 0 (2 ^ 44),
      .dbgAccessRead (2 ^ 48 + 1), .dbgAccessRead 2, .dbgAccessRead 0x12, .dbgAccessWrite (2 ^ 44) 0, .thermalSample []] : List Instr).all (fun i => !i.wf) = true := by decide +kernel

/-- Fields, self-test phases, and the bypass code of a listed TAP instruction. -/
theorem test_wf_fields_phases_and_codes :
    ([.trateIntervalEnd 4 0, .trateClear 4, .fieldIdleSleep 4, .hbmIdleSelfRefresh 4, .fieldWakeComplete 5, .hbmSelfRefreshExit 4,
      .selftestGroup 4 1 false [], .selftestGroup 0 0 false [], .selftestGroup 0 7 false [], .bypass 0x01, .bypass 0x30] : List Instr).all
      (fun i => !i.wf) = true := by decide +kernel

/-- The bits that make a register write the command of its row. -/
theorem test_wf_command_bits :
    ([.actLoadStart 0 0 0 .debug, .linkRetrain 0 1 .debug, .routeTableLoad 0 .debug, .fwProgram (2 * 2 ^ 48) .debug, .fwAdvanceSvn (2 ^ 48) .debug,
      .dbgUnlock 0 true, .dbgUnlock 0x18 true] : List Instr).all (fun i => !i.wf) = true := by decide +kernel

/-- A flit of sequence number `q` acknowledging `a`. -/
def flitOf (q a : Nat) (slots : List Slot) : Flit := ⟨q, a, true, false, 0, 0, 0, 0, 0xFF, 0, slots⟩

def goodFec : Fec := ⟨[], true⟩

/-- Five bytes in error in the first codeword. -/
def badFec : Fec := ⟨[0, 2, 4, 6, 8], false⟩
def noTime : TimeInfo := ⟨0, false, 0, 0, 0, none, false⟩

/-- Links, lanes, flits and transactions. -/
theorem test_wf_links_flits_and_transactions :
    ([.dataFlit 32 (flitOf 0 0 []) goodFec, .dataFlit 0 (flitOf 4096 0 []) goodFec, .dataFlit 0 (flitOf 0 4096 []) goodFec,
      .dataFlit 0 (flitOf 0 0 (List.replicate 15 .empty)) goodFec, .idleFlit 32 (flitOf 0 0 []) goodFec, .idleFlit 0 (flitOf 4096 0 []) goodFec,
      .timeFlit 32 (flitOf 0 0 []) goodFec noTime, .timeFlit 0 (flitOf 4096 0 []) goodFec noTime,
      .linkControlFlit 32 (flitOf 0 0 []) goodFec .disable, .linkControlFlit 0 (flitOf 4096 0 []) goodFec .disable, .ackTimeout 32,
      .replayExhausted 32, .laneFail 32 0, .laneFail 0 8, .linkTrainRetry 32, .linkTrained 32 0xFF 0 0, .linkEnableWrite 32 0 .debug,
      .write none ⟨16384, 0, 0, .ack []⟩, .write none ⟨0, 16384, 0, .ack []⟩, .writeFin none ⟨16384, 0, 0, .ack []⟩,
      .ack none ⟨16384, 0, 0, .ack []⟩, .nack none ⟨16384, 0, 0, .ack []⟩, .transactionForward 32 ⟨0, 0, 0, .ack []⟩,
      .transactionForward 0 ⟨0, 16384, 0, .ack []⟩, .timeFlitSend 32 0, .rootAnnounceTimeout 32] : List Instr).all (fun i => !i.wf) = true := by
  decide +kernel

/-- Well-formed commands at the last value of each range. -/
theorem test_wf_takes_the_last_values :
    ([.pegPostEv 151 63 0 0, .passDrainComplete 151 3 7, .dmaComplete 151 3, .hbmScrubLine (2 ^ 44 - 1) .clean, .sealDeadline 4095,
      .report 16383 0 0, .bar2Write 0 (2 ^ 40 - 1) [], .jobLoad 0 (2 ^ 44 - 4096), .dbgAccessRead (2 ^ 48 - 1), .thermalSample [25],
      .trateClear 3, .fieldWakeComplete 4, .selftestGroup 3 6 true [], .bypass 0xFF, .actLoadStart 0 0 (2 ^ 48) .debug, .linkRetrain 0 2 .debug,
      .routeTableLoad (2 ^ 44) .debug, .fwProgram (2 ^ 48) .debug, .fwAdvanceSvn (2 * 2 ^ 48) .debug, .dbgUnlock 8 true,
      .dataFlit 31 (flitOf 4095 4095 (List.replicate 14 .empty)) goodFec, .laneFail 31 7, .write none ⟨16383, 16383, 0, .ack []⟩] :
      List Instr).all (fun i => i.wf) = true := by decide +kernel

/-! ## States for the witnesses -/

/-- A device that runs, with one thallus, one HBM stack and one link. -/
def dev : State := { State.reset with
  rst := .running
  caps := { thlField := [1, 0, 0, 0], stackEn := 1, linkEn := 1, thlPhys := [0] }
  thl := [{}], port := { linkUp := true }, pwr := { fieldOn := 1, hbmActive := 1 } }

/-- The device with every core as `k`, running. -/
def coreDev (k : Core) : State := { dev with thl := [{ core := List.replicate 8 { k with state := .running } }] }

/-- The device with every stream as `k`, running. -/
def strmDev (k : Stream) : State := { dev with thl := [{ strm := List.replicate 3 { k with state := .running } }] }

/-- The device with every engine as `e`. -/
def engDev (e : Engine) : State := { dev with thl := [{ eng := List.replicate 4 e }] }

/-- The device with its link as `k`. -/
def linkDev (k : Link) : State := { dev with lnk := { link := k :: List.replicate 31 {}, devId := 1, devValid := true } }

/-- A job is loaded. -/
def jobbed (s : State) : State := { s with pci := { s.pci with jobState := 2 } }

/-- Plain memory reads as what it holds. -/
theorem readsAs_of {s : State} {a n : Nat} {bs : List Byte} (h : Plain s a n) (e : s.mem.gets a n = bs) : ReadsAs s a n bs := e ▸ h.reads

/-! ## Marionette cores: the last core of the thallus, and the operands at the ends of their ranges -/

theorem test_meets_RegisterFileReadsBackWrites : (31 < 32) ∧ (7 < 8) := by decide

theorem test_meets_ScalarIntegerResults : CoreRuns (coreDev {}) 0 7 ∧ fOp 0x01 = 0x01 := by decide +kernel

theorem test_meets_ScalarFloatResults : CoreRuns (coreDev {}) 0 7 ∧ (1 : Nat) ≠ 0 := by decide +kernel

/-- The last finite pattern of E4M3, and a tie in the rounding at 2. -/
theorem test_meets_RoundingAndEncodings : 0 < 1 ∧ 2 * 5 = 2 * roundAt .rne 5 0 1 * 2 ^ 1 + 2 ^ 1 ∧
    (∀ t ∈ [e4m3, e5m2, bf16, fp16, fp32, fp64, fp32p8, m48], 0 < 2 ^ t.width ∧ t.decode 0 ≠ .nan) ∧
    0xFE < 2 ^ e4m3.width ∧ e4m3.decode 0xFE ≠ .nan := by decide +kernel

/-- A branch that is taken, and one that is not, at the first and the last word of HBM. -/
theorem test_meets_BranchesAndCalls : CoreRuns (coreDev {}) 0 7 ∧ CoreRuns (coreDev { pc := 2 ^ 36 - 8 }) 0 7 := by decide +kernel

/-- A vector word with format code `fb` and element width code `ew`. -/
def vWord (fb ew : Nat) : Word := BitVec.ofNat 64 (fb * 2 ^ 39 + ew * 2 ^ 32)

theorem test_meets_VectorArithmeticResults : CoreRuns (coreDev {}) 0 7 ∧ vkindOf (vWord 0x05 0) = some (.flt bf16) ∧
    vkindOf (vWord 0x06 0) = some (.flt fp16) ∧ vkindOf (vWord 0x07 0) = some (.flt fp32) ∧ vkindOf (vWord 0x08 0) = some (.flt fp64) ∧
    vkindOf (vWord 0x0C 3) = some (.int (fEw (vWord 0x0C 3))) := by decide +kernel

/-- The last element of each width. -/
theorem test_meets_ElementsFollowThePredicate : ∀ e ∈ [8, 16, 32, 64], 1024 / e - 1 < 1024 / e := by decide

theorem test_meets_SelectsMovesAndReductions : CoreRuns (coreDev {}) 0 7 ∧ fPg (vWord 0x07 2) = 0 ∧
    vkindOf (vWord 0x07 2) = some (.flt fp32) ∧ fFa (vWord 0x07 2) < 3 ∧ 31 < (List.replicate 32 0).length := by decide +kernel

theorem test_meets_PredicateLogicAndCompare : CoreRuns (coreDev {}) 0 7 ∧ vkindOf (vWord 0x0C 3) = some (.int 64) := by decide +kernel

/-- The access word of size code `z`, global, with predicate `p`, whose base is g1. -/
def mWord (z p : Nat) : Word := BitVec.ofNat 64 (z * 2 ^ 22 + p * 2 ^ 19 + 2 ^ 18 + 2 ^ 13)

/-- A core whose g1 holds `a`. -/
def atBase (a : Nat) : State := coreDev { g := [0, BitVec.ofNat 64 a] ++ List.replicate 30 0 }

/-- The last 8, 128 and 16 bytes of HBM, and the first of an absent store. -/
theorem test_meets_LoadsGiveMemory :
    (let s := atBase (2 ^ 36 - 8)
     CoreRuns s 0 7 ∧ fMpg (mWord 3 0) = 0 ∧ Accesses 0 7 (mWord 3 0) s (fSize (mWord 3 0)) (fSize (mWord 3 0)) (2 ^ 36 - 8) ∧
       ReadsAs s (2 ^ 36 - 8) 8 (List.replicate 8 0)) ∧
    (let s := atBase (2 ^ 36 - 128)
     Accesses 0 7 (mWord 3 0) s 128 64 (2 ^ 36 - 128) ∧ ReadsAs s (2 ^ 36 - 128) 128 (List.replicate 128 0)) ∧
    (let s := atBase (2 ^ 36 - 16)
     Accesses 0 7 (mWord 3 0) s 16 16 (2 ^ 36 - 16) ∧ ReadsAs s (2 ^ 36 - 16) 16 (List.replicate 16 0)) ∧
    (let s := atBase (storeBase + 0x1000000)
     CoreRuns s 0 7 ∧ Accesses 0 7 (mWord 3 0) s 8 8 (storeBase + 0x1000000) ∧ resolve s (storeBase + 0x1000000) = none) := by
  refine ⟨⟨by decide +kernel, by decide +kernel, by unfold Accesses; decide +kernel, readsAs_of (by unfold Plain; decide +kernel) (by decide +kernel)⟩,
    ⟨by unfold Accesses; decide +kernel, readsAs_of (by unfold Plain; decide +kernel) (by decide +kernel)⟩,
    ⟨by unfold Accesses; decide +kernel, readsAs_of (by unfold Plain; decide +kernel) (by decide +kernel)⟩, by unfold Accesses; decide +kernel⟩

/-- The last bytes of the first store. -/
theorem test_meets_StoresWriteExactlyTheirBytes :
    (let s := atBase (storeBase + 0x1000000 - 8)
     CoreRuns s 0 7 ∧ fMpg (mWord 3 0) = 0 ∧ Accesses 0 7 (mWord 3 0) s 8 8 (storeBase + 0x1000000 - 8) ∧
       Plain s (storeBase + 0x1000000 - 8) 8 ∧ s.mem.wf = true) ∧
    (let s := atBase (storeBase + 0x1000000 - 128)
     Accesses 0 7 (mWord 3 1) s 128 64 (storeBase + 0x1000000 - 128) ∧ Plain s (storeBase + 0x1000000 - 128) 128) ∧
    (let s := atBase (storeBase + 0x1000000 - 16)
     Accesses 0 7 (mWord 3 1) s 16 16 (storeBase + 0x1000000 - 16) ∧ Plain s (storeBase + 0x1000000 - 16) 16) := by
  unfold Accesses Plain; decide +kernel

/-- Each clause at the ends of its range: 64 KiB of scratch, 44 bits of address, register space, the end of the stores. -/
theorem test_meets_AddressChecksOfAccesses : 0 < 8 ∧ 0x10001 % 8 ≠ 0 ∧ 0xFFF8 % 8 = 0 ∧ 0xFFF8 + 8 ≤ 0x10000 ∧ 0x10000 < 0x10000 + 8 ∧
    2 ^ 44 % 8 = 0 ∧ 2 ^ 44 ≤ 2 ^ 44 ∧ 0x020000000000 % 8 = 0 ∧ 0x020003FFFFF8 < 0x020004000000 ∧ 0x01008FFFFFF8 + 8 ≤ 0x010090000000 ∧
    checkAddr 0 7 false 0xFFF8 8 8 = .inr 0x01F00007FFF8 ∧ checkAddr 0 7 false 0x10000 8 8 = .inl 0x52 := by decide +kernel

/-- The misaligned and the out-of-range access of each kind, and a word of each illegal form. -/
theorem test_meets_CoreFaultsBeforeAnyEffect :
    (let s := atBase 1
     CoreRuns s 0 7 ∧ ∀ p ∈ [(8, 8), (128, 64), (16, 16)],
       checkAddr 0 7 (fGsp (mWord 3 0)) (effAddr ((coreOf s 0 7).gR (fA (mWord 3 0))) (fImm (mWord 3 0))) p.1 p.2 = .inl 0x51) ∧
    (let s := atBase (2 ^ 44)
     ∀ p ∈ [(8, 8), (128, 64), (16, 16)],
       checkAddr 0 7 (fGsp (mWord 3 0)) (effAddr ((coreOf s 0 7).gR (fA (mWord 3 0))) (fImm (mWord 3 0))) p.1 p.2 = .inl 0x52) ∧
    (let s := coreDev { pc := storeBase + 0x1000000 }
     CoreAt s 0 7 ∧ resolve s (coreOf s 0 7).pc = none) ∧
    fMpg (mWord 3 0) = 0 ∧ fOp 0x7F ≠ 0x01 ∧ fMpg (mWord 3 1) ≠ 0 ∧ fFb (vWord 0x1F 0) = 0x1F ∧ fFb (vWord 0x0E 0) = 0x0E ∧
    fPg (BitVec.ofNat 64 (2 ^ 28)) ≠ 0 ∧ field (BitVec.ofNat 64 (3 * 2 ^ 44)) 45 44 = 3 ∧ fFa (BitVec.ofNat 64 (0x0E * 2 ^ 34)) = 0x0E ∧
    (fFa (BitVec.ofNat 64 (0x0D * 2 ^ 34 + 2 ^ 13)) = 0x0D ∧ fA (BitVec.ofNat 64 (0x0D * 2 ^ 34 + 2 ^ 13)) % 2 = 1) ∧
    (bit (BitVec.ofNat 64 (2 ^ 35 + 2 ^ 8)) 35 = true ∧ fD (BitVec.ofNat 64 (2 ^ 35 + 2 ^ 8)) % 2 = 1) ∧ fEw (vWord 0x07 3) ≠ 32 ∧
    fFb (vWord 0x05 0) = 0x05 := by decide +kernel

/-- The word of VCVT from `fa` to `fb`, its destination in v2, its flags in p1. -/
def cvtWord (fa fb : Nat) : Word := BitVec.ofNat 64 (fb * 2 ^ 39 + fa * 2 ^ 34 + 2 * 2 ^ 8 + 2 ^ 52)

/-- FP32 to FP32, and a scale that is replaced (g1 holds 0); INT8, M48 and MX targets at their last elements; the two sides of the
largest value of INT8 and of FP8 E4M3; MX blocks with a NaN, of zeros, and of the largest finite values. -/
theorem test_meets_ConvertResultsAndFlags :
    (let w : Word := BitVec.ofNat 64 (0x07 * 2 ^ 39 + 0x07 * 2 ^ 34 + 2 ^ 23)
     let s := coreDev {}
     CoreRuns s 0 7 ∧ cvtLegal w = true ∧ fGx w ≠ 0 ∧ scaleOk ((((coreOf s 0 7).gR (fGx w))).setWidth 32) = false) ∧
    ({ cstat := 16 : Core }).cstat.getLsbD 4 = true ∧
    (nfmtOf (fFb (cvtWord 7 0x0A)) = some (.int 8) ∧ isMx (fFb (cvtWord 7 0x0A)) = false ∧ 31 < cvtCount (fFa (cvtWord 7 0x0A)) (fFb (cvtWord 7 0x0A)) ∧
      fFb (cvtWord 7 0x0A) ≠ 0x0D ∧ fPd (cvtWord 7 0x0A) ≠ 0 ∧ 31 < 128) ∧
    (nfmtOf (fFb (cvtWord 7 0x0D)) = some (.flt m48) ∧ fFb (cvtWord 7 0x0D) = 0x0D ∧ fD (cvtWord 7 0x0D) % 2 = 0 ∧
      31 < cvtCount (fFa (cvtWord 7 0x0D)) (fFb (cvtWord 7 0x0D))) ∧
    (isMx (fFb (cvtWord 7 0x15)) = true ∧ fGd (cvtWord 7 0x15 ||| BitVec.ofNat 64 (31 * 2 ^ 55)) ≠ 0) ∧
    (e4m3.roundBits .rne 14 5 ≤ e4m3.maxBits ∧ e4m3.maxBits < e4m3.roundBits .rne 15 5) ∧
    ((127 : Int) ≤ 2 ^ (8 - 1) - 1 ∧ (2 ^ (8 - 1) - 1 : Int) < 128 ∧ -(2 ^ (8 - 1) : Int) ≤ -128 ∧ (-129 : Int) < -(2 ^ (8 - 1) : Int)) ∧
    (isMx 0x10 = true ∧ nfmtOf 0x10 = some (.flt e2m1) ∧ isMx 0x15 = true ∧ nfmtOf 0x15 = some .fix8 ∧
      Fp.nan.isNan = true ∧ ([.fin true 0 0, .fin false 0 0] : List Fp) = [(true, (0 : Int)), (false, 0)].map (fun z => .fin z.1 0 z.2) ∧
      (∀ y ∈ ([.fin false 0 0, .fin true 3 1] : List Fp), y.isNan = false ∧ y.isInf = false) ∧
      ∃ y ∈ ([.fin false 0 0, .fin true 3 1] : List Fp), y.isZero = false) := by decide +kernel

theorem test_meets_ScanCarriesTheOpenSegment : CoreRuns (coreDev {}) 0 7 ∧ segKind (vWord 0x08 0) = some (.flt fp64) ∧
    fFa (vWord 0x08 0) < 3 ∧ fFa (BitVec.ofNat 64 (0x07 * 2 ^ 39 + 2 * 2 ^ 34)) = 2 := by decide +kernel

theorem test_meets_IntersectAndMergeSteps : CoreRuns (coreDev {}) 0 7 ∧ fEw (vWord 0 2) = 32 ∧ fEw (vWord 0 3) = 64 ∧ fPg (vWord 0 3) = 0 ∧
    (bit (vWord 0 3 ||| BitVec.ofNat 64 (2 ^ 35)) 35 = true ∧ fA (vWord 0 3 ||| BitVec.ofNat 64 (2 ^ 35)) % 2 = 0) := by decide +kernel

/-- The indexed word over 32-bit elements, global, base g1, under p0. -/
def ixWord (fb : Nat) : Word := BitVec.ofNat 64 (fb * 2 ^ 39 + 2 ^ 34 + 2 * 2 ^ 32 + 2 ^ 23)

/-- Two active lanes, the first and the last of 32: p1 names them. -/
def laneState : State := coreDev { g := [0, BitVec.ofNat 64 storeBase] ++ List.replicate 30 0, p := [0, 0x80000001] ++ List.replicate 6 0 }

def laneWord (fb : Nat) : Word := ixWord fb ||| BitVec.ofNat 64 (2 ^ 28)

def laneAddrs : List (Nat × Nat) := [(0, storeBase), (31, storeBase)]

theorem test_meets_GatherLoadsActiveLanes : CoreRuns laneState 0 7 ∧ Lanes 0 7 (laneWord 0) laneState laneAddrs ∧
    (∀ p ∈ laneAddrs, ReadsAs laneState p.2 (fEw (laneWord 0) / 8) [0, 0, 0, 0]) := by
  have h : Plain laneState storeBase 4 := by unfold Plain; decide +kernel
  refine ⟨by decide +kernel, by unfold Lanes; decide +kernel, fun p hp => ?_⟩
  have : p.2 = storeBase := by
    simp only [laneAddrs, List.mem_cons, List.not_mem_nil, or_false] at hp
    rcases hp with rfl | rfl <;> rfl
  rw [this]
  exact readsAs_of h (by decide +kernel)

theorem test_meets_ScatterStoresActiveLanes : CoreRuns laneState 0 7 ∧ fOrdered (laneWord 0x07) = false ∧ fEw (laneWord 0x07) = 32 ∧ fFb (laneWord 0x07) = 0x07 ∧
    fFb (laneWord 0x0C) = 0x0C ∧ Lanes 0 7 (laneWord 0x0C) laneState laneAddrs ∧ lanePlain (laneWord 0x0C) laneState laneAddrs ∧
    laneState.mem.bytes.wf = true ∧ ∀ p ∈ laneAddrs, storeBase + 4 < p.2 ∨ p.2 + 4 ≤ storeBase + 4 := by
  unfold Lanes lanePlain Plain; decide +kernel

/-- The ordered form of the word. -/
def ordWord (fb : Nat) : Word := laneWord fb ||| BitVec.ofNat 64 (2 ^ 35)

/-- Two contributions where 510 are held, and where 511 are. -/
theorem test_meets_OrderedAddsAreHeld :
    (let s := fun n : Nat => coreDev { g := [0, BitVec.ofNat 64 storeBase] ++ List.replicate 30 0, ordCount := BitVec.ofNat 10 n
                                       p := [0, 0x80000001] ++ List.replicate 6 0 }
     (∀ fb ∈ [0x07, 0x0C], fOrdered (ordWord fb) = true ∧ fEw (ordWord fb) = 32 ∧ fFb (ordWord fb) = fb) ∧
     CoreRuns (s 510) 0 7 ∧ Lanes 0 7 (ordWord 0x07) (s 510) laneAddrs ∧ (coreOf (s 510) 0 7).ordCount.toNat + laneAddrs.length ≤ 512 ∧
     CoreRuns (s 511) 0 7 ∧ Lanes 0 7 (ordWord 0x07) (s 511) laneAddrs ∧ 512 < (coreOf (s 511) 0 7).ordCount.toNat + laneAddrs.length) := by
  unfold Lanes; decide +kernel

/-- A run of all eight cores that wait at the barrier with one contribution held. -/
def barRun : Run := { mask := 0xFF, atBarrier := 0xFF, contribs := [⟨0, 7, 31, storeBase, 1, true⟩] }

def barDev : State := { dev with thl := [{ core := List.replicate 8 { state := .barrier }, runs := [barRun] }] }

theorem test_meets_BarrierAppliesInKeyOrder : CoreRuns (coreDev {}) 0 7 ∧ hasThl barDev 0 = true ∧ 0 < (thlOf barDev 0).runs.length ∧
    barRun.isUpd = false ∧ (barRun.atBarrier ||| barRun.stopped) &&& barRun.mask = barRun.mask ∧ barRun.atBarrier ≠ 0 ∧
    (∀ x ∈ barRun.contribs, x.addr % 4 = 0 ∧ Plain barDev x.addr 4) ∧ (coreOf barDev 0 7).state = .barrier ∧
    (let r : Run := { barRun with atBarrier := 0, stopped := 0xFF }
     (r.atBarrier ||| r.stopped) &&& r.mask = r.mask ∧ r.contribs ≠ []) := by
  unfold Plain; decide +kernel

/-- A core that stops, in a run of all cores that have ended but it. -/
def endDev : State := { dev with thl := [{ core := List.replicate 8 { state := .stopping }, runs := [{ mask := 0xFF, ended := 0x7F }] }] }

def endedDev : State := { dev with thl := [{ runs := [{ mask := 0xFF, ended := 0xFF }] }] }

theorem test_meets_RunsEndWhenTheirCoresHave : CoreRuns (coreDev {}) 0 7 ∧
    (hasCore endDev 0 7 = true ∧ (coreOf endDev 0 7).state = .stopping ∧ (∀ d ∈ dmaOf endDev 0 3, d.core ≠ some 7) ∧
      (coreOf endDev 0 7).dmaLost = false ∧ runIdx endDev 0 7 < (thlOf endDev 0).runs.length ∧
      ∀ x ∈ ((thlOf endDev 0).runs.getD (runIdx endDev 0 7) {}).contribs, x.c ≠ 7) ∧
    (let r := (thlOf endedDev 0).runs.getD 0 {}
     hasThl endedDev 0 = true ∧ 0 < (thlOf endedDev 0).runs.length ∧ r.isUpd = false ∧ r.ended &&& r.mask = r.mask ∧ r.contribs = []) := by
  decide +kernel

/-- The last peg of the own thallus, a target reached and one above; a full and a free channel; the timeout of a waiting core. -/
theorem test_meets_CorePegsAndFences :
    (let w : Word := BitVec.ofNat 64 (63 * 2 ^ 8)
     let u : Word := BitVec.ofNat 64 (2 ^ 32 + 63 * 2 ^ 8)
     let s := coreDev {}
     CoreRuns s 0 7 ∧ bit w 14 = false ∧ (if bit w 15 then field w 23 16 else 0) < s.thl.length ∧
     field w 63 32 ≤ pegOf s 0 (field w 13 8) ∧ pegOf s 0 (field u 13 8) < field u 63 32 ∧
     (∀ d ∈ dmaOf s 0 3, d.core ≠ some 7) ∧ (coreOf s 0 7).dmaLost = false ∧ (dmaOf s 0 3).length < 16) ∧
    (let s : State := { dev with thl := [{ core := List.replicate 8 { state := .pegWait, waitTimer := some 0 } }] }
     hasCore s 0 7 = true ∧ (coreOf s 0 7).state = .pegWait ∧ (coreOf s 0 7).waitTimer = some 0 ∧ (coreOf s 0 7).dbg.mode ≠ 2) ∧
    (let s : State := { dev with thl := [{ core := List.replicate 8 { state := .running }
                                           dma := [[], [], [], List.replicate 16 { core := some 7 }] }] }
     CoreRuns s 0 7 ∧ (∃ d ∈ dmaOf s 0 3, d.core = some 7) ∧ 16 ≤ (dmaOf s 0 3).length) := by decide +kernel

/-- The last peg, to its largest value, beyond it with room in the log, and a core and a stream that wait for it. -/
theorem test_meets_PegPostsAddAndSaturate :
    (let s : State := { dev with thl := [{ peg := List.replicate 64 1, core := List.replicate 8 { state := .pegWait, waitPeg := 63, waitTarget := 2 }
                                           strm := List.replicate 3 { state := .pegWait, waitPeg := 63, waitTarget := 2 } }] }
     hasThl s 0 = true ∧ 63 < 64 ∧ pegOf s 0 63 + 0xFFFFFFFE ≤ 0xFFFFFFFF ∧ 0xFFFFFFFF < pegOf s 0 63 + 0xFFFFFFFF ∧
     (thlOf s 0).pegSat.getLsbD 63 = false ∧ s.log.buf.length < 4096 ∧ 7 < (thlOf s 0).core.length ∧ (coreOf s 0 7).state = .pegWait ∧
     (coreOf s 0 7).waitPeg.toNat = 63 ∧ (coreOf s 0 7).waitTarget.toNat ≤ min (pegOf s 0 63 + 1) 0xFFFFFFFF ∧
     2 < (thlOf s 0).strm.length ∧ (strmOf s 0 2).waitTarget.toNat ≤ min (pegOf s 0 63 + 1) 0xFFFFFFFF) := by decide +kernel

/-! ## Streams: the last stream of the thallus -/

/-- A read whose every byte is there, is correctable and is the byte given. -/
theorem readsAs_at {s : State} {a n : Nat} {bs : List Byte} (hl : bs.length = n)
    (h : ((List.range n).all fun i => (resolve s (a + i)).any fun p => !s.mem.bad p && bs.getD i 0 == s.mem.get p) = true) :
    ReadsAs s a n bs := by
  refine ⟨hl, fun i hi => ?_⟩
  have := List.all_eq_true.mp h i (List.mem_range.mpr hi)
  rw [Option.any_eq_true] at this
  obtain ⟨p, h1, h2⟩ := this
  simp only [Bool.and_eq_true, Bool.not_eq_true', beq_iff_eq] at h2
  exact ⟨p, h1, h2.1, h2.2⟩

/-- A stream whose fetch finds its words takes its instruction. -/
theorem takes_of {s : State} {n q words : Nat} (hm : fetchLost s (strmOf s n q).pc words = none)
    (h : hasStrm s n q = true ∧ strmReady s n q = true ∧ (strmOf s n q).dbg.mode ≠ 3 ∧
      ((strmOf s n q).dbg.skipBp = true ∨ (strmOf s n q).state = .held ∨ bpAt s 2 n q (strmOf s n q).pc = none)) :
    StrmTakes s n q words := ⟨h.1, h.2.1, h.2.2.1, h.2.2.2, hm⟩

theorem runs_of {s : State} {n q words : Nat} (hm : fetchLost s (strmOf s n q).pc words = none)
    (h : hasStrm s n q = true ∧ strmReady s n q = true ∧ (strmOf s n q).dbg.mode ≠ 3 ∧
      ((strmOf s n q).dbg.skipBp = true ∨ (strmOf s n q).state = .held ∨ bpAt s 2 n q (strmOf s n q).pc = none))
    (hk : (strmOf s n q).marked = false) : StrmRuns s n q words := ⟨takes_of hm h, hk⟩

theorem strmDev_runs (words : Nat) (h : words < 6 := by decide) :
    StrmRuns (strmDev {}) 0 0 words ∧ StrmRuns (strmDev {}) 0 1 words ∧ StrmRuns (strmDev {}) 0 2 words :=
  have f : ∀ w < 6, ∀ q < 3, fetchLost (strmDev {}) (strmOf (strmDev {}) 0 q).pc w = none := by decide +kernel
  ⟨runs_of (f words h 0 (by decide)) (by decide +kernel) (by decide +kernel), runs_of (f words h 1 (by decide)) (by decide +kernel) (by decide +kernel),
    runs_of (f words h 2 (by decide)) (by decide +kernel) (by decide +kernel)⟩

/-- The last peg at its target and below it; a fenced post with and without outstanding work; a wait that ends. -/
theorem test_meets_StreamPegInstructions : StrmRuns (strmDev {}) 0 2 1 ∧
    (let s := strmDev {}
     let w : Word := BitVec.ofNat 64 (63 * 2 ^ 8)
     let u : Word := BitVec.ofNat 64 (2 ^ 32 + 63 * 2 ^ 8)
     field w 63 32 ≤ pegOf s 0 (field w 13 8) ∧ pegOf s 0 (field u 13 8) < field u 63 32 ∧ bit w 14 = false ∧
     postTarget 0 w < s.thl.length ∧ StrmWorkDone s 0 2 ∧ bit (BitVec.ofNat 64 (2 ^ 14)) 14 = true) ∧
    (let s : State := { strmDev {} with thl := [{ strm := List.replicate 3 { state := .running }, runs := [{ stream := 2 }] }] }
     ¬ StrmWorkDone s 0 2) ∧
    (let s : State := { dev with thl := [{ strm := List.replicate 3 { state := .pegWait, waitTimer := some 0 } }] }
     hasStrm s 0 2 = true ∧ (strmOf s 0 2).state = .pegWait ∧ (strmOf s 0 2).waitTimer = some 0 ∧ (strmOf s 0 2).dbg.mode ≠ 2 ∧
       (strmOf s 0 2).dbg.mode ≠ 3) ∧
    (let s : State := { dev with thl := [{ strm := List.replicate 3 { state := .held, why := .fence } }] }
     hasStrm s 0 2 = true ∧ (strmOf s 0 2).state = .held ∧ (strmOf s 0 2).why = .fence ∧ (strmOf s 0 2).dbg.mode ≠ 2 ∧ StrmWorkDone s 0 2 ∧
       postTarget 0 (strmOf s 0 2).instr < s.thl.length) ∧ hasThl dev 0 = true ∧ 63 < 64 := by
  refine ⟨(strmDev_runs 1).2.2, ?_⟩
  unfold StrmWorkDone
  decide +kernel

/-- Layer 0, which is there, and layer 1, which is not; an epoch that settles. -/
theorem test_meets_StreamJumpsAndEpoch : StrmRuns (strmDev {}) 0 2 1 ∧ StrmRuns (strmDev {}) 0 2 3 ∧ StrmRuns (strmDev {}) 0 1 1 ∧
    field (0 : Word) 19 8 < nLayers (strmDev {}) ∧ nLayers (strmDev {}) ≤ field (BitVec.ofNat 64 (2 ^ 8)) 19 8 ∧
    (strmDev {}).cmt.state ≠ .settling ∧ ReadsAs (strmDev {}) (curState (strmDev {}) 0 1) 8 (List.replicate 8 0) ∧
    (let s := { strmDev {} with cmt := { state := .settling } }
     StrmRuns s 0 2 1 ∧ s.cmt.state = .settling) :=
  ⟨(strmDev_runs 1).2.2, (strmDev_runs 3).2.2, (strmDev_runs 1).2.1, by decide +kernel, by decide +kernel, by decide +kernel,
    readsAs_at (by decide) (by decide +kernel),
    runs_of (by decide +kernel) (by decide +kernel) (by decide +kernel), rfl⟩

/-- A BF16 pass that drains out in FP32, and one in a grouping that does not exist. -/
def goodPass : PassWord := ⟨BitVec.ofNat 64 (2 + 0x05 * 8 + 0x05 * 256 + 0x07 * 8192 + 2 ^ 27), 0, 0, 0⟩
def wrongPass : PassWord := ⟨7, 0, 0, 0⟩

/-- The descriptor of pass 0 of engine 0 reads as zeros. -/
theorem strmDev_desc : ReadsAs (strmDev {}) (storeBase + 0x1000000 * 0 + 0x4000 * (thlOf (strmDev {}) 0).odtBase.toNat + 0 * 64) 64
    (List.replicate 64 0) := readsAs_at (by decide) (by decide +kernel)

theorem test_meets_StreamsStartWork : StrmRuns (strmDev {}) 0 2 2 ∧ (dmaOf (strmDev {}) 0 2).length < 16 ∧
    (let s : State := { dev with thl := [{ strm := List.replicate 3 { state := .running }, dma := List.replicate 4 (List.replicate 16 {}) }] }
     StrmRuns s 0 2 2 ∧ 16 ≤ (dmaOf s 0 2).length) ∧
    (let w : Word := BitVec.ofNat 64 (0xFF * 2 ^ 8)
     field w 15 8 ≠ 0 ∧ (∀ r ∈ (thlOf (strmDev {}) 0).runs, (r.mask &&& ~~~r.ended).toNat &&& field w 15 8 = 0) ∧
     (({ mask := 0xFF, ended := 0xFF : Run }).mask &&& ~~~({ mask := 0xFF, ended := 0xFF : Run }).ended).toNat &&& field w 15 8 = 0 ∧
     (∀ c < 8, Nat.testBit (field w 15 8) c = true → (coreOf (strmDev {}) 0 c).state = .idle) ∧ field (0 : Word) 15 8 = 0) ∧
    StrmRuns (strmDev {}) 0 2 5 ∧ field (0x301 : Word) 7 0 = 1 ∧ 3 = field (0x301 : Word) 9 8 ∧ pbpAt (strmDev {}) 0 goodPass = none ∧
    ((engOf (strmDev {}) 0 3).passes.filter fun x => x.stage == .queued).length < 16 ∧ usesLayer goodPass = false ∧ goodPass.odesc = 0 ∧
    issueCause (strmDev {}) goodPass (wordsOf (List.replicate 64 0)) = none ∧ usesLayer wrongPass = false ∧ wrongPass.odesc = 0 ∧
    issueCause (strmDev {}) wrongPass (wordsOf (List.replicate 64 0)) = some 0x10 ∧ pbpAt (strmDev {}) 0 wrongPass = none ∧
    ReadsAs (strmDev {}) (storeBase + 0x1000000 * 0 + 0x4000 * (thlOf (strmDev {}) 0).odtBase.toNat + 0 * 64) 64 (List.replicate 64 0) :=
  ⟨(strmDev_runs 2).2.2, by decide +kernel, ⟨runs_of (by decide +kernel) (by decide +kernel) (by decide +kernel), by decide +kernel⟩, by decide +kernel,
    (strmDev_runs 5).2.2, by decide +kernel, by decide +kernel, by decide +kernel, by decide +kernel, by decide +kernel, by decide +kernel,
    by decide +kernel, by decide +kernel, by decide +kernel, by decide +kernel, by decide +kernel, strmDev_desc⟩

theorem test_meets_CoresStartWithTheRunsRegisters : 255 < 256 ∧ 31 < 32 ∧ 6 < 7 ∧ (1 : Nat) ≠ 0 := by decide

/-- A forward stream held at its marker, with four losses in the last bytes of HBM. -/
def lossDev : State := { dev with thl := [{ strm := List.replicate 3 { state := .held, why := .marker, lossAddr := 2 ^ 36 - 16, lossN := 4 } }] }

theorem test_meets_StreamMarkers : StrmTakes (strmDev {}) 0 2 2 ∧ StrmRuns (strmDev {}) 0 0 2 ∧
    (let s := strmDev { marked := true }
     StrmTakes s 0 0 2 ∧ (strmOf s 0 0).marked = true) ∧
    (let k := strmOf lossDev 0 0
     hasStrm lossDev 0 0 = true ∧ k.state = .held ∧ k.why = .marker ∧ k.dbg.mode ≠ 2 ∧ k.dbg.mode ≠ 3 ∧ StrmWorkDone lossDev 0 0 ∧
     k.markThenEnd = false ∧ ReadsAs lossDev k.lossAddr (4 * k.lossN) (List.replicate 16 0)) ∧ ({ lossAddr := 0 : Stream }).lossAddr = 0 ∧
    (let s : State := { dev with thl := [{ strm := [{ marked := true }, { state := .barrier }, {}] }] }
     s.crun.barrierOpen = false ∧ (∃ h ∈ s.thl, (h.strm.getD 1 {}).state = .barrier) ∧ ∀ h ∈ s.thl, (h.strm.getD 0 {}).marked = true) :=
  ⟨(strmDev_runs 2).2.2.1, (strmDev_runs 2).1, ⟨takes_of (by decide +kernel) (by decide +kernel), by decide +kernel⟩,
    ⟨by decide +kernel, by decide +kernel, by decide +kernel, by decide +kernel, by decide +kernel, by unfold StrmWorkDone; decide +kernel,
      by decide +kernel, readsAs_at (by decide +kernel) (by decide +kernel)⟩, rfl, by decide +kernel⟩

/-- An update descriptor of one block in window 0, and its parameter block. -/
def updDesc : List Word := [BitVec.ofNat 64 (1 + 0x1F * 2 ^ 32 + 0x1F * 2 ^ 37), 0x00C000000400, 0x00C000000800, 0x00C000000C00, 0x00C000001000,
  0x00C000001400, 0x00C000001800, 0x00C000001C00, 0, 0, 0, 0, 0x00C000002000, 0, 0, 0]

def updBlock : List Word := [BitVec.ofNat 64 (2 ^ 32), 0x00C000002400, 0, 0, 0x3F800000, 0, 0, 0]

def updDev : State := { strmDev {} with
  win := { en := true } :: List.replicate 15 {}
  mem := { bytes := Sparse.sets (Sparse.sets [] 0 (bytesOfWords updDesc)) 0x2000 (bytesOfWords updBlock) } }

/-- What a list read answers of a state whose locations are all correctable. -/
theorem ok_of {α β : Type} {x : State × Except α β} {s : State} (h : x.1 = s) (g : (match x.2 with
    | .ok _ => true
    | .error _ => false) = true) : ∃ b, x = (s, .ok b) := by
  obtain ⟨t, e⟩ := x
  cases e with
  | ok b => exact ⟨b, by rw [← h]⟩
  | error => simp at g

theorem test_meets_LearnedScalesAndUpdates : StrmRuns (strmDev {}) 0 2 2 ∧ field (0 : Word) 19 8 < nLayers (strmDev {}) ∧
    ReadsAs (strmDev {}) 0 4 [0, 0, 0, 0] ∧ Plain (strmDev {}) (nextState (strmDev {}) 0 0 + 16) 4 ∧
    (field (0xFF00 : Word) 15 8 ≠ 0 ∧ ∀ c < 8, (coreOf (strmDev {}) 0 c).state = .idle) ∧
    (ReadsAs (strmDev {}) 0 128 (List.replicate 128 0) ∧ descOk (wordsOf (List.replicate 128 0)) = false) ∧
    (ReadsAs updDev curBase 128 (bytesOfWords updDesc) ∧ wordsOf (bytesOfWords updDesc) = updDesc ∧ descOk updDesc = true ∧
      ReadsAs updDev (udAddr updDesc 12) 64 (bytesOfWords updBlock) ∧ wordsOf (bytesOfWords updBlock) = updBlock ∧ upbOk updBlock = true ∧
      udNBlk updDesc ≠ 0 ∧ ReadsAs updDev 0x00C000002400 16 (List.replicate 16 0) ∧
      ∃ xs, readBlocks (strmAgent updDev 0 2) updDesc (List.range (udNBlk updDesc)) updDev = (updDev, .ok xs)) ∧
    (let s : State := { dev with thl := [{ runs := [{ mask := 0xFF, isUpd := true }] }] }
     let r := (thlOf s 0).runs.getD 0 {}
     hasThl s 0 = true ∧ 0 < (thlOf s 0).runs.length ∧ r.isUpd = true ∧ ∀ c < 8, r.mask.getLsbD c = true → (coreOf s 0 c).dbg.mode ≠ 2) :=
  ⟨(strmDev_runs 2).2.2, by decide +kernel, readsAs_at (by decide) (by decide +kernel), by unfold Plain; decide +kernel, by decide +kernel,
    ⟨readsAs_at (by decide +kernel) (by decide +kernel), by decide +kernel⟩,
    ⟨readsAs_at (by decide +kernel) (by decide +kernel), by decide +kernel, by decide +kernel, readsAs_at (by decide +kernel) (by decide +kernel),
      by decide +kernel, by decide +kernel, by decide +kernel, readsAs_at (by decide) (by decide +kernel),
      ok_of (by decide +kernel) (by decide +kernel)⟩, by decide +kernel⟩

/-! ## Engines: the last engine and frond -/

theorem test_meets_AccumulatorPositionsAfterADrain : intResult goodPass = false ∧ goodPass.srOp = 0 ∧ goodPass.grouping ≠ 0 ∧
    goodPass.grouping ≠ 5 ∧ groupOf goodPass.aFmt ≠ some 0 ∧
    (let p : PassWord := ⟨BitVec.ofNat 64 (1 + 0x03 * 8 + 0x03 * 256 + 2 ^ 26), 0, 0, 0⟩
     intResult ⟨BitVec.ofNat 64 (1 + 0x0A * 8 + 0x0A * 256 + 2 ^ 26), 0, 0, 0⟩ = true ∧ p.srOp = 0 ∧ p.accIn = true) ∧
    (⟨BitVec.ofNat 64 (2 ^ 18), 0, 0, 0⟩ : PassWord).srOp = 1 ∧ (⟨BitVec.ofNat 64 (2 ^ 19), 0, 0, 0⟩ : PassWord).srOp = 2 := by decide +kernel

/-- What a read of operands answers. -/
theorem some_of {β : Type} {x : State × Option β} (h : x.2.isSome = true) : ∃ s b, x = (s, some b) := by
  obtain ⟨t, o⟩ := x
  cases o with
  | some b => exact ⟨t, b, rfl⟩
  | none => simp at h

/-- One pass of a stage in every engine. -/
def passDev (p : Pass) : State := engDev { passes := [p] }

def firstPass : Pass := { pw := goodPass, desc := List.replicate 8 0 }

theorem headWaits_of {s : State} {n m : Nat} {p : Pass} (he : (engOf s n m).passes = [p]) (h1 : p.stage = .queued) (h2 : p.descBad = false)
    (h3 : p.shadow ≠ .waiting) (h : (engOf s n m).preempt = false ∧ (engOf s n m).sliceHold = false ∧ (engOf s n m).loadBusy = false ∧
      (engOf s n m).loadFailed = [] ∧ (engOf s n m).dead = false ∧ (engOf s n m).withdrawn ≠ 0xFF) : HeadWaits s n m 0 := by
  have hp : passAt s n m 0 = p := by unfold passAt; rw [he]; rfl
  refine ⟨by rw [he]; exact Nat.zero_lt_one, by rw [hp]; exact h1, by rw [hp]; exact h2, by omega, ?_, h⟩
  intro q hq
  rw [he, List.mem_singleton] at hq
  subst hq
  exact ⟨by rw [h1]; decide, fun f => by rw [h1]; simp, h3⟩

/-- Frond 7, with the others withdrawn; a pass behind an overlapping one; a drained tile; a pass whose tile has left. -/
theorem test_meets_PassesFlowThroughAnEngine :
    (let s := engDev { passes := [firstPass], withdrawn := 0x7F }
     hasEng s 0 3 = true ∧ HeadWaits s 0 3 0 ∧ ¬ Overlapped s 0 3 0 ∧
       gateOpen s 0 ((engOf s 0 3).dispCount - (engOf s 0 3).gateBase) = true ∧ 7 < 8 ∧ frondFree s (engOf s 0 3) 7 = true ∧
       ∀ g < 7, frondFree s (engOf s 0 3) g = false) ∧
    (let s := engDev { passes := [{ firstPass with stage := .inFrond 0 }, firstPass] }
     hasEng s 0 3 = true ∧ 1 < (engOf s 0 3).passes.length ∧ Overlapped s 0 3 1 ∧ (engOf s 0 3).ovlpHold = false) ∧
    (let s := passDev { firstPass with stage := .inFrond 7 }
     drainNext (engOf s 0 3) 7 = some 0 ∧ ∃ s1 ab, readPass (passAgent 0 3 (passAt s 0 3 0)) 0 (passAt s 0 3 0).pw s = (s1, some ab)) ∧
    (let s := passDev { firstPass with stage := .drained }
     let p := passAt s 0 3 0
     0 < (engOf s 0 3).passes.length ∧ p.stage = .drained ∧ p.pw.drainOut = true ∧ (∀ p ∈ (engOf s 0 3).passes, p.stats = none) ∧
     let u := confProbe p.pw s
     p.pw.act = 0 ∧ p.pw.maskMode ≠ 3 ∧ scaleOk (passScale u p.pw) = true ∧
     (tileOut u p.pw p.desc ((tilePos p.pw).map (plainElem p.pw (engOf u 0 3)))).reconv = false) ∧
    (let s := passDev { firstPass with stage := .output }
     (engOf s 0 3).passes = [{ firstPass with stage := .output }] ∧ firstPass.stats = none ∧ firstPass.shadow = .none ∧
       firstPass.stepped = false) := by
  refine ⟨⟨by decide +kernel, headWaits_of (p := firstPass) (by decide +kernel) rfl rfl (by decide) (by decide +kernel), ?_, by decide +kernel, by decide,
    by decide +kernel, by decide +kernel⟩, ?_, ⟨by decide +kernel, some_of (by decide +kernel)⟩, by decide +kernel, by decide +kernel⟩
  · unfold Overlapped; decide +kernel
  · unfold Overlapped; decide +kernel

/-- The head that waits behind an overlapping pass is the second. -/
theorem test_meets_overlapping_head : HeadWaits (engDev { passes := [{ firstPass with stage := .inFrond 0 }, firstPass] }) 0 3 1 := by
  refine ⟨by decide +kernel, by decide +kernel, by decide +kernel, by decide +kernel, ?_, by decide +kernel⟩
  intro q hq
  have : q = { firstPass with stage := .inFrond 0 } ∨ q = firstPass := by
    have e : (engOf (engDev { passes := [{ firstPass with stage := .inFrond 0 }, firstPass] }) 0 3).passes =
      [{ firstPass with stage := .inFrond 0 }, firstPass] := by decide +kernel
    rw [e] at hq; simpa using hq
  rcases this with rfl | rfl <;> exact ⟨by decide, fun f => by simp [firstPass], by decide⟩

/-- What two reads one after the other answer. -/
theorem two_of {β γ : Type} {x : State × Option β} (g : State → State × Option γ) (h : x.2.isSome = true) (k : (g x.1).2.isSome = true) :
    ∃ s1 a s2 b, x = (s1, some a) ∧ g s1 = (s2, some b) := by
  obtain ⟨t, o⟩ := x
  cases o with
  | some b =>
    obtain ⟨u, c, e⟩ := some_of k
    exact ⟨t, b, u, c, rfl, e⟩
  | none => simp at h

theorem test_meets_ShadowsAndStatistics :
    (let s := passDev { firstPass with stage := .drained, shadow := .inFrond 7 }
     let w := (passAt s 0 3 0).pw
     let u := confProbe w s
     let cf := wordAt (dirConf u w.layer w.dir) 4
     let ag := passAgent 0 3 (passAt s 0 3 0)
     hasEng s 0 3 = true ∧ shadowNext (engOf s 0 3) = some 0 ∧ ∃ s1 a s2 b,
     readShadow ag 0 w.aFmt ((shadowCand u w).getD 7) (bit cf 18) w.aTrans w.k (shadowSteps w) (w.aAddr * 64) (w.aStride * 64) (field cf 17 0) u = (s1, some a) ∧
     readShadow ag 0 w.bFmt ((shadowCand u w).getD 7) (bit cf 50) (!w.bTrans) w.k (shadowSteps w) (w.bAddr * 64) (w.bStride * 64) (field cf 49 32) s1 = (s2, some b)) ∧
    (let s := passDev { firstPass with stage := .output, stats := some {} }
     0 < (engOf s 0 3).passes.length ∧ (passAt s 0 3 0).stats = some {} ∧ ({} : TileRec).log = none ∧
       ReadsAs s (statAddr s 0 0) 128 (List.replicate 128 0)) ∧
    (let s := engDev { passes := [{ firstPass with stage := .output }, { firstPass with stage := .output, stats := some {} }] }
     1 < (engOf s 0 3).passes.length ∧ (∀ j < 1, (passAt s 0 3 j).stats = none) ∧ (passAt s 0 3 1).stats = some {}) := by
  exact ⟨⟨by decide +kernel, by decide +kernel, two_of _ (by decide +kernel) (by decide +kernel)⟩,
    ⟨by decide +kernel, by decide +kernel, by decide +kernel, readsAs_at (by decide +kernel) (by decide +kernel)⟩, by decide +kernel⟩

/-- The pass that a frond fault strikes, where the frond holds one. -/
def struck (s : State) : Option (Nat × Bool × Nat) :=
  if Config.faultsEarlier s.nonce then (inFrondList (engOf s 0 3) 7).head? else (inFrondList (engOf s 0 3) 7).getLast?

theorem struck_of {s : State} {x : Nat × Bool × Nat} (h : inFrondList (engOf s 0 3) 7 = [x]) : struck s = some x := by
  unfold struck
  rw [h]
  split <;> rfl

theorem test_meets_EngineFaultsReissueOrAbandon :
    (let s := passDev { firstPass with stage := .inFrond 7 }
     hasEng s 0 3 = true ∧ 7 < 8 ∧ struck s = some (0, false, 0) ∧ (passAt s 0 3 0).reissued = false ∧
     (frondOf s 0 3 7).faultCount ≠ 3 ∧ (engOf s 0 3).withdrawn ≠ 0xFF ∧ 7 < (engOf s 0 3).frond.length ∧ drainNext (engOf s 0 3) 7 = some 0 ∧
     ∃ s1 ab, readPass (passAgent 0 3 (passAt s 0 3 0)) 0 (passAt s 0 3 0).pw s = (s1, some ab)) ∧
    (let s := passDev { firstPass with stage := .inFrond 7, reissued := true }
     struck s = some (0, false, 0) ∧ (passAt s 0 3 0).reissued = true) ∧
    (let s := passDev { firstPass with stage := .drained, shadow := .inFrond 7 }
     struck s = some (0, true, 0) ∧ 0 < (engOf s 0 3).passes.length ∧ (passAt s 0 3 0).stage = .drained) ∧
    (let s := engDev { frond := List.replicate 8 { faultCount := 3 } }
     (frondOf s 0 3 7).faultCount = 3 ∧ (engOf s 0 3).withdrawn.getLsbD 7 = false ∧ s.bist.hmapFull = false ∧ s.bist.hmap.length < 256 ∧
       ({ hmap := List.replicate 255 default : Bist }).hmap.length < 256) ∧
    (let s := engDev { loadBusy := true, actSlot := 15 }
     hasEng s 0 3 = true ∧ (engOf s 0 3).loadBusy = true ∧ actLoadHeld s 0 3 = none ∧
     ∃ s1 ts, readTables (.eng 0 3 3 0 0) ((engOf s 0 3).actBase.toNat * 64) [(15, 0), (15, 1)] s = (s1, some ts)) ∧
    (let s := { engDev { loadBusy := true, actSlot := 15 } with mem := { badLines := List.range 2000 } }
     hasEng s 0 3 = true ∧ (engOf s 0 3).loadBusy = true ∧ actLoadHeld s 0 3 = none ∧
     (readTables (.eng 0 3 3 0 0) ((engOf s 0 3).actBase.toNat * 64) [(15, 0), (15, 1)] s).2 = none) ∧
    (let s := { engDev { loadBusy := true, actSlot := 15 } with pwr := {} }
     hasEng s 0 3 = true ∧ (engOf s 0 3).loadBusy = true ∧ actLoadHeld s 0 3 = some storeBase) ∧
    (let s := { engDev { loadBusy := true, actSlot := 15 } with pwr := { fieldOn := 1 } }
     (actLoadHeld s 0 3).isSome = true) := by
  refine ⟨⟨by decide +kernel, by decide, struck_of (by decide +kernel), by decide +kernel, by decide +kernel, by decide +kernel, by decide +kernel,
    by decide +kernel, some_of (by decide +kernel)⟩, ⟨struck_of (by decide +kernel), by decide +kernel⟩,
    ⟨struck_of (by decide +kernel), by decide +kernel⟩, by decide +kernel,
    ⟨by decide +kernel, by decide +kernel, by decide +kernel, some_of (by decide +kernel)⟩, ?_⟩
  refine ⟨⟨by decide +kernel, by decide +kernel, by decide +kernel, by decide +kernel⟩, by decide +kernel, by decide +kernel⟩

/-! ## Governor, reduction and DMA -/

/-- A job in its step, with every stream done. -/
def stepDev : State := jobbed { dev with thl := [{ strm := List.replicate 3 { state := .done } }], cmt := { state := .running } }

def zeroBlock : List Word := List.replicate 16 0

theorem test_meets_GovernorMovesRungsAndRecords : (0 : Nat) ≤ 0 ∧ statLane dev 0 0 0 = 0 ∧
    (jobLoaded stepDev = true ∧ stepDev.gov.done = false ∧ stepDev.cmt.state = .running ∧ (∀ h ∈ stepDev.thl, ∀ q ∈ h.strm, q.state = .done) ∧
      (∀ h ∈ stepDev.thl, ∀ e ∈ h.eng, ∀ p ∈ e.passes, p.stats = none) ∧ stepDev.gov.scope = false ∧ stepDev.dbg.pup.mode ≠ 2) ∧
    field (BitVec.ofNat 64 (2 ^ 34)) 63 34 ≠ stepDev.cmt.step.toNat % 2 ^ 30 ∧ field (0 : Word) 63 34 = stepDev.cmt.step.toNat % 2 ^ 30 ∧
    recordOk (redTaken (.record 0 false [zeroBlock]) stepDev) 0 [zeroBlock] = true ∧
    recordOk (redTaken (.record 0 true [zeroBlock, zeroBlock]) stepDev) 0 [zeroBlock, zeroBlock] = true ∧
    (let t := redTaken (.record 0 true [zeroBlock, zeroBlock]) stepDev
     t.gov.exchDone = false ∧ (t.gov.down ++ [(0, zeroBlock), (1, zeroBlock)]).length = 2 * nLayers t ∧
     (t.gov.down ++ [(0, zeroBlock)]).length ≠ 2 * nLayers t) ∧ zeroBlock.length = 16 := by decide +kernel

/-- A NaN, an infinity of each sign, both, and a finite sum of 1 and the smallest value. -/
theorem test_meets_ExactSumsAreOrderFree : [(1 : W32), 2].Perm [2, 1] ∧
    (∀ x ∈ [(0x3F800000 : W32), 1], (fp32.decode x.toNat).isNan = false ∧ (fp32.decode x.toNat).isInf = false) ∧
    (Acc.add {} 0x7FC00000).nan = true ∧ ((Acc.add {} 0x7F800000).pinf = true ∧ (Acc.add {} 0x7F800000).ninf = false) ∧
    ((Acc.add {} 0xFF800000).ninf = true ∧ (Acc.add {} 0xFF800000).pinf = false) ∧ (7 : Nat) ≠ 0 := by
  refine ⟨List.Perm.swap _ _ _, ?_, by decide +kernel⟩
  intro x hx
  simp only [List.mem_cons, List.not_mem_nil, or_false] at hx
  rcases hx with rfl | rfl <;> decide +kernel

/-- The tables of a bucket of 64 elements with delivery, in a group of this device alone. -/
def redMem : Sparse 8 := Sparse.sets (Sparse.sets [] 0x10000 (bytesOfWords [BitVec.ofNat 64 (2 ^ 42 + 64), 64])) 0x20000 (bytesOfWords [BitVec.ofNat 64 (2 ^ 30 + 1), 0x30000])

/-- A device in its step with that bucket. -/
def redDev (k : Bkt) : State := { stepDev with rdx := { btabBase := 0x10, gtabBase := 0x800, bkts := [k] }, mem := { bytes := redMem } }

def noSum : Summary := ⟨0, 0, 0, 0, 0, none, false, false, false, false, false, false, 0, 0, 0, 0, none⟩

/-- A message of each row, the last element of the bucket where a row has elements. -/
def redMsgs : List RedBody := [.announce .present 1 0, .seal 1 .direct 0 1 1 [true], .grant 0 0, .data 63 0 0 [0x3F800000], .dataEnd 0 0 1,
  .ring 63 [0x3F800000], .esc, .result 63 [0x3F800000], .shardSum 0 noSum, .final noSum]

theorem test_meets_BucketMessages :
    ¬ field (BitVec.ofNat 64 (2 ^ 34)) 63 34 = (redDev {}).cmt.step.toNat % 2 ^ 30 ∧ field (0 : Word) 63 34 = (redDev {}).cmt.step.toNat % 2 ^ 30 ∧
    ({ redDev {} with cmt := {} }).cmt.state ∉ [.running, .gathering, .reported, .settling] ∧ (redDev {}).cmt.state = .running ∧
    redOk (redDev {}) 1 0 .esc = false ∧ (∀ x ∈ redMsgs, redOk (redDev {}) 0 0 x = true) ∧
    (∀ x ∈ redMsgs, mustWait (openBkt 0 (redTaken x (redDev { mSeal := some {} }))) 0 0 x = false ∧
      (bktOf (openBkt 0 (redTaken x (redDev { mSeal := some {} }))) 0).timedOut = false ∧
      (bktOf (openBkt 0 (redTaken x (redDev { mSeal := some {} }))) 0).completed = false) ∧
    mustWait (openBkt 0 (redTaken .esc (redDev {}))) 0 (BitVec.ofNat 64 (2 ^ 33)) .esc = true ∧
    (bktOf (openBkt 0 (redTaken .esc (redDev { timedOut := true }))) 0).timedOut = true ∧
    ((bktOf (openBkt 0 (redTaken .esc (redDev { completed := true }))) 0).completed = true ∧ RedBody.esc.kind ≠ 0) := by decide +kernel

/-- A stream that runs in the bucket device. -/
def redStrm (k : Bkt) (q : Stream) : State := { redDev k with thl := [{ strm := List.replicate 3 { q with state := .running } }] }

/-- The device whose own range of tags is in use but for the last tag, and the one whose shared range is. -/
def tagDev (n : Nat) : State := { redStrm {} {} with rdx := { (redStrm {} {}).rdx with tags := List.replicate n (some 9) ++ List.replicate (256 - n) none } }

theorem test_meets_SealsTagsAndContributions :
    (StrmRuns (redStrm {} {}) 0 1 1 ∧ StrmRuns (redStrm {} {}) 0 2 1 ∧ StrmRuns (redStrm { completed := true } {}) 0 2 1) ∧
    (bktOurs (redStrm {} {}) 0 = true ∧ (bktOf (redStrm {} {}) 0).completed = false ∧ (bktOf (redStrm {} {}) 0).tag = none ∧
      pickTag (redStrm {} {}) 1 = some 0 ∧ pickTag (redStrm {} {}) 2 = some 0x40 ∧ (bktOf (redStrm { tag := some 3 } {}) 0).tag = some 3) ∧
    (bktOurs (redStrm {} {}) 1 = false ∧ (bktOf (redStrm { completed := true } {}) 0).completed = true) ∧
    (pickTag (tagDev 0x3F) 1 = some 0x3F ∧ pickTag (tagDev 0x80) 1 = some 0x80 ∧ pickTag (tagDev 0xFF) 2 = some 0xFF ∧ pickTag (tagDev 0x100) 2 = none) ∧
    (let s (k : Bkt) : State := { redStrm k { tval := 0x80, treg := [0, 0, 0, 0, 0, 0, 0, 255] } with
        rdx := { (redStrm k {}).rdx with tags := List.replicate 255 none ++ [some 0] } }
     let w : Word := BitVec.ofNat 64 (7 * 2 ^ 8)
     let last : Word := BitVec.ofNat 64 (63 + 2 ^ 32)
     let past : Word := BitVec.ofNat 64 (64 + 2 ^ 32)
     let k := strmOf (s {}) 0 2
     bit k.tval (field w 10 8) = true ∧ (s {}).rdx.tags.getD (k.treg.getD (field w 10 8) 0).toNat none = some 0 ∧
     bktElems (s {}) 0 < field past 31 0 + field past 63 32 ∧ field last 31 0 + field last 63 32 ≤ bktElems (s {}) 0 ∧
     (bktOf (s { closed := true }) 0).closed = true ∧ (bktOf (s {}) 0).closed = false ∧ 4096 ≤ (bktOf (s { nContrib := 4096 }) 0).nContrib ∧
     (bktOf (s { nContrib := 4095 }) 0).nContrib < 4096 ∧ (s {}).rdx.clistCount < 524288 ∧ Plain (s {}) (clistAddr (s {}) (s {}).rdx.clistCount) 32 ∧
     bit w 11 = false) ∧
    (let s : State := { dev with thl := [{ strm := List.replicate 3 { state := .held, why := .tag, tagTimer := some 0 } }] }
     hasStrm s 0 2 = true ∧ (strmOf s 0 2).state = .held ∧ (strmOf s 0 2).why = .tag ∧ (strmOf s 0 2).tagTimer = some 0 ∧ (strmOf s 0 2).tagDiag = false) ∧
    ((bktOf (redDev { sealTimer := some 0 }) 0).sealTimer = some 0 ∧ (bktOf (redDev { sealTimer := some 0 }) 0).rootSeal = none) ∧
    (replaying (redDev {}) = false ∧ 0 < grpN (redDev {}) 0) ∧
    (let k := bktOf (redDev { timer := some 0 }) 0
     k.timer = some 0 ∧ k.completed = false ∧ k.timedOut = false) ∧
    (let s := { dev with gov := { exchTimer := some 0 } }
     s.gov.exchTimer = some 0 ∧ s.gov.exchDone = false) := by
  refine ⟨⟨runs_of (by decide +kernel) (by decide +kernel) (by decide +kernel), runs_of (by decide +kernel) (by decide +kernel) (by decide +kernel),
    runs_of (by decide +kernel) (by decide +kernel) (by decide +kernel)⟩, ?_⟩
  unfold Plain
  decide +kernel

/-- A contribution of the last 3-word instruction meets the stream conditions too. -/
theorem test_meets_bcontrib_stream : StrmRuns { redStrm {} { tval := 0x80, treg := [0, 0, 0, 0, 0, 0, 0, 255] } with
    rdx := { (redStrm {} {}).rdx with tags := List.replicate 255 none ++ [some 0] } } 0 2 3 :=
  runs_of (by decide +kernel) (by decide +kernel) (by decide +kernel)

/-- Descriptors at 0x1000: one row of 64 bytes from `src` to `dst`, operation `op`. -/
def dmaDesc (op src dst : Nat) : List Word := [BitVec.ofNat 64 op, BitVec.ofNat 64 src, BitVec.ofNat 64 dst, BitVec.ofNat 64 (64 + 2 ^ 32), 0, 0, 0, 0]

def dmaDev (d : List Word) : State := { dev with
  thl := [{ dma := [[], [], [], [{ started := true }, { addr := 0x1000 }]] }], mem := { bytes := Sparse.sets [] 0x1000 (bytesOfWords d) } }

/-- The second descriptor of the last channel; a fill and a copy up to the end of HBM, and a source on another device. -/
theorem test_meets_DmaDescriptors :
    (let s := dmaDev (dmaDesc 1 0 (2 ^ 36 - 64))
     let d := dmaDesc 1 0 (2 ^ 36 - 64)
     StartsNext s 0 3 1 ∧ ReadsAs s 0x1000 64 (bytesOfWords d) ∧ wordsOf (bytesOfWords d) = d ∧ DescPasses s 0x1000 d ∧ ddRemote d = false ∧ ddOp d = 1) ∧
    (let s := dmaDev (dmaDesc 0 0x2000 (2 ^ 36 - 64))
     let d := dmaDesc 0 0x2000 (2 ^ 36 - 64)
     StartsNext s 0 3 1 ∧ ReadsAs s 0x1000 64 (bytesOfWords d) ∧ wordsOf (bytesOfWords d) = d ∧ DescPasses s 0x1000 d ∧ ddOp d = 0 ∧
     descPieces d = [(0x2000, 2 ^ 36 - 64, 64)] ∧ ReadsAs s 0x2000 64 (List.replicate 64 0) ∧
     overlaps [(0x2000, 2 ^ 36 - 64, List.replicate 64 0)] = false) ∧
    (let s := dmaDev (dmaDesc (2 ^ 26) 0 0)
     let d := dmaDesc (2 ^ 26) 0 0
     StartsNext s 0 3 1 ∧ ReadsAs s 0x1000 64 (bytesOfWords d) ∧ wordsOf (bytesOfWords d) = d ∧ descCause s 0x1000 d = some 0x40 ∧
     descCause s 0x1001 (dmaDesc 1 0 0) = some 0x41 ∧ descCause s 0x1000 (dmaDesc 2 0 0) = some 0x41 ∧
     descCause s 0x1000 (dmaDesc 1 0 (storeEnd - 63)) = some 0x41 ∧ descCause s 0x1000 (dmaDesc 1 0 (storeEnd - 64)) = none) ∧
    (let s (e : DmaEntry) : State := { dev with thl := [{ dma := List.replicate 4 [e] }] }
     hasDma (s { started := true }) 0 3 = true ∧ dmaOf (s { started := true }) 0 3 = [{ started := true }] ∧
     dmaOf (s { started := true, failed := true }) 0 3 = [{ started := true, failed := true }] ∧
     dmaOf (s { started := true, remote := true, finDone := true }) 0 3 = [{ started := true, remote := true, finDone := true }] ∧
     ({ started := true, failed := true } : DmaEntry).writes = [] ∧ ({ started := true, failed := true } : DmaEntry).core = none) ∧
    (2 ^ 36 - 1 < hbmBytes dev ∧ dev.scrubPeriod ≠ 0 ∧ (dev.hbm.getD (hbmPlace dev (2 ^ 36 - 1)).1 {}).poison.length < 64) := by
  refine ⟨⟨?_, readsAs_at (by decide +kernel) (by decide +kernel), by decide +kernel, ?_, by decide +kernel⟩,
    ⟨?_, readsAs_at (by decide +kernel) (by decide +kernel), by decide +kernel, ?_, by decide +kernel, by decide +kernel,
      readsAs_at (by decide +kernel) (by decide +kernel), by decide +kernel⟩,
    ⟨?_, readsAs_at (by decide +kernel) (by decide +kernel), by decide +kernel⟩, by decide +kernel, by decide +kernel⟩
  all_goals first | (unfold StartsNext; decide +kernel) | (unfold DescPasses; decide +kernel)

/-- Offset 0 and the last offset of the alias span; a line write through the next alias, whose window is the last of the span. -/
def aliasDev : State := { dev with win := List.replicate 15 {} ++ [{ en := true, spanOff := 0xFFFF, copy1 := 1 }], thl := [{ epochOpen := true }] }

theorem test_meets_AliasWritesLeaveMemory :
    (∀ i < 64, regionOf (curBase + i) = .cur) ∧ (∀ i < 64, regionOf (storeBase - 64 + i) = .nxt) ∧
    (∀ n, (Agent.strm 0 0 0).thl = some n → (thlOf dev n).epochOpen = false) ∧
    ((List.replicate 64 (0 : Byte)) ≠ [] ∧ (storeBase - 64) % 64 + (List.replicate 64 (0 : Byte)).length ≤ 64 ∧ regionOf (storeBase - 64) = .nxt ∧
      (Agent.strm 0 0 0).thl = some 0 ∧ (thlOf aliasDev 0).epochOpen = true ∧ resolve aliasDev (storeBase - 64) = some (0x400000 - 64) ∧
      aliasDev.snap.phase ≠ 1) ∧
    aliasSpan - 1 < aliasSpan ∧ (winAt aliasDev (aliasSpan - 1)).isSome = true := by
  refine ⟨by decide +kernel, by decide +kernel, fun n h => ?_, by decide +kernel, by decide +kernel, by decide +kernel⟩
  cases h
  decide +kernel

/-! ## Links and time: the last link -/

/-- Every link present, as `k`; the device is 1 of the fabric. -/
def linksDev (k : Link) : State := { dev with
  caps := { dev.caps with linkEn := 0xFFFFFFFF }, lnk := { link := List.replicate 32 k, devId := 1, devValid := true } }

def upLink : Link := { enable := true, state := .up, width := 1, laneOk := 0xFF }

def flit0 : Flit := flitOf 4095 4095 [.empty]

theorem test_meets_LinkFlitsAndReplay :
    (hasLink (linksDev upLink) 31 = true ∧ (linkOf (linksDev upLink) 31).state = .up ∧ fecGood goodFec = true ∧ fecGood badFec = false ∧
      fecGood ⟨[0, 2, 4, 6, 255, 253, 251, 249], true⟩ = true ∧ fecGood ⟨[], false⟩ = false ∧ fecFixed ⟨[255, 256], true⟩ = [255]) ∧
    ((linkOf (linksDev upLink) 31).laneCorr.length = 8 ∧ (∀ i < 8, (linkOf (linksDev upLink) 31).laneCorr.getD i 0 ≤ (linksDev upLink).lnk.degradeThr.toNat)) ∧
    (let k := linkOf (linksDev { upLink with replayBuf := [flitOf 7 0 [], flitOf 8 0 []], sentAt := [3, 5], clk := 9 }) 31
     let j := linkOf (headerIn 31 (flitOf 0 7 []) (linksDev { upLink with replayBuf := [flitOf 7 0 [], flitOf 8 0 []], sentAt := [3, 5], clk := 9 })) 31
     k.sentAt.length = k.replayBuf.length ∧ j.replayBuf.length < k.replayBuf.length ∧
       k.sentAt.drop (k.replayBuf.length - j.replayBuf.length) = [5]) ∧
    ((linkOf (linksDev { state := .ready }) 31).state = .ready ∧ (linkOf (linksDev { state := .training }) 31).state = .training ∧
      (linkOf (linksDev { state := .down }) 31).state = .down ∧ hasLink (linksDev { state := .down }) 31 = true) ∧
    upLink.asm = none ∧ (flit0.nak = false ∧ flit0.ackValid = true) ∧
    (let k := linkOf (linksDev { upLink with ackTimer := some 0, replayBuf := [flit0], epReplays := 15 }) 31
     k.state = .up ∧ k.ackTimer = some 0 ∧ k.replayBuf ≠ [] ∧ k.epReplays ≠ 16 ∧ k.rpTimer = none) ∧
    (let k := linkOf (linksDev { upLink with epSeq := some 0, epTimer := some 0 }) 31
     k.state = .up ∧ k.epSeq.isSome = true ∧ k.epTimer = some 0) := by decide +kernel

/-- A transaction of device 0 for device `dst`. -/
def txnFor (dst : Nat) (b : TxnBody) : Txn := ⟨dst, 0, 255, b⟩

/-- Link 31 has received it whole. -/
def rxDev (t : Txn) : State := linksDev { upLink with rxq := [t] }

theorem test_meets_LinkLanesAndTransactions :
    (let s (w ok : BitVec 8) := linksDev { upLink with width := w.truncate 2, laneOk := ok }
     hasLink (s 1 0xFF) 31 = true ∧ 7 < 8 ∧ bit (linkOf (s 2 0xFF) 31).laneOk 7 = true ∧ bit (lanesOf 2) 7 = false ∧
     bit (lanesOf (linkOf (s 3 0xFF) 31).width.toNat) 7 = true ∧ (linkOf (s 3 0xFF) 31).width ≠ 1 ∧ (linkOf (s 1 0xFE) 31).width = 1 ∧
     bit (linkOf (s 1 0xFE) 31).laneOk 7 = true ∧
     ((linkOf (s 1 0xFE) 31).laneOk &&& ~~~(BitVec.ofNat 8 (1 <<< 7))) &&& 0x0F ≠ 0x0F ∧
     ((linkOf (s 1 0xFE) 31).laneOk &&& ~~~(BitVec.ofNat 8 (1 <<< 7))) &&& 0xF0 ≠ 0xF0 ∧
     ((linkOf (s 1 0xFF) 31).laneOk &&& ~~~(BitVec.ofNat 8 (1 <<< 7))) &&& 0x0F = 0x0F) ∧
    (let s := jobbed (linksDev { state := .training })
     hasLink s 31 = true ∧ (linkOf s 31).state = .training ∧ jobLoaded s = true ∧ 0xFF &&& ~~~(linkOf s 31).laneBad = 0xFF ∧
     (0xEE &&& ~~~(linkOf s 31).laneBad) &&& 0x0F ≠ 0x0F ∧ (0xEE &&& ~~~(linkOf s 31).laneBad) &&& 0xF0 ≠ 0xF0) ∧
    (let s := linksDev { enable := true, state := .down, trainTimer := some 0 }
     (linkOf s 31).state = .down ∧ (linkOf s 31).enable = true ∧ (linkOf s 31).trainTimer = some 0 ∧ s.lnk.devValid = true) ∧
    (let t := txnFor 1 (.write regBase [1])
     let u := txnFor 1 (.write (2 ^ 36 - 1) [1])
     t.dst = self (rxDev t) ∧ (linkOf (rxDev t) 31).rxq.contains t = true ∧ remoteWritable regBase 1 = false ∧
     (linkOf (rxDev u) 31).rxq.contains u = true ∧ remoteWritable (2 ^ 36 - 1) 1 = true ∧ sleeping (rxDev u) (2 ^ 36 - 1) 1 = none) ∧
    (∀ b ∈ [TxnBody.writeFin 63 0, .ack [255], .nack 255 0],
      (txnFor 1 b).dst = self (rxDev (txnFor 1 b)) ∧ (linkOf (rxDev (txnFor 1 b)) 31).rxq.contains (txnFor 1 b) = true) ∧
    (let s := rxDev (txnFor 1 (.writeFin 63 0))
     sleeping s (thlAddr 0) 1 = none ∧ (resolve s (thlAddr 0)).isSome = true) ∧
    (let s := { dev with lnk := { txns := [{ txn := txnFor 2 (.ack []), timer := some 0 }] } }
     ∃ x ∈ s.lnk.txns, x.txn.tid = 255 ∧ x.timer = some 0) ∧
    (let t := txnFor 16383 (.write 0 [1])
     let s := { rxDev t with lnk := { (rxDev t).lnk with rt := [(16383, 0x3F)] } }
     t.dst ≠ self s ∧ (linkOf s 31).rxq.contains t = true ∧ routeLink (freeRx 31 t s) 16383 = some 31 ∧
     routeLink (freeRx 31 t (rxDev t)) 16383 = none ∧ txnVc t ≠ 1) ∧
    (let s := { linksDev upLink with lnk := { (linksDev upLink).lnk with rtBusy := true } }
     s.lnk.rtBusy = true ∧ sleeping s (s.lnk.rtBase.toNat * 64) 65536 = none ∧ 16383 < 16384 ∧ 16383 ≠ self s ∧
     (sleeping { s with pwr := { fieldOn := 1 } } (s.lnk.rtBase.toNat * 64) 65536).isSome = true) := by decide +kernel

/-- A follower of link 31. -/
def followDev (k : Link) : State := { linksDev k with time := { role := 2, upLink := 31, anns := [(31, { dev := 9, prio := 1, hops := 62 }, some 0)] } }

theorem test_meets_TimeRootsFlitsAndSecondEdges :
    (rootCandidates { dev with time := { prio := 255 } } = [] ∧ bestRoot { dev with time := { prio := 255, role := 2 } } = none ∧
      rootCandidates (followDev upLink) ≠ [] ∧ (bestRoot (followDev upLink)).isSome = true) ∧
    (let s := followDev { upLink with timeTimer := some 0, t1 := some 0 }
     hasLink s 31 = true ∧ (linkOf s 31).state = .up ∧ (linkOf s 31).timeTimer = some 0 ∧ isUpLink s 31 = true) ∧
    (let u := chooseRoot (announcedOn 31 { noTime with root := 9, prio := 1, reply := some (0, 0) }
       (headerIn 31 flit0 (fecIn 31 flit0 goodFec (followDev { upLink with t1 := some 0 }))))
     noTime.request = false ∧ noTime.reply = none ∧ (linkOf u 31).t1 = some 0 ∧ isUpLink u 31 = true) ∧
    ((linkOf (linksDev { disturbed := some 1 }) 31).disturbed.isSome = true ∧ (linkOf (linksDev upLink) 31).disturbed = none ∧
      (linksDev upLink).time.delays = [] ∧ (64000 : Int).natAbs ≤ 64000 ∧ 64000 < (64001 : Int).natAbs ∧ jobLoaded dev = false) ∧
    ((31, ({ dev := 9, prio := 1, hops := 62 } : RootInfo), some 0) ∈ (followDev upLink).time.anns) ∧
    dev.time.ppsInEn = false ∧
    (let s := { dev with time := { ppsInEn := true, ppsRun := 7, now := 20 } }
     s.time.ppsInEn = true ∧ (secondErr s).natAbs ≤ 20 ∧ s.time.role ≠ 1) ∧
    ({ dev with time := { ppsTimer := some 0 } }).time.ppsTimer = some 0 ∧
    (let s := { dev with time := { now := 1000000002 } }
     s.time.now.toNat % 1000000000 ≤ 2 ∧ s.time.ppsDone = false) ∧
    ({ dev with time := { ppsOutTimer := some 0 } }).time.ppsOutTimer = some 0 ∧
    (let s := { dev with trate := List.replicate 4 { due := true } }
     3 < 4 ∧ (s.trate.getD 3 {}).due = true ∧ 3 < s.trate.length) := by decide +kernel

/-! ## Commit and snapshots -/

/-- A job in its step with every stream done and the governor too. -/
def doneDev (c : Cmt) : State := { stepDev with gov := { done := true }, cmt := { c with state := .running } }

/-- A token of the current step of the job. -/
def tok (kind : Nat) (flag : Bool) : Token := mkToken kind {} flag 0 1 0 0 0

theorem test_meets_ReadinessAndDecisions :
    (∀ c ∈ [({ root := true, nJob := 1 } : Cmt), { root := true }, {}], (doneDev c).cmt.root = c.root) ∧
    (StepFinished (doneDev { root := true, nJob := 1 }) ∧ fwHalted (doneDev {}) = false) ∧
    (let g := gathering { doneDev { nChildren := 1 } with crun := { kids := [7] } }
     ∃ c ∈ children g, ∀ p ∈ g.crun.reports, p.1 ≠ c) ∧
    (let g := gathering (doneDev { root := true, nJob := 1 })
     (∀ c ∈ children g, ∃ p ∈ g.crun.reports, p.1 = c) ∧ g.cmt.root = true ∧ (ownReport g).nDev = g.cmt.nJob.toNat ∧
     (ownReport g).nDropped ≤ g.cmt.dropMax.toNat) ∧
    (gathering (doneDev {})).cmt.root = false ∧ (ownReport (gathering (doneDev { root := true }))).nDev ≠ (gathering (doneDev { root := true })).cmt.nJob.toNat ∧
    (let g := gathering (doneDev { root := true, nJob := 1, excluded := true })
     (ownReport g).nDev = g.cmt.nJob.toNat ∧ g.cmt.dropMax.toNat < (ownReport g).nDropped) ∧
    ((1 : Nat) ≠ 0 ∧ (tok 1 true).nDev + (tok 1 true).nDev < 2 ^ 15) ∧
    (let s := doneDev {}
     let r := tok 1 false
     let v := ackCommit 5 r.w0 r.w1 s
     r.kind = 1 ∧ r.current s.cmt.step.toNat s ∧ r.flag = false ∧ v.cmt.root = false ∧ v.cmt.state = .running ∧ v.cmt.state ≠ .idle ∧ afterFlip v = false ∧
     (ackCommit 5 r.w0 r.w1 (doneDev { root := true })).cmt.root = true ∧ fwHalted (ackCommit 5 r.w0 r.w1 (doneDev { root := true })) = false ∧
     ¬ (mkToken 1 {} false 1 1 0 0 0).current s.cmt.step.toNat s ∧
     (tok 2 true).kind = 2 ∧ (tok 2 true).flag = true ∧ (tok 2 true).current s.cmt.step.toNat s ∧ (tok 2 false).flag = false) := by
  unfold StepFinished
  decide +kernel

/-- The device settles an aborted step, and a committed one. -/
def settleDev (flag : Bool) (c : Cmt) (r : CmtRun) : State := jobbed { dev with
  cmt := { c with state := .settling, step := if flag then 1 else 0 }, crun := { r with decide := some (tok 2 flag) } }

theorem quiet_settle : Quiet (settleDev false {} {}) (tok 2 false) ∧ Quiet (settleDev true {} {}) (tok 2 true) := by
  have ht (b : Bool) : ∀ x ∈ (settleDev b {} {}).lnk.txns ++ (settleDev b {} {}).lnk.waiting, x.owner ≠ .step ∧ ∀ n ch, x.owner ≠ .dma n ch := by
    intro x hx
    have e : (settleDev b {} {}).lnk.txns ++ (settleDev b {} {}).lnk.waiting = [] := rfl
    rw [e] at hx
    cases hx
  exact ⟨⟨rfl, rfl, rfl, ht false, Or.inr ⟨by decide +kernel, by decide +kernel⟩⟩, ⟨rfl, rfl, rfl, ht true, Or.inl ⟨by decide +kernel, rfl⟩⟩⟩

theorem test_meets_QuietDoneAndRelease :
    Quiet (settleDev false {} {}) (tok 2 false) ∧ Quiet (settleDev true {} {}) (tok 2 true) ∧
    (let s := settleDev true { nChildren := 1 } { kids := [0] }
     let t := tok 3 true
     let v := ackCommit 0 t.w0 t.w1 s
     t.kind = 3 ∧ t.current (settledStep s) s ∧ s.crun.decide.isSome = true ∧ (children v).contains 0 = true ∧ (∀ p ∈ v.crun.dones, p.1 ≠ 0)) ∧
    (let s := settleDev true {} { doneSent := true }
     let t := tok 4 true
     t.kind = 4 ∧ t.current (settledStep s) s ∧ s.cmt.state = .settling ∧ s.crun.decide.isSome = true ∧ s.crun.doneSent = true) ∧
    ((mkToken 4 ⟨3, 0, 0⟩ false 0 1 0 0 0).cls = 3 ∧ (mkToken 4 ⟨1, 0, 0⟩ false 0 1 0 0 0).cls ≠ 3 ∧ (mkToken 4 ⟨1, 0, 0⟩ false 0 1 0 0 0).flag = false ∧
      (tok 4 true).flag = true) ∧
    (dev.cmt.retryRun < dev.cmt.retryMax ∧ dev.cmt.skipRun < dev.cmt.skipMax ∧ ({ retryRun := 2 : Cmt }).retryMax ≤ ({ retryRun := 2 : Cmt }).retryRun ∧
      ({ skipRun := 4 : Cmt }).skipMax ≤ ({ skipRun := 4 : Cmt }).skipRun) ∧
    (let s := { doneDev { root := true } with crun := { rootTimer := some 0 } }
     s.crun.rootTimer = some 0 ∧ s.cmt.root = true ∧ fwHalted s = false ∧ s.cmt.state = .running) ∧
    (let s := { dev with cmt := { state := .reported }, crun := { decisionTimer := some 0 } }
     s.crun.decisionTimer = some 0 ∧ s.cmt.state = .reported) ∧
    (let s := settleDev true {} { doneSent := true, releaseTimer := some 0 }
     s.crun.releaseTimer = some 0 ∧ s.cmt.state = .settling ∧ s.crun.doneSent = true) ∧
    (let s := settleDev true { root := true } { doneTimer := some 0 }
     s.crun.doneTimer = some 0 ∧ s.cmt.root = true ∧ fwHalted s = false ∧ s.crun.decide = some (tok 2 true)) ∧
    (let s := { doneDev {} with crun := { stepTimer := some 0 } }
     s.crun.stepTimer = some 0 ∧ s.crun.worst.cls = 0 ∧ ({ worst := ⟨1, 0, 0⟩ : CmtRun }).worst.cls ≠ 0 ∧ ∀ h ∈ s.thl, ∀ k ∈ h.strm, k.haltDue = false) ∧
    (let s := { jobbed dev with crun := { startDue := true } }
     s.crun.startDue = true ∧ jobLoaded s = true ∧ fwHalted s = false) :=
  ⟨quiet_settle.1, quiet_settle.2, by decide +kernel⟩

/-- A window of the last copy, in force. -/
def snapDev (n : SnapReg) (r : SnapRun) : State := { dev with win := { en := true, copy0 := 1 } :: List.replicate 15 {}, snap := n, srun := r }

theorem readable (n : SnapReg) (r : SnapRun) : WindowsReadable (snapDev n r) ∧ ImageReadable (snapDev n r) :=
  have e : (snapDev n r).mem.badLines = [] := rfl
  ⟨⟨fun l hl => (by rw [e] at hl; cases hl), fun _ _ l hl => (by rw [e] at hl; cases hl)⟩, fun l hl => (by rw [e] at hl; cases hl)⟩

theorem test_meets_SnapshotsSealAndDrain :
    (let s := { jobbed dev with srun := { periodTimer := some 0 } }
     s.srun.periodTimer = some 0 ∧ jobLoaded s = true) ∧
    (let s := snapDev { pend := true, latestValid := true } {}
     s.snap.pend = true ∧ s.snap.phase = 0 ∧ s.snap.disarmed = false) ∧
    (snapDev { phase := 1 } {}).snap.phase = 1 ∧
    (let s := snapDev { phase := 2 } {}
     s.snap.phase = 2 ∧ fwHalted s = false ∧ s.srun.fillDone = false ∧ WindowsReadable s) ∧
    (let s := snapDev { phase := 2, slot0 := 0x1000, map := 0x2000 } {}
     let w : Win := { en := true, copy0 := 1 }
     s.mem.wf = true ∧ 0x1FFFFF < w.bytes) ∧
    (let s := snapDev { phase := 2 } { fillDone := true, barrier := true }
     s.snap.phase = 2 ∧ s.srun.fillDone = true ∧ s.srun.barrier = true ∧ fwHalted s = false ∧ ImageReadable s) ∧ ({ noWait := true : SnapRun }).noWait = true ∧
    (let s := snapDev { mirror := 1, phase := 3 } { mirLost := some 0 }
     s.snap.mirror = 1 ∧ fwHalted s = false ∧ mirrorLate s = true ∧ s.snap.phase = 3 ∧ s.snap.drain ≠ 1) ∧
    (let s := snapDev { drain := 1, phase := 3 } { drainStage := 1 }
     s.snap.drain = 1 ∧ fwHalted s = false ∧ s.srun.drainStage = 1 ∧ s.snap.mirror ≠ 1) :=
  ⟨by decide +kernel, by decide +kernel, by decide +kernel, ⟨by decide +kernel, by decide +kernel, by decide +kernel, (readable _ _).1⟩, by decide +kernel,
    ⟨by decide +kernel, by decide +kernel, by decide +kernel, by decide +kernel, (readable _ _).2⟩, by decide +kernel, by decide +kernel, by decide +kernel⟩

/-! ## Host interface and registers -/

/-- A request that is held of requester 7. -/
def heldWrite : HeldReq := ⟨7, 0, false, .write [1], none, none⟩

theorem test_meets_HostAccessesToMemory :
    (let s := dev
     PortOpen s ∧ InBar2 s (2 ^ 40 - 1) 1 ∧ sleeping s (bar2Addr s (2 ^ 36 - 1)) 1 = none ∧ regionOf (bar2Addr s (2 ^ 36 - 1)) = .hbm ∧
     sleeping s (bar2Addr s regBase) 1 = none ∧ bar2Absent (bar2Addr s regBase) = true) ∧
    (regionOf (bar2Addr dev storeBase) = .store 0 ∧ sleeping dev (bar2Addr dev storeBase) 4 = none) ∧
    ReadsAs dev (bar2Addr dev (2 ^ 36 - 1)) [(0 : Byte)].length [0] ∧
    (let s := { dev with mem := { badLines := [2 ^ 30 - 1] } }
     PortOpen s ∧ InBar2 s (2 ^ 36 - 4) 4 ∧ sleeping s (bar2Addr s (2 ^ 36 - 4)) 4 = none ∧ resolve s (bar2Addr s (2 ^ 36 - 4) + 3) = some (2 ^ 36 - 1) ∧
     s.mem.bad (2 ^ 36 - 1) = true) ∧
    State.reset.port.linkUp = false ∧
    (let h : HeldReq := ⟨7, 0, false, .read 4, some 0, none⟩
     let s := { dev with port := { linkUp := true, held := [heldWrite, h] } }
     s.port.held.find? (fun h => !h.kind.posted && h.timer == some 0) = some h) :=
  ⟨by unfold PortOpen InBar2; decide +kernel, by decide +kernel, readsAs_at (by decide) (by decide +kernel), by unfold PortOpen InBar2; decide +kernel,
    by decide, by decide +kernel⟩

/-- A log that is enabled, with one record and one lost, and a ring with room. -/
def logDev : State := { dev with
  pci := { logEn := true }, port := { linkUp := true, busMaster := true }, log := { buf := [⟨1, 0, 0, 0, 0, 0, 0, 0⟩], lost := 1 } }

theorem test_meets_LogRingInterruptsAndTime :
    (let s := { dev with port := { linkUp := true, busMaster := true, msixOn := true, msix := [(2047, 0)] } }
     msixMasked s 2047 = false ∧ s.port.busMaster = true ∧ msixMasked dev 2047 = true) ∧
    (logReady logDev 1 = true ∧ logReady logDev 2 = true ∧ logReady logDev 3 = false) ∧
    (let s := { dev with log := { unsignalled := 1, irqTimer := some 0 } }
     s.log.irqTimer = some 0 ∧ s.log.unsignalled ≠ 0) ∧
    (let s := { dev with pci := { pubPeriod := 1 }, port := { linkUp := true, busMaster := true, pubTimer := some 0 } }
     s.port.pubTimer = some 0 ∧ s.pci.pubPeriod ≠ 0 ∧ s.port.busMaster = true ∧ s.pwr.state ≠ 4) ∧
    (let s := { dev with port := { linkUp := true, pubTimer := some 0, ptmTimer := some 0, ptmEn := true } }
     s.port.pubTimer = some 0 ∧ s.port.busMaster = false ∧ s.port.ptmTimer = some 0 ∧ s.port.ptmEn = true) := by decide +kernel

theorem test_meets_FunctionStatesAndConfiguration : dev.rst = .running ∧ State.reset.rst = .held ∧
    ({ dev with rst := .ramping }).rst = .ramping ∧ (30 ≤ 40 ∧ 40 ≤ 40) ∧
    (let s := { dev with snap := { drain := 1 } }
     s.rst = .running ∧ s.snap.drain = 1) ∧ dev.port.pba = [] ∧ dev.port.inD3 = false ∧
    (let s := { dev with port := { linkUp := true, inD3 := true }, pwr := { state := 4 } }
     s.rst = .running ∧ s.port.inD3 = true ∧ s.pwr.state = 4 ∧ s.port.linkUp = true) := by decide +kernel

/-- The debug port is at level 1. -/
def portDev : State := { dev with dbg := { level := 1 } }

/-- The last register of DEV that is there, a hole, a register in use, TIME.NOW, the two halves, and the last offset of each range. -/
theorem test_meets_RegisterAccesses :
    (PortServed portDev ∧ portDev.dbg.level ≠ 0 ∧ 0x03FFFFF8 % 8 = 0 ∧ regBase + 0x03FFFFF8 < regEnd ∧ inDbg 0x03FFFFF8 = false) ∧
    (PortServed dev ∧ dev.dbg.level = 0 ∧ ¬ PortServed State.reset ∧ ∀ o ∈ [0x18, 0xAFF8, 0xB030, 0xB3F8, 0xB800], level0 o = false) ∧
    (PortOpen dev ∧ bar0Ok 0x03EFFFFC 4 = true ∧ 0x03EFFFFC < 0x03F00000 ∧ fwHalted dev = false ∧ bar0Ok 2 4 = false ∧ bar0Ok 0x04000000 8 = false) ∧
    ((0x01FFFFF8 < 0x02000000 ∧ inDbg 0x01FFFFF8 = false ∧ regAt dev 0x01FFFFF8 = none) ∧ (inDbg 0x7800 = false ∧ (regAt dev 0x7800).isSome = true) ∧
      (inDbg 0xAFF8 = false ∧ inDbg 0xB000 = true ∧ inDbg 0xBFF8 = true ∧ inDbg 0xC000 = false)) ∧
    (∃ r, regAt (jobbed dev) 0x7000 = some r ∧ r.inUse = true ∧
      ∃ p ∈ r.locks, ({ who := .debug, off := 0x7000, mask := accMask 0x7000 8, data := accData 0x7000 8 1 } : Wr).touches p.1 p.2 = true) ∧
    (∃ r, regAt dev 0x7818 = some r ∧ r.inUse = false) ∧ (63 < 64 ∧ 0 + 64 ≤ 64) ∧ jobLoaded dev = false := by
  refine ⟨by unfold PortServed; decide +kernel, by unfold PortServed; decide +kernel, by unfold PortOpen; decide +kernel, by decide +kernel, ?_, ?_,
    by decide, by decide⟩
  · exact ⟨_, rfl, by decide +kernel, by decide +kernel⟩
  · exact ⟨_, rfl, by decide +kernel⟩

/-- The host reaches a device that is open to it. -/
theorem arrives_of {s : State} {r : BitVec 16} (h : PortOpen s) : Arrives (.host r) s := h

theorem test_meets_NamedRegisterCommands :
    (PortOpen dev ∧ Arrives (.host 0) dev ∧ Arrives .debug portDev ∧ 0 < 2048 ∧ hasEng dev 0 3 = true ∧ 3 < 4) ∧
    (bit (BitVec.ofNat 64 (2 ^ 48)) 48 = true ∧ actInUse (engOf portDev 0 3) = false ∧ dev.caps.compat = false ∧
      (let s := { dev with caps := { dev.caps with compat := true }, pwr := {} }
       Arrives (.host 0) s ∧ s.caps.compat = true ∧ fieldIsOn s (fieldOf s 0) = false)) ∧
    (let s : State := { dev with thl := [{ strm := List.replicate 3 { state := .halted } }] }
     Arrives (.host 0) s ∧ hasThl s 0 = true ∧ 2 < 3 ∧ (strmOf s 0 2).state = .halted) ∧
    (dev.snap.pushState ≠ 1 ∧ bit (BitVec.ofNat 64 (2 ^ 15)) 15 = true) ∧
    (Arrives (.host 0) (linksDev {}) ∧ 31 < 32 ∧ hasLink (linksDev {}) 31 = true ∧ jobLoaded (linksDev {}) = false ∧ bit (1 : Word) 0 = true ∧
      bit (1 : Word) 1 = false ∧ (linkOf (linksDev {}) 31).enable = false ∧ bit (3 : Word) 0 = true ∧ bit (3 : Word) 1 = true ∧
      (linkOf (linksDev { enable := true }) 31).enable = true) ∧
    bit (BitVec.ofNat 64 (2 ^ 44)) 44 = true ∧ jobLoaded (jobbed dev) = true ∧ dev.time.role ≠ 1 ∧ ({ dev with time := { role := 1 } }).time.role = 1 ∧
    (fwHalted dev = false ∧ (2 ^ 44 - 4096) % 4096 = 0 ∧ 2 ^ 44 - 4096 < 2 ^ 44) ∧
    (field (1 : Word) 2 0 = 1 ∧ field (3 : Word) 2 0 = 3 ∧ field (4 : Word) 2 0 = 4) ∧
    (dev.sec.fwState ≠ 1 ∧ field (BitVec.ofNat 64 (2 ^ 48)) 49 48 = 1 ∧ field (BitVec.ofNat 64 (2 ^ 49)) 49 48 = 2) ∧
    (fwHalted { dev with dbg := { pup := { mode := 2 } } } = true) := by
  have o (s : State) (h : s.port.linkUp = true ∧ s.rst = .running ∧ restricted s = false ∧ s.pwr.state ≠ 4 ∧ s.port.held = []) : PortOpen s := h
  refine ⟨⟨o _ (by decide +kernel), arrives_of (o _ (by decide +kernel)), ⟨by unfold PortServed; decide +kernel, by decide⟩, by decide +kernel⟩,
    ⟨by decide +kernel, by decide +kernel, by decide +kernel, arrives_of (o _ (by decide +kernel)), by decide +kernel⟩,
    ⟨arrives_of (o _ (by decide +kernel)), by decide +kernel⟩, by decide +kernel, ⟨arrives_of (o _ (by decide +kernel)), by decide +kernel⟩, ?_⟩
  decide +kernel

/-! ## Power -/

/-- The first field idle and awake for its time. -/
def idleDev : State := { dev with prun := { idle := [some 1000000000, none, none, none], hbmIdle := [some 0, none, none, none] } }

/-- The device with field 0 and its stacks asleep, and an access that waits for its store. -/
def sleepDev (compat : Bool) : State := { dev with
  caps := { dev.caps with compat := compat }, pwr := {}, prun := { wants := [storeBase] } }

theorem test_meets_PowerDomainsAndWake :
    (0 < 4 ∧ idleDev.rst = .running ∧ jobLoaded idleDev = false ∧ idleDev.pwr.autoSleep = true ∧ idleDev.caps.compat = false ∧ idleDev.pwr.state ≠ 4 ∧
      fieldIsOn idleDev 0 = true ∧ idleDev.prun.idle.getD 0 none = some 1000000000 ∧ idleNs idleDev ≤ 1000000000 ∧ idleDev.pci.loading = none ∧ fieldQuiet idleDev 0 = true ∧ fieldWanted idleDev 0 = false ∧
      hbmIsActive idleDev 0 = true ∧ idleDev.prun.hbmIdle.getD 0 none = some 0) ∧
    (let s := sleepDev false
     s.rst = .running ∧ storeBase ∈ s.prun.wants ∧ (resolve s storeBase).bind (sleeper s) = some (.field 0) ∧ s.caps.compat = false ∧
       askedFor s (.field 0) = false ∧ s.log.buf.length < 4096) ∧
    (let s := { sleepDev false with prun := { wants := [storeBase], loadSteps := [(1, .field 0, 3)] } }
     storeBase ∈ s.prun.wants ∧ (resolve s storeBase).bind (sleeper s) = some (.field 0) ∧ askedFor s (.field 0) = true) ∧
    (let s := { dev with prun := { wants := [storeBase] } }
     storeBase ∈ s.prun.wants ∧ (resolve s storeBase).bind (sleeper s) = none) ∧
    (compatOff (sleepDev true) storeBase = some 0 ∧ (sleepDev true).log.buf.length < 4095) ∧
    (let s := { dev with prun := { waking := 8, hbmWaking := 8 } }
     3 < 4 ∧ s.prun.waking.getLsbD 3 = true ∧ s.prun.hbmWaking.getLsbD 3 = true) ∧
    (fieldIsOn dev 3 = false ∧ fieldIsOn (sleepDev false) 0 = false ∧ 0 < (sleepDev false).thl.length ∧ fieldOf (sleepDev false) 0 = 0 ∧ isHbm (hbmEnd - 1) = true) ∧
    (let s := { dev with pwr := { state := 4, smbAddr := 0x58 }, prun := { leaving := true } }
     s.pwr.state = 4 ∧ s.prun.leaving = true ∧ s.rst = .running ∧ s.prun.smbNackNext = false ∧ s.pins.smbSclHeld = false ∧ s.pwr.wakeEn = true ∧
       0x59 ≠ s.pwr.smbAddr ∧ s.pwr.arpEn = false) ∧
    (let s := { dev with pwr := { state := 4, arpEn := true, wakeEn := false } }
     s.pwr.arpEn = true ∧ s.pwr.wakeEn = false) ∧ dev.pwr.state ≠ 4 ∧ dev.prun.smbNackNext = false ∧
    (let s := { dev with prun := { smbTimer := some 0 }, pins := { smbSclHeld := true } }
     s.prun.smbTimer = some 0 ∧ s.pins.smbSclHeld = true) := by decide +kernel

theorem test_meets_VoltageShaperAndThermal :
    (awake dev = true ∧ fwHalted dev = false ∧ dev.prun.avsTimer = none ∧ dev.prun.vGap.getD 0 = 0 ∧ dev.pwr.therm = 0 ∧ dev.pwr.cur.toNat < 1 ∧
      0 ≤ dev.pwr.cur.toNat) ∧
    (({ vtarget := 1 : Pwr }).cur < ({ vtarget := 1 : Pwr }).vtarget ∧ ({ vtarget := 1 : Pwr }).avsFault = false ∧ ({ cur := 1 : Pwr }).vtarget < ({ cur := 1 : Pwr }).cur) ∧
    (let s := { dev with prun := { avsTimer := some 0 } }
     awake s = true ∧ s.prun.avsTimer.isSome = true ∧ 630 ≤ stepMv s.pwr.cur.toNat + 10 ∧ stepMv s.pwr.cur.toNat ≤ 610 + 10 ∧
     stepMv s.pwr.cur.toNat + 10 < 631 ∧ 609 + 10 < stepMv s.pwr.cur.toNat) ∧
    (let s := { dev with pwr := { avsFault := true }, prun := { avsRetryTimer := some 0 } }
     awake s = true ∧ s.pwr.avsFault = true ∧ s.prun.avsRetryTimer = some 0) ∧
    (let s := { dev with dbg := { pup := { mode := 2 } }, prun := { shapeDue := true } }
     awake s = true ∧ fwHalted s = true ∧ s.prun.shapeDue = true) ∧
    (let s := { dev with prun := { shapeDue := true } }
     let u := sliceAsk (latchPwr { s with prun := { s.prun with shapeDue := false } })
     awake s = true ∧ fwHalted s = false ∧ s.prun.shapeDue = true ∧ (limits default u).floorMin = 0) ∧
    (State.reset.rst = .held ∧ dev.rst ≠ .held) ∧
    (dev.prun.tripped = false ∧ dev.pwr.therm ≠ 2 ∧ jobLoaded dev = false ∧ ({ therm := 2 : Pwr }).therm = 2 ∧ ({ tripped := true : PwrRun }).tripped = true) ∧
    ([(125 : Int)] ≠ [] ∧ 125 = [(125 : Int)].foldl (fun m t => max m t.toNat) 0 ∧ 124 = [(124 : Int)].foldl (fun m t => max m t.toNat) 0 ∧
      thermNext dev 110 = 2 ∧ thermNext dev 99 = 0 ∧ thermNext dev 100 = 1 ∧ thermNext dev 109 = 1 ∧
      thermNext { dev with pwr := { therm := 1 } } 94 = 0 ∧ thermNext { dev with pwr := { therm := 1 } } 95 = 1 ∧
      thermNext { dev with pwr := { therm := 2 } } 105 = 2 ∧ thermNext { dev with pwr := { therm := 2 } } 104 = 1) := by decide +kernel

/-! ## Reset, boot, attestation, debug, self-test -/

theorem test_meets_ResetBootAndSelfTest :
    (let s := { dev with pins := { perstN := true, pwrOk := true } }
     s.pins.perstN = true ∧ s.pins.pwrOk = true ∧ s.rst ≠ .held ∧ s.prun.tripped = false) ∧
    (let s := { dev with rst := .ramping, pins := { perstN := true, pwrOk := true } }
     s.rst = .ramping ∧ s.prun.load = 0 ∧ s.pins.perstN = true ∧ s.pins.pwrOk = true ∧ s.refclkLost = false ∧ ({ dev with rst := .ramping }).pins.perstN = false) ∧
    (let s := { State.reset with pins := { pwrOk := true } }
     s.pins.perstN = false ∧ s.pins.pwrOk = true ∧ s.rst = .held ∧ refclkRuns s = true ∧ s.pins.testEn = false ∧ State.reset.pins.pwrOk = false ∧
       refclkRuns { s with refclkLost := true, refclkTimer := some 1 } = false) ∧
    (let s := { State.reset with pins := { pwrOk := true, testEn := true } }
     s.pins.perstN = false ∧ s.pins.pwrOk = true ∧ s.rst = .held ∧ refclkRuns s = true ∧ s.pins.testEn = true) ∧
    (let s := { dev with rst := .booting }
     s.rst = .booting ∧ s.sec.stage = 0 ∧ s.sec.strap = false ∧ s.part.flashCut = false ∧ imgBad s.part s.part.image = some 2 ∧
     ({ flashCut := true : Part }).flashCut = true ∧ ({ strap := true : Sec }).strap = true) ∧
    (let s := { dev with sec := { stage := 1 } }
     s.port.linkUp = true ∧ s.sec.stage = 1) ∧
    (let s := { dev with sec := { stage := 2 } }
     s.sec.stage = 2 ∧ imgBad s.part (stagedImage s) = some 2) ∧
    (let s := { dev with sec := { fwState := 1 } }
     s.sec.fwState = 1 ∧ s.sec.copying = false ∧ fwHalted s = false) ∧ (8 ≤ 8 ∧ 8 < 9) ∧
    (let s := { dev with rst := .selftest, bist := { nextField := 3, nextPhase := 6, groupOn := true } }
     3 < 4 ∧ s.rst = .selftest ∧ s.bist.groupOn = true ∧ s.bist.nextField = 3 ∧ s.bist.nextPhase = 6 ∧ 5 < 6 ∧ 2 < 3) ∧
    (let s := { jobbed dev with bist := { sliceK := 1, since := 21600000000000 } }
     s.rst = .running ∧ sliceTime s = true ∧ sliceTime { s with bist := { s.bist with since := 21599999999999 } } = false ∧ s.bist.target = none ∧ s.thl ≠ [] ∧ fwHalted s = false ∧ jobLoaded s = true ∧
       fieldIsOn s (fieldOf s s.bist.nextThl.toNat) = true ∧ s.pwr.therm = 0 ∧ fieldIsOn { s with pwr := {} } (fieldOf s s.bist.nextThl.toNat) = false) ∧
    (let s := { dev with bist := { target := some (0, 3), sliceBusy := true } }
     s.bist.target = some (0, 3) ∧ s.bist.sliceBusy = true) := by decide +kernel

/-- A ramp that has reached the idle load, from below and at it. -/
theorem test_meets_ramp_end :
    (let s := { dev with rst := .ramping }
     s.rst = .ramping ∧ s.prun.load ≤ Config.idleLoad) ∧
    (let s := { dev with rst := .ramping, prun := { load := Config.idleLoad } }
     s.rst = .ramping ∧ s.prun.load ≤ Config.idleLoad) := ⟨⟨rfl, Nat.zero_le _⟩, rfl, le_refl _⟩

/-- A transport with a session. -/
def spdmDev (p : Spdm) (x : Sec) : State := { dev with sec := { x with doe := p, mctp := p } }

def talk (n : List Session) : Spdm := { version := true, caps := true, algs := true, keyEx := true, sessions := n, nextId := 2 }

theorem test_meets_SpdmAnswersRequests :
    (requestOn .doe (.getVersion .doe) = true ∧ requestOn .mctp (.pldmRequest 0 0) = true ∧ (spdmOf dev .doe).held = none ∧
      fwHalted { dev with dbg := { pup := { mode := 2 } } } = true ∧
      (spdmOf (spdmDev { held := some (.getVersion .doe) } {}) .doe).held = some (.getVersion .doe)) ∧
    (∀ t ∈ [Transport.doe, .mctp], Hears t (spdmDev (talk []) {}) ∧ (spdmOf (spdmDev (talk []) {}) t).version = true ∧
      (spdmOf (spdmDev (talk []) {}) t).caps = true ∧ (spdmOf (spdmDev (talk []) {}) t).algs = true ∧ (spdmOf (spdmDev (talk []) {}) t).keyEx = true ∧
      (spdmOf (spdmDev { algs := true } {}) t).keyEx = false ∧ Hears t dev ∧ (spdmOf dev t).version = false ∧
      (spdmOf dev t).algs = false) ∧
    15 < (certChain dev.part).length ∧ (certChain dev.part).length ≤ 16 ∧ (0 ∈ [0, 1] ∧ 1 ∈ [0, 1] ∧ 1 ∉ [0]) ∧ ((1 : Nat) ≠ 0) ∧
    (let s := spdmDev (talk [{ id := 1 }]) { vaultLoaded := true }
     s.sec.vaultLoaded = true ∧ s.sec.vaultCleared = false ∧ (spdmOf s .doe).sessions.length < 2 ∧
     2 ≤ (spdmOf (spdmDev (talk [{ id := 1 }, { id := 2 }]) {}) .doe).sessions.length ∧ (spdmDev {} {}).sec.vaultLoaded = false) ∧
    (5 ≤ 5 ∧ 6 ≤ 6 ∧ 6 ≠ 0xFF) ∧
    (let s := spdmDev (talk [{ id := 1 }]) {}
     (spdmOf s .doe).sessions.find? (fun x => x.id == 1) = some { id := 1 } ∧ ({ id := 1 : Session }).open_ = false ∧ isOpen s .doe 1 = false) ∧
    isOpen (spdmDev (talk [{ id := 1, open_ := true }]) {}) .doe 1 = true ∧ (7 ≠ 0 ∧ 7 ≠ 2) := by
  unfold Hears
  decide +kernel

/-- The debug port at level `n` with a target selected. -/
def dbgDev (n : Nat) (d : Dbg) : State := { dev with dbg := { d with level := BitVec.ofNat 2 n } }

/-- The clauses whose hypothesis is that an unlock is not refused are met only where the signature of a message with a free nonce
verifies (log entry 16): no closed state shows it. -/
theorem test_meets_DebugPortAndTap :
    (({ dev with pins := { perstN := true } }).pins.perstN = true ∧ dev.pins.perstN = false) ∧
    ((dbgDev 2 {}).dbg.level ≠ 3 ∧ (dbgDev 3 {}).dbg.level = 3 ∧ ({ vaultCleared := true : Sec }).vaultCleared = true ∧
      0xFF#8 ∉ [0x01#8, 0x02#8, 0x03#8, 0x04#8, 0x05#8, 0x20#8, 0x21#8, 0x30#8]) ∧
    (4 % 8 ≠ 0 ∧ regionOf storeEnd = .reserved ∧ storeEnd % 8 = 0 ∧ regionOf (hbmEnd - 8) = .hbm ∧ (hbmEnd - 8) % 8 = 0 ∧ ¬ PortServed State.reset) ∧
    (PortServed dev ∧ dev.dbg.level = 0 ∧ (regionOf 0 ≠ .reserved ∧ regionOf 0 ≠ .regs) ∧
      ∀ a ∈ [regBase + 0x18, regBase + 0xAFF8, regBase + 0xB030, regBase + 0xB3F8, regBase + 0xB800, regEnd - 8], a % 8 = 0 ∧ regionOf a = .regs) ∧
    (let s := dbgDev 1 {}
     PortServed s ∧ s.dbg.level ≠ 0 ∧ regionOf (2 ^ 36 - 8) = .hbm ∧ sleeping s (2 ^ 36 - 8) 8 = none ∧ Plain s (2 ^ 36 - 8) 8 ∧ s.mem.wf = true ∧
       regionOf storeBase = .store 0 ∧ sleeping s storeBase 8 = none) ∧
    ReadsAs (dbgDev 1 {}) (2 ^ 36 - 8) 8 (List.replicate 8 0) ∧
    (let v : Word := 9
     bit v 3 = true ∧ bit v 4 = false ∧ field v 1 0 = 1 ∧ unlockBad (dbgDev 0 { failures := 16 }) 1 false = some 1 ∧
     unlockBad dev 0 false = some 2 ∧ unlockBad dev 1 false = some 3 ∧ unlockBad dev 1 true = some 4 ∧
     16 ≤ (dbgDev 0 { failures := 16 }).dbg.failures.toNat) ∧
    (PortServed (dbgDev 3 {}) ∧ fwHalted (dbgDev 2 {}) = false ∧ ({ dev with dbg := { nonceTimer := some 0 } }).dbg.nonceTimer = some 0) ∧
    (SelectsUnit (dbgDev 1 { tgtKind := 1, tgtIdx := 7 }) ∧ SelectsUnit (dbgDev 1 { tgtKind := 2, tgtIdx := 2 }) ∧
      (tgtOf { dbgDev 1 { tgtKind := 1 } with thl := [{ core := List.replicate 8 { dbg := { mode := 2 } } }] }).halted = true) ∧
    ((dbgDev 1 {}).dbg.level = 1 ∧ (dbgDev 1 {}).dbg.tgtKind = 0 ∧ 2 ≤ (dbgDev 2 {}).dbg.level.toNat) := by
  unfold PortServed Plain SelectsUnit
  refine ⟨by decide +kernel, by decide +kernel, by decide +kernel, by decide +kernel, by decide +kernel,
    readsAs_at (by decide) (by decide +kernel), by decide +kernel⟩

/-! ## Steps -/

theorem test_meets_StepRunsTheFrontCommand : dev.pending = [] ∧ State.reset.pending = [] ∧ State.reset.rst = .held := by decide

theorem test_meets_CommandsLeaveTheQueue : ∃ t, exec .idcode { dev with pending := [.clamp] } = .next t := ⟨_, rfl⟩

theorem test_meets_StepKeepsTheInvariant : State.reset.Inv ∧ ∃ t, step { State.reset with pending := [.pwrOkRise] } = .next t :=
  ⟨by unfold State.Inv; decide, ⟨_, rfl⟩⟩

theorem test_meets_MinSvnNeverFalls : ∃ t, step { State.reset with pending := [.pwrOkRise] } = .next t := ⟨_, rfl⟩

/-- The modulus of an RSA-3072 key made for this test, and the signature of the image header under it (16 R326). -/
def imgModulus : Nat := [0xddeec65e4540af2ef920b1e584ac475e34ff1220ab37548613a197296ec402624d629042c93509d535fb09676fcabc3fb8173e43608d72d8b4cca31cf05ccc61,
  0x49fae3f7d9c5297c955e9ebb8067553c800ddd0ee5c009c863406ec4fd4b6a8cff7a990e0e1ba5ed99dd25c0a024855d5a2a1c06c686909649848416ae5c7dc1,
  0x2499e93dc0fe872bc3bcac1549d44ec9ab4294e0da2164d731f6ad1d2edce590d913bc52f658f566147d5793ba89169dbcf8ce17cdf5d7109751ed7a342c7c31,
  0xea03e601262875c8e80a9a76f7853f823bbd4bd30da37ca7301ba626e11c45c16a2be85b8df7dadf6d45273ba3e2e2fc8b67278da657cb608b090d61c665f7f2,
  0x346d8aa80d35fd657e1615ba261b62c7c4cec3d46be213fb3a267b05ef69ae670b22ce355407e1654c546d133279fcb37e3d6179db80e261fc297f765665e5ad,
  0x9a5e44b22bde8557c49b806c7d56ad48a39d04bdfeb39f5538cb8e6aa939c29842fa3e8e4c2f1da0939052734e595fd751bc54a87d6dbd4e1413c8cdf451c02b].foldl (fun x y => x * 2 ^ 512 + y) 0

/-- The signature. -/
def imgSignature : Nat := [0xbb338e838a30689470e54d57bf4ef56fca7be5e14ca68a1ee2a72c697aba60632e7a3d4e96084f26e15407acf92b7cfd9ec10bb99f1a2d108e47c6121b250921,
  0x6fbc87935a723f36c9364be4e93bc7d40de5a8094b30fab9e1631e55b8705a7b62ce8578898b9cebf8a693b873b4e3a50eef7bf62c67a2bb6a5fc4541874615d,
  0x3bb4e29a60a393c8c6ce432582ec46e14973a3bb2a6ad8f04a0829859a2a72b6bad4988168ef974be112c7fc16158c2116432572287071406892953122b2c016,
  0xafcbbb7c3cdc87ddefeb75be7d7b853dda5123d30a0b6f2adc1ffc9bbb1568c42215f950677aea2de97d1ba8b811fbfb00ca0e5b1430f82cd71532202d4d5db2,
  0xfe01a4484bd9548f5ee9476d86fbdc75499c45c1859b1d558961141041bf20cfb3efcc3329c498334ec2a6e0332441fcb79a7e6eeb96bb498c821fa18141182f,
  0x92f27d2ca55581d93bd594be300bbb6eaf7ef78f48fb01e4c76634ef4a469fbed37200941c28e1e34e419cedc28e6113796b86df59fe1d027c17d9d5d5a05461].foldl (fun x y => x * 2 ^ 512 + y) 0

/-- A firmware image of four octets, signed with the key: release 7, svn 5, key 0, entry 0 (16 R326). -/
def goodImage : List Byte :=
  bytesOfWords [BitVec.ofNat 64 (0x4F5A4657 + 2 ^ 32), BitVec.ofNat 64 (7 + 5 * 2 ^ 32), 4, 0] ++ beBytes 32 0x9f64a747e1b97f131fabb6b447296c9b6f0201e79fb3c5356e6c77e89b6a806a ++
    beBytes 384 imgModulus ++ beBytes 4 65537 ++ List.replicate 60 0 ++ beBytes 384 imgSignature ++ List.replicate 128 0 ++ [1, 2, 3, 4]

/-- A part whose first firmware key is that key, at the svn of the image. -/
def keyPart : Part := { keyHash := [0x8b921693202fbdd4cbddd3c8b7e2284fb97d2a734a5a731e6f36cc009e607e61, 0, 0, 0], minSvn := 5, image := goodImage }

/-- The image of the part is valid, so the boot ROM runs it; with the svn of the part one higher it is refused with reason 6. -/
theorem test_meets_valid_image :
    (let s := { dev with rst := .booting, part := keyPart }
     s.rst = .booting ∧ s.sec.stage = 0 ∧ s.sec.strap = false ∧ imgBad s.part s.part.image = none) ∧
    imgBad { keyPart with minSvn := 6 } goodImage = some 6 := by decide +kernel

/-! ## Single steps worked out by hand -/

/-- The last core of the thallus after `c`, from a core at address 64 that holds `a` in g1 and `b` in g2. -/
def coreAfter (c : Instr) (pc : Nat) (a b : Word) : Option Core :=
  match exec c (coreDev { pc := pc, g := [0, a, b] ++ List.replicate 29 0 }) with
  | .next s => some (coreOf s 0 7)
  | _ => none

/-- An S-form word: opcode, rd, ra, rb, imm. -/
def sWord (op d a b imm : Nat) : Word := BitVec.ofNat 64 (op + d * 2 ^ 8 + a * 2 ^ 13 + b * 2 ^ 18 + imm * 2 ^ 32)

/-- A sum wraps at 64 bits, and the pc moves by one word (08 T8-3). -/
theorem test_add_wraps : (coreAfter (.add 0 7 (sWord 0x01 3 1 2 0)) 64 (BitVec.allOnes 64) 2).map (fun k => (k.g.getD 3 0, k.pc)) =
    some (1, 72) := by decide +kernel

/-- The destination is also the first source: 5 - 7. -/
theorem test_sub_in_place : (coreAfter (.sub 0 7 (sWord 0x02 1 1 2 0)) 64 5 7).map (fun k => (k.g.getD 1 0, k.g.getD 2 0)) =
    some (0xFFFFFFFFFFFFFFFE, 7) := by decide +kernel

/-- Division by zero gives all ones (08 R174). -/
theorem test_div_by_zero : (coreAfter (.div 0 7 (sWord 0x05 3 1 2 0)) 64 9 0).map (·.g.getD 3 0) =
    some (BitVec.allOnes 64) := by decide +kernel

/-- The most negative by -1 wraps (08 R174). -/
theorem test_div_wraps : (coreAfter (.div 0 7 (sWord 0x05 3 1 2 0)) 64 0x8000000000000000 (BitVec.allOnes 64)).map (·.g.getD 3 0) =
    some 0x8000000000000000 := by decide +kernel

/-- The immediate -1 is extended by its sign. -/
theorem test_addi_extends : (coreAfter (.addi 0 7 (sWord 0x10 3 1 0 0xFFFFFFFF)) 64 1 0).map (·.g.getD 3 7) =
    some 0 := by decide +kernel

/-- FP32: 2^24 + 1 is a tie, and goes to the even 2^24. -/
theorem test_fadd_tie : fp32.addB 0x4B800000 0x3F800000 = 0x4B800000 := by decide +kernel

/-- A jump back by two words from address 64 links to 72. -/
theorem test_jal_links : (coreAfter (.jal 0 7 (sWord 0x36 3 0 0 0xFFFFFFFE)) 64 0 0).map (fun k => (k.g.getD 3 0, k.pc)) =
    some (72, 48) := by decide +kernel

/-- The published check value of CRC-32C (11 T11-2). -/
theorem test_crc32c_check : crc32c [0x31, 0x32, 0x33, 0x34, 0x35, 0x36, 0x37, 0x38, 0x39] = 0xE3069283 := by decide +kernel

/-- The published SHA-256 of "abc" begins ba7816bf and ends f20015ad. -/
theorem test_sha256_abc : (sha256 [0x61, 0x62, 0x63]).take 4 = [0xBA, 0x78, 0x16, 0xBF] ∧
    (sha256 [0x61, 0x62, 0x63]).drop 28 = [0xF2, 0x00, 0x15, 0xAD] := by decide +kernel

/-- The table gives bits to no row, so no word spells a command. -/
theorem test_no_words : decodeTableWord 64 1 = none ∧ (State.reset.withFetchWord 64 1) = State.reset := by decide +kernel

end Sys2Proof.Tests
end

section
/-! Rounding to a multiple of a power of two (02 R42), and what the patterns of a floating-point layout read as and are encoded from
(02 R33, R35). The laws of the encodings hold for every layout, so each format of the table is an instance. -/

namespace Sys2Proof.Machine

open Sys2Proof

/-! ## Rounding -/

/-- A magnitude that is already in the unit asked for keeps its value in every mode. -/
@[simp] theorem roundAt_self (r : Rnd) (m : Nat) (e : Int) : roundAt r m e e = m := by simp [roundAt]

theorem roundAt_rz {d : Nat} (m : Nat) (hd : 0 < d) : roundAt .rz m 0 d = m / 2 ^ d := by
  simp [roundAt, hd.ne']

theorem roundAt_rna {d : Nat} (m : Nat) (hd : 0 < d) :
    roundAt .rna m 0 d = if 2 ^ (d - 1) ≤ m % 2 ^ d then m / 2 ^ d + 1 else m / 2 ^ d := by
  simp [roundAt, hd.ne']

theorem roundAt_rne {d : Nat} (m : Nat) (hd : 0 < d) :
    roundAt .rne m 0 d = if 2 ^ (d - 1) < m % 2 ^ d then m / 2 ^ d + 1
      else if m % 2 ^ d = 2 ^ (d - 1) then m / 2 ^ d + m / 2 ^ d % 2 else m / 2 ^ d := by
  simp [roundAt, hd.ne']

/-- A magnitude is its whole units and a remainder below one unit, which is two halves. -/
theorem quotient_remainder_half {d : Nat} (m : Nat) (hd : 0 < d) :
    m / 2 ^ d * 2 ^ d + m % 2 ^ d = m ∧ m % 2 ^ d < 2 ^ d ∧ 2 ^ (d - 1) * 2 = 2 ^ d :=
  ⟨Nat.div_add_mod' m _, Nat.mod_lt m (Nat.two_pow_pos d), Nat.two_pow_pred_mul_two hd⟩

/-- RNA is nearest, and a tie goes up: the error lies in (-1/2, 1/2] of the unit. -/
theorem roundAt_rna_bounds {d : Nat} (m : Nat) (hd : 0 < d) :
    2 * (roundAt .rna m 0 d * 2 ^ d) ≤ 2 * m + 2 ^ d ∧ 2 * m < 2 * (roundAt .rna m 0 d * 2 ^ d) + 2 ^ d := by
  obtain ⟨hm, hlt, hhalf⟩ := quotient_remainder_half m hd
  rw [roundAt_rna m hd]
  split
  · rw [Nat.add_one_mul (m / 2 ^ d)]; omega
  · omega

/-- RNE is nearest: the error is at most 1/2 of the unit. -/
theorem roundAt_rne_bounds {d : Nat} (m : Nat) (hd : 0 < d) :
    2 * m ≤ 2 * (roundAt .rne m 0 d * 2 ^ d) + 2 ^ d ∧ 2 * (roundAt .rne m 0 d * 2 ^ d) ≤ 2 * m + 2 ^ d := by
  obtain ⟨hm, hlt, hhalf⟩ := quotient_remainder_half m hd
  rw [roundAt_rne m hd]
  split
  · rw [Nat.add_one_mul (m / 2 ^ d)]; omega
  · split
    · obtain h0 | h1 := Nat.mod_two_eq_zero_or_one (m / 2 ^ d)
      · rw [h0, Nat.add_zero]; omega
      · rw [h1, Nat.add_one_mul (m / 2 ^ d)]; omega
    · omega

/-- A tie of RNE goes to the even neighbour. -/
theorem roundAt_rne_tie_even {d : Nat} (m : Nat) (hd : 0 < d)
    (htie : 2 * m = 2 * (roundAt .rne m 0 d * 2 ^ d) + 2 ^ d ∨ 2 * (roundAt .rne m 0 d * 2 ^ d) = 2 * m + 2 ^ d) :
    roundAt .rne m 0 d % 2 = 0 := by
  obtain ⟨hm, hlt, hhalf⟩ := quotient_remainder_half m hd
  rw [roundAt_rne m hd] at htie ⊢
  split_ifs at htie ⊢ with habove hhalfway
  · rw [Nat.add_one_mul (m / 2 ^ d)] at htie; omega
  · omega
  · omega

/-! ## Patterns of a layout -/

/-- What the patterns of a layout may read as: a NaN, an infinity where the layout has one, or a finite value whose magnitude pattern is
not above that of the largest (02 R33, T2-2). -/
inductive Fmt.Reads (f : Fmt) : Nat → Fp → Prop
  | nan (x : Nat) : f.Reads x .nan
  | inf (neg : Bool) (hk : f.kind = .ieee) : f.Reads (f.signBits neg + (2 ^ f.ew - 1) * 2 ^ f.mw) (.inf neg)
  | subnormal (neg : Bool) (m : Nat) (hm : m < 2 ^ f.mw) (hmax : m ≤ f.maxBits) : f.Reads (f.signBits neg + m) (.fin neg m f.qmin)
  | normal (neg : Bool) (e m : Nat) (he : 0 < e) (hm : m < 2 ^ f.mw) (hmax : e * 2 ^ f.mw + m ≤ f.maxBits) :
    f.Reads (f.signBits neg + (e * 2 ^ f.mw + m)) (.fin neg (2 ^ f.mw + m) (f.qmin + e - 1))

/-- A pattern is its sign, exponent and fraction, each in its place (02 R33). -/
theorem Fmt.fields_eq (f : Fmt) {x : Nat} (hx : x < 2 ^ f.width) :
    f.signBits (x / 2 ^ (f.ew + f.mw) % 2 == 1) + (x / 2 ^ f.mw % 2 ^ f.ew * 2 ^ f.mw + x % 2 ^ f.mw) = x := by
  have hsign : f.signBits (x / 2 ^ (f.ew + f.mw) % 2 == 1) = x / 2 ^ (f.ew + f.mw) * 2 ^ (f.ew + f.mw) := by
    have : x / 2 ^ (f.ew + f.mw) < 2 := Nat.div_lt_of_lt_mul (by rwa [← Nat.pow_add_one, Nat.add_comm, ← Nat.add_assoc])
    obtain h | h := Nat.le_one_iff_eq_zero_or_eq_one.1 (Nat.le_of_lt_succ this)
    all_goals simp [signBits, h]
  have hlow : x % 2 ^ (f.ew + f.mw) = x / 2 ^ f.mw % 2 ^ f.ew * 2 ^ f.mw + x % 2 ^ f.mw := by
    rw [Nat.add_comm f.ew, Nat.pow_add, Nat.mod_mul]; ring
  rw [hsign, ← hlow, Nat.div_add_mod']

/-- Fields that spell no special value are at most the largest finite pattern (02 T2-2). -/
theorem Fmt.fields_le_maxBits (f : Fmt) {e m : Nat} (he : e < 2 ^ f.ew) (hm : m < 2 ^ f.mw)
    (hieee : f.kind = .ieee → e ≠ 2 ^ f.ew - 1) (hone : f.kind = .oneNan → e = 2 ^ f.ew - 1 → m ≠ 2 ^ f.mw - 1) :
    e * 2 ^ f.mw + m ≤ f.maxBits := by
  have hrow {n : Nat} (h : e < n) : e * 2 ^ f.mw + 2 ^ f.mw ≤ n * 2 ^ f.mw := by
    rw [← Nat.succ_mul]; exact Nat.mul_le_mul_right _ h
  have hall := hrow he
  cases hk : f.kind with
  | ieee =>
    have := hrow (n := 2 ^ f.ew - 1) (by have := hieee hk; omega)
    simp only [maxBits, hk]; omega
  | finite => simp only [maxBits, hk, Nat.pow_add]; omega
  | oneNan =>
    simp only [maxBits, hk, Nat.pow_add]
    by_cases htop : e = 2 ^ f.ew - 1
    · have := hone hk htop; omega
    · have := Nat.mul_le_mul_right (2 ^ f.mw) (show e + 2 ≤ 2 ^ f.ew by omega)
      rw [Nat.add_mul] at this; omega

/-- Every pattern reads as one of the values its layout has. -/
theorem Fmt.reads_decode (f : Fmt) {x : Nat} (hx : x < 2 ^ f.width) : f.Reads x (f.decode x) := by
  have hfields := f.fields_eq hx
  have he : x / 2 ^ f.mw % 2 ^ f.ew < 2 ^ f.ew := Nat.mod_lt _ (Nat.two_pow_pos _)
  have hm : x % 2 ^ f.mw < 2 ^ f.mw := Nat.mod_lt _ (Nat.two_pow_pos _)
  unfold decode
  generalize (x / 2 ^ (f.ew + f.mw) % 2 == 1) = neg at *
  generalize x / 2 ^ f.mw % 2 ^ f.ew = e at *
  generalize x % 2 ^ f.mw = m at *
  subst hfields
  simp only [beq_iff_eq, Bool.and_eq_true]
  split
  case isTrue h =>
    obtain ⟨hk, rfl⟩ := h
    split
    · subst m; exact .inf neg hk
    · exact .nan _
  case isFalse hieee =>
    split
    · exact .nan _
    case isFalse hone =>
      have hmax := f.fields_le_maxBits he hm (fun hk htop => hieee ⟨hk, htop⟩) (fun hk htop hlast => hone ⟨⟨hk, htop⟩, hlast⟩)
      split
      · subst e
        rw [Nat.zero_mul, Nat.zero_add] at hmax ⊢
        exact .subnormal neg m hm hmax
      · exact .normal neg e m (by omega) hm hmax

/-! ## Encoding a value of the layout -/

/-- No subnormal is flushed: it keeps its fraction (02 R35). -/
theorem Fmt.roundBits_subnormal (f : Fmt) (r : Rnd) {m : Nat} (hm : m < 2 ^ f.mw) : f.roundBits r m f.qmin = m := by
  by_cases h0 : m = 0
  · simp [roundBits, h0]
  · have hlog : Nat.log2 m < f.mw := (Nat.log2_lt h0).2 hm
    have hq : max (ilog m f.qmin - f.mw) f.qmin = f.qmin := max_eq_right (by unfold ilog; omega)
    simp [roundBits, h0, hq]

theorem Fmt.roundBits_normal (f : Fmt) (r : Rnd) {e m : Nat} (he : 0 < e) (hm : m < 2 ^ f.mw) :
    f.roundBits r (2 ^ f.mw + m) (f.qmin + e - 1) = e * 2 ^ f.mw + m := by
  have h0 : 2 ^ f.mw + m ≠ 0 := by have := Nat.two_pow_pos f.mw; omega
  have hlog : Nat.log2 (2 ^ f.mw + m) = f.mw := (Nat.log2_eq_iff h0).2 ⟨by omega, by rw [Nat.pow_succ]; omega⟩
  have hq : max (ilog (2 ^ f.mw + m) (f.qmin + e - 1) - f.mw) f.qmin = f.qmin + e - 1 := by unfold ilog; omega
  obtain ⟨k, rfl⟩ : ∃ k, e = k + 1 := ⟨e - 1, by omega⟩
  have hexp : (f.qmin + ↑(k + 1) - 1 - f.qmin).toNat = k := by omega
  simp only [roundBits, beq_iff_eq, h0, if_false, hq, roundAt_self, hexp]
  ring

theorem Fmt.enc_fin (f : Fmt) (r : Rnd) {neg : Bool} {m : Nat} {e : Int} (h : f.roundBits r m e ≤ f.maxBits) :
    f.enc r (.fin neg m e) = f.signBits neg + f.roundBits r m e := by
  simp [enc, conv, Nat.not_lt.2 h]

/-- A value that a pattern of the layout reads as is encoded as that pattern: rounding has nothing to do. -/
theorem Fmt.Reads.enc_eq {f : Fmt} {x : Nat} {v : Fp} (h : f.Reads x v) (hv : v ≠ .nan) (r : Rnd) : f.enc r v = x := by
  cases h with
  | nan => exact absurd rfl hv
  | inf neg hk => simp [enc, conv, hk]
  | subnormal neg m hm hmax =>
    have hb := f.roundBits_subnormal r hm
    rw [enc_fin f r (hb.le.trans hmax), hb]
  | normal neg e m he hm hmax =>
    have hb := f.roundBits_normal r he hm
    rw [enc_fin f r (hb.le.trans hmax), hb]

/-- In every layout, encoding undoes decoding wherever the pattern is no NaN. -/
theorem Fmt.enc_decode (f : Fmt) {x : Nat} (hx : x < 2 ^ f.width) (hnan : f.decode x ≠ .nan) (r : Rnd) : f.enc r (f.decode x) = x :=
  (f.reads_decode hx).enc_eq hnan r

/-- Settles O4: the rounding laws by comparing the remainder with half the unit, the encodings by the law of every layout. -/
theorem roundingAndEncodings : Obligations.RoundingAndEncodings := by
  refine ⟨fun m d hd => ?_, fun t _ x hx hnan r => t.enc_decode hx hnan r⟩
  simp only [Nat.mul_assoc 2]
  obtain ⟨hlo, hhi⟩ := roundAt_rne_bounds m hd
  exact ⟨hlo, hhi, roundAt_rne_tie_even m hd, roundAt_rz m hd, roundAt_rna_bounds m hd⟩

end Sys2Proof.Machine
end

section
/-! Engines (04): how an update of one engine is read back, what an access to memory or an event leaves of it, and what each row about a
pass does: dispatch, drain, output, completion, faults and activation loads. -/

namespace Sys2Proof.Machine

open Sys2Proof

/-! ## An update of one engine -/

theorem modify_congr_getD {α : Type} {l : List α} {i : Nat} {d : α} {f g : α → α} (h : f (l.getD i d) = g (l.getD i d)) :
    l.modify i f = l.modify i g := by
  refine List.ext_getElem? fun j => ?_
  simp only [List.getElem?_modify]
  split
  · subst i
    rw [List.getD_eq_getElem?_getD] at h
    cases hx : l[j]? with
    | none => rfl
    | some x => rw [hx] at h; simpa using h
  · rfl

/-- An update counts by what it does to the one engine it is applied to. -/
theorem modEng_congr {n m : Nat} {f g : Engine → Engine} {s : State} (h : f (engOf s n m) = g (engOf s n m)) :
    modEng n m f s = modEng n m g s := by
  unfold modEng modThl
  refine congrArg (fun l => { s with thl := l }) (modify_congr_getD (d := {}) ?_)
  exact congrArg (fun l => { thlOf s n with eng := l }) (modify_congr_getD (d := {}) h)

theorem modEng_modEng (n m : Nat) (f g : Engine → Engine) (s : State) : modEng n m f (modEng n m g s) = modEng n m (f ∘ g) s := by
  unfold modEng
  rw [modThl_modThl]
  simp [Function.comp_def, List.modify_modify_eq]

theorem modEng_id (n m : Nat) (s : State) : modEng n m id s = s := by
  unfold modEng modThl
  have hm (t : Thallus) : { t with eng := t.eng.modify m id } = t := by rw [List.modify_id]
  simp only [hm]
  exact congrArg (fun l => { s with thl := l }) (List.modify_id n s.thl)

theorem hasThl_of_hasEng {n m : Nat} {s : State} (h : hasEng s n m = true) : hasThl s n = true := by
  simp only [hasEng, Bool.and_eq_true] at h; exact h.1

theorem engOf_modEng {n m : Nat} {s : State} (h : hasEng s n m = true) (f : Engine → Engine) :
    engOf (modEng n m f s) n m = f (engOf s n m) := by
  have hm : m < (thlOf s n).eng.length := by simp only [hasEng, Bool.and_eq_true, decide_eq_true_eq] at h; exact h.2
  unfold engOf modEng
  rw [thlOf_modThl (hasThl_of_hasEng h)]
  simp [List.getD_eq_getElem?_getD, hm]

theorem hasEng_modEng {n m : Nat} {s : State} (h : hasEng s n m = true) (f : Engine → Engine) : hasEng (modEng n m f s) n m = true := by
  have hthl := hasThl_of_hasEng h
  simp only [hasEng, Bool.and_eq_true, decide_eq_true_eq] at h ⊢
  unfold modEng
  rw [thlOf_modThl hthl]
  exact ⟨by simpa [hasThl] using hthl, by simpa using h.2⟩

theorem hasEng_of_thl {s t : State} (h : t.thl = s.thl) (n m : Nat) : hasEng t n m = hasEng s n m := by
  unfold hasEng hasThl thlOf; rw [h]

theorem engOf_of_thl {s t : State} (h : t.thl = s.thl) (n m : Nat) : engOf t n m = engOf s n m := by
  unfold engOf thlOf; rw [h]

theorem frondOf_modFrond {n m f : Nat} {s : State} (h : hasEng s n m = true) (g : Frond → Frond) :
    frondOf (modFrond n m f g s) n m f = if f < (engOf s n m).frond.length then g (frondOf s n m f) else frondOf s n m f := by
  unfold frondOf modFrond
  rw [engOf_modEng h]
  split <;> simp_all [List.getD_eq_getElem?_getD]

theorem passAt_eq {s : State} {n m k : Nat} (hk : k < (engOf s n m).passes.length) : passAt s n m k = (engOf s n m).passes[k] := by
  simp [passAt, List.getD_eq_getElem?_getD, hk]

/-- An update of an engine that changes its pass at `k` by `g` is read back at `k` as `g`; its other passes are as they were. -/
theorem passAt_modEng {s u : State} {n m k : Nat} {f : Engine → Engine} {g : Pass → Pass} (hthl : u.thl = s.thl) (he : hasEng s n m = true)
    (hk : k < (engOf s n m).passes.length) (hg : (f (engOf s n m)).passes = (engOf s n m).passes.modify k g) :
    passAt (modEng n m f u) n m k = g (passAt s n m k) ∧ ∀ j ≠ k, passAt (modEng n m f u) n m j = passAt s n m j := by
  have hpasses : (engOf (modEng n m f u) n m).passes = (engOf s n m).passes.modify k g := by
    rw [engOf_modEng (by rw [hasEng_of_thl hthl, he]), engOf_of_thl hthl, hg]
  unfold passAt
  rw [hpasses]
  refine ⟨by simp [List.getD_eq_getElem?_getD, hk], fun j hj => ?_⟩
  simp [List.getD_eq_getElem?_getD, hj.symm]

/-! ## What a read or an event leaves -/

theorem logEv_mem (a b c d e g : Nat) (s : State) : (logEv a b c d e g s).mem = s.mem := by
  obtain ⟨L, x, h⟩ := logEv_form a b c d e g s
  rw [h]

theorem recordClass_mem (c x : Nat) (s : State) : (recordClass c x s).mem = s.mem := by
  unfold recordClass
  dsimp only
  split
  · rfl
  · split <;> rfl

theorem fault_mem (a b c d e : Nat) (s : State) : (fault a b c d e s).mem = s.mem := by
  unfold fault; rw [recordClass_mem, logEv_mem]

theorem memFaultEv_mem (ag : Agent) (c a : Nat) (s : State) : (memFaultEv ag c a s).mem = s.mem := by
  unfold memFaultEv; cases ag <;> exact fault_mem _ _ _ _ _ _

theorem badRead_mem (ag : Agent) (a p : Nat) (s : State) : (badRead ag a p s).mem = s.mem := by
  unfold badRead
  split
  · exact memFaultEv_mem _ _ _ _
  · exact memFaultEv_mem _ _ _ _

theorem readPiece_mem (ag : Agent) (a n : Nat) (s : State) : (readPiece ag a n s).1.mem = s.mem := by
  unfold readPiece
  split
  · obtain ⟨L, x, h⟩ := absent_form ag a s
    rw [h]
  · split
    · exact badRead_mem _ _ _ _
    · rfl

theorem readGo_mem (ag : Agent) (fuel a n : Nat) (s : State) : (readGo ag fuel a n s).1.mem = s.mem := by
  induction fuel generalizing a n s with
  | zero => rfl
  | succ fuel ih =>
    have hp := readPiece_mem ag a (min n (64 - a % 64)) s
    unfold readGo
    split
    · rfl
    · dsimp only
      split
      next s1 h => rw [h] at hp; exact hp
      next s1 bs h =>
        rw [h] at hp
        have hr := ih (a + min n (64 - a % 64)) (n - min n (64 - a % 64)) s1
        split
        next s2 h2 => rw [h2] at hr; exact hr.trans hp
        next s2 cs h2 => rw [h2] at hr; exact hr.trans hp

theorem probe_mem (a n : Nat) (s : State) : (probe a n s).mem = s.mem := readGo_mem _ _ _ _ _

theorem confProbe_mem (p : PassWord) (s : State) : (confProbe p s).mem = s.mem := by
  unfold confProbe
  split
  · exact probe_mem _ _ _
  · rfl

theorem confProbe_thl (p : PassWord) (s : State) : (confProbe p s).thl = s.thl := by
  unfold confProbe
  split
  · exact thl_of_around (around_probe _ _ _)
  · rfl

theorem passEvent_thl (n m c f : Nat) (p : Pass) (s : State) : (passEvent n m c f p s).thl = s.thl :=
  thl_of_around (around_fault 0 c _ _ _ s)

theorem passFault_eq (n m c f : Nat) (p : Pass) (s : State) : passFault n m c f p s = passEvent n m c f p s := rfl

theorem abandonPass_eq (n m k : Nat) (s : State) : abandonPass n m k s = abandoned n m k s := by
  unfold abandonPass modPass abandoned
  rw [modEng_modEng]
  rfl

/-! ## Dispatch (04 R80, R81) -/

/-- Sampling for a shadow advances the engine's generator at most (05 R114). -/
theorem shadowSample_eq (n m : Nat) (p : PassWord) (s : State) : ∃ c b,
    shadowSample n m p s = (modEng n m (fun e => { e with shdCount := e.shdCount + c }) s, b) := by
  unfold shadowSample
  split
  · exact ⟨0, false, congrArg (·, false) (modEng_id n m s).symm⟩
  · dsimp only
    split
    · exact ⟨1, _, rfl⟩
    · exact ⟨0, _, congrArg (·, _) (modEng_id n m s).symm⟩

/-- The engine whose pass `k` has entered frond `f` as its dispatch number `d`; `c` draws of the shadow generator were made. -/
def Engine.entered (k f d c : Nat) (sh : ShadowStage) (e : Engine) : Engine := { e with
  shdCount := e.shdCount + c, dispCount := d + 1
  passes := e.passes.modify k fun p => { p with stage := .inFrond f, disp := d, frond := f, shadow := sh } }

/-- A pass enters a frond by one update of its engine, on a state that differs by a read of the state copy at most. -/
theorem enterFrond_eq {n m : Nat} {s : State} (h : hasEng s n m = true) (k f : Nat) :
    ∃ u c sh, u.thl = s.thl ∧ u.mem = s.mem ∧ (sh = .none ∨ sh = .waiting) ∧
      enterFrond n m k f s = modEng n m (Engine.entered k f (engOf s n m).dispCount c sh) u := by
  let w := (passAt s n m k).pw
  obtain ⟨c, b, hs⟩ := shadowSample_eq n m w (confProbe w s)
  have ht := confProbe_thl w s
  have hd : (engOf (modEng n m (fun e => { e with shdCount := e.shdCount + c }) (confProbe w s)) n m).dispCount = (engOf s n m).dispCount := by
    rw [engOf_modEng (by rw [hasEng_of_thl ht, h]), engOf_of_thl ht]
  refine ⟨{ confProbe w s with nonce := (confProbe w s).nonce + 1 }, c, if b then .waiting else .none, ht, confProbe_mem w s,
    by cases b <;> simp, ?_⟩
  unfold enterFrond modPass
  dsimp only
  rw [hs]
  dsimp only
  rw [hd]
  exact (modEng_modEng n m _ _ _).trans (modEng_modEng n m _ _ { confProbe w s with nonce := (confProbe w s).nonce + 1 })

theorem HeadWaits.lt {s : State} {n m k : Nat} (h : HeadWaits s n m k) : k < (engOf s n m).passes.length := h.1

theorem HeadWaits.headAt_eq {s : State} {n m k : Nat} (h : HeadWaits s n m k) : headAt (engOf s n m) = k := by
  obtain ⟨hk, hq, -, hlt, -⟩ := h
  refine (List.findIdx_eq hk).2 ⟨?_, fun j hj => ?_⟩
  · rw [← passAt_eq hk, hq]; rfl
  · rw [← passAt_eq (hj.trans hk)]; simpa using hlt j hj

theorem HeadWaits.headHeld_iff {s : State} {n m k : Nat} (h : HeadWaits s n m k) :
    headHeld (engOf s n m) = true ↔ Overlapped s n m k := by
  have hk := h.lt
  have hp (j : Nat) : (engOf s n m).passes.getD j {} = passAt s n m j := rfl
  unfold headHeld Overlapped
  simp only [h.headAt_eq, hk, decide_true, Bool.true_and, List.any_eq_true, hp, List.mem_take_iff_getElem]
  constructor
  · rintro ⟨q, ⟨j, hj, rfl⟩, ho⟩
    exact ⟨j, by omega, by rwa [passAt_eq (by omega)]⟩
  · rintro ⟨j, hj, ho⟩
    exact ⟨_, ⟨j, by omega, rfl⟩, by rwa [passAt_eq (by omega)] at ho⟩

theorem take_firstDead {e : Engine} (h : ∀ p ∈ e.passes, p.stage ≠ .abandoned) : e.passes.take (firstDead e) = e.passes := by
  have : firstDead e = e.passes.length := List.findIdx_eq_length.2 fun p hp => by simpa using h p hp
  rw [this, List.take_length]

/-- With no re-issue and no shadow waiting, the dispatcher looks at the head of the queue: an overlap holds it, else it takes a frond. -/
theorem HeadWaits.dispChoice_eq {s : State} {n m k : Nat} (h : HeadWaits s n m k) :
    (headHeld (engOf s n m) = true → (engOf s n m).ovlpHold = false → dispChoice s (engOf s n m) = .hold) ∧
    (headHeld (engOf s n m) = false → ∀ f, pickFrond s (engOf s n m) none = some f → dispChoice s (engOf s n m) = .head k f) := by
  have hhead := h.headAt_eq
  obtain ⟨hk, -, hdesc, -, hall, hpre, hslice, hbusy, hfail, hdead, hwd⟩ := h
  have hdesc' : ((engOf s n m).passes.getD k {}).descBad = false := hdesc
  unfold dispChoice
  rw [take_firstDead fun p hp => (hall p hp).1]
  dsimp only
  split
  next i f hf =>
    obtain ⟨⟨p, j⟩, hmem, hsome⟩ := List.exists_of_findSome?_eq_some hf
    have hp : p ∈ (engOf s n m).passes := List.fst_mem_of_mem_zipIdx hmem
    have hstage := (hall p hp).2.1
    dsimp only at hsome
    split at hsome
    next g hg => exact absurd hg (hstage g)
    next => cases hsome
  next =>
    split
    next i f hf =>
      obtain ⟨⟨p, j⟩, hmem, hsome⟩ := List.exists_of_findSome?_eq_some hf
      have hp : p ∈ (engOf s n m).passes := List.fst_mem_of_mem_zipIdx hmem
      simp [(hall p hp).2.2] at hsome
    next =>
      have hk' : ¬ (engOf s n m).passes.length ≤ k := by omega
      rw [hhead]
      simp only [hk', hpre, hslice, hbusy, hfail, hdead, hwd, hdesc', beq_iff_eq, decide_false, List.isEmpty_nil, Bool.not_true,
        Bool.or_false, Bool.false_eq_true, if_false]
      constructor
      · intro hh ho; simp [hh, ho]
      · intro hh f hf; simp [hh, hf]

theorem pickFrond_lowest {s : State} {e : Engine} {f : Nat} (hf : f < 8) (hfree : frondFree s e f = true)
    (hlow : ∀ g < f, frondFree s e g = false) : pickFrond s e none = some f := by
  unfold pickFrond
  rw [List.find?_range_eq_some]
  simp only [hfree, List.mem_range, hf, true_and]
  exact ⟨by simp, fun g hg => by simp [hlow g hg]⟩

/-- The dispatcher sends the head of the queue to the lowest free frond. -/
theorem HeadWaits.execPassDispatch_head {s : State} {n m k f : Nat} (h : HeadWaits s n m k) (he : hasEng s n m = true)
    (ho : ¬ Overlapped s n m k) (hg : gateOpen s n ((engOf s n m).dispCount - (engOf s n m).gateBase) = true)
    (hf : pickFrond s (engOf s n m) none = some f) :
    execPassDispatch n m s = .next (modEng n m (fun e => { e with ovlpHold := false }) (enterFrond n m k f s)) := by
  have hh : headHeld (engOf s n m) = false := by rw [← Bool.not_eq_true, h.headHeld_iff]; exact ho
  have hnow : dispNow s n m = .head k f := by
    unfold dispNow
    dsimp only
    rw [h.dispChoice_eq.2 hh f hf, hg]
    rfl
  unfold execPassDispatch dispatch
  rw [hnow]
  exact need_next he rfl _

theorem HeadWaits.execPassDispatch_overlapped {s : State} {n m k : Nat} (h : HeadWaits s n m k) (he : hasEng s n m = true)
    (ho : Overlapped s n m k) (hc : (engOf s n m).ovlpHold = false) :
    execPassDispatch n m s = .next (modEng n m (fun e => { e with ovlpHold := true, cntHoldOvlp := satAdd e.cntHoldOvlp 1 }) s) := by
  have hnow : dispNow s n m = .hold := by
    unfold dispNow
    dsimp only
    rw [h.dispChoice_eq.1 (h.headHeld_iff.2 ho) hc]
    rfl
  unfold execPassDispatch dispatch
  rw [hnow]
  exact need_next he rfl _

/-- What the head holds in its frond: its place in the order of dispatch, and whether a shadow of it is wanted; no other pass changes. -/
theorem passAt_dispatched {s : State} {n m k : Nat} (he : hasEng s n m = true) (hk : k < (engOf s n m).passes.length) (f : Nat) :
    ∃ sh, let t := modEng n m (fun e => { e with ovlpHold := false }) (enterFrond n m k f s)
      passAt t n m k = { passAt s n m k with stage := .inFrond f, disp := (engOf s n m).dispCount, frond := f, shadow := sh } ∧
      (sh = .none ∨ sh = .waiting) ∧ (∀ j ≠ k, passAt t n m j = passAt s n m j) ∧ t.mem = s.mem := by
  obtain ⟨u, c, sh, hthl, hmem, hsh, henter⟩ := enterFrond_eq he k f
  refine ⟨sh, ?_⟩
  rw [henter, modEng_modEng]
  obtain ⟨hsame, hother⟩ := passAt_modEng
    (f := (fun e : Engine => { e with ovlpHold := false }) ∘ Engine.entered k f (engOf s n m).dispCount c sh) hthl he hk rfl
  exact ⟨hsame, hsh, hother, hmem⟩

/-! ## Drain, output path and completion (04 R81 to R83) -/

/-- The tile of the pass that leaves frond `f` goes into accumulator memory, and its counts into the frond. -/
theorem execPassDrainComplete_eq {n m f k : Nat} {s s1 : State} {a b : Operand} (he : hasEng s n m = true) (hf : f < 8)
    (hn : drainNext (engOf s n m) f = some k)
    (hr : readPass (passAgent n m (passAt s n m k)) n (passAt s n m k).pw s = (s1, some (a, b))) :
    let p := passAt s n m k
    let d := drainTile p.pw a b (engOf s1 n m).acc (tileSide p.pw.grouping)
    execPassDrainComplete n m f s = .next (modEng n m (fun e => { e with
      acc := storeWords (engOf s1 n m).acc d.words
      frond := e.frond.modify f fun r => { r with nancmp := satAdd r.nancmp d.nan, isat := satAdd r.isat d.sat }
      passes := e.passes.modify k fun p => { p with stage := .drained } }) s1) := by
  unfold execPassDrainComplete
  rw [hn]
  refine (need_next (by simp [he, hf]) rfl _).trans (congrArg _ ?_)
  unfold drainPass modPass frondCounts modFrond
  dsimp only
  rw [hr]
  dsimp only
  rw [modEng_modEng, modEng_modEng]
  exact modEng_congr rfl

/-- The tile in turn is the first whose work in the output path is not done. -/
theorem outputNext_eq {s : State} {n m k : Nat} (hk : k < (engOf s n m).passes.length)
    (hlt : ∀ j < k, (passAt s n m j).stage ≠ .abandoned ∧ ((passAt s n m j).pw.drainOut = true → (passAt s n m j).stage = .output))
    (hst : (passAt s n m k).stage = .drained) (hout : (passAt s n m k).pw.drainOut = true)
    (hstats : ∀ p ∈ (engOf s n m).passes, p.stats = none) : outputNext (engOf s n m) = some k := by
  have hidx : (engOf s n m).passes.findIdx (fun p => p.stage == .abandoned || (p.pw.drainOut && p.stage != .output)) = k := by
    refine (List.findIdx_eq hk).2 ⟨?_, fun j hj => ?_⟩
    · rw [← passAt_eq hk, hst, hout]; rfl
    · obtain ⟨hab, hdone⟩ := hlt j hj
      rw [← passAt_eq (hj.trans hk)]
      simp only [Bool.or_eq_false_iff, Bool.and_eq_false_imp, beq_eq_false_iff_ne, bne_eq_false_iff_eq]
      exact ⟨hab, hdone⟩
  have hpass : ((engOf s n m).passes.getD k {}).stage = .drained := hst
  have hall : (engOf s n m).passes.all (fun q => q.stats.isNone) = true := by
    rw [List.all_eq_true]; intro p hp; rw [hstats p hp]; rfl
  unfold outputNext
  simp only [hidx, hk, hpass, hall, decide_true, beq_self_eq_true, Bool.and_self, if_true]

/-- Without activation and without a stored mask, an element leaves stage 4 as it is, and no memory is read. -/
theorem stage4_plain {p : PassWord} (hact : p.act = 0) (hmask : p.maskMode ≠ 3) (ag : Agent) (d : List Word) (e : Engine) (x : Pos) (s : State) :
    stage4 ag p d e x s = (s, some (plainElem p e x)) := by
  cases hv : fp32.decode (accPattern p e x) <;>
    simp only [stage4, plainElem, hv, hact, hmask, beq_iff_eq, beq_self_eq_true, if_true, if_false]

theorem stages_plain {p : PassWord} (hact : p.act = 0) (hmask : p.maskMode ≠ 3) (ag : Agent) (d : List Word) (e : Engine) (xs : List Pos)
    (s : State) : stages ag p d e xs s = (s, xs.map (plainElem p e), true) := by
  induction xs with
  | nil => rfl
  | cons x xs ih =>
    unfold stages
    rw [stage4_plain hact hmask]
    dsimp only
    rw [ih]
    rfl

theorem badScale_ok {n m : Nat} {p : Pass} {s : State} (hact : p.pw.act = 0) (hs : scaleOk (passScale s p.pw) = true) :
    badScale n m p s = s := by
  simp [badScale, hact, hs]

/-- A tile without activation, stored mask, bad scale or re-conversion: its rows are written, its elements counted, its record handed on. -/
theorem outputTile_plain {n m k : Nat} {s : State} :
    let p := passAt s n m k
    let u := confProbe p.pw s
    let els := (tilePos p.pw).map (plainElem p.pw (engOf u n m))
    let o := tileOut u p.pw p.desc els
    p.pw.act = 0 → p.pw.maskMode ≠ 3 → scaleOk (passScale u p.pw) = true → o.reconv = false →
    outputTile n m k s = classed (modEng n m (fun e => { e with
      cntOutElem := satAdd e.cntOutElem (tilePos p.pw).length
      passes := e.passes.modify k fun p => { p with stage := .output, stats := o.record } })
      (writeRows (passAgent n m p) p.pw p.desc o.rows u)) := by
  intro p u els o hact hmask hs hre
  unfold outputTile modPass countOut
  dsimp only
  rw [badScale_ok hact hs, stages_plain hact hmask]
  dsimp only
  rw [if_neg (by rw [hre]; decide), modEng_modEng, List.length_map]
  rfl

theorem execOutputPathTile_eq {n m k : Nat} {s : State} (he : hasEng s n m = true) (hn : outputNext (engOf s n m) = some k) :
    execOutputPathTile n m s = .next (outputTile n m k s) := by
  unfold execOutputPathTile
  rw [hn]
  exact need_next he rfl _

theorem headDone_cons {e : Engine} {p : Pass} {ps : List Pass} (hp : e.passes = p :: ps)
    (hst : p.stage = .output ∨ p.stage = .drained ∧ p.pw.drainOut = false) (hstats : p.stats = none)
    (hsh : p.shadow = .none ∨ p.shadow = .done) : headDone e = true := by
  unfold headDone
  rw [hp]
  simpa [hstats, hsh] using hst

/-- The head pass leaves the engine, is counted, and posts its peg where it has one. -/
theorem execPassComplete_eq {n m : Nat} {p : Pass} {ps : List Pass} {s : State} (he : hasEng s n m = true)
    (hp : (engOf s n m).passes = p :: ps) (hd : headDone (engOf s n m) = true) (hstep : p.stepped = false) :
    let t := modEng n m (fun e => { e with passes := ps, cntPasses := satAdd e.cntPasses 1 }) s
    execPassComplete n m s = .next (settle (if p.pw.pegEn then postPeg n p.pw.peg 1 1 3 0 t else t)) := by
  have hpass : passAt s n m 0 = p := by unfold passAt; rw [hp]; rfl
  have hdrop : modEng n m (fun e => { e with passes := e.passes.drop 1, cntPasses := satAdd e.cntPasses 1 }) s =
      modEng n m (fun e => { e with passes := ps, cntPasses := satAdd e.cntPasses 1 }) s := modEng_congr (by rw [hp]; rfl)
  unfold execPassComplete
  refine (need_next he hd _).trans (congrArg _ ?_)
  unfold completePass
  dsimp only
  rw [hpass, hdrop, hstep]
  rfl

/-- Settles O31: each row's choice is found first (the head of the queue, the next drain, the tile in turn), then its one update. -/
theorem passesFlowThroughAnEngine : Obligations.PassesFlowThroughAnEngine := by
  refine ⟨fun n m k f s he hw ho hg hf hfree hlow => ?_, fun n m k s he hw ho hc => hw.execPassDispatch_overlapped he ho hc,
    fun n m f k s s1 a b he hf hn hr => execPassDrainComplete_eq he hf hn hr,
    fun n m k s he hk hlt hst hout hstats hact hmask hs hre => ?_, fun n m p ps s he hp hst hstats hsh hstep => ?_⟩
  · obtain ⟨sh, hsame, hsh, hother, hmem⟩ := passAt_dispatched he hw.lt f
    exact ⟨_, sh, hw.execPassDispatch_head he ho hg (pickFrond_lowest hf hfree hlow), hsame, hsh, hother, hmem⟩
  · exact (execOutputPathTile_eq he (outputNext_eq hk hlt hst hout hstats)).trans (congrArg _ (outputTile_plain hact hmask hs hre))
  · exact execPassComplete_eq he hp (headDone_cons hp hst hstats hsh) hstep

/-! ## Frond faults (04 R93, R95) -/

/-- The count of a frond reaches its fourth fault only from its third. -/
theorem satAdd_one_eq_four_iff (c : BitVec 16) : satAdd c 1 = 4 ↔ c = 3 := by
  refine ⟨fun h => BitVec.eq_of_toNat_eq ?_, fun h => by rw [h]; rfl⟩
  have hn : min (c.toNat + 1) 65535 % 65536 = 4 := congrArg BitVec.toNat h
  change c.toNat = 3
  omega

/-- One more fault of frond `f` is counted. -/
def faultCounted (n m f : Nat) (s : State) : State := modFrond n m f (fun r => { r with faultCount := satAdd r.faultCount 1 }) s

/-- Short of the fourth, a fault is counted and nothing else. -/
theorem countFault_of_ne {n m f : Nat} {s : State} (he : hasEng s n m = true) (hc : (frondOf s n m f).faultCount ≠ 3) (p : Pass) :
    countFault n m f p s = faultCounted n m f s := by
  have hne : (frondOf (faultCounted n m f s) n m f).faultCount ≠ 4 := by
    unfold faultCounted
    rw [frondOf_modFrond he]
    split
    next => rwa [ne_eq, satAdd_one_eq_four_iff]
    next hf => simp [frondOf, List.getD_eq_getElem?_getD, List.getElem?_eq_none (Nat.le_of_not_lt hf)]
  unfold countFault
  exact if_neg fun h => hne (eq_of_beq (Bool.and_eq_true_iff.1 h).1)

theorem countFault_withdrawn_of_ne {n m f : Nat} {s : State} (he : hasEng s n m = true) (hc : (frondOf s n m f).faultCount ≠ 3) (p : Pass) :
    (engOf (countFault n m f p s) n m).withdrawn = (engOf s n m).withdrawn := by
  rw [countFault_of_ne he hc]
  unfold faultCounted modFrond
  rw [engOf_modEng he]

/-- The fourth fault of a frond withdraws it and enters it in the health map. -/
theorem countFault_fourth {n m f : Nat} {s : State} (he : hasEng s n m = true) (hf : f < (engOf s n m).frond.length)
    (hc : (frondOf s n m f).faultCount = 3) (hw : (engOf s n m).withdrawn.getLsbD f = false) (p : Pass) :
    countFault n m f p s = hmapRecord (hmapNow s 3 (physOf s n) (m * 8 + f) 0 3 4)
      (withdraw n m f p.stream p.issueAddr p.pw.w0.toNat (faultCounted n m f s)) := by
  have hfour : (frondOf (faultCounted n m f s) n m f).faultCount = 4 := by
    unfold faultCounted
    rw [frondOf_modFrond he, if_pos hf]
    exact (satAdd_one_eq_four_iff _).2 hc
  have hin : (engOf (faultCounted n m f s) n m).withdrawn.getLsbD f = false := by
    unfold faultCounted modFrond
    rw [engOf_modEng he]
    exact hw
  unfold countFault
  exact if_pos (Bool.and_eq_true_iff.2 ⟨beq_iff_eq.2 hfour, congrArg Bool.not hin⟩)

theorem withdraw_withdrawn {n m f : Nat} {s : State} (he : hasEng s n m = true) (q ia w0 : Nat) :
    (engOf (withdraw n m f q ia w0 s) n m).withdrawn = (engOf s n m).withdrawn ||| BitVec.ofNat 8 (2 ^ f) := by
  unfold withdraw
  rw [engOf_of_thl (thl_of_around (around_logEv _ _ _ _ _ _ _)), engOf_modEng he]

theorem withdraw_bist (n m f q ia w0 : Nat) (s : State) : (withdraw n m f q ia w0 s).bist = s.bist := by
  unfold withdraw
  obtain ⟨L, x, h⟩ := logEv_form 0 0 0x18 (engW0 n m q f false) ia w0
    (modEng n m (fun e => { e with withdrawn := e.withdrawn ||| BitVec.ofNat 8 (2 ^ f) }) s)
  rw [h]
  rfl

/-- While the map has room an entry is appended (17 R357). -/
theorem hmapRecord_hmap {s : State} (hfull : s.bist.hmapFull = false) (hroom : s.bist.hmap.length < 256) (e : HmapEntry) :
    (hmapRecord e s).bist.hmap = s.bist.hmap ++ [e] := by
  have hlen : s.bist.hmap.length + 1 ≤ 256 := hroom
  simp [hmapRecord, capEntries, hfull, hlen]

/-- The pass or shadow that a fault of frond `f` strikes. -/
theorem execFrondFault_eq {n m f k d : Nat} {sh : Bool} {s : State} (he : hasEng s n m = true) (hf : f < 8)
    (hs : (if Config.faultsEarlier s.nonce then (inFrondList (engOf s n m) f).head? else (inFrondList (engOf s n m) f).getLast?) = some (d, sh, k)) :
    execFrondFault n m f s = .next (frondFaultAt n m f k sh { s with nonce := s.nonce + 1 }) := by
  have hne : (!(inFrondList (engOf s n m) f).isEmpty) = true := by
    cases hx : inFrondList (engOf s n m) f with
    | nil => rw [hx] at hs; simp at hs
    | cons => rfl
  unfold execFrondFault
  dsimp only
  rw [hs]
  exact need_next (by simp [he, hf]) hne _

theorem frondFaultAt_shadow (n m f k : Nat) (s : State) :
    frondFaultAt n m f k true s = countFault n m f (passAt s n m k) (passEvent n m 0x13 f (passAt s n m k)
      (modEng n m (fun e => { e with passes := e.passes.modify k fun p => { p with shadow := .done } }) s)) := rfl

/-- A second fault abandons the pass. -/
theorem frondFaultAt_second {n m k : Nat} {s : State} (hr : (passAt s n m k).reissued = true) (f : Nat) :
    frondFaultAt n m f k false s = settle (countFault n m f (passAt s n m k) (passEvent n m 0x14 f (passAt s n m k) (abandoned n m k s))) := by
  unfold frondFaultAt
  dsimp only
  rw [if_neg Bool.false_ne_true, if_pos hr, abandonPass_eq]
  rfl

/-- The pass at `k` waits for its one re-issue to another frond than `f`. -/
def reissuePass (n m f k : Nat) (s : State) : State := modEng n m (fun e => { e with
  cntReissue := satAdd e.cntReissue 1
  passes := e.passes.modify k fun p => { p with stage := .reissue f, reissued := true, shadow := .none } }) s

/-- A first fault re-issues the pass, where the frond is not withdrawn by it. -/
theorem frondFaultAt_first {n m f k : Nat} {s : State} (he : hasEng s n m = true) (hr : (passAt s n m k).reissued = false)
    (hc : (frondOf s n m f).faultCount ≠ 3) (hw : (engOf s n m).withdrawn ≠ 0xFF) :
    frondFaultAt n m f k false s = countFault n m f (passAt s n m k) (passEvent n m 0x13 f (passAt s n m k) (reissuePass n m f k s)) := by
  have hre : modEng n m (fun e => { e with cntReissue := satAdd e.cntReissue 1 })
      (modPass n m k (fun p => { p with stage := .reissue f, reissued := true, shadow := .none }) s) = reissuePass n m f k s :=
    modEng_modEng n m _ _ s
  unfold frondFaultAt
  dsimp only
  rw [if_neg Bool.false_ne_true, if_neg (by rw [hr]; decide), hre, passFault_eq]
  generalize hv : passEvent n m 0x13 f (passAt s n m k) (reissuePass n m f k s) = v
  have hthl : v.thl = (reissuePass n m f k s).thl := hv ▸ passEvent_thl n m 0x13 f _ _
  have hev : hasEng v n m = true := (hasEng_of_thl hthl n m).trans (hasEng_modEng he _)
  have heng := (engOf_of_thl hthl n m).trans (engOf_modEng he _)
  have hcv : (frondOf v n m f).faultCount ≠ 3 := by unfold frondOf; rw [heng]; exact hc
  exact if_neg (by rw [countFault_withdrawn_of_ne hev hcv, heng]; simpa using hw)

/-! ## Device faults (04 R94) -/

theorem tileSide_pos (g : Nat) : 0 < tileSide g := by unfold tileSide; split <;> decide

/-- What a tile has written before a device fault stands, and so do its counts (03 R72). -/
theorem partDrain_eq {n m k : Nat} {s s1 : State} {a b : Operand}
    (hr : readPass (passAgent n m (passAt s n m k)) n (passAt s n m k).pw s = (s1, some (a, b))) (f rows : Nat) :
    let d := drainTile (passAt s n m k).pw a b (engOf s n m).acc rows
    partDrain n m f k rows s = modEng n m (fun e => { e with
      acc := storeWords e.acc d.words
      frond := e.frond.modify f fun r => { r with nancmp := satAdd r.nancmp d.nan, isat := satAdd r.isat d.sat } })
      { s with nonce := s.nonce + 1 } := by
  unfold partDrain frondCounts modFrond
  dsimp only
  rw [hr]
  dsimp only
  rw [modEng_modEng]
  rfl

/-- A parity error abandons its pass after at least one row; its event names the frond (log entry 45). -/
theorem execDrainParityError_eq {n m f k : Nat} {s s1 : State} {a b : Operand} (he : hasEng s n m = true) (hf : f < 8)
    (hn : drainNext (engOf s n m) f = some k)
    (hr : readPass (passAgent n m (passAt s n m k)) n (passAt s n m k).pw s = (s1, some (a, b))) :
    let p := passAt s n m k
    let d := drainTile p.pw a b (engOf s n m).acc (1 + Config.part s.nonce % tileSide p.pw.grouping)
    execDrainParityError n m f s = .next (settle (abandoned n m k (passEvent n m 0x19 f p (modEng n m (fun e => { e with
      acc := storeWords e.acc d.words
      frond := e.frond.modify f fun r => { r with nancmp := satAdd r.nancmp d.nan, isat := satAdd r.isat d.sat } })
      { s with nonce := s.nonce + 1 })))) := by
  unfold execDrainParityError
  rw [hn]
  refine (need_next (by simp [he, hf]) rfl _).trans (congrArg _ ?_)
  dsimp only
  rw [abandonPass_eq, passFault_eq, partDrain_eq hr]

/-- A drained pass that meets an uncorrectable word is abandoned; its event names no frond (log entry 45). -/
theorem execAccMemUncorrectable_drained {n m k : Nat} {s : State} (he : hasEng s n m = true) (hk : k < (engOf s n m).passes.length)
    (hst : (passAt s n m k).stage = .drained) :
    execAccMemUncorrectable n m k s = .next (settle (abandoned n m k (passEvent n m 0x17 0 (passAt s n m k) s))) := by
  unfold execAccMemUncorrectable
  dsimp only
  rw [hst, abandonPass_eq]
  exact need_next he (by simp [hk]) _

/-! ## Activation loads (04 R88, R389) -/

theorem loadSlots_eq (e : Engine) : loadSlots e = if e.actSlot = 0 then (List.range 15).map (· + 1) else [e.actSlot.toNat] := by
  simp [loadSlots]

theorem execActLoadDone_held {n m a : Nat} {s : State} (he : hasEng s n m = true) (hb : (engOf s n m).loadBusy = true)
    (hh : actLoadHeld s n m = some a) : execActLoadDone n m s = .next (want a s) := by
  unfold execActLoadDone actLoadAsk
  rw [hh]
  exact need_next he hb _

theorem execActLoadDone_runs {n m : Nat} {s : State} (he : hasEng s n m = true) (hb : (engOf s n m).loadBusy = true)
    (hh : actLoadHeld s n m = none) : execActLoadDone n m s = .next (settle (actLoadEnd n m s).1) := by
  unfold execActLoadDone
  rw [hh]
  exact need_next he hb _

/-- The tables of the slots `slots` with their derivatives, in the order of a load. -/
def tablesOf (slots : List Nat) : List (Nat × Nat) := slots.flatMap fun k => [(k, 0), (k, 1)]

/-- A load that reads its tables stores them, and its slots have not failed. -/
theorem actLoadEnd_ok {n m : Nat} {s s1 : State} {slots : List Nat} {ts : List (Nat × Nat × List W32)}
    (hl : loadSlots (engOf s n m) = slots)
    (hr : readTables (.eng n m 3 0 0) ((engOf s n m).actBase.toNat * 64) (tablesOf slots) s = (s1, some ts)) :
    (actLoadEnd n m s).1 = modEng n m (fun e => { e with
      loadBusy := false, act := ts.foldl (fun a (k, d, ws) => Sparse.sets a (1024 * (k * 2 + d)) ws) e.act
      loadFailed := e.loadFailed.filter fun k => !slots.contains k }) s1 := by
  unfold tablesOf at hr
  unfold actLoadEnd
  dsimp only
  rw [hl, hr]
  rfl

/-- A load that meets an uncorrectable location leaves its slots failed, their tables unspecified. -/
theorem actLoadEnd_failed {n m : Nat} {s s1 : State} {slots : List Nat} (hl : loadSlots (engOf s n m) = slots)
    (hr : readTables (.eng n m 3 0 0) ((engOf s n m).actBase.toNat * 64) (tablesOf slots) s = (s1, none)) :
    ∃ act, (actLoadEnd n m s).1 = modEng n m (fun e => { e with
      loadBusy := false, faulted := true, act := act, loadFailed := e.loadFailed.filter (fun k => !slots.contains k) ++ slots })
      { s1 with nonce := s1.nonce + 1 } := by
  unfold tablesOf at hr
  unfold actLoadEnd
  dsimp only
  rw [hl, hr]
  exact ⟨_, modEng_congr rfl⟩

/-- Settles O33: what a fault does to its pass, the count of its frond on both sides of the fourth fault, and the ends of a load. -/
theorem engineFaultsReissueOrAbandon : Obligations.EngineFaultsReissueOrAbandon := by
  refine ⟨fun n m f k d sh s he hf hs => ⟨?_, ?_, ?_⟩, fun n m f p s he hf _ => ⟨fun hc => countFault_of_ne he hc p, fun hc hw => ?_⟩,
    fun n m f k s s1 a b he hf hn hr => ?_, fun n m k s he hk hst => execAccMemUncorrectable_drained he hk hst,
    fun n m s s1 ts he hb hh hr => ?_, fun n m s a he hb hh => execActLoadDone_held he hb hh, fun n m s s1 he hb hh hr => ?_⟩
  · rintro rfl
    exact (execFrondFault_eq he hf hs).trans (congrArg _ (frondFaultAt_shadow n m f k _))
  · rintro rfl hr
    exact (execFrondFault_eq he hf hs).trans (congrArg _ (frondFaultAt_second (s := { s with nonce := s.nonce + 1 }) hr f))
  · rintro rfl hr hc hw
    exact (execFrondFault_eq he hf hs).trans (congrArg _ (frondFaultAt_first (s := { s with nonce := s.nonce + 1 }) he hr hc hw))
  · rw [countFault_fourth he hf hc hw]
    have hec : hasEng (faultCounted n m f s) n m = true := hasEng_modEng he _
    refine ⟨?_, fun hfull hroom => ?_⟩
    · exact (withdraw_withdrawn hec _ _ _).trans (congrArg (·.withdrawn ||| _) (engOf_modEng he _))
    · have hb := withdraw_bist n m f p.stream p.issueAddr p.pw.w0.toNat (faultCounted n m f s)
      rw [hmapRecord_hmap (by rw [hb]; exact hfull) (by rw [hb]; exact hroom), hb]
      rfl
  · have hrow := Nat.mod_lt (Config.part s.nonce) (tileSide_pos (passAt s n m k).pw.grouping)
    exact ⟨_, by omega, by omega, execDrainParityError_eq he hf hn hr⟩
  · exact (execActLoadDone_runs he hb hh).trans (congrArg _ (congrArg settle (actLoadEnd_ok (loadSlots_eq _) hr)))
  · obtain ⟨act, hact⟩ := actLoadEnd_failed (loadSlots_eq _) hr
    exact ⟨act, (execActLoadDone_runs he hb hh).trans (congrArg _ (congrArg settle hact))⟩

end Sys2Proof.Machine
end

section
/-! What ends a command (`settle`) leaves of the streams' debug modes, which decide whether a debug step ends with an instruction
(16 R345), and how an instruction of an undisturbed stream runs or halts it (06 R135). -/

namespace Sys2Proof.Machine

open Sys2Proof

/-! ## What leaves every thallus as it is -/

theorem thl_foldl {α : Type} {f : State → α → State} (hf : ∀ s x, (f s x).thl = s.thl) (xs : List α) (s : State) :
    (xs.foldl f s).thl = s.thl := by
  induction xs generalizing s with
  | nil => rfl
  | cons x xs ih => rw [List.foldl_cons, ih, hf]

@[simp] theorem logEv_thl (a b c d e g : Nat) (s : State) : (logEv a b c d e g s).thl = s.thl := thl_of_around (around_logEv _ _ _ _ _ _ _)

@[simp] theorem recordClass_thl (cls cause : Nat) (s : State) : (recordClass cls cause s).thl = s.thl :=
  thl_of_around (around_recordClass _ _ _)

@[simp] theorem probe_thl (a n : Nat) (s : State) : (probe a n s).thl = s.thl := thl_of_around (around_probe _ _ _)

@[simp] theorem zeroMem_thl (a n : Nat) (s : State) : (zeroMem a n s).thl = s.thl := thl_of_around (around_zeroMem _ _ _)

theorem modMem_thl (a n : Nat) (f : List Byte → List Byte) (s : State) : (modMem a n f s).thl = s.thl := by
  have hread := thl_of_around (around_readMem .unit a n s)
  unfold modMem
  split
  next s1 h => rwa [h] at hread
  next s1 bs h =>
    rw [h] at hread
    exact (thl_of_around (around_writeMem _ _ _ _)).trans hread

@[simp] theorem lcntAdd_thl (l d k v : Nat) (s : State) : (lcntAdd l d k v s).thl = s.thl := by
  unfold lcntAdd
  split
  · rfl
  · exact modMem_thl _ _ _ _

theorem lifetime_thl (s : State) : (lifetime s).thl = s.thl := by
  unfold lifetime
  split
  · rfl
  · refine thl_foldl (fun u x => ?_) _ _
    dsimp only
    simp only [lcntAdd_thl]
    split
    · rfl
    · exact probe_thl _ _ _

theorem zeroStats_thl (ls : List Nat) (s : State) : (ls.foldl (fun t l => zeroMem (statAddr t l 0) 256 t) s).thl = s.thl :=
  thl_foldl (fun t l => zeroMem_thl (statAddr t l 0) 256 t) _ _

theorem clearStats_thl (s : State) : (clearStats s).thl = s.thl := zeroStats_thl _ s

theorem abandonSnap_thl (again : Bool) (s : State) : (abandonSnap again s).thl = s.thl := by
  unfold abandonSnap
  split
  · exact logEv_thl _ _ _ _ _ _ _
  · rfl

theorem govCommit1_thl (s : State) (e : GovEv) : (govCommit1 s e).thl = s.thl := by
  unfold govCommit1
  dsimp only
  split
  · split <;> simp
  · simp
  · simp

theorem sealStart_thl (s : State) : (sealStart s).thl = s.thl := by
  unfold sealStart
  split <;> rfl

theorem flip_thl (s : State) : (flip s).thl = s.thl := by
  have hevents : (s.gov.events.foldl govCommit1 (lifetime s)).thl = s.thl := (thl_foldl govCommit1_thl _ _).trans (lifetime_thl s)
  exact (sealStart_thl _).trans hevents

theorem sendToken_thl (dst : Nat) (t : Token) (s : State) : (sendToken dst t s).thl = s.thl := thl_of_around (around_sendTxn _ _ _)

theorem toChildren_thl (t : Token) (s : State) : (toChildren t s).thl = s.thl := thl_foldl (fun u c => sendToken_thl c t u) _ _

theorem ackAll_thl (ms : List (Word × RedBody)) (s : State) : (ackAll ms s).thl = s.thl :=
  thl_foldl (fun _ _ => thl_of_around (around_takeRx _ _ _ _)) _ _

theorem probes_thl (rs : List (Nat × Nat)) (s : State) : (probes rs s).thl = s.thl := by
  unfold probes
  exact thl_foldl (fun _ _ => probe_thl _ _ _) _ _

theorem recordReduced_thl (bs : List (List Word)) (s : State) : (recordReduced bs s).thl = s.thl :=
  (thl_foldl (fun _ _ => thl_of_around (around_sendBlocks _ _ _ _ _ _)) _ _).trans
    (thl_foldl (fun _ _ => thl_of_around (around_writeWords _ _ _)) _ _)

theorem exchangeUp_thl (s : State) : (exchangeUp s).thl = s.thl := by
  unfold exchangeUp
  split
  · dsimp only
    split
    · exact (recordReduced_thl _ _).trans (probes_thl _ _)
    · exact (thl_of_around (around_sendBlocks _ _ _ _ _ _)).trans (probes_thl _ _)
  · rfl

theorem exchangeStart_thl (s : State) : (exchangeStart s).thl = s.thl := by
  unfold exchangeStart
  split
  · dsimp only
    rw [exchangeUp_thl]
    split
    · exact (zeroStats_thl _ _).trans (probes_thl _ _)
    · exact probes_thl _ _
  · rfl

/-! ## Debug modes of the streams -/

/-- The debug mode of every stream of a thallus, and of the device (16 T16-11). -/
def Thallus.modes (h : Thallus) : List (BitVec 2) := h.strm.map (·.dbg.mode)
def strmModes (s : State) : List (List (BitVec 2)) := s.thl.map Thallus.modes

theorem strmOf_mode (s : State) (n q : Nat) :
    (strmOf s n q).dbg.mode = ((strmModes s).getD n ({} : Thallus).modes).getD q ({} : Stream).dbg.mode := by
  have hthl : (strmModes s).getD n ({} : Thallus).modes = (thlOf s n).modes := List.getD_map ..
  rw [hthl]
  exact (List.getD_map (l := (thlOf s n).strm) (d := {}) (f := fun k : Stream => k.dbg.mode)).symm

theorem mode_of_strmModes {s t : State} (h : strmModes t = strmModes s) (n q : Nat) :
    (strmOf t n q).dbg.mode = (strmOf s n q).dbg.mode := by
  rw [strmOf_mode, strmOf_mode, h]

theorem Thallus.modes_of_map {t u : Thallus} {f : Stream → Stream} (h : u.strm = t.strm.map f)
    (hf : ∀ k, (f k).dbg.mode = k.dbg.mode := by exact fun _ => rfl) :
    u.modes = t.modes := by
  unfold modes
  rw [h, List.map_map]
  exact congrArg (fun g => t.strm.map g) (funext hf)

theorem strmModes_of_thl {s t : State} (h : t.thl = s.thl) : strmModes t = strmModes s := by
  unfold strmModes
  rw [h]

theorem strmModes_map {s t : State} {f : Thallus → Thallus} (h : t.thl = s.thl.map f)
    (hf : ∀ h, (f h).modes = h.modes) : strmModes t = strmModes s := by
  unfold strmModes
  rw [h, List.map_map]
  exact congrArg (fun g => s.thl.map g) (funext hf)

theorem map_modify_keeps {α β : Type} {f : α → α} {g : α → β} (h : ∀ a, g (f a) = g a) (i : Nat) (l : List α) :
    (l.modify i f).map g = l.map g := by
  refine List.ext_getElem? fun j => ?_
  rw [List.getElem?_map, List.getElem?_map, List.getElem?_modify]
  split
  · cases l[j]? <;> simp [h]
  · cases l[j]? <;> rfl

theorem strmModes_modThl (n : Nat) (f : Thallus → Thallus) (s : State)
    (hf : ∀ h, (f h).modes = h.modes := by exact fun _ => rfl) :
    strmModes (modThl n f s) = strmModes s := map_modify_keeps hf n s.thl

@[simp] theorem strmModes_modStrm (n q : Nat) (f : Stream → Stream) (s : State)
    (hf : ∀ k, (f k).dbg.mode = k.dbg.mode := by exact fun _ => rfl) :
    strmModes (modStrm n q f s) = strmModes s := by
  refine strmModes_modThl n _ s fun h => ?_
  exact map_modify_keeps hf q h.strm

theorem stopWork_modes (s : State) : strmModes (stopWork s) = strmModes s :=
  strmModes_map rfl fun _ => Thallus.modes_of_map (f := Stream.reset) rfl

theorem rdxClear_modes (s : State) : strmModes (rdxClear s) = strmModes s :=
  (strmModes_map (s := ackAll (s.rdx.bkts.flatMap (·.waiting)) s) rfl fun _ =>
    Thallus.modes_of_map (f := fun k => { k with tval := 0, tagTimer := none }) rfl).trans
    (strmModes_of_thl (ackAll_thl _ _))

theorem clearPegs_modes (s : State) : strmModes (clearPegs s) = strmModes s := strmModes_map rfl fun _ => rfl

/-- A stream that drains is done; its debug mode stays. -/
theorem drain_modes (h : Thallus) : h.drain.modes = h.modes := by
  unfold Thallus.modes Thallus.drain
  rw [List.map_map]
  calc h.strm.zipIdx.map _
    _ = h.strm.zipIdx.map ((·.dbg.mode) ∘ Prod.fst) := List.map_congr_left fun p _ => by dsimp only [Function.comp]; split <;> rfl
    _ = h.strm.map (·.dbg.mode) := by rw [← List.map_map, List.zipIdx_map_fst]

theorem abortStep_modes (s : State) : strmModes (abortStep s) = strmModes s :=
  calc strmModes (abortStep s)
    _ = strmModes (clearStats (govClear (clearPegs (rdxClear (stopWork (lifetime s)))))) := strmModes_of_thl (abandonSnap_thl _ _)
    _ = strmModes (clearPegs (rdxClear (stopWork (lifetime s)))) := strmModes_of_thl (clearStats_thl _)
    _ = strmModes (stopWork (lifetime s)) := (clearPegs_modes _).trans (rdxClear_modes _)
    _ = strmModes s := (stopWork_modes _).trans (strmModes_of_thl (lifetime_thl s))

theorem actDecide_modes (t : Token) (s : State) : strmModes (actDecide t s) = strmModes s := by
  have hdropped (c : Cmt) : strmModes (if dropped s then { s with cmt := c } else s) = strmModes s := by split <;> rfl
  have hdone (u : State) : strmModes (if t.flag then flip u else abortStep u) = strmModes u := by
    split
    · exact strmModes_of_thl (flip_thl u)
    · exact abortStep_modes u
  exact (strmModes_of_thl (toChildren_thl _ _)).trans ((hdone _).trans (hdropped _))

theorem actClass_modes (s : State) : strmModes (actClass s) = strmModes s := by
  unfold actClass
  dsimp only
  split
  · rfl
  split
  · split
    · split
      · rfl
      · exact actDecide_modes _ _
    · exact strmModes_of_thl (sendToken_thl _ _ _)
  · split <;> rfl

/-- What follows of itself at the end of a command leaves every debug mode. -/
@[simp] theorem settle_modes (s : State) : strmModes (settle s) = strmModes s :=
  (actClass_modes _).trans ((strmModes_of_thl (exchangeStart_thl _)).trans (strmModes_map rfl drain_modes))

theorem classed_modes (s : State) : strmModes (classed s) = strmModes s := by
  unfold classed
  split
  · exact settle_modes s
  · rfl

/-! ## An instruction of an undisturbed stream -/

/-- A stream that takes its instruction runs the body of it, where that leaves the debug modes. -/
theorem strmStep_body {n q words : Nat} {s t : State} {w : Word} {body : State → State} (h : StrmTakes s n q words)
    (hbody : body (modStrm n q (Stream.taking w) s) = t) (hmode : strmModes t = strmModes s) :
    need (hasStrm s n q) (strmReady s n q) (strmStep n q words w body s) = .next t := by
  rw [strmStep_runs h w body (by rw [hbody, mode_of_strmModes hmode]; exact h.2.2.1), hbody]
  exact need_next h.1 h.2.1 t

theorem strmInstr_body {n q words : Nat} {s t : State} {w : Word} {who : List Nat} {body : State → State} (h : StrmRuns s n q words)
    (hq : who.contains q = true) (hbody : body (modStrm n q (Stream.taking w) s) = t) (hmode : strmModes t = strmModes s) :
    strmInstr n q words w who body s = .next t := by
  rw [strmInstr_runs h w who hq body (by rw [hbody, mode_of_strmModes hmode]; exact h.1.2.2.1), hbody]

theorem stepEnds_of_mode {n q : Nat} {s : State} (h : (strmOf s n q).dbg.mode ≠ 3) : stepEnds n q s = s := by
  have hmode : ((strmOf s n q).dbg.mode == 3) = false := by simpa using h
  unfold stepEnds
  dsimp only
  rw [hmode]
  rfl

theorem halted_of_mode {d : DbgTgt} (h : d.mode ≠ 2) : d.halted = false := by simpa [DbgTgt.halted] using h

theorem strmNext_taking (n q words : Nat) (w : Word) (s : State) :
    strmNext n q words (modStrm n q (Stream.taking w) s) = modStrm n q (Stream.after words w) s := modStrm_modStrm n q _ _ s

theorem modStrm_id (n q : Nat) (s : State) : modStrm n q id s = s := by
  unfold modStrm
  simp only [List.modify_id]
  unfold modThl
  exact congrArg (fun l => { s with thl := l }) (List.modify_id n s.thl)

/-- A halt of a stream that has been changed by `f`, its pc apart, is the halt that the spec gives (06 R135). -/
theorem strmHalts_haltAt {n q : Nat} {s : State} (h : hasStrm s n q = true) (m cause : Nat) (w3 : Word) {f : Stream → Stream}
    (hpc : ∀ k, (f k).pc = k.pc) : StrmHalts n m q cause w3 f s (haltAt n m q cause w3 (modStrm n q f s)) := by
  unfold StrmHalts haltAt strmEv
  dsimp only
  rw [modStrm_modStrm, strmOf_modStrm h]
  simp only [Function.comp_def, hpc, modStrm_cmt, modStrm_time]
  rfl

theorem haltAt_modes (n m q cause : Nat) (w3 : Word) (s : State) : strmModes (haltAt n m q cause w3 s) = strmModes s := by
  unfold haltAt strmEv
  dsimp only
  rw [settle_modes, strmModes_of_thl (recordClass_thl _ _ _), strmModes_of_thl (logEv_thl _ _ _ _ _ _ _)]
  exact strmModes_modStrm n q _ s

/-- An instruction whose body halts the stream with a cause halts it as the spec gives. -/
theorem strmInstr_halts {n q words cause : Nat} {s : State} {w : Word} {who : List Nat} {body : State → State} (h : StrmRuns s n q words)
    (hq : who.contains q = true)
    (hbody : body (modStrm n q (Stream.taking w) s) = haltAt n 0 q cause w (modStrm n q (Stream.taking w) s)) :
    ∃ t, strmInstr n q words w who body s = .next t ∧ StrmHalts n 0 q cause w (Stream.taking w) s t :=
  ⟨_, strmInstr_body h hq hbody ((haltAt_modes _ _ _ _ _ _).trans (strmModes_modStrm n q _ s)),
    strmHalts_haltAt h.1.1 0 cause w fun _ => rfl⟩

/-- An instruction that its stream may not execute halts it with cause 0x30 (06 R126). -/
theorem strmInstr_refused {n q words : Nat} {s : State} {who : List Nat} (h : StrmTakes s n q words) (hq : who.contains q = false)
    (w : Word) (body : State → State) :
    ∃ t, strmInstr n q words w who body s = .next t ∧ StrmHalts n 0 q 0x30 w (Stream.taking w) s t :=
  ⟨_, strmStep_body h (by rw [hq]; rfl) ((haltAt_modes _ _ _ _ _ _).trans (strmModes_modStrm n q _ s)),
    strmHalts_haltAt h.1 0 0x30 w fun _ => rfl⟩

theorem strm_lt_three {q : Nat} (h : q < 3) : [0, 1, 2].contains q = true := by
  simp only [List.contains_eq_mem, List.mem_cons, List.not_mem_nil, decide_eq_true_eq]
  omega

end Sys2Proof.Machine
end

section
/-! Streams (06): pegs and the instructions on them, branches, EPOCH, markers and the forward barrier, and the epoch windows. -/

namespace Sys2Proof.Machine

open Sys2Proof

/-! ## Pegs (06 R127, R128) -/

theorem thlOf_of_thl {s t : State} (h : t.thl = s.thl) (n : Nat) : thlOf t n = thlOf s n := by
  unfold thlOf
  rw [h]

theorem strmOf_of_thl {s t : State} (h : t.thl = s.thl) (n q : Nat) : strmOf t n q = strmOf s n q := by
  unfold strmOf
  rw [thlOf_of_thl h]

theorem setAt_getD {α : Type} [Inhabited α] {n j : Nat} (hj : j < n) (i : Nat) (x d : α) (l : List α) :
    (setAt n i x l).getD j d = if j = i then x else l.getD j default := by
  simp [setAt, List.getD_eq_getElem?_getD, hj]

theorem map_getD {α β : Type} {l : List α} {i : Nat} (h : i < l.length) (f : α → β) (d : α) (e : β) :
    (l.map f).getD i e = f (l.getD i d) := by
  simp [List.getD_eq_getElem?_getD, h]

/-- The state whose peg has taken the amount and whose waits on it are tested, before the event of a first saturation. -/
def pegPosted (n p amount : Nat) (s : State) : State := modThl n (fun t => { t with
  peg := setAt 64 p (BitVec.ofNat 32 (min (pegOf s n p + amount) 0xFFFFFFFF)) t.peg
  pegSat := if 0xFFFFFFFF < pegOf s n p + amount then t.pegSat ||| BitVec.ofNat 64 (2 ^ p) else t.pegSat
  strm := t.strm.map (wakeStrm p (min (pegOf s n p + amount) 0xFFFFFFFF))
  core := t.core.map (wakeCore p (min (pegOf s n p + amount) 0xFFFFFFFF)) }) s

/-- A post is the posted state, with event 0x32 where the peg saturates for the first time. -/
theorem postPeg_eq (n p amount agent q ia : Nat) (s : State) : postPeg n p amount agent q ia s =
    if 0xFFFFFFFF < pegOf s n p + amount ∧ (thlOf s n).pegSat.getLsbD p = false then
      fault 0 0x32 (engW0 n 0 q 0 false) ia (p ||| agent <<< 8) (pegPosted n p amount s)
    else pegPosted n p amount s := by
  unfold postPeg
  dsimp only
  simp only [Bool.and_eq_true, decide_eq_true_eq, Bool.not_eq_true', pegPosted]

theorem around_postPeg (n p amount agent q ia : Nat) (s : State) :
    around (postPeg n p amount agent q ia s) = around (pegPosted n p amount s) := by
  rw [postPeg_eq]
  split
  · exact around_fault _ _ _ _ _ _
  · rfl

theorem postPeg_thlOf {n : Nat} {s : State} (h : hasThl s n = true) (p amount agent q ia m : Nat) :
    thlOf (postPeg n p amount agent q ia s) m = if m = n then { thlOf s n with
      peg := setAt 64 p (BitVec.ofNat 32 (min (pegOf s n p + amount) 0xFFFFFFFF)) (thlOf s n).peg
      pegSat := if 0xFFFFFFFF < pegOf s n p + amount then (thlOf s n).pegSat ||| BitVec.ofNat 64 (2 ^ p) else (thlOf s n).pegSat
      strm := (thlOf s n).strm.map (wakeStrm p (min (pegOf s n p + amount) 0xFFFFFFFF))
      core := (thlOf s n).core.map (wakeCore p (min (pegOf s n p + amount) 0xFFFFFFFF)) } else thlOf s m :=
  (thlOf_of_thl (thl_of_around (around_postPeg _ _ _ _ _ _ _)) m).trans (thlOf_modThl h _ m)

theorem postPeg_mem (n p amount agent q ia : Nat) (s : State) : (postPeg n p amount agent q ia s).mem = s.mem := by
  rw [postPeg_eq]
  split
  · exact fault_mem _ _ _ _ _ _
  · rfl

theorem postPeg_epoch (n p amount agent q ia : Nat) (s : State) : (postPeg n p amount agent q ia s).cmt.epoch = s.cmt.epoch := by
  have h := congrArg (fun x : State => x.cmt.epoch) (around_postPeg n p amount agent q ia s)
  exact h

theorem postPeg_pending (n p amount agent q ia : Nat) (s : State) : (postPeg n p amount agent q ia s).pending = s.pending := by
  have h := congrArg State.pending (around_postPeg n p amount agent q ia s)
  exact h

theorem pegOf_postPeg_same {n p : Nat} {s : State} (h : hasThl s n = true) (hp : p < 64) (amount agent q ia : Nat) :
    pegOf (postPeg n p amount agent q ia s) n p = min (pegOf s n p + amount) 0xFFFFFFFF := by
  unfold pegOf
  rw [postPeg_thlOf h, if_pos rfl]
  dsimp only
  rw [setAt_getD hp, if_pos rfl, BitVec.toNat_ofNat, Nat.mod_eq_of_lt (by omega)]
  rfl

theorem pegOf_postPeg_other {n p m r : Nat} {s : State} (h : hasThl s n = true) (hr : r < 64) (hne : m ≠ n ∨ r ≠ p)
    (amount agent q ia : Nat) : pegOf (postPeg n p amount agent q ia s) m r = pegOf s m r := by
  unfold pegOf
  rw [postPeg_thlOf h]
  by_cases hm : m = n
  · subst hm
    have hrp : r ≠ p := hne.resolve_left fun h => h rfl
    rw [if_pos rfl]
    dsimp only
    rw [setAt_getD hr, if_neg hrp]
    rfl
  · rw [if_neg hm]

theorem wakeCore_g (p v : Nat) (c : Core) : (wakeCore p v c).g = c.g := by
  unfold wakeCore
  split <;> rfl

theorem wakeCore_goes (p v : Nat) (c : Core) : ((wakeCore p v c).state, (wakeCore p v c).pc) =
    if c.state = .pegWait ∧ c.waitPeg.toNat = p ∧ c.waitTarget.toNat ≤ v then
      (.running, (c.pc + 8) % 2 ^ 44) else (c.state, c.pc) := by
  unfold wakeCore
  simp only [Bool.and_eq_true, beq_iff_eq, decide_eq_true_eq, and_assoc]
  split <;> rfl

theorem wakeStrm_goes (p v : Nat) (k : Stream) : ((wakeStrm p v k).state, (wakeStrm p v k).pc) =
    if k.state = .pegWait ∧ k.waitPeg.toNat = p ∧ k.waitTarget.toNat ≤ v then
      (.running, (k.pc + 8) % 2 ^ 44) else (k.state, k.pc) := by
  unfold wakeStrm
  simp only [Bool.and_eq_true, beq_iff_eq, decide_eq_true_eq, and_assoc]
  split <;> rfl

theorem coreOf_postPeg {n c : Nat} {s : State} (h : hasThl s n = true) (hc : c < (thlOf s n).core.length) (p amount agent q ia : Nat) :
    coreOf (postPeg n p amount agent q ia s) n c = wakeCore p (min (pegOf s n p + amount) 0xFFFFFFFF) (coreOf s n c) := by
  unfold coreOf
  rw [postPeg_thlOf h, if_pos rfl]
  exact map_getD hc _ _ _

theorem strmOf_postPeg {n c : Nat} {s : State} (h : hasThl s n = true) (hc : c < (thlOf s n).strm.length) (p amount agent q ia : Nat) :
    strmOf (postPeg n p amount agent q ia s) n c = wakeStrm p (min (pegOf s n p + amount) 0xFFFFFFFF) (strmOf s n c) := by
  unfold strmOf
  rw [postPeg_thlOf h, if_pos rfl]
  exact map_getD hc _ _ _

theorem postPeg_log_of_le {n p amount : Nat} {s : State} (h : pegOf s n p + amount ≤ 0xFFFFFFFF) (agent q ia : Nat) :
    (postPeg n p amount agent q ia s).log = s.log := by
  rw [postPeg_eq, if_neg fun hsat => by omega]
  rfl

theorem recordClass_log (cls cause : Nat) (s : State) : (recordClass cls cause s).log = s.log := by
  unfold recordClass
  dsimp only
  split
  · rfl
  · split <;> rfl

/-- The first saturation of a peg logs one event, 0x32 of source 0. -/
theorem postPeg_log_first {n p amount : Nat} {s : State} (hsat : 0xFFFFFFFF < pegOf s n p + amount)
    (hfirst : (thlOf s n).pegSat.getLsbD p = false) (hroom : s.log.buf.length < 4096) (agent q ia : Nat) :
    ∃ r, (postPeg n p amount agent q ia s).log.buf = s.log.buf ++ [r] ∧ r.cause = 0x32 ∧ r.source = 0 := by
  rw [postPeg_eq, if_pos ⟨hsat, hfirst⟩]
  obtain ⟨L, x, hlog, hrec⟩ := logEv_rec 0 (classOf 0x32) 0x32 (engW0 n 0 q 0 false) ia (p ||| agent <<< 8) (pegPosted n p amount s)
  obtain ⟨r, hbuf, hcause, hsource, -⟩ := hrec hroom
  refine ⟨r, ?_, hcause, hsource⟩
  unfold fault
  rw [recordClass_log, hlog]
  exact hbuf

/-- Settles O23: the peg, the frame, who goes on, and the event of the first saturation, each by its own lemma about the post. -/
theorem pegPostsAddAndSaturate : Obligations.PegPostsAddAndSaturate := by
  intro n p amount agent q ia s h hp
  refine ⟨pegOf_postPeg_same h hp _ _ _ _, fun m r hr hne => pegOf_postPeg_other h hr hne _ _ _ _, postPeg_mem _ _ _ _ _ _ _,
    postPeg_epoch _ _ _ _ _ _ _, postPeg_pending _ _ _ _ _ _ _, fun c hc => ?_, fun c hc => ?_,
    fun hle => postPeg_log_of_le hle _ _ _, fun hsat hfirst hroom => postPeg_log_first hsat hfirst hroom _ _ _⟩
  · rw [coreOf_postPeg h hc]
    exact ⟨wakeCore_g _ _ _, wakeCore_goes _ _ _⟩
  · rw [strmOf_postPeg h hc]
    exact wakeStrm_goes _ _ _

/-! ## PEGWAIT and PEGPOST (06 R127 to R129) -/

theorem postPeg_modes (n p amount agent q ia : Nat) (s : State) : strmModes (postPeg n p amount agent q ia s) = strmModes s := by
  have hwake (v : Nat) (k : Stream) : (wakeStrm p v k).dbg.mode = k.dbg.mode := by unfold wakeStrm; split <;> rfl
  rw [strmModes_of_thl (thl_of_around (around_postPeg n p amount agent q ia s))]
  exact strmModes_modThl n _ s fun _ => Thallus.modes_of_map rfl (hwake _)

theorem pegOf_modStrm (n q : Nat) (f : Stream → Stream) (s : State) (m p : Nat) : pegOf (modStrm n q f s) m p = pegOf s m p :=
  thlOf_modThl_any n _ s m (fun t => (t.peg.getD p 0).toNat) fun _ => rfl

theorem workDone_iff (s : State) (n q : Nat) : workDone (thlOf s n) q (strmOf s n q) = true ↔ StrmWorkDone s n q := by
  unfold workDone StrmWorkDone dmaOf
  simp [and_assoc]

theorem workDone_taking {n q : Nat} {s : State} (h : hasStrm s n q = true) (w : Word) :
    workDone (thlOf (modStrm n q (Stream.taking w) s) n) q (strmOf (modStrm n q (Stream.taking w) s) n q) =
      workDone (thlOf s n) q (strmOf s n q) := by
  rw [strmOf_modStrm h]
  unfold modStrm
  rw [thlOf_modThl (hasThl_of_hasStrm h), if_pos rfl]
  rfl

/-- PEGWAIT goes on where its peg has the target. -/
theorem execPegwait_reached {n q : Nat} {w : Word} {s : State} (h : StrmRuns s n q 1) (hq : q < 3)
    (hv : field w 63 32 ≤ pegOf s n (field w 13 8)) : execPegwait n q w s = .next (modStrm n q (Stream.after 1 w) s) := by
  refine strmInstr_body h (strm_lt_three hq) ?_ (strmModes_modStrm n q _ s)
  dsimp only
  rw [pegOf_modStrm, if_pos hv]
  exact strmNext_taking n q 1 w s

/-- PEGWAIT waits where its peg is below the target. -/
theorem execPegwait_waits {n q : Nat} {w : Word} {s : State} (h : StrmRuns s n q 1) (hq : q < 3)
    (hv : pegOf s n (field w 13 8) < field w 63 32) : execPegwait n q w s = .next (modStrm n q (fun k => { k.taking w with
      state := .pegWait, why := .none, waitPeg := BitVec.ofNat 6 (field w 13 8), waitTarget := BitVec.ofNat 32 (field w 63 32)
      waitTimer := if field w 31 16 = 0 then none else some (1000 * field w 31 16), cntInstr := satAdd k.cntInstr 1 }) s) := by
  refine strmInstr_body h (strm_lt_three hq) ?_ (strmModes_modStrm n q _ s)
  dsimp only
  rw [pegOf_modStrm, if_neg (Nat.not_le.2 hv), modStrm_modStrm]
  simp only [Function.comp_def, beq_iff_eq]
  rfl

/-- The timeout of a PEGWAIT halts its stream (06 R128). -/
theorem execPegwaitTimeout_halts {n q : Nat} {s : State} (h : hasStrm s n q = true) (hst : (strmOf s n q).state = .pegWait)
    (ht : (strmOf s n q).waitTimer = some 0) (hhalt : (strmOf s n q).dbg.mode ≠ 2) (hstep : (strmOf s n q).dbg.mode ≠ 3) :
    ∃ t, execPegwaitTimeout n q s = .next t ∧ StrmHalts n 0 q 0x31 (strmOf s n q).instr id s t := by
  refine ⟨haltAt n 0 q 0x31 (strmOf s n q).instr s, ?_, ?_⟩
  · unfold execPegwaitTimeout
    dsimp only
    rw [stepEnds_of_mode (by rw [mode_of_strmModes (haltAt_modes _ _ _ _ _ _)]; exact hstep)]
    exact need_next h (by simp [hst, ht, halted_of_mode hhalt]) _
  · have := strmHalts_haltAt h 0 0x31 (strmOf s n q).instr (f := id) fun _ => rfl
    rwa [modStrm_id] at this

theorem doPegpost_present {n q : Nat} {w : Word} {s : State} (h : postTarget n w < s.thl.length) :
    doPegpost n q w s = classed (postPeg (postTarget n w) (field w 13 8) (field w 63 32) 0 q (strmOf s n q).pc (strmNext n q 1 s)) :=
  if_pos h

/-- PEGPOST posts where it has no fence or nothing to wait for. -/
theorem execPegpost_posts {n q : Nat} {w : Word} {s : State} (h : StrmRuns s n q 1) (hq : q < 3)
    (hdone : bit w 14 = false ∨ StrmWorkDone s n q) (hm : postTarget n w < s.thl.length) :
    execPegpost n q w s = .next (classed (postPeg (postTarget n w) (field w 13 8) (field w 63 32) 0 q (strmOf s n q).pc
      (modStrm n q (Stream.after 1 w) s))) := by
  have hfence : (bit w 14 && !workDone (thlOf s n) q (strmOf s n q)) = false := by
    rw [← workDone_iff] at hdone
    obtain hdone | hdone := hdone <;> simp [hdone]
  refine strmInstr_body h (strm_lt_three hq) ?_
    ((classed_modes _).trans ((postPeg_modes _ _ _ _ _ _ _).trans (strmModes_modStrm n q _ s)))
  rw [workDone_taking h.1.1, hfence, if_neg Bool.false_ne_true, doPegpost_present (by unfold modStrm; rwa [length_modThl]),
    strmNext_taking, strmOf_modStrm h.1.1]
  rfl

/-- PEGPOST with its fence is held while work of its stream is outstanding. -/
theorem execPegpost_held {n q : Nat} {w : Word} {s : State} (h : StrmRuns s n q 1) (hq : q < 3) (hf : bit w 14 = true)
    (hdone : ¬ StrmWorkDone s n q) :
    execPegpost n q w s = .next (modStrm n q (fun k => { k.taking w with state := .held, why := .fence }) s) := by
  rw [← workDone_iff, Bool.not_eq_true] at hdone
  refine strmInstr_body h (strm_lt_three hq) ?_ (strmModes_modStrm n q _ s)
  rw [workDone_taking h.1.1, hdone, hf]
  exact modStrm_modStrm n q _ _ s

/-- A held PEGPOST posts once the work of its stream is done. -/
theorem execPegpostFenceDone_posts {n q : Nat} {s : State} (h : hasStrm s n q = true) (hst : (strmOf s n q).state = .held)
    (hwhy : (strmOf s n q).why = .fence) (hhalt : (strmOf s n q).dbg.mode ≠ 2) (hdone : StrmWorkDone s n q)
    (hm : postTarget n (strmOf s n q).instr < s.thl.length) :
    execPegpostFenceDone n q s = .next (classed (postPeg (postTarget n (strmOf s n q).instr) (field (strmOf s n q).instr 13 8)
      (field (strmOf s n q).instr 63 32) 0 q (strmOf s n q).pc (strmNext n q 1 s))) :=
  (need_next h (by simp [hst, hwhy, halted_of_mode hhalt, (workDone_iff s n q).2 hdone]) _).trans (congrArg _ (doPegpost_present hm))

/-- Settles O24: each row by its own lemma, on both sides of its condition. -/
theorem streamPegInstructions : Obligations.StreamPegInstructions := by
  refine ⟨fun n q w s h hq => ⟨execPegwait_reached h hq, execPegwait_waits h hq⟩,
    fun n q s h hst ht hhalt hstep => execPegwaitTimeout_halts h hst ht hhalt hstep,
    fun n q w s h hq => ⟨execPegpost_posts h hq, execPegpost_held h hq⟩, fun n q s h hst hwhy hhalt hdone hm =>
      execPegpostFenceDone_posts h hst hwhy hhalt hdone hm,
    fun n p amount agent s h hp => need_next (by simp [h, hp]) rfl _⟩

/-! ## JUMP, BRUNG and EPOCH (06 R134, R138) -/

theorem wrapNat_eq_wordsFrom (pc : Nat) (off : Int) : wrapNat 44 ((pc : Int) + 8 * off) = wordsFrom pc off := by
  simp [wrapNat, wordsFrom]

theorem strmJump_taking (n q words : Nat) (w : Word) (off : Nat) (s : State) :
    strmJump n q off (modStrm n q (Stream.taking w) s) =
      modStrm n q (fun k => { Stream.after words w k with pc := wordsFrom k.pc (signed 32 off) }) s := by
  simp only [← wrapNat_eq_wordsFrom]
  exact modStrm_modStrm n q _ _ s

theorem readsAs_modStrm {n q : Nat} {f : Stream → Stream} {s : State} {a k : Nat} {bs : List Byte} (h : ReadsAs s a k bs) :
    ReadsAs (modStrm n q f s) a k bs :=
  ⟨h.1, fun i hi => by
    obtain ⟨p, hp, hread⟩ := h.2 i hi
    exact ⟨p, (resolve_modThl n _ s _).trans hp, hread⟩⟩

/-- JUMP goes to its offset. -/
theorem execJump_goes {n q : Nat} {s : State} (h : StrmRuns s n q 1) (hq : q < 3) (w : Word) : execJump n q w s =
    .next (modStrm n q (fun k => { Stream.after 1 w k with pc := wordsFrom k.pc (signed 32 (field w 63 32)) }) s) :=
  strmInstr_body h (strm_lt_three hq) (strmJump_taking n q 1 w _ s) (strmModes_modStrm n q _ s)

/-- The offset of a BRUNG that finds `r` as the selected rung (06 T6-2). -/
def rungOffset (w1 w2 : Word) (r : Nat) : Nat :=
  match r with
  | 0 => field w1 31 0
  | 1 => field w1 63 32
  | 2 => field w2 31 0
  | _ => field w2 63 32

/-- BRUNG goes to the offset of the rung that it reads in the state copy in force. -/
theorem execBrung_goes {n q : Nat} {w0 w1 w2 : Word} {s : State} {bs : List Byte} (h : StrmRuns s n q 3) (hq : q < 3)
    (hl : field w0 19 8 < nLayers s) (hr : ReadsAs s (curState s (field w0 19 8) (field w0 20 20)) 8 bs) : execBrung n q w0 w1 w2 s =
    .next (modStrm n q (fun k => { Stream.after 3 w0 k with pc := wordsFrom k.pc (signed 32 (rungOffset w1 w2 (natOf bs % 4))) }) s) := by
  refine strmInstr_body h (strm_lt_three hq) ?_ (strmModes_modStrm n q _ s)
  have hlayer : ¬ nLayers (modStrm n q (Stream.taking w0) s) ≤ field w0 19 8 := Nat.not_le.2 hl
  have hread (ag : Agent) : readMem ag (curState (modStrm n q (Stream.taking w0) s) (field w0 19 8) (field w0 20 20)) 8
      (modStrm n q (Stream.taking w0) s) = (modStrm n q (Stream.taking w0) s, some bs) := readMem_as (readsAs_modStrm hr)
  dsimp only
  rw [if_neg hlayer, hread]
  exact strmJump_taking n q 3 w0 _ s

/-- BRUNG of a layer that the job does not have halts its stream. -/
theorem execBrung_halts {n q : Nat} {w0 : Word} {s : State} (h : StrmRuns s n q 3) (hq : q < 3) (hl : nLayers s ≤ field w0 19 8)
    (w1 w2 : Word) : ∃ t, execBrung n q w0 w1 w2 s = .next t ∧ StrmHalts n 0 q 0x30 w0 (Stream.taking w0) s t :=
  strmInstr_halts h (strm_lt_three hq) (if_pos hl)

theorem epochOpen_modStrm (n q : Nat) (f : Stream → Stream) (s : State) :
    modThl n (fun h => { h with epochOpen := true }) (modStrm n q f s) =
      modStrm n q f (modThl n (fun h => { h with epochOpen := true }) s) := by
  unfold modStrm
  rw [modThl_modThl, modThl_modThl]
  rfl

/-- EPOCH opens the epoch windows of its thallus for writes. -/
theorem execEpoch_opens {n : Nat} {s : State} (h : StrmRuns s n 2 1) (hst : s.cmt.state ≠ .settling) (w : Word) :
    execEpoch n 2 w s = .next (modStrm n 2 (Stream.after 1 w) (modThl n (fun h => { h with epochOpen := true }) s)) := by
  refine strmInstr_body h rfl ?_ ((strmModes_modStrm n 2 _ _).trans (strmModes_modThl n _ s))
  have hsettling : ((modStrm n 2 (Stream.taking w) s).cmt.state == .settling) = false := by simpa using hst
  rw [hsettling, if_neg Bool.false_ne_true, epochOpen_modStrm, strmNext_taking]

/-- EPOCH is held while an earlier epoch settles. -/
theorem execEpoch_held {n : Nat} {s : State} (h : StrmRuns s n 2 1) (hst : s.cmt.state = .settling) (w : Word) :
    execEpoch n 2 w s = .next (modStrm n 2 (fun k => { k.taking w with state := .held, why := .epoch }) s) := by
  refine strmInstr_body h rfl ?_ (strmModes_modStrm n 2 _ s)
  rw [modStrm_cmt, hst]
  exact modStrm_modStrm n 2 _ _ s

/-- Settles O25: each row by its own lemma, and the two halts. -/
theorem streamJumpsAndEpoch : Obligations.StreamJumpsAndEpoch := by
  refine ⟨fun n q w s h hq => execJump_goes h hq w, fun n q w0 w1 w2 s bs h hq hl hr => execBrung_goes h hq hl hr,
    fun n q w0 w1 w2 s h hq hl => execBrung_halts h hq hl w1 w2,
    fun n w s h => ⟨fun hst => execEpoch_opens h hst w, fun hst => execEpoch_held h hst w⟩,
    fun n q w s h hq => strmInstr_refused h.1 ?_ w _⟩
  simp [hq]

/-! ## Markers and the forward barrier (06 R132, R133) -/

theorem logEv_modStrm (a b c d e g n q : Nat) (f : Stream → Stream) (s : State) :
    logEv a b c d e g (modStrm n q f s) = modStrm n q f (logEv a b c d e g s) := by
  unfold logEv logAt
  rw [modStrm_log]
  split <;> rfl

/-- A trace marker logs and goes on. -/
theorem execMarkTrace_logs {n q : Nat} {s : State} (h : StrmTakes s n q 2) (w0 w1 : Word) : execMarkTrace n q w0 w1 s =
    .next (modStrm n q (Stream.after 2 w0) (logEv 0 0 0x36 (engW0 n 0 q 0 false) (strmOf s n q).pc w0.toNat s)) := by
  refine strmStep_body h ?_ ((strmModes_modStrm n q _ _).trans (strmModes_of_thl (logEv_thl _ _ _ _ _ _ s)))
  unfold strmEv
  rw [logEv_modStrm, strmNext_taking, strmOf_modStrm h.1]
  rfl

/-- END drains its stream, but for a forward stream that has not marked the end of forward. -/
theorem execMarkEnd_drains {n q : Nat} {s : State} (h : StrmTakes s n q 2) (hq : q ≠ 0 ∨ (strmOf s n q).marked = true) (w0 w1 : Word) :
    execMarkEnd n q w0 w1 s = .next (settle (modStrm n q (fun k => { k.taking w0 with
      state := .draining, why := .none, pc := (k.pc + 16) % 2 ^ 44, cntInstr := satAdd k.cntInstr 1 }) s)) := by
  have hforward : (q == 0 && !(strmOf (modStrm n q (Stream.taking w0) s) n q).marked) = false := by
    rw [strmOf_modStrm h.1]
    obtain hq | hq := hq <;> simp [hq, Stream.taking]
  refine strmStep_body h ?_ ((settle_modes _).trans (strmModes_modStrm n q _ s))
  dsimp only
  rw [hforward, if_neg Bool.false_ne_true]
  unfold strmEnd
  rw [modStrm_modStrm, modStrm_modStrm]
  rfl

/-- END of a forward stream that has not marked first executes an end-of-forward marker with no loss check. -/
theorem execMarkEnd_marks {n : Nat} {s : State} (h : StrmRuns s n 0 2) (w0 w1 : Word) :
    execMarkEnd n 0 w0 w1 s = .next (modStrm n 0 (fun k => { k.taking w0 with
      state := .held, why := .marker, markThenEnd := true, lossAddr := 0, lossN := 0, cntInstr := satAdd k.cntInstr 1 }) s) := by
  have hforward : (strmOf (modStrm n 0 (Stream.taking w0) s) n 0).marked = false := by
    rw [strmOf_modStrm h.1.1]
    exact h.2
  refine strmStep_body h.1 ?_ (strmModes_modStrm n 0 _ s)
  dsimp only
  rw [hforward, modStrm_modStrm, modStrm_modStrm]
  rfl

/-- The end-of-forward marker holds the forward stream. -/
theorem execMarkEndOfForward_holds {n : Nat} {s : State} (h : StrmRuns s n 0 2) (w0 w1 : Word) :
    execMarkEndOfForward n 0 w0 w1 s = .next (modStrm n 0 (fun k => { k.taking w0 with
      state := .held, why := .marker, markThenEnd := false, lossAddr := field w1 43 0, lossN := field w0 31 16
      cntInstr := satAdd k.cntInstr 1 }) s) :=
  strmInstr_body h rfl (modStrm_modStrm n 0 _ _ s) (strmModes_modStrm n 0 _ s)

/-- The forward stream is marked with its loss values; a value that is not finite poisons the device and logs 0x35. -/
def lossMarked (n : Nat) (vals : List W32) (s : State) : State :=
  let s1 := modStrm n 0 (fun k => { k with marked := true, lossVals := vals }) s
  if vals.any (fun v => field v 30 23 == 255) then
    strmEv 0 0x35 n 0 0 false (strmOf s n 0).instr.toNat { s1 with cmt := { s1.cmt with poisoned := true } }
  else s1

/-- The forward stream goes on after its end-of-forward marker. -/
def markerPassed (n : Nat) (s : State) : State :=
  modStrm n 0 (fun k => { k with state := .running, why := .none, pc := (k.pc + 16) % 2 ^ 44 }) s

theorem logEv_cmt (a b c d e g : Nat) (s : State) : (logEv a b c d e g s).cmt = s.cmt := by
  obtain ⟨L, x, h⟩ := logEv_form a b c d e g s
  rw [h]

theorem lossMarked_thl (n : Nat) (vals : List W32) (s : State) :
    (lossMarked n vals s).thl = (modStrm n 0 (fun k => { k with marked := true, lossVals := vals }) s).thl := by
  unfold lossMarked strmEv
  dsimp only
  split
  · exact logEv_thl _ _ _ _ _ _ _
  · rfl

theorem lossMarked_mem (n : Nat) (vals : List W32) (s : State) : (lossMarked n vals s).mem = s.mem := by
  unfold lossMarked strmEv
  dsimp only
  split
  · exact logEv_mem _ _ _ _ _ _ _
  · rfl

theorem lossMarked_poisoned (n : Nat) (vals : List W32) (s : State) :
    (lossMarked n vals s).cmt.poisoned = (s.cmt.poisoned || vals.any fun v => field v 30 23 == 255) := by
  unfold lossMarked strmEv
  dsimp only
  split
  next h =>
    rw [logEv_cmt, h, Bool.or_true]
  next h =>
    rw [Bool.not_eq_true] at h
    rw [h, Bool.or_false]
    rfl

/-- The loss check reads the values that its marker names, none where it names no address. -/
theorem lossCheck_eq {n : Nat} {s : State} {bs : List Byte} (hend : (strmOf s n 0).markThenEnd = false)
    (hr : (strmOf s n 0).lossAddr = 0 ∨ ReadsAs s (strmOf s n 0).lossAddr (4 * (strmOf s n 0).lossN) bs) :
    lossCheck n s = stepEnds n 0 (markerPassed n (lossMarked n (if (strmOf s n 0).lossAddr = 0 then [] else w32sOf bs) s)) := by
  unfold lossCheck
  dsimp only
  rw [hend]
  by_cases h0 : (strmOf s n 0).lossAddr = 0
  · rw [if_pos (by simpa using h0), if_pos h0]
    rfl
  · rw [if_neg (by simpa using h0), if_neg h0, readMem_as (hr.resolve_left h0)]
    rfl

theorem strmOf_modStrm_other {n q r : Nat} (h : r ≠ q) (f : Stream → Stream) (s : State) (m : Nat) :
    strmOf (modStrm n q f s) m r = strmOf s m r :=
  thlOf_modThl_any n _ s m (fun t => t.strm.getD r {}) fun t => by
    simp [List.getD_eq_getElem?_getD, h.symm]

theorem thlOf_modStrm_other {n m : Nat} {s : State} (h : hasThl s n = true) (hm : m ≠ n) (q : Nat) (f : Stream → Stream) :
    thlOf (modStrm n q f s) m = thlOf s m := (thlOf_modThl h _ m).trans (if_neg hm)

theorem markerPassed_lossMarked_thl (n : Nat) (vals : List W32) (s : State) :
    (markerPassed n (lossMarked n vals s)).thl = (modStrm n 0 (fun k => { k with
      marked := true, lossVals := vals, state := .running, why := .none, pc := (k.pc + 16) % 2 ^ 44 }) s).thl := by
  have hthl : (markerPassed n (lossMarked n vals s)).thl =
      (markerPassed n (modStrm n 0 (fun k => { k with marked := true, lossVals := vals }) s)).thl :=
    congrArg (fun l => (markerPassed n { s with thl := l }).thl) (lossMarked_thl n vals s)
  exact hthl.trans (congrArg State.thl (modStrm_modStrm n 0 _ _ s))

/-- The end-of-forward marker completes once the work of its stream is done. -/
theorem execEndOfForwardLossCheck_eq {n : Nat} {s : State} {bs : List Byte} (h : hasStrm s n 0 = true)
    (hst : (strmOf s n 0).state = .held) (hwhy : (strmOf s n 0).why = .marker) (hhalt : (strmOf s n 0).dbg.mode ≠ 2)
    (hstep : (strmOf s n 0).dbg.mode ≠ 3) (hdone : StrmWorkDone s n 0) (hend : (strmOf s n 0).markThenEnd = false)
    (hr : (strmOf s n 0).lossAddr = 0 ∨ ReadsAs s (strmOf s n 0).lossAddr (4 * (strmOf s n 0).lossN) bs) :
    execEndOfForwardLossCheck n s =
      .next (markerPassed n (lossMarked n (if (strmOf s n 0).lossAddr = 0 then [] else w32sOf bs) s)) := by
  have hmode (vals : List W32) : (strmOf (markerPassed n (lossMarked n vals s)) n 0).dbg.mode ≠ 3 := by
    rwa [mode_of_strmModes ((strmModes_of_thl (markerPassed_lossMarked_thl n vals s)).trans (strmModes_modStrm n 0 _ s))]
  rw [← stepEnds_of_mode (hmode _), ← lossCheck_eq hend hr]
  exact need_next (hasThl_of_hasStrm h) (by simp [hst, hwhy, halted_of_mode hhalt, (workDone_iff s n 0).2 hdone]) _

/-- The state in which the loss digest is taken and every backward stream goes on (06 R133). -/
def barrierOpened (crc : Nat) (s : State) : State := { s with
  snap := { s.snap with lossCrc := BitVec.ofNat 32 crc, lossStep := s.cmt.step }
  crun := { s.crun with barrierOpen := true }
  thl := s.thl.map fun h => { h with strm := h.strm.modify 1 fun k => if k.state = .barrier then { k with state := .running } else k } }

theorem barrierReady_of {s : State} (hopen : s.crun.barrierOpen = false) (hwait : ∃ h ∈ s.thl, (h.strm.getD 1 {}).state = .barrier)
    (hmarked : ∀ h ∈ s.thl, (h.strm.getD 0 {}).marked = true) : barrierReady s = true := by
  have hany : s.thl.any (fun t => (t.strm.getD 1 {}).state == .barrier) = true := by simpa using hwait
  have hall : s.thl.all (fun t => (t.strm.getD 0 {}).marked) = true := List.all_eq_true.2 hmarked
  unfold barrierReady
  rw [hopen, hany, hall]
  rfl

/-- The forward barrier opens: the replay check and the snapshot header follow the loss digest. -/
theorem execForwardBarrierOpen_eq {s : State} (h : barrierReady s = true) :
    let crc := crc32c (bytesOfW32s (s.thl.flatMap fun h => (h.strm.getD 0 {}).lossVals))
    execForwardBarrierOpen s = .next (snapBarrier (replayCheck crc (barrierOpened crc s))) := by
  unfold execForwardBarrierOpen barrierOpened
  simp only [beq_iff_eq]
  exact need_next rfl h _

/-- Settles O28: each row by its own lemma; the loss check by what its two updates leave. -/
theorem streamMarkers : Obligations.StreamMarkers := by
  refine ⟨fun n q w0 w1 s h => execMarkTrace_logs h w0 w1, fun n q w0 w1 s h hq => execMarkEnd_drains h hq w0 w1,
    fun n w0 w1 s h => execMarkEnd_marks h w0 w1, fun n w0 w1 s h => execMarkEndOfForward_holds h w0 w1,
    fun n s h hst hwhy hhalt hstep hdone hend bs hr => ⟨_, execEndOfForwardLossCheck_eq h hst hwhy hhalt hstep hdone hend hr, ?_⟩,
    fun s hopen hwait hmarked => ⟨_, execForwardBarrierOpen_eq (barrierReady_of hopen hwait hmarked), _, rfl, rfl, rfl, rfl⟩⟩
  have hthl := markerPassed_lossMarked_thl n (if (strmOf s n 0).lossAddr = 0 then [] else w32sOf bs) s
  refine ⟨?_, lossMarked_poisoned _ _ _, lossMarked_mem _ _ _, fun q hq => ?_, fun m hm => ?_⟩
  · rw [strmOf_of_thl hthl, strmOf_modStrm h]
  · rw [strmOf_of_thl hthl, strmOf_modStrm_other hq]
  · rw [thlOf_of_thl hthl, thlOf_modStrm_other (hasThl_of_hasStrm h) hm]

/-! ## Epoch windows (06 R136, 15 T15-6) -/

/-- Refutes O39: in compat mode, the memory of a field whose core is off is an absent unit (15 T15-6), so an
epoch window whose copy lies there resolves to no address, where the last clause gives the address of its copy. -/
theorem not_aliasWritesLeaveMemory : ¬ Obligations.AliasWritesLeaveMemory := by
  rintro ⟨-, -, -, -, hwindow⟩
  let w : Win := { en := true, copy1 := 1 }
  let s : State := { State.reset with
    caps := { compat := true, thlField := [1, 0, 0, 0], stackEn := 7, thlPhys := [0] }, thl := [{}], win := [w] }
  have hcovers : winAt s 0 = some (0, w) := by decide
  have hoff : compatOff s (curBase + 0) = some 0 := by decide
  have habsent : resolve s (curBase + 0) = none := by rw [resolve, hoff]; rfl
  have hpresent := hwindow s 0 0 w (by decide) hcovers
  rw [habsent] at hpresent
  nomatch hpresent

end Sys2Proof.Machine
end

section
/-! Thallus DMA and the scrubbing of HBM (07): what the checks of a descriptor find, and what its start, its completion and a scrub read do. -/

namespace Sys2Proof.Machine

open Sys2Proof

/-! ## The checks of a descriptor (07 R157) -/

/-- Once its source is local, a descriptor passes where none of the checks of its words fails and every row is in range. -/
theorem descPasses_iff_of_srcLocal {s : State} {addr : Nat} {d : List Word} (hsrc : ddSrcRemote d = false) : DescPasses s addr d ↔
    (addr % 64 != 0 || 1 < ddOp d || ddRowBytes d == 0 || ddRows d == 0 || (1 < ddRows d && ddDstPitch d < ddRowBytes d) ||
      (ddRemote d && ddDev d == self s)) = false ∧
    ((List.range (ddRows d)).all fun i => (ddOp d == 1 || rangeOk (ddSrc d + i * ddSrcPitch d) (ddRowBytes d)) &&
      (if ddRemote d then remoteOk (ddDst d + i * ddDstPitch d) (ddRowBytes d)
        else rangeOk (ddDst d + i * ddDstPitch d) (ddRowBytes d))) = true := by
  simp [DescPasses, hsrc, Nat.pos_iff_ne_zero, and_assoc]

/-- The checks have three outcomes: a remote source, a descriptor that passes, and any other failure. -/
theorem descCause_cases (s : State) (addr : Nat) (d : List Word) :
    (ddSrcRemote d = true ∧ ¬ DescPasses s addr d ∧ descCause s addr d = some 0x40) ∨
    (ddSrcRemote d = false ∧ DescPasses s addr d ∧ descCause s addr d = none) ∨
    (ddSrcRemote d = false ∧ ¬ DescPasses s addr d ∧ descCause s addr d = some 0x41) := by
  cases hsrc : ddSrcRemote d with
  | true => exact .inl ⟨rfl, fun hpass => Bool.noConfusion (hsrc.symm.trans hpass.1), by simp [descCause, hsrc]⟩
  | false =>
    rw [descPasses_iff_of_srcLocal hsrc]
    unfold descCause
    dsimp only
    rw [hsrc, if_neg Bool.false_ne_true]
    generalize (addr % 64 != 0 || _ || _ || _ || _ || _) = bad
    generalize (List.range (ddRows d)).all _ = inRange
    cases bad with
    | true => exact .inr (.inr ⟨rfl, fun hpass => Bool.noConfusion hpass.1, rfl⟩)
    | false =>
      cases inRange with
      | true => exact .inr (.inl ⟨rfl, ⟨rfl, rfl⟩, rfl⟩)
      | false => exact .inr (.inr ⟨rfl, fun hpass => Bool.noConfusion hpass.2, rfl⟩)

theorem descCause_none_iff {s : State} {addr : Nat} {d : List Word} : descCause s addr d = none ↔ DescPasses s addr d := by
  rcases descCause_cases s addr d with ⟨-, hpass, hcause⟩ | ⟨-, hpass, hcause⟩ | ⟨-, hpass, hcause⟩ <;> simp [hpass, hcause]

theorem descCause_srcRemote_iff {s : State} {addr : Nat} {d : List Word} : descCause s addr d = some 0x40 ↔ ddSrcRemote d = true := by
  rcases descCause_cases s addr d with ⟨hsrc, -, hcause⟩ | ⟨hsrc, -, hcause⟩ | ⟨hsrc, -, hcause⟩ <;> simp [hsrc, hcause]

theorem descCause_causes {s : State} {addr : Nat} {d : List Word} {c : Nat} (h : descCause s addr d = some c) : c = 0x40 ∨ c = 0x41 := by
  rcases descCause_cases s addr d with ⟨-, -, hcause⟩ | ⟨-, -, hcause⟩ | ⟨-, -, hcause⟩ <;> rw [hcause] at h
  · exact .inl (Option.some.inj h).symm
  · nomatch h
  · exact .inr (Option.some.inj h).symm

/-! ## What the throttle gate leaves of what a start reads (01 R17) -/

/-- The gate count of a thallus is no part of what an address reads as. -/
theorem readsAs_useGate {n : Nat} {s : State} {a k : Nat} {bs : List Byte} (h : ReadsAs s a k bs) : ReadsAs (useGate n s) a k bs :=
  ⟨h.1, fun i hi => by
    obtain ⟨p, hp, hread⟩ := h.2 i hi
    exact ⟨p, (resolve_modThl n _ s _).trans hp, hread⟩⟩

@[simp] theorem dmaOf_useGate (n : Nat) (s : State) (m ch : Nat) : dmaOf (useGate n s) m ch = dmaOf s m ch :=
  thlOf_modThl_any n _ s m (fun t => t.dma.getD ch []) fun _ => rfl

theorem runs_useGate (n : Nat) (s : State) (m : Nat) : (thlOf (useGate n s) m).runs = (thlOf s m).runs :=
  thlOf_modThl_any n _ s m Thallus.runs fun _ => rfl

@[simp] theorem dmaStream_useGate (n : Nat) (s : State) (m ch : Nat) (e : DmaEntry) : dmaStream (useGate n s) m ch e = dmaStream s m ch e := by
  simp only [dmaStream, runStream, runIdx, runs_useGate]

/-! ## DMA_DESCRIPTOR_START (07 R157) -/

/-- The channel's next descriptor is the first not started, once no remote one is under way. -/
theorem dmaNext_of_startsNext {s : State} {n ch k : Nat} (h : StartsNext s n ch k) : dmaNext s n ch = some k := by
  obtain ⟨-, hlen, hnot, hbefore, hwait, -, hremote⟩ := h
  have hidx : (dmaOf s n ch).findIdx (fun e => !e.started) = k := by
    rw [List.findIdx_eq hlen]
    refine ⟨by simpa [List.getD_eq_getElem?_getD, hlen] using hnot, fun j hj => ?_⟩
    simpa [List.getD_eq_getElem?_getD, hj.trans hlen] using hbefore j hj
  have hquiet : (dmaOf s n ch).any (fun e => e.remote && e.started && !e.failed && !e.finDone) = false := by
    simpa [and_assoc] using hremote
  simp [dmaNext, hidx, hwait, hquiet, hlen]

theorem execDmaDescriptorStart_next {s : State} {n ch k : Nat} (h : StartsNext s n ch k) :
    execDmaDescriptorStart n ch s = .next (dmaStart n ch k (useGate n s)) := by
  have hnext := dmaNext_of_startsNext h
  obtain ⟨hdma, -, -, -, -, hgate, -⟩ := h
  unfold execDmaDescriptorStart
  rw [hnext]
  exact need_next hdma (by simp [hgate]) _

/-- A descriptor whose words pass the checks is started. -/
theorem dmaStart_passes {s : State} {n ch k : Nat} {ds : List Byte} (h : ReadsAs s ((dmaOf s n ch).getD k {}).addr 64 ds)
    (hnone : descCause s ((dmaOf s n ch).getD k {}).addr (wordsOf ds) = none) :
    dmaStart n ch k s = startDesc n ch k ((dmaOf s n ch).getD k {}) (wordsOf ds) s := by
  simp only [dmaStart, readMem_as h, hnone]

/-- A descriptor whose words fail a check is refused. -/
theorem dmaStart_fails {s : State} {n ch k c : Nat} {ds : List Byte} (h : ReadsAs s ((dmaOf s n ch).getD k {}).addr 64 ds)
    (hc : descCause s ((dmaOf s n ch).getD k {}).addr (wordsOf ds) = some c) :
    dmaStart n ch k s = refuseDesc n ch k c ((dmaOf s n ch).getD k {}) (wordsOf ds) s := by
  simp only [dmaStart, readMem_as h, hc]

/-- Pieces that are present and correctable are all read, and nothing changes. -/
theorem readPieces_as {s : State} {ag : Agent} {bs : Nat × Nat × Nat → List Byte} {ps : List (Nat × Nat × Nat)}
    (h : ∀ p ∈ ps, ReadsAs s p.1 p.2.2 (bs p)) : readPieces ag ps s = (s, ps.map (fun p => (p.1, p.2.1, bs p)), true) := by
  induction ps with
  | nil => rfl
  | cons p ps ih =>
    obtain ⟨hp, hps⟩ := List.forall_mem_cons.1 h
    unfold readPieces
    simp only [readMem_as hp, ih hps, List.map_cons]

theorem sum_length_of_reads {s : State} {bs : Nat × Nat × Nat → List Byte} {ps : List (Nat × Nat × Nat)}
    (h : ∀ p ∈ ps, ReadsAs s p.1 p.2.2 (bs p)) :
    (ps.map fun p => (p.1, p.2.1, bs p)).foldl (fun x (_, _, ys) => x + ys.length) 0 = (ps.map fun p => p.2.2).sum := by
  rw [← List.map_congr_left fun p hp => (h p hp).1, List.sum_eq_foldl, List.foldl_map, List.foldl_map]

/-- A fill within the device prepares its pattern for each row. -/
theorem startDesc_fill {s : State} {n ch k : Nat} {e : DmaEntry} {d : List Word} (hop : ddOp d = 1) (hlocal : ddRemote d = false) :
    startDesc n ch k e d s = setEntry n ch k { e with
      started := true, desc := d
      writes := (List.range (ddRows d)).map fun i => (ddDst d + i * ddDstPitch d, fillRow (wordAt d 1) (ddRowBytes d)) } s := by
  simp [startDesc, hop, hlocal]

/-- A copy within the device, of ranges that do not overlap, prepares what its source holds. -/
theorem startDesc_copy {s : State} {n ch k : Nat} {e : DmaEntry} {d : List Word} {bs : Nat × Nat × Nat → List Byte} (hop : ddOp d = 0)
    (hlocal : ddRemote d = false) (hreads : ∀ p ∈ descPieces d, ReadsAs s p.1 p.2.2 (bs p))
    (hapart : overlaps ((descPieces d).map fun p => (p.1, p.2.1, bs p)) = false) :
    startDesc n ch k e d s = setEntry n ch k { e with
        started := true, desc := d, writes := rowWrites d ((descPieces d).map fun p => (p.2.1, bs p)) }
      { dmaCount n (((descPieces d).map fun p => p.2.2).sum) 0 s with nonce := s.nonce + 1 } := by
  unfold startDesc
  simp only [readPieces_as hreads, sum_length_of_reads hreads, hapart, hop, hlocal, List.map_map]
  rfl

theorem execDmaDescriptorStart_passes {s : State} {n ch k : Nat} {ds : List Byte} (h : StartsNext s n ch k)
    (hds : ReadsAs s ((dmaOf s n ch).getD k {}).addr 64 ds) (hpass : DescPasses s ((dmaOf s n ch).getD k {}).addr (wordsOf ds)) :
    execDmaDescriptorStart n ch s = .next (startDesc n ch k ((dmaOf s n ch).getD k {}) (wordsOf ds) (useGate n s)) := by
  rw [← dmaOf_useGate n] at hds hpass
  rw [execDmaDescriptorStart_next h, dmaStart_passes (readsAs_useGate hds) (descCause_none_iff.2 hpass), dmaOf_useGate]

/-- A failed check sets the entry and counts the refusal, then its device fault is recorded. -/
theorem execDmaDescriptorStart_fails {s : State} {n ch k c : Nat} {ds : List Byte} (h : StartsNext s n ch k)
    (hds : ReadsAs s ((dmaOf s n ch).getD k {}).addr 64 ds) (hc : descCause s ((dmaOf s n ch).getD k {}).addr (wordsOf ds) = some c) :
    execDmaDescriptorStart n ch s =
      let e := (dmaOf s n ch).getD k {}
      let d := wordsOf ds
      .next (settle (recordClass (classOf c) c (logEv 7 (classOf c) c
        (engW0 n 0 (dmaStream s n ch e) 0 false) e.addr (wordAt d 0).toNat (modThl n (fun t => { t with
          cntRefused := satAdd t.cntRefused 1
          dma := t.dma.modify ch fun q => q.set k { e with started := true, failed := true, desc := d } }) (useGate n s))))) := by
  rw [← dmaOf_useGate n] at hds hc
  rw [execDmaDescriptorStart_next h, dmaStart_fails (readsAs_useGate hds) hc, dmaOf_useGate]
  unfold refuseDesc setEntry modDma fault
  simp only [dmaStream_useGate, modThl_modThl, Function.comp_def]

/-! ## DMA_COMPLETE (07 R156, R158) -/

/-- The head of a channel ends: what it prepared is written and counted, and what it is worth to its issuer follows. -/
theorem dmaFinish_cons {s : State} {n ch : Nat} {e : DmaEntry} {rest : List DmaEntry} (h : dmaOf s n ch = e :: rest) :
    dmaFinish n ch s =
      let t := e.writes.foldl (fun t (a, bs) => writeMem (dmaAgent s n ch e (wordAt e.desc 0)) a bs t)
        (dmaCount n 0 ((e.writes.map fun w => w.2.length).sum) (modDma n ch (fun _ => rest) s))
      settle (if e.failed then dmaLose n ch e t else if ddPegEn e.desc then postPeg n (ddPeg e.desc) 1 2 3 0 t else t) := by
  unfold dmaFinish
  rw [h, List.sum_eq_foldl, List.foldl_map]

theorem execDmaComplete_next {s : State} {n ch : Nat} {e : DmaEntry} {rest : List DmaEntry} (hdma : hasDma s n ch = true)
    (h : dmaOf s n ch = e :: rest) (hended : dmaEnded e = true) : execDmaComplete n ch s = .next (dmaFinish n ch s) :=
  need_next hdma (by simp [h, hended]) _

/-- A local or acknowledged descriptor becomes visible and posts its peg. -/
theorem execDmaComplete_done {s : State} {n ch : Nat} {e : DmaEntry} {rest : List DmaEntry} (hdma : hasDma s n ch = true)
    (h : dmaOf s n ch = e :: rest) (hstarted : e.started = true) (hok : e.failed = false) (hdone : e.remote = false ∨ e.finDone = true) :
    execDmaComplete n ch s =
      let t := e.writes.foldl (fun t (a, bs) => writeMem (dmaAgent s n ch e (wordAt e.desc 0)) a bs t)
        (dmaCount n 0 ((e.writes.map fun w => w.2.length).sum) (modDma n ch (fun _ => rest) s))
      .next (settle (if ddPegEn e.desc then postPeg n (ddPeg e.desc) 1 2 3 0 t else t)) := by
  have hended : dmaEnded e = true := by
    unfold dmaEnded
    rcases hdone with hlocal | hfin
    · simp [hstarted, hlocal]
    · simp [hstarted, hfin]
  rw [execDmaComplete_next hdma h hended, dmaFinish_cons h]
  simp only [hok, Bool.false_eq_true, if_false]

/-- A descriptor of a stream that failed before it wrote anything leaves the mark of a lost one. -/
theorem execDmaComplete_lost {s : State} {n ch : Nat} {e : DmaEntry} {rest : List DmaEntry} (hdma : hasDma s n ch = true)
    (h : dmaOf s n ch = e :: rest) (hstarted : e.started = true) (hfail : e.failed = true) (hwrites : e.writes = []) (hcore : e.core = none) :
    execDmaComplete n ch s =
      .next (settle (modStrm n ch (fun k => { k with dmaLost := true }) (dmaCount n 0 0 (modDma n ch (fun _ => rest) s)))) := by
  rw [execDmaComplete_next hdma h (by simp [dmaEnded, hstarted, hfail]), dmaFinish_cons h]
  simp only [hfail, hwrites, if_true, dmaLose, hcore]
  rfl

/-! ## HBM_SCRUB_LINE (07 R161, R162) -/

theorem execHbmScrubLine_next {s : State} {a : Nat} (ha : a < hbmBytes s) (hperiod : s.scrubPeriod ≠ 0) (r : ScrubResult) :
    execHbmScrubLine a r s = .next (match r with
      | .clean => s
      | .corrected => { s with hbm := s.hbm.modify (hbmPlace s a).1 fun h => { h with cntCorr := satAdd h.cntCorr 1 } }
      | .uncorrectable => scrubBad a s) := by
  cases r <;> exact need_next (decide_eq_true ha) (by simpa using hperiod) _

/-- A line lies in one stack. -/
theorem hbmPlace_line_stack (s : State) (a : Nat) : (hbmPlace s (a / 64 * 64)).1 = (hbmPlace s a).1 := by
  conv_rhs => rw [← Nat.div_add_mod' a 64]
  exact (hbmGo_line s 4 (a / 64 * 64) (a % 64) (by omega)).symm

/-- A line that the scrub finds uncorrectable is so for the readers after it; no byte and no thallus changes, where the stack's poison
list has it or has room for it. -/
theorem scrubBad_poisons {s : State} {a : Nat} (h : (s.hbm.getD (hbmPlace s a).1 {}).poison.contains (a / 64) = true ∨
      (s.hbm.getD (hbmPlace s a).1 {}).poison.length < 64) :
    (scrubBad a s).mem.badLines.contains (a / 64) = true ∧ (scrubBad a s).mem.bytes = s.mem.bytes ∧ (scrubBad a s).thl = s.thl := by
  have hlines : (if s.mem.badLines.contains (a / 64) then s.mem.badLines else s.mem.badLines ++ [a / 64]).contains (a / 64) = true := by
    split
    · assumption
    · simp
  rw [← hbmPlace_line_stack] at h
  unfold scrubBad
  dsimp only
  split
  next => exact ⟨by rwa [logEv_mem], by rw [logEv_mem]; rfl, logEv_thl _ _ _ _ _ _ _⟩
  next hnew =>
    rw [if_pos (h.resolve_left hnew)]
    exact ⟨by rwa [logEv_mem], by rw [logEv_mem]; rfl, logEv_thl _ _ _ _ _ _ _⟩

/-- Settles O38: the checks by their three outcomes, each start by the descriptor it reads, each completion by how the head of the channel
ended, and the scrub by what it finds. -/
theorem dmaDescriptors : Obligations.DmaDescriptors := by
  refine ⟨fun s addr d => ⟨descCause_none_iff, descCause_srcRemote_iff, fun c => descCause_causes⟩,
    fun n ch k s ds h hds hpass hlocal => ?_, fun n ch k s ds c h hds hc => execDmaDescriptorStart_fails h hds hc,
    fun n ch s e rest hdma hq hst hok hdone => execDmaComplete_done hdma hq hst hok hdone,
    fun n ch s e rest hdma hq hst hfail hwrites hcore => execDmaComplete_lost hdma hq hst hfail hwrites hcore,
    fun a s ha hperiod => ⟨execHbmScrubLine_next ha hperiod .clean, execHbmScrubLine_next ha hperiod .corrected, fun hroom =>
      ⟨_, execHbmScrubLine_next ha hperiod .uncorrectable, scrubBad_poisons hroom⟩⟩⟩
  have hstart := execDmaDescriptorStart_passes h hds hpass
  refine ⟨fun hop => ?_, fun hop bs hreads hapart => ?_⟩
  · rw [startDesc_fill hop hlocal] at hstart
    exact hstart
  · rw [startDesc_copy hop hlocal (fun p hp => readsAs_useGate (hreads p hp)) hapart] at hstart
    exact hstart

end Sys2Proof.Machine
end

section
/-! Marionette cores (08): what an instruction of an undisturbed core does, and how the core's registers and its agent read on the way. -/

namespace Sys2Proof.Machine

open Sys2Proof

/-! ## Taking a word -/

@[simp] theorem Core.taking_gR (w : Word) (k : Core) (i : Nat) : (k.taking w).gR i = k.gR i := rfl
@[simp] theorem Core.taking_pc (w : Word) (k : Core) : (k.taking w).pc = k.pc := rfl
@[simp] theorem Core.taking_ordCount (w : Word) (k : Core) : (k.taking w).ordCount = k.ordCount := rfl

theorem coreAgent_modCore {n c : Nat} {s : State} (h : hasCore s n c = true) {f : Core → Core} (hpc : ∀ k, (f k).pc = k.pc) (w : Word) :
    coreAgent (modCore n c f s) n c w = coreAgent s n c w := by
  unfold coreAgent
  rw [runStream_modCore, coreOf_modCore h, hpc]

/-! ## Legal words, illegal words and faults (08 R189) -/

theorem coreInstr_legal {n c : Nat} {w : Word} {s : State} {legal : Bool} {body : State → State} (h : CoreRuns s n c) (hl : legal = true) :
    coreInstr n c w legal body s = .next (body (modCore n c (Core.taking w) s)) := by
  rw [coreInstr_runs h, hl]
  rfl

theorem coreInstr_illegal {n c : Nat} {w : Word} {s : State} {legal : Bool} {body : State → State} (h : CoreRuns s n c) (hl : legal = false) :
    coreInstr n c w legal body s = .next (coreFault n c 0x50 w (modCore n c (Core.taking w) s)) := by
  rw [coreInstr_runs h, hl]
  rfl

/-- A core that has taken its word faults with a cause of class 3 as the spec gives. -/
theorem faultsWith_coreFault {n c cause : Nat} {s : State} (h : hasCore s n c = true) (w : Word) (hcause : classOf cause = 3) :
    FaultsWith n c cause w s (coreFault n c cause w (modCore n c (Core.taking w) s)) := by
  unfold FaultsWith coreFault coreEv
  rw [hcause, modCore_modCore, runStream_modCore, coreOf_modCore h]
  rfl

theorem illegalWhen_coreInstr {mk : Nat → Nat → Word → Instr} {p : Word → Prop} {legal : Word → Bool} {body : Nat → Nat → Word → State → State}
    (hexec : ∀ n c w s, exec (mk n c w) s = coreInstr n c w (legal w) (body n c w) s) (hlegal : ∀ w, p w → legal w = false) :
    IllegalWhen mk p := by
  intro n c w s h hw
  rw [hexec, coreInstr_illegal h (hlegal w hw)]
  exact ⟨_, rfl, faultsWith_coreFault h.1.1 w rfl⟩

/-! ## Events and the core -/

theorem logEv_modThl (a b c d e g n : Nat) (f : Thallus → Thallus) (s : State) :
    logEv a b c d e g (modThl n f s) = modThl n f (logEv a b c d e g s) := by
  unfold logEv logAt
  rw [modThl_log]
  split <;> rfl

theorem compatOff_modThl (n : Nat) (f : Thallus → Thallus) (s : State) (a : Nat) : compatOff (modThl n f s) a = compatOff s a := by
  unfold compatOff
  rw [target_modThl]
  rfl

/-- The event of an access to an absent unit says nothing of the thalli. -/
theorem absentEv_modThl (ag : Agent) (a n : Nat) (f : Thallus → Thallus) (s : State) :
    absentEv ag a (modThl n f s) = modThl n f (absentEv ag a s) := by
  unfold absentEv
  rw [compatOff_modThl]
  cases compatOff s a with
  | none => cases ag <;> exact logEv_modThl _ _ _ _ _ _ _ _ _
  | some x =>
    have hpower : pwrEv 0xC7 0 0 x a (modThl n f s) = modThl n f (pwrEv 0xC7 0 0 x a s) := logEv_modThl _ _ _ _ _ _ _ _ _
    dsimp only
    rw [hpower]
    cases ag <;> exact logEv_modThl _ _ _ _ _ _ _ _ _

end Sys2Proof.Machine
end

section
/-! Marionette cores (08): scalar floating point (R174), the checks of an address (R171) and the start of a run (R168). -/

namespace Sys2Proof.Machine

open Sys2Proof

/-! ## Scalar floating point (08 R174) -/

theorem scalarOut_fmtOfImm (w : Word) (x : Nat) : scalarOut (fmtOfImm w) x = if bit w 32 then BitVec.ofNat 64 x else widen 32 x := by
  unfold scalarOut fmtOfImm
  cases bit w 32 <;> rfl

/-- A row that is `f` on two patterns of the selected format gives the pattern of that format in rd. -/
theorem completes_floatOp {mk : Nat → Nat → Word → Instr} {f : Fmt → Nat → Nat → Nat}
    (hexec : ∀ n c w s, exec (mk n c w) s = floatOp n c w f s) :
    Completes mk (fun _ => True) fun w k =>
      let t := if bit w 32 then fp64 else fp32
      let x := f t ((k.gR (fA w)).toNat % 2 ^ t.width) ((k.gR (fB w)).toNat % 2 ^ t.width)
      k.gW (fD w) (if bit w 32 then BitVec.ofNat 64 x else widen 32 x) := by
  intro n c w s h _
  rw [hexec]
  unfold floatOp
  rw [regInstr_runs h]
  simp only [scalarOut_fmtOfImm]
  rfl

theorem floatOp_of {mk : Nat → Nat → Word → Instr} {g : Fp → Fp → Fp} (f : Fmt → Nat → Nat → Nat)
    (hexec : ∀ n c w s, exec (mk n c w) s = floatOp n c w f s) (hf : ∀ t a b, f t a b = t.enc .rne (g (t.decode a) (t.decode b))) :
    FloatOp mk g := by
  unfold FloatOp
  simp only [← hf]
  exact completes_floatOp hexec

theorem Fmt.enc_nan (f : Fmt) (r : Rnd) : f.enc r .nan = f.nanBits := rfl

/-- A zero divisor gives an infinity for a value that is not zero (08 R174). -/
theorem Fp.div_zero {m : Nat} (hm : m ≠ 0) (a b : Bool) (e e' : Int) : (Fp.fin a m e).div (.fin b 0 e') = .inf (a != b) := by
  simp [Fp.div, hm]

theorem Fp.sqrt_neg {m : Nat} (hm : m ≠ 0) (e : Int) : (Fp.fin true m e).sqrt = .nan := by
  simp [Fp.sqrt, hm]

theorem Fp.sub_inf_same (a : Bool) : (Fp.inf a).sub (.inf a) = .nan := by cases a <;> rfl

theorem Fp.add_inf_opposite (a : Bool) : (Fp.inf a).add (.inf (!a)) = .nan := by cases a <;> rfl

/-- NaN propagates through every operation of two values. -/
theorem Fp.nan_propagates (x : Fp) : Fp.nan.add x = .nan ∧ x.add .nan = .nan ∧ Fp.nan.sub x = .nan ∧ x.sub .nan = .nan ∧
    Fp.nan.mul x = .nan ∧ x.mul .nan = .nan ∧ Fp.nan.div x = .nan ∧ x.div .nan = .nan := by
  cases x <;> exact ⟨rfl, rfl, rfl, rfl, rfl, rfl, rfl, rfl⟩

theorem nanBits_ieee {f : Fmt} (h : f ∈ [bf16, fp16, fp32, fp64]) : f.nanBits = (2 ^ f.ew - 1) * 2 ^ f.mw + 2 ^ (f.mw - 1) := by
  have hkind : f.kind = .ieee := by
    simp only [List.mem_cons, List.not_mem_nil, or_false] at h
    obtain rfl | rfl | rfl | rfl := h <;> rfl
  simp [Fmt.nanBits, hkind]

/-- Settles O3: each row is one operation on patterns of the selected format; the special operands by the cases of the exact operations. -/
theorem scalarFloatResults : Obligations.ScalarFloatResults := by
  refine ⟨⟨floatOp_of Fmt.addB (fun _ _ _ _ => rfl) (fun _ _ _ => rfl), floatOp_of Fmt.subB (fun _ _ _ _ => rfl) (fun _ _ _ => rfl),
      floatOp_of Fmt.mulB (fun _ _ _ _ => rfl) (fun _ _ _ => rfl), floatOp_of Fmt.divB (fun _ _ _ _ => rfl) (fun _ _ _ => rfl),
      floatOp_of (fun t a _ => t.sqrtB a) (fun _ _ _ _ => rfl) (fun _ _ _ => rfl),
      completes_floatOp (f := fun t => t.minmaxB false) fun _ _ _ _ => rfl, completes_floatOp (f := fun t => t.minmaxB true) fun _ _ _ _ => rfl⟩,
    fun a b m e e' hm => Fp.div_zero hm a b e e', fun a b e e' => rfl, fun a b => rfl, fun a b m e => ⟨rfl, 0, rfl⟩, fun a e => rfl, rfl,
    fun m e hm => Fp.sqrt_neg hm e, rfl, fun a => ⟨Fp.sub_inf_same a, Fp.add_inf_opposite a⟩, fun a b e => ⟨rfl, rfl⟩, Fp.nan_propagates, rfl,
    fun t ht r => ?_⟩
  rw [t.enc_nan, nanBits_ieee ht]

/-! ## Address checks (08 R171) -/

theorem checkAddr_misaligned {a al : Nat} (h : a % al ≠ 0) (n c : Nat) (g : Bool) (len : Nat) : checkAddr n c g a len al = .inl 0x51 := by
  simp [checkAddr, h]

theorem checkAddr_local {a al : Nat} (h : a % al = 0) (n c len : Nat) : checkAddr n c false a len al =
    if a + len ≤ 0x10000 then .inr (scratchBase + 0x80000 * n + 0x10000 * c + a) else .inl 0x52 := by
  simp [checkAddr, h]

/-- Register space and what is no address (07 T7-1). -/
def NotMemory (a : Nat) : Prop := regionOf a = .regs ∨ regionOf a = .reserved

theorem checkAddr_global_fails {a len al : Nat} (h : a % al = 0) (hbad : NotMemory a ∨ NotMemory (a + len - 1)) (n c : Nat) :
    checkAddr n c true a len al = .inl 0x52 := by
  obtain (hr | hr) | (hr | hr) := hbad <;> simp [checkAddr, h, hr]

theorem checkAddr_global_passes {a len al : Nat} (h : a % al = 0) (hfirst : ¬ NotMemory a) (hlast : ¬ NotMemory (a + len - 1)) (n c : Nat) :
    checkAddr n c true a len al = .inr a := by
  simp only [NotMemory, not_or] at hfirst hlast
  simp [checkAddr, h, hfirst, hlast]

theorem notMemory_of_regs {a : Nat} (hlo : regBase ≤ a) (hhi : a < regEnd) : NotMemory a := by
  unfold regBase at hlo
  left
  unfold regionOf hbmEnd nextBase storeBase storeEnd scratchBase scratchEnd regBase
  rw [if_neg (by omega), if_neg (by omega), if_neg (by omega), if_neg (by omega), if_neg (by omega), if_neg (by omega), if_neg (by omega),
    if_pos hhi]

theorem notMemory_of_beyond {a : Nat} (h : 2 ^ 44 ≤ a) : NotMemory a := by
  right
  unfold regionOf hbmEnd nextBase storeBase storeEnd scratchBase scratchEnd regBase regEnd
  rw [if_neg (by omega), if_neg (by omega), if_neg (by omega), if_neg (by omega), if_neg (by omega), if_neg (by omega), if_neg (by omega),
    if_neg (by omega)]

theorem memory_of_lt_storeEnd {a : Nat} (h : a < storeEnd) : ¬ NotMemory a := by
  unfold NotMemory regionOf
  rw [if_pos h]
  split_ifs <;> simp

/-- Settles O12: alignment comes first; the local space by its size, the global one by the regions of both ends. -/
theorem addressChecksOfAccesses : Obligations.AddressChecksOfAccesses := by
  intro n c a len al hlen
  refine ⟨fun h g => checkAddr_misaligned h n c g len, fun h => ⟨fun hin => ?_, fun hout => ?_, fun hbeyond => ?_, fun hlo hhi => ?_, fun hin => ?_⟩⟩
  · rw [checkAddr_local h, if_pos hin]
    rfl
  · rw [checkAddr_local h, if_neg (by omega)]
  · exact checkAddr_global_fails h (.inl (notMemory_of_beyond hbeyond)) n c
  · exact checkAddr_global_fails h (.inl (notMemory_of_regs hlo hhi)) n c
  · exact checkAddr_global_passes h (memory_of_lt_storeEnd (show a < 0x010090000000 by omega))
      (memory_of_lt_storeEnd (show a + len - 1 < 0x010090000000 by omega)) n c

/-! ## The start of a run (08 R168) -/

theorem popCount_ofNat (mask : Nat) : popCount (BitVec.ofNat 8 mask) = ((List.range 8).filter fun i => mask.testBit i).length := by
  unfold popCount
  congr 1
  refine List.filter_congr fun i hi => ?_
  rw [BitVec.getLsbD_ofNat, decide_eq_true (List.mem_range.1 hi), Bool.true_and]

/-- The registers g0 and g7 to g31 of a core that starts. -/
theorem start_gR_zero (n c mask arg entry step : Nat) (k : Core) {i : Nat} (h : i = 0 ∨ 6 < i) :
    (k.start n c mask arg entry step).gR i = 0 := by
  obtain rfl | h := h
  · rfl
  · obtain ⟨j, rfl⟩ : ∃ j, i = j + 7 := ⟨i - 7, by omega⟩
    show (List.replicate 25 0).getD j 0 = (0 : Word)
    rw [List.getD_eq_getElem?_getD, List.getElem?_getD_replicate_default_eq]

theorem start_vR (n c mask arg entry step : Nat) (k : Core) (i : Nat) : (k.start n c mask arg entry step).vR i = 0 := by
  unfold Core.vR Core.start
  rw [List.getD_eq_getElem?_getD, List.getElem?_getD_replicate_default_eq]
  exact BitVec.toNat_zero

theorem start_pR (n c mask arg entry step : Nat) (k : Core) {i : Nat} (h : i ≠ 0) : (k.start n c mask arg entry step).pR i = 0 := by
  unfold Core.pR Core.start
  rw [if_neg (by simpa using h), List.getD_eq_getElem?_getD, List.getElem?_getD_replicate_default_eq]
  exact BitVec.toNat_zero

/-- Settles O27: register by register; g6 counts the ones of the mask. -/
theorem coresStartWithTheRunsRegisters : Obligations.CoresStartWithTheRunsRegisters := by
  intro n c mask arg entry step k _
  exact ⟨rfl, rfl, rfl, rfl, rfl, rfl, congrArg (BitVec.ofNat 64) (popCount_ofNat mask), fun _ _ h => start_gR_zero n c mask arg entry step k h,
    start_vR n c mask arg entry step k, fun i => start_pR n c mask arg entry step k, rfl, rfl, rfl⟩

end Sys2Proof.Machine
end

section
/-! Marionette cores (08): faults before any effect (R189), pegs, descriptors and fences (R172, R187, R188), the end of a run (R170). -/

namespace Sys2Proof.Machine

open Sys2Proof

/-! ## Faults of loads and stores (08 R171, R189) -/

theorem loadOp_fails {n c bytes al cause : Nat} {w : Word} {t : State} (f : List Byte → Core → Core)
    (h : checkAddr n c (fGsp w) (effAddr ((coreOf t n c).gR (fA w)) (fImm w)) bytes al = .inl cause) :
    loadOp n c w bytes al f t = coreFault n c cause w t := by
  unfold loadOp
  dsimp only
  rw [h]

theorem storeOp_fails {n c bytes al cause : Nat} {w : Word} {t : State} (gs : Core → List (Nat × List Byte))
    (h : checkAddr n c (fGsp w) (effAddr ((coreOf t n c).gR (fA w)) (fImm w)) bytes al = .inl cause) :
    storeOp n c w bytes al gs t = coreFault n c cause w t := by
  unfold storeOp
  dsimp only
  rw [h]

/-- A row whose body faults with the cause of a failing address faults with it before any effect. -/
theorem faultOp_of {mk : Nat → Nat → Word → Instr} {ok : Word → Prop} {bytes al : Word → Nat} {legal : Word → Bool}
    {body : Nat → Nat → Word → State → State} (hexec : ∀ n c w s, exec (mk n c w) s = coreInstr n c w (legal w) (body n c w) s)
    (hlegal : ∀ w, ok w → legal w = true)
    (hbody : ∀ n c w t cause, checkAddr n c (fGsp w) (effAddr ((coreOf t n c).gR (fA w)) (fImm w)) (bytes w) (al w) = .inl cause →
      body n c w t = coreFault n c cause w t) : FaultOp mk ok bytes al := by
  intro n c w s cause h hok haddr hcause
  have hclass : classOf cause = 3 := by obtain rfl | rfl := hcause <;> rfl
  rw [hexec, coreInstr_legal h (hlegal w hok), hbody n c w _ cause (by rw [coreOf_modCore h.1.1]; exact haddr)]
  exact ⟨_, rfl, faultsWith_coreFault h.1.1 w hclass⟩

/-! ## A fetch from an absent unit (00 R4, 08 R169) -/

theorem fetchFail_absent {n c : Nat} {t : State} (h : resolve t (coreOf t n c).pc = none) :
    fetchFail n c t = coreFault n c 0x50 0 (absentEv (coreAgent t n c 0) (coreOf t n c).pc t) := by
  unfold fetchFail
  dsimp only
  rw [h]

theorem coreInstr_absent {n c : Nat} {w : Word} {s : State} (h : CoreAt s n c) (hpc : resolve s (coreOf s n c).pc = none) (legal : Bool)
    (body : State → State) :
    let t := modCore n c (Core.taking w) s
    coreInstr n c w legal body s = .next (coreFault n c 0x50 0 (absentEv (coreAgent t n c 0) (coreOf s n c).pc t)) := by
  have htaken : coreOf (modCore n c (Core.taking w) s) n c = (coreOf s n c).taking w := coreOf_modCore h.1 _
  have hunit : resolve (modCore n c (Core.taking w) s) (coreOf (modCore n c (Core.taking w) s) n c).pc = none := by
    rw [htaken]
    exact (resolve_modThl _ _ _ _).trans hpc
  have hfetch : fetchOk (modCore n c (Core.taking w) s) n c = false := by
    unfold fetchOk
    rw [hunit]
  unfold coreInstr
  rw [h.1, h.2.1, coreStep_runs h, need_true, hfetch]
  exact congrArg Host.Outcome.next ((if_pos rfl).trans (by rw [fetchFail_absent hunit, htaken]; rfl))

/-! ## Illegal words (08 R173) -/

theorem cvtLegal_false {w : Word} (h : field w 45 44 = 3 ∨ fFa w = 0x0E ∨ (fFa w = 0x0D ∧ fA w % 2 = 1)) : cvtLegal w = false := by
  obtain h | h | ⟨h, hodd⟩ := h
  · simp [cvtLegal, h]
  · simp [cvtLegal, h, isReserved]
  · simp [cvtLegal, h, hodd]

theorem vkindOf_none {w : Word} (h : fFb w = 0x1F ∨ fFb w = 0x0E) : vkindOf w = none := by
  obtain h | h := h <;> simp [vkindOf, h]

theorem illegalWhen_vadd : IllegalWhen .vadd (fun w => fFb w = 0x1F ∨ fFb w = 0x0E) := by
  intro n c w s h hw
  have hexec : exec (.vadd n c w) s = vecArith n c w Fmt.addB (some fun e a b => (a + b) % 2 ^ e) s := rfl
  rw [hexec]
  unfold vecArith regInstr
  rw [coreInstr_illegal h (by rw [vkindOf_none hw])]
  exact ⟨_, rfl, faultsWith_coreFault h.1.1 w rfl⟩

/-- Settles O13: the loads and stores by the outcome of their address check, the other rows by their check of the word. -/
theorem coreFaultsBeforeAnyEffect : Obligations.CoreFaultsBeforeAnyEffect := by
  have hnone {w : Word} (h : fMpg w = 0) : (fMpg w == 0) = true := by simpa using h
  refine ⟨faultOp_of (fun _ _ _ _ => rfl) (fun _ => hnone) fun _ _ _ _ _ => loadOp_fails _,
    faultOp_of (fun _ _ _ _ => rfl) (fun _ => hnone) fun _ _ _ _ _ => storeOp_fails _,
    faultOp_of (fun _ _ _ _ => rfl) (fun _ => hnone) fun _ _ _ _ _ => loadOp_fails _,
    faultOp_of (fun _ _ _ _ => rfl) (fun _ _ => rfl) fun _ _ _ _ _ => storeOp_fails _,
    faultOp_of (fun _ _ _ _ => rfl) (fun _ => hnone) fun _ _ _ _ _ => loadOp_fails _,
    faultOp_of (fun _ _ _ _ => rfl) (fun _ _ => rfl) fun _ _ _ _ _ => storeOp_fails _,
    illegalWhen_coreInstr (fun _ _ _ _ => rfl) fun w h => by simpa using h,
    illegalWhen_coreInstr (fun _ _ _ _ => rfl) fun w h => by simpa using h,
    illegalWhen_vadd,
    illegalWhen_coreInstr (fun _ _ _ _ => rfl) fun w h => by simpa using h,
    illegalWhen_coreInstr (fun _ _ _ _ => rfl) fun w => cvtLegal_false,
    illegalWhen_coreInstr (fun _ _ _ _ => rfl) fun w h => by simp [h.1, h.2],
    illegalWhen_coreInstr (fun _ _ _ _ => rfl) fun w h => by simp [scaddLegal, h],
    illegalWhen_coreInstr (fun _ _ _ _ => rfl) fun w h => by simp [scaddLegal, h],
    illegalWhen_coreInstr (fun _ _ _ _ => rfl) fun w h => by simp [segKind, h],
    fun n c w s h hpc i hi => ?_⟩
  simp only [List.mem_cons, List.not_mem_nil, or_false] at hi
  obtain rfl | rfl | rfl | rfl | rfl := hi <;> exact coreInstr_absent h hpc _ _

/-! ## Pegs of the cores (08 R187) -/

theorem quiet_of {s : State} {n c : Nat} (h : (∀ d ∈ dmaOf s n 3, d.core ≠ some c) ∧ (coreOf s n c).dmaLost = false) :
    coreQuiet s n c = true := quiet_iff.2 h

theorem not_quiet_of {s : State} {n c : Nat} (h : ∃ d ∈ dmaOf s n 3, d.core = some c) : coreQuiet s n c = false := by
  obtain ⟨d, hd, hc⟩ := h
  rw [Bool.eq_false_iff, ne_eq, quiet_iff]
  exact fun hquiet => hquiet.1 d hd hc

theorem execMpegpost_posts {n c : Nat} {w : Word} {s : State} (h : CoreRuns s n c)
    (hfence : bit w 14 = false ∨ ((∀ d ∈ dmaOf s n 3, d.core ≠ some c) ∧ (coreOf s n c).dmaLost = false))
    (hthl : postTarget n w < s.thl.length) : execMpegpost n c w s =
      .next (classed (postPeg (postTarget n w) (field w 13 8) (field w 63 32) 5 3 0 (modCore n c (Core.after w id) s))) := by
  have hfree : (bit w 14 && !coreQuiet (modCore n c (Core.taking w) s) n c) = false := by
    rw [quiet_taking h.1.1]
    obtain hb | hq := hfence
    · rw [hb]; rfl
    · rw [quiet_of hq]; simp
  have hpresent : postTarget n w < (modCore n c (Core.taking w) s).thl.length := by
    rwa [modCore, length_modThl]
  unfold execMpegpost
  rw [coreInstr_legal h rfl, hfree]
  dsimp only
  rw [if_neg Bool.false_ne_true]
  exact congrArg Host.Outcome.next ((if_pos hpresent).trans (by rw [core_next]; rfl))

/-- The value that an MPEGWAIT waits for. -/
def waitTargetOf (w : Word) (k : Core) : Nat := if bit w 14 then (k.gR (field w 36 32)).toNat % 2 ^ 32 else field w 63 32

theorem waitTargetOf_lt (w : Word) (k : Core) : waitTargetOf w k < 2 ^ 32 := by
  unfold waitTargetOf
  split <;> exact Nat.mod_lt _ (by decide)

theorem waitTarget_eq (w : Word) (k : Core) : (if bit w 14 then (k.gR (field w 36 32)).setWidth 32 else BitVec.ofNat 32 (field w 63 32) : W32) =
    BitVec.ofNat 32 (waitTargetOf w k) := by
  unfold waitTargetOf
  split
  · exact BitVec.eq_of_toNat_eq (by simp)
  · rfl

theorem pegOf_modCore (n c : Nat) (f : Core → Core) (s : State) (m p : Nat) : pegOf (modCore n c f s) m p = pegOf s m p :=
  thlOf_modThl_any n _ s m (fun t => (t.peg.getD p 0).toNat) fun _ => rfl

/-- MPEGWAIT goes on where its peg has reached the target, and waits otherwise. -/
theorem execMpegwait_eq {n c : Nat} {w : Word} {s : State} (h : CoreRuns s n c) : execMpegwait n c w s =
    .next (if waitTargetOf w (coreOf s n c) ≤ pegOf s n (field w 13 8) then modCore n c (Core.after w id) s
      else modCore n c (fun k => { k.taking w with
        state := .pegWait, waitPeg := BitVec.ofNat 6 (field w 13 8), waitTarget := BitVec.ofNat 32 (waitTargetOf w (coreOf s n c))
        waitTimer := if field w 31 16 = 0 then none else some (1000 * field w 31 16), cntInstr := satAdd k.cntInstr 1 }) s) := by
  have hval : (BitVec.ofNat 32 (waitTargetOf w (coreOf s n c))).toNat = waitTargetOf w (coreOf s n c) := by
    rw [BitVec.toNat_ofNat, Nat.mod_eq_of_lt (waitTargetOf_lt _ _)]
  unfold execMpegwait
  rw [coreInstr_legal h rfl, coreOf_modCore h.1.1]
  simp only [Core.taking_gR, waitTarget_eq, hval, pegOf_modCore, core_next, modCore_modCore, beq_iff_eq]
  rfl

theorem execMpegwaitTimeout_faults {n c : Nat} {s : State} (h : hasCore s n c = true) (hst : (coreOf s n c).state = .pegWait)
    (htimer : (coreOf s n c).waitTimer = some 0) (hmode : (coreOf s n c).dbg.mode ≠ 2) : execMpegwaitTimeout n c s =
      .next (settle (recordClass 1 0x53 (logEv 8 1 0x53 (engW0 n 0 (runStream s n c) c false) (coreOf s n c).pc (coreOf s n c).instr.toNat
        (modCore n c (fun k => { k with state := .faulted, cause := 0x53, waitTimer := none, waitPeg := 0 }) s)))) := by
  refine (need_next h (by simp [hst, htimer, halted_of_mode hmode]) _).trans ?_
  unfold coreFault coreEv
  rw [runStream_modCore, coreOf_modCore h]
  rfl

/-! ## Fences and descriptors (08 R172, R188) -/

theorem execFence_goes {n c : Nat} {w : Word} {s : State} (h : CoreRuns s n c) (hquiet : coreQuiet s n c = true) :
    execFence n c w s = .next (modCore n c (Core.after w id) s) := by
  unfold execFence
  rw [coreInstr_legal h rfl, quiet_taking h.1.1, hquiet, if_pos rfl, core_next]

theorem execFence_holds {n c : Nat} {w : Word} {s : State} (h : CoreRuns s n c) (hquiet : coreQuiet s n c = false) :
    execFence n c w s = .next (modCore n c (fun k => { k.taking w with state := .held }) s) := by
  unfold execFence
  rw [coreInstr_legal h rfl, quiet_taking h.1.1, hquiet, if_neg Bool.false_ne_true, core_hold]

theorem modCore_modThl {n c : Nat} {f : Core → Core} {g : Thallus → Thallus} (s : State)
    (hcomm : ∀ h : Thallus, { g h with core := (g h).core.modify c f } = g { h with core := h.core.modify c f }) :
    modCore n c f (modThl n g s) = modThl n g (modCore n c f s) := by
  unfold modCore
  rw [modThl_modThl, modThl_modThl]
  exact congrArg (fun k => modThl n k s) (funext hcomm)

theorem execMdma_queues {n c : Nat} {w : Word} {s : State} (h : CoreRuns s n c) (hroom : (dmaOf s n 3).length < 16) :
    execMdma n c w s = .next (modDma n 3 (fun q => q ++ [{ addr := ((coreOf s n c).gR (fA w)).toNat, core := some c }])
      (modCore n c (Core.after w id) s)) := by
  unfold execMdma
  rw [coreInstr_legal h rfl, dmaOf_modCore, if_neg (by omega), coreOf_modCore h.1.1]
  unfold coreNext modDma
  rw [modCore_modThl _ fun _ => rfl, modCore_modCore]
  rfl

theorem execMdma_holds {n c : Nat} {w : Word} {s : State} (h : CoreRuns s n c) (hfull : 16 ≤ (dmaOf s n 3).length) :
    execMdma n c w s = .next (modCore n c (fun k => { k.taking w with state := .held }) s) := by
  unfold execMdma
  rw [coreInstr_legal h rfl, dmaOf_modCore, if_pos hfull, core_hold]

theorem execTimerd_reads {n c : Nat} {w : Word} {s : State} (h : CoreRuns s n c) :
    execTimerd n c w s = .next (modCore n c (Core.after w fun k => k.gW (fD w) s.time.now) s) := by
  unfold execTimerd
  rw [coreInstr_legal h rfl, core_next]
  rfl

/-- Settles O22: each row by the two outcomes of its test. -/
theorem corePegsAndFences : Obligations.CorePegsAndFences := by
  refine ⟨fun n c w s h hfence hthl => execMpegpost_posts h hfence hthl, fun n c w s h => ⟨fun hreached => ?_, fun hbelow => ?_⟩,
    fun n c s h hst htimer hmode => execMpegwaitTimeout_faults h hst htimer hmode,
    fun n c w s h => ⟨fun hd hlost => execFence_goes h (quiet_of ⟨hd, hlost⟩), fun hd => execFence_holds h (not_quiet_of hd)⟩,
    fun n c w s h => ⟨execMdma_queues h, execMdma_holds h⟩, fun n c w s h => execTimerd_reads h⟩
  · exact (execMpegwait_eq h).trans (congrArg Host.Outcome.next (if_pos hreached))
  · exact (execMpegwait_eq h).trans (congrArg Host.Outcome.next (if_neg (Nat.not_le.2 hbelow)))

/-! ## The end of a core (08 R170) -/

/-- Refutes O21: a core that the debug port has halted while it stops (16 R344) does not end its run, so CORE_RUN_END is refused, where
the second clause lets every stopping core end once its work is done. -/
theorem not_runsEndWhenTheirCoresHave : ¬ Obligations.RunsEndWhenTheirCoresHave := by
  rintro ⟨-, hend, -⟩
  let k : Core := { state := .stopping, dbg := { mode := 2 } }
  let s : State := { State.reset with thl := [{ core := List.replicate 8 k, runs := [{ mask := 0xFF, ended := 0x7F }] }] }
  have hrefused : exec (.coreRunEnd 0 7) s = .refused .notEnabled := rfl
  have hends := hend 0 7 s (by decide) (by decide) (by decide) (by decide) (by decide) (by decide)
  rw [hrefused] at hends
  nomatch hends

end Sys2Proof.Machine
end

section
/-! Marionette cores (08): loads and stores (R171, R172), scatter, scatter-add and its contributions (R179 to R183), the barrier (R182). -/

namespace Sys2Proof.Machine

open Sys2Proof

/-! ## Bytes of a number -/

@[simp] theorem bytesOf_length (k x : Nat) : (bytesOf k x).length = k := by
  induction k generalizing x with
  | zero => rfl
  | succ k ih => simp [bytesOf, ih]

theorem bytesOf_getD {k i : Nat} (h : i < k) (x : Nat) : (bytesOf k x).getD i 0 = BitVec.ofNat 8 (x / 256 ^ i) := by
  induction k generalizing x i with
  | zero => omega
  | succ k ih =>
    cases i with
    | zero => simp [bytesOf]
    | succ i =>
      rw [bytesOf, List.getD_cons_succ, ih (by omega), Nat.div_div_eq_div_mul, Nat.pow_succ']

theorem natOf_zeros (n : Nat) : natOf (List.replicate n 0) = 0 := by
  induction n with
  | zero => rfl
  | succ n ih => rw [List.replicate_succ, natOf, ih]; rfl

theorem gets_four (m : Mem) (a : Nat) : m.gets a 4 = getsOf m.bytes a 4 := rfl

/-! ## Sizes and alignment -/

theorem fSize_dvd (w : Word) : fSize w ∣ 64 := by
  have h : field w 23 22 < 4 := Nat.mod_lt _ (by decide)
  exact Nat.pow_dvd_pow (n := 6) 2 (by omega)

theorem fSize_pos (w : Word) : 0 < fSize w := Nat.two_pow_pos _

/-- Where an access fits between two multiples of its size, it lies in one line. -/
theorem line_of_aligned {a k : Nat} (hk : k ∣ 64) (ha : a % k = 0) : a % 64 + k ≤ 64 := by
  obtain ⟨i, hi⟩ := (Nat.dvd_mod_iff hk).2 (Nat.dvd_of_mod_eq_zero ha)
  obtain ⟨j, hj⟩ := hk
  have hlt : k * i < k * j := by rw [← hi, ← hj]; exact Nat.mod_lt _ (by decide)
  calc a % 64 + k = k * (i + 1) := by rw [hi, Nat.mul_succ]
    _ ≤ k * j := Nat.mul_le_mul_left k (Nat.lt_of_mul_lt_mul_left hlt)
    _ = 64 := hj.symm

/-- The device address of an access has its alignment. -/
theorem checkAddr_aligned {n c a len al d : Nat} {g : Bool} (h : checkAddr n c g a len al = .inr d) (hal : al ∣ 64) : d % al = 0 := by
  by_cases ha : a % al = 0
  · cases g with
    | true =>
      by_cases hbad : NotMemory a ∨ NotMemory (a + len - 1)
      · rw [checkAddr_global_fails ha hbad] at h
        nomatch h
      · rw [not_or] at hbad
        rw [checkAddr_global_passes ha hbad.1 hbad.2] at h
        cases h
        exact ha
    | false =>
      rw [checkAddr_local ha] at h
      split at h
      · cases h
        obtain ⟨q, hq⟩ := hal
        have hbase : scratchBase + 0x80000 * n + 0x10000 * c = al * (q * (0x7C0000000 + 0x2000 * n + 0x400 * c)) := by
          rw [← Nat.mul_assoc, ← hq]; unfold scratchBase; omega
        rw [hbase, Nat.mul_add_mod, ha]
      · nomatch h
  · rw [checkAddr_misaligned ha] at h
    nomatch h

/-! ## Loads (08 R171) -/

theorem readsAs_modCore {n c : Nat} {f : Core → Core} {s : State} {a k : Nat} {bs : List Byte} (h : ReadsAs s a k bs) :
    ReadsAs (modCore n c f s) a k bs :=
  ⟨h.1, fun i hi => by
    obtain ⟨p, hp, hbad, hget⟩ := h.2 i hi
    exact ⟨p, (resolve_modThl _ _ _ _).trans hp, hbad, hget⟩⟩

/-- Within one line an absent unit reads as zeros, with one event (00 R4). -/
theorem readMem_absent {s : State} {ag : Agent} {a n : Nat} (h : resolve s a = none) (hn : 0 < n) (hl : a % 64 + n ≤ 64) :
    readMem ag a n s = (absentEv ag a s, some (List.replicate n 0)) := by
  have hfirst : min n (64 - a % 64) = n := Nat.min_eq_left (by omega)
  have hpiece : readPiece ag a n s = (absentEv ag a s, some (List.replicate n 0)) := by
    unfold readPiece
    rw [h]
  have hrest (fuel : Nat) (t : State) : readGo ag fuel (a + n) (n - n) t = (t, some []) := by
    cases fuel <;> simp [readGo]
  unfold readMem readGo
  rw [if_neg (by simpa using hn.ne')]
  dsimp only
  rw [hfirst, hpiece]
  dsimp only
  rw [hrest]
  dsimp only
  rw [List.append_nil]

/-- A row that gives the number of its bytes to the core loads as the spec says. -/
theorem loadOp_of {mk : Nat → Nat → Word → Instr} {bytes al : Word → Nat} {f : Word → Nat → Core → Core}
    (hexec : ∀ n c w s, exec (mk n c w) s = coreInstr n c w (fMpg w == 0) (loadOp n c w (bytes w) (al w) fun bs => f w (natOf bs)) s)
    (hsize : ∀ w, bytes w ≤ 64 → 0 < bytes w ∧ bytes w ∣ 64 ∧ al w = bytes w) : LoadOp mk bytes al f := by
  intro n c w s a h hpred haddr
  have haddr' : checkAddr n c (fGsp w) (effAddr ((coreOf (modCore n c (Core.taking w) s) n c).gR (fA w)) (fImm w)) (bytes w) (al w) = .inr a := by
    rw [coreOf_modCore h.1.1]; exact haddr
  have hagent : coreAgent (modCore n c (Core.taking w) s) n c w = coreAgent s n c w := coreAgent_modCore h.1.1 (Core.taking_pc w) w
  rw [hexec, coreInstr_legal h (by simpa using hpred)]
  unfold loadOp
  dsimp only
  rw [haddr', hagent]
  dsimp only
  refine ⟨fun bs hreads => ?_, fun hsmall habsent => ?_⟩
  · rw [readMem_as (readsAs_modCore hreads)]
    dsimp only
    rw [core_next]
  · obtain ⟨hpos, hdvd, hal⟩ := hsize w hsmall
    have haligned : a % bytes w = 0 := hal ▸ checkAddr_aligned haddr (hal ▸ hdvd)
    rw [readMem_absent (s := modCore n c (Core.taking w) s) ((resolve_modThl _ _ _ _).trans habsent) hpos (line_of_aligned hdvd haligned)]
    dsimp only
    rw [natOf_zeros, modCore, absentEv_modThl]
    exact congrArg (fun t => Host.Outcome.next (classed t)) (core_next n c w _ _)

/-- Settles O10: each load by what its read finds. -/
theorem loadsGiveMemory : Obligations.LoadsGiveMemory := by
  refine ⟨loadOp_of (fun n c w s => ?_) fun w _ => ⟨fSize_pos w, fSize_dvd w, rfl⟩,
    loadOp_of (fun _ _ _ _ => rfl) fun _ h => absurd h (by decide), loadOp_of (fun _ _ _ _ => rfl) fun _ _ => by decide⟩
  show execLd n c w s = _
  unfold execLd
  simp only [beq_iff_eq]

/-! ## Stores to plain memory (08 R171) -/

/-- Steps that each only store bytes, whatever the bytes of memory, store them one after the other. -/
theorem foldl_withBytes {α : Type} {step : State → α → State} {put : Sparse 8 → α → Sparse 8} {xs : List α} {s : State}
    (h : ∀ m, ∀ x ∈ xs, step (withBytes m s) x = withBytes (put m x) s) :
    xs.foldl step s = withBytes (xs.foldl put s.mem.bytes) s := by
  have key (m : Sparse 8) : xs.foldl step (withBytes m s) = withBytes (xs.foldl put m) s := by
    induction xs generalizing m with
    | nil => rfl
    | cons x xs ih =>
      rw [List.foldl_cons, List.foldl_cons, h m x (List.mem_cons_self ..)]
      exact ih (fun m y hy => h m y (List.mem_cons_of_mem _ hy)) _
  exact key s.mem.bytes

/-- Groups of bytes stored at their offsets from an address. -/
def storeRuns (a : Nat) (gs : List (Nat × List Byte)) (m : Sparse 8) : Sparse 8 := gs.foldl (fun m g => Sparse.sets m (a + g.1) g.2) m

theorem plain_sub {s : State} {a len o k : Nat} (h : Plain s a len) (hk : o + k ≤ len) : Plain s (a + o) k := by
  intro i hi
  rw [Nat.add_assoc]
  exact h (o + i) (by omega)

theorem plain_modThl {n : Nat} {f : Thallus → Thallus} {s : State} {a k : Nat} (h : Plain s a k) : Plain (modThl n f s) a k := fun i hi => by
  obtain ⟨hcur, hnxt, hres, hbad⟩ := h i hi
  exact ⟨hcur, hnxt, (resolve_modThl _ _ _ _).trans hres, hbad⟩

theorem plain_modCore {n c : Nat} {f : Core → Core} {s : State} {a k : Nat} (h : Plain s a k) : Plain (modCore n c f s) a k := plain_modThl h

theorem writeMem_withBytes {s : State} {a : Nat} {bs : List Byte} (h : Plain s a bs.length) (ag : Agent) (m : Sparse 8) :
    writeMem ag a bs (withBytes m s) = withBytes (Sparse.sets m a bs) s :=
  writeMem_plain (s := withBytes m s) h

/-- A row that stores groups of bytes within its access stores as the spec says. -/
theorem storeOp_of {mk : Nat → Nat → Word → Instr} {ok : Word → Prop} {bytes al : Word → Nat} {legal : Word → Bool}
    {gs : Word → Core → List (Nat × List Byte)} {f : Word → Core → Nat → Option Byte}
    (hexec : ∀ n c w s, exec (mk n c w) s = coreInstr n c w (legal w) (storeOp n c w (bytes w) (al w) (gs w)) s)
    (hlegal : ∀ w, ok w → legal w = true) (htaking : ∀ w k, gs w (k.taking w) = gs w k)
    (hwithin : ∀ w k, ∀ g ∈ gs w k, g.1 + g.2.length ≤ bytes w)
    (hget : ∀ w k a m x, Sparse.wf m = true → Sparse.get (storeRuns a (gs w k) m) x =
      if a ≤ x ∧ x < a + bytes w then (f w k (x - a)).getD (Sparse.get m x) else Sparse.get m x) : StoreOp mk ok bytes al f := by
  intro n c w s a h hok haddr hplain hwf
  have haddr' : checkAddr n c (fGsp w) (effAddr ((coreOf (modCore n c (Core.taking w) s) n c).gR (fA w)) (fImm w)) (bytes w) (al w) = .inr a := by
    rw [coreOf_modCore h.1.1]; exact haddr
  refine ⟨storeRuns a (gs w (coreOf s n c)) s.mem.bytes, ?_, fun x => hget w (coreOf s n c) a s.mem.bytes x hwf⟩
  rw [hexec, coreInstr_legal h (hlegal w hok)]
  unfold storeOp
  dsimp only
  rw [haddr', coreOf_modCore h.1.1, htaking]
  dsimp only
  rw [foldl_withBytes (put := fun m g => Sparse.sets m (a + g.1) g.2) fun m g hg =>
    writeMem_withBytes (plain_modCore (plain_sub hplain (hwithin w _ g hg))) _ m]
  exact congrArg (fun t => Host.Outcome.next (classed t)) (core_next n c w id (withBytes (storeRuns a (gs w (coreOf s n c)) s.mem.bytes) s))

theorem get_storeRuns_one {a x : Nat} {bs : List Byte} {m : Sparse 8} (h : m.wf = true) :
    Sparse.get (storeRuns a [(0, bs)] m) x = if a ≤ x ∧ x < a + bs.length then bs.getD (x - a) 0 else Sparse.get m x :=
  Sparse.get_sets h

/-! ## Runs of active elements (08 T8-2) -/

/-- The runs of a list of elements store its first element, where that is active, and then those of the rest. -/
theorem storeRuns_activeRuns {sz : Nat} {bs : List Byte} (hlen : sz ≤ bs.length) (a pred i fuel : Nat) (m : Sparse 8) :
    storeRuns a (activeRuns sz pred i (fuel + 1) bs) m = storeRuns a (activeRuns sz pred (i + 1) fuel (bs.drop sz))
      (if pred.testBit i then Sparse.sets m (a + i * sz) (bs.take sz) else m) := by
  rw [activeRuns]
  by_cases hactive : pred.testBit i
  · rw [if_pos hactive, if_pos hactive]
    cases activeRuns sz pred (i + 1) fuel (bs.drop sz) with
    | nil => rfl
    | cons g rest =>
      obtain ⟨o, cs⟩ := g
      dsimp only
      split
      next hjoin =>
        have ho : o = (i + 1) * sz := by simpa using hjoin
        have hend : a + i * sz + (bs.take sz).length = a + o := by rw [List.length_take, Nat.min_eq_left hlen, ho, Nat.succ_mul]; omega
        unfold storeRuns
        rw [List.foldl_cons, List.foldl_cons, sets_append, hend]
      · rfl
  · rw [if_neg hactive, if_neg hactive]

theorem activeRuns_within {sz fuel i : Nat} {bs : List Byte} (hlen : bs.length = fuel * sz) (pred : Nat) :
    ∀ g ∈ activeRuns sz pred i fuel bs, g.1 + g.2.length ≤ i * sz + bs.length := by
  induction fuel generalizing i bs with
  | zero => intro g hg; nomatch hg
  | succ fuel ih =>
    rw [Nat.succ_mul] at hlen
    have hrest : ∀ g ∈ activeRuns sz pred (i + 1) fuel (bs.drop sz), g.1 + g.2.length ≤ i * sz + bs.length := fun g hg => by
      have := ih (by rw [List.length_drop]; omega) g hg
      rw [List.length_drop, Nat.succ_mul] at this
      omega
    have htake : (bs.take sz).length = sz := by rw [List.length_take]; omega
    unfold activeRuns
    split
    · split
      next o cs rest heq =>
        rw [heq] at hrest
        have hhead : o + cs.length ≤ i * sz + bs.length := hrest (o, cs) (List.mem_cons_self ..)
        split
        next hjoin =>
          have ho : o = (i + 1) * sz := by simpa using hjoin
          rw [ho, Nat.succ_mul] at hhead
          refine List.forall_mem_cons.2 ⟨?_, fun g hg => hrest g (List.mem_cons_of_mem _ hg)⟩
          rw [List.length_append, htake]
          omega
        · exact List.forall_mem_cons.2 ⟨by rw [htake]; omega, hrest⟩
      · exact List.forall_mem_cons.2 ⟨by rw [htake]; omega, fun g hg => nomatch hg⟩
    · exact hrest

/-- A byte holds what was stored where its element is active, and what it held elsewhere. -/
theorem get_activeRuns {sz fuel i : Nat} {bs : List Byte} {m : Sparse 8} (hsz : 0 < sz) (hlen : bs.length = fuel * sz) (hwf : m.wf = true)
    (a pred x : Nat) : Sparse.get (storeRuns a (activeRuns sz pred i fuel bs) m) x =
      if a + i * sz ≤ x ∧ x < a + i * sz + bs.length ∧ pred.testBit (i + (x - (a + i * sz)) / sz) then bs.getD (x - (a + i * sz)) 0
      else Sparse.get m x := by
  induction fuel generalizing i bs m with
  | zero =>
    rw [if_neg (by rw [hlen]; omega)]
    rfl
  | succ fuel ih =>
    rw [Nat.succ_mul] at hlen
    have hwf' : Sparse.wf (if pred.testBit i then Sparse.sets m (a + i * sz) (bs.take sz) else m) = true := by
      split
      · exact Sparse.sets_wf hwf
      · exact hwf
    have hnext : a + (i + 1) * sz = a + i * sz + sz := by rw [Nat.succ_mul]; omega
    have htake : (bs.take sz).length = sz := by rw [List.length_take]; omega
    rw [storeRuns_activeRuns (by omega), ih (by rw [List.length_drop]; omega) hwf', hnext, List.length_drop]
    generalize a + i * sz = b
    by_cases hin : b + sz ≤ x ∧ x < b + bs.length
    · -- a byte of a later element
      have hindex : i + (x - b) / sz = i + 1 + (x - (b + sz)) / sz := by
        rw [show x - b = x - (b + sz) + sz by omega, Nat.add_div_right _ hsz]; omega
      have hgetD : (bs.drop sz).getD (x - (b + sz)) 0 = bs.getD (x - b) 0 := by
        rw [List.getD_eq_getElem?_getD, List.getElem?_drop, ← List.getD_eq_getElem?_getD]; congr 1; omega
      have hkeeps : Sparse.get (if pred.testBit i then Sparse.sets m b (bs.take sz) else m) x = Sparse.get m x := by
        split
        · rw [Sparse.get_sets hwf, if_neg (by omega)]
        · rfl
      rw [hindex, hgetD, hkeeps]
      exact if_congr (by constructor <;> (rintro ⟨_, _, h⟩; exact ⟨by omega, by omega, h⟩)) rfl rfl
    · rw [if_neg (fun h => hin ⟨h.1, by omega⟩)]
      by_cases hfirst : b ≤ x ∧ x < b + sz
      · -- a byte of the first element
        have hindex : i + (x - b) / sz = i := by rw [Nat.div_eq_of_lt (by omega), Nat.add_zero]
        have hgetD : (bs.take sz).getD (x - b) 0 = bs.getD (x - b) 0 := by
          rw [List.getD_eq_getElem?_getD, List.getElem?_take_of_lt (by omega), ← List.getD_eq_getElem?_getD]
        rw [hindex]
        by_cases hactive : pred.testBit i
        · rw [if_pos hactive, Sparse.get_sets hwf, htake, if_pos hfirst, if_pos ⟨hfirst.1, by omega, hactive⟩, hgetD]
        · rw [if_neg hactive, if_neg (fun h => hactive h.2.2)]
      · have hout : ¬ (b ≤ x ∧ x < b + bs.length) := by omega
        rw [if_neg (fun h : b ≤ x ∧ x < b + bs.length ∧ _ => hout ⟨h.1, h.2.1⟩)]
        split
        · rw [Sparse.get_sets hwf, htake, if_neg hfirst]
        · rfl

/-- The active elements of a register of `bytes` bytes: each byte is the register's where its element is active. -/
theorem get_masked {bytes sz : Nat} {m : Sparse 8} (hsz : 0 < sz) (hdvd : sz ∣ bytes) (hwf : m.wf = true) (a pred v x : Nat) :
    Sparse.get (storeRuns a (activeRuns sz pred 0 (bytes / sz) (bytesOf bytes v)) m) x = if a ≤ x ∧ x < a + bytes then
      (if pred.testBit ((x - a) / sz) then some (BitVec.ofNat 8 (v / 256 ^ (x - a))) else none).getD (Sparse.get m x) else Sparse.get m x := by
  rw [get_activeRuns hsz (by rw [bytesOf_length, Nat.div_mul_cancel hdvd]) hwf, bytesOf_length, Nat.zero_mul, Nat.add_zero, Nat.zero_add]
  by_cases hin : a ≤ x ∧ x < a + bytes
  · rw [if_pos hin, bytesOf_getD (by omega)]
    by_cases hactive : pred.testBit ((x - a) / sz)
    · rw [if_pos ⟨hin.1, hin.2, hactive⟩, if_pos hactive]; rfl
    · rw [if_neg (fun h => hactive h.2.2), if_neg hactive]; rfl
  · rw [if_neg (fun h => hin ⟨h.1, h.2.1⟩), if_neg hin]

theorem masked_within {bytes sz : Nat} (hdvd : sz ∣ bytes) (pred v : Nat) :
    ∀ g ∈ activeRuns sz pred 0 (bytes / sz) (bytesOf bytes v), g.1 + g.2.length ≤ bytes := by
  have h := activeRuns_within (i := 0) (bs := bytesOf bytes v) (by rw [bytesOf_length, Nat.div_mul_cancel hdvd]) pred
  rwa [bytesOf_length, Nat.zero_mul, Nat.zero_add] at h

theorem fSize_dvd_sixteen (w : Word) : fSize w ∣ 16 := by
  have h : field w 23 22 < 4 := Nat.mod_lt _ (by decide)
  exact Nat.pow_dvd_pow (n := 4) 2 (by omega)

/-- Settles O11: a scalar store is one run, a masked store the runs of its active elements. -/
theorem storesWriteExactlyTheirBytes : Obligations.StoresWriteExactlyTheirBytes := by
  have hvector (w : Word) : fSize w ∣ 128 := (fSize_dvd w).trans (by decide)
  refine ⟨storeOp_of (fun _ _ _ _ => rfl) (fun w h => by simpa using h) (fun _ _ => rfl) (fun w k g hg => ?_) fun w k a m x hwf => ?_,
    storeOp_of (fun _ _ _ _ => rfl) (fun _ _ => rfl) (fun _ _ => rfl) (fun w k => masked_within (hvector w) _ _)
      fun w k a m x hwf => get_masked (fSize_pos w) (hvector w) hwf a _ _ x,
    storeOp_of (fun _ _ _ _ => rfl) (fun _ _ => rfl) (fun _ _ => rfl) (fun w k => masked_within (fSize_dvd_sixteen w) _ _)
      fun w k a m x hwf => get_masked (fSize_pos w) (fSize_dvd_sixteen w) hwf a _ _ x⟩
  · rw [List.mem_singleton.1 hg, bytesOf_length, Nat.zero_add]
  · rw [get_storeRuns_one hwf, bytesOf_length]
    split
    next hin => exact bytesOf_getD (by omega) _
    · rfl

end Sys2Proof.Machine
end

section
/-! Marionette cores (08): scatter and scatter-add (R179 to R181, R183), and the barrier that applies the ordered contributions (R182). -/

namespace Sys2Proof.Machine

open Sys2Proof

/-! ## Active lanes (08 R178) -/

/-- Every active lane has passed its check. -/
theorem lane_checked {n c : Nat} {w : Word} {s : State} {as : List (Nat × Nat)} (h : Lanes n c w s as) :
    ∀ p ∈ as, ∃ a, checkAddr n c (fFa w % 2 == 1) a (fEw w / 8) (fEw w / 8) = .inr p.2 := by
  unfold Lanes ixAddrs at h
  dsimp only at h
  split at h
  · nomatch h
  · cases h
    intro p hp
    obtain ⟨⟨i, r⟩, hmem, hr⟩ := List.mem_filterMap.1 hp
    obtain ⟨j, -, hj⟩ := List.mem_map.1 hmem
    cases r with
    | inl cause => nomatch hr
    | inr a =>
      cases hr
      exact ⟨_, (Prod.mk.inj hj).2⟩

theorem ixAddrs_of_lanes {n c : Nat} {w : Word} {s : State} {as : List (Nat × Nat)} (hcore : hasCore s n c = true) (h : Lanes n c w s as) :
    ixAddrs n c w (coreOf (modCore n c (Core.taking w) s) n c) = .inr as := by
  rw [coreOf_modCore hcore]
  exact h

/-! ## Unordered scatter (08 R179, R180) -/

theorem execVscatter_stores {n c : Nat} {w : Word} {s : State} {as : List (Nat × Nat)} (h : CoreRuns s n c) (hlanes : Lanes n c w s as)
    (hplain : lanePlain w s as) : execVscatter n c w s = .next (classed (modCore n c (Core.after w id) (withBytes
      (as.foldl (fun m p => Sparse.sets m p.2 (bytesOf (fEw w / 8) (elemAt ((coreOf s n c).vR (fB w)) (fEw w) p.1))) s.mem.bytes) s))) := by
  unfold execVscatter
  rw [coreInstr_legal h rfl]
  dsimp only
  rw [ixAddrs_of_lanes h.1.1 hlanes, coreOf_modCore h.1.1]
  dsimp only
  rw [foldl_withBytes fun m p hp => writeMem_withBytes (plain_modCore (by rw [bytesOf_length]; exact hplain p hp)) _ m]
  exact congrArg (fun t => Host.Outcome.next (classed t)) (core_next n c w id (withBytes _ s))

/-- An add at an aligned address of plain memory stores the sum there (08 R180). -/
theorem addAt_withBytes {s : State} {a : Nat} (ha : a % 4 = 0) (h : Plain s a 4) (ag : Agent) (isInt : Bool) (v : Nat) (m : Sparse 8) :
    addAt ag isInt a v (withBytes m s) = withBytes (Sparse.sets m a (bytesOf 4 (add32 isInt (natOf (getsOf m a 4)) v))) s := by
  have hplain : Plain (withBytes m s) a 4 := h
  obtain ⟨-, -, hres, hbad⟩ := hplain 0 (by decide)
  have hline : a % 64 + 4 ≤ 64 := line_of_aligned (by decide) ha
  unfold addAt
  rw [Nat.add_zero] at hres hbad
  rw [hres]
  dsimp only
  rw [hbad, gets_four]
  exact writePiece_plain (bs := bytesOf 4 _) (by rwa [bytesOf_length]) (by rw [bytesOf_length]; decide) (by rwa [bytesOf_length])

theorem scaddLegal_of {w : Word} (hew : fEw w = 32) (hfb : fFb w = 0x07 ∨ fFb w = 0x0C) : scaddLegal w = true := by
  simp [scaddLegal, hew, hfb]

theorem execVscaddUnordered_adds {n c : Nat} {w : Word} {s : State} {as : List (Nat × Nat)} (h : CoreRuns s n c) (hord : fOrdered w = false)
    (hew : fEw w = 32) (hfb : fFb w = 0x07 ∨ fFb w = 0x0C) (hlanes : Lanes n c w s as) (hplain : lanePlain w s as) :
    execVscaddUnordered n c w s = .next (classed (modCore n c (Core.after w id) (withBytes
      (as.foldl (fun m p => Sparse.sets m p.2 (bytesOf 4
        (add32 (fFb w == 0x0C) (natOf (getsOf m p.2 4)) (elemAt ((coreOf s n c).vR (fB w)) 32 p.1)))) s.mem.bytes) s))) := by
  have hlane : ∀ p ∈ as, p.2 % 4 = 0 ∧ Plain s p.2 4 := fun p hp => by
    obtain ⟨a, ha⟩ := lane_checked hlanes p hp
    have hlane := hplain p hp
    rw [hew] at ha hlane
    exact ⟨checkAddr_aligned ha (by decide), hlane⟩
  unfold execVscaddUnordered scadd
  rw [coreInstr_legal h (scaddLegal_of hew hfb), ixAddrs_of_lanes h.1.1 hlanes]
  dsimp only
  rw [hord, if_neg Bool.false_ne_true]
  unfold scaddNow
  dsimp only
  rw [coreOf_modCore h.1.1, foldl_withBytes fun m p hp => addAt_withBytes (hlane p hp).1 (plain_modCore (hlane p hp).2) _ _ _ m]
  exact congrArg (fun t => Host.Outcome.next (classed t)) (core_next n c w id (withBytes _ s))

/-- Stores at some addresses leave every other byte. -/
theorem get_foldl_sets {as : List (Nat × Nat)} {f : Sparse 8 → Nat × Nat → List Byte} {m : Sparse 8} {b k : Nat} (hwf : m.wf = true)
    (hlen : ∀ m p, (f m p).length = k) (hout : ∀ p ∈ as, b < p.2 ∨ p.2 + k ≤ b) :
    Sparse.get (as.foldl (fun m p => Sparse.sets m p.2 (f m p)) m) b = Sparse.get m b := by
  induction as generalizing m with
  | nil => rfl
  | cons p as ih =>
    have hp := hout p (List.mem_cons_self ..)
    rw [List.foldl_cons, ih (Sparse.sets_wf hwf) fun q hq => hout q (List.mem_cons_of_mem _ hq), Sparse.get_sets hwf, hlen, if_neg (by omega)]

/-- Settles O18: the lanes are stored or added one after the other, and each touches its own bytes only. -/
theorem scatterStoresActiveLanes : Obligations.ScatterStoresActiveLanes :=
  ⟨fun _ _ _ _ _ h hlanes hplain => execVscatter_stores h hlanes hplain,
    fun _ _ _ _ _ h hord hew hfb hlanes hplain => execVscaddUnordered_adds h hord hew hfb hlanes hplain,
    fun _ _ _ _ _ hwf hlen hout => get_foldl_sets hwf hlen hout⟩

/-! ## Ordered contributions (08 R181, R183) -/

/-- The contributions of an ordered scatter-add with their keys. -/
def laneContribs (c : Nat) (w : Word) (k : Core) (as : List (Nat × Nat)) : List Contrib := as.map fun p =>
  ⟨k.oseq.toNat, c, p.1, p.2, BitVec.ofNat 32 (elemAt (k.vR (fB w)) 32 p.1), fFb w == 0x0C⟩

theorem execVscaddOrdered_eq {n c : Nat} {w : Word} {s : State} {as : List (Nat × Nat)} (h : CoreRuns s n c) (hord : fOrdered w = true)
    (hew : fEw w = 32) (hfb : fFb w = 0x07 ∨ fFb w = 0x0C) (hlanes : Lanes n c w s as) :
    execVscaddOrdered n c w s = .next (scaddHold n c w as (modCore n c (Core.taking w) s)) := by
  unfold execVscaddOrdered scadd
  rw [coreInstr_legal h (scaddLegal_of hew hfb), ixAddrs_of_lanes h.1.1 hlanes]
  dsimp only
  rw [hord, if_pos rfl]

theorem scaddHold_holds {n c : Nat} {w : Word} {s : State} {as : List (Nat × Nat)} (h : hasCore s n c = true)
    (hroom : (coreOf s n c).ordCount.toNat + as.length ≤ 512) : scaddHold n c w as (modCore n c (Core.taking w) s) =
      modThl n (fun u => { u with runs := u.runs.modify (runIdx s n c) fun r => { r with contribs := r.contribs ++ laneContribs c w (coreOf s n c) as } })
        (modCore n c (Core.after w fun k => { k with oseq := k.oseq + 1, ordCount := k.ordCount + BitVec.ofNat 10 as.length }) s) := by
  unfold scaddHold coreNext
  dsimp only
  rw [coreOf_modCore h, Core.taking_ordCount, runIdx_modCore, if_neg (Nat.not_lt.2 hroom), modCore_modThl _ fun _ => rfl, modCore_modCore]
  rfl

theorem scaddHold_faults {n c : Nat} {w : Word} {s : State} {as : List (Nat × Nat)} (h : hasCore s n c = true)
    (hfull : 512 < (coreOf s n c).ordCount.toNat + as.length) :
    FaultsWith n c 0x54 w s (scaddHold n c w as (modCore n c (Core.taking w) s)) := by
  unfold scaddHold
  dsimp only
  rw [coreOf_modCore h, Core.taking_ordCount, if_pos hfull]
  exact faultsWith_coreFault h w rfl

/-- Settles O19: the bound is tested before anything is held. -/
theorem orderedAddsAreHeld : Obligations.OrderedAddsAreHeld := by
  intro n c w s as h hord hew hfb hlanes
  have hnext := execVscaddOrdered_eq h hord hew hfb hlanes
  exact ⟨fun hroom => hnext.trans (congrArg Host.Outcome.next (scaddHold_holds h.1.1 hroom)),
    fun hfull => ⟨_, hnext, scaddHold_faults h.1.1 hfull⟩⟩

/-! ## The order of the contributions (08 R182) -/

/-- Contributions in the order of their keys. -/
abbrev Contrib.Le (a b : Contrib) : Prop := a.q < b.q ∨ (a.q = b.q ∧ (a.c < b.c ∨ (a.c = b.c ∧ a.i ≤ b.i)))

theorem before_iff (a b : Contrib) : a.before b = true ↔ a.Le b := by
  simp [Contrib.before, Contrib.Le]

theorem insertContrib_eq (x : Contrib) (xs : List Contrib) : insertContrib x xs = xs.orderedInsert Contrib.Le x := by
  induction xs with
  | nil => rfl
  | cons y ys ih =>
    unfold insertContrib
    rw [List.orderedInsert, ih]
    exact if_congr (before_iff x y) rfl rfl

theorem sortContribs_eq (xs : List Contrib) : sortContribs xs = xs.insertionSort Contrib.Le := by
  unfold sortContribs
  induction xs with
  | nil => rfl
  | cons x xs ih => rw [List.foldr_cons, ih, insertContrib_eq]; rfl

theorem sortContribs_sorted (xs : List Contrib) : (sortContribs xs).Pairwise Contrib.Le := by
  have : Std.Total Contrib.Le := ⟨fun a b => by unfold Contrib.Le; omega⟩
  have : IsTrans Contrib Contrib.Le := ⟨fun a b c hab hbc => by unfold Contrib.Le at *; omega⟩
  rw [sortContribs_eq]
  exact List.pairwise_insertionSort Contrib.Le xs

theorem sortContribs_perm (xs : List Contrib) : (sortContribs xs).Perm xs := by
  rw [sortContribs_eq]
  exact List.perm_insertionSort Contrib.Le xs

/-! ## The barrier (08 R182) -/

theorem execOsync_arrives {n c : Nat} {w : Word} {s : State} (h : CoreRuns s n c) : execOsync n c w s = .next
    (modThl n (fun h => { h with runs := h.runs.modify (runIdx s n c) fun r => { r with atBarrier := r.atBarrier ||| BitVec.ofNat 8 (2 ^ c) } })
      (modCore n c (fun k => { k.taking w with ordCount := 0, state := .barrier, cntInstr := satAdd k.cntInstr 1 }) s)) := by
  unfold execOsync arrive
  rw [coreInstr_legal h rfl]
  dsimp only
  rw [runIdx_modCore, modCore_modThl _ fun _ => rfl, modCore_modCore, modCore_modCore]
  rfl

/-- A core but for its count of ordered contributions. -/
def Core.uncounted (k : Core) : Core := { k with cntOrd := 0 }

/-- An update of a thallus that counts contributions and changes nothing else that a run or a core holds. -/
def CountsOnly (f : Thallus → Thallus) : Prop := ∀ h, (f h).runs = h.runs ∧ (f h).core.map Core.uncounted = h.core.map Core.uncounted

/-- The owner of a contribution counts it. -/
def countOrd (o : Nat) (h : Thallus) : Thallus := { h with core := h.core.modify o fun k => { k with cntOrd := satAdd k.cntOrd 1 } }

theorem CountsOnly.countOrd {f : Thallus → Thallus} (h : CountsOnly f) (o : Nat) : CountsOnly (countOrd o ∘ f) := by
  intro u
  refine ⟨(h u).1, Eq.trans ?_ (h u).2⟩
  exact map_modify_keeps (f := fun k : Core => { k with cntOrd := satAdd k.cntOrd 1 }) (fun _ => rfl) o (f u).core

/-- One contribution is added by its owner, who counts it. -/
def applyContrib (n : Nat) (r : Run) (u : State) (x : Contrib) : State :=
  modCore n (ownerCore r.mask x.addr) (fun k => { k with cntOrd := satAdd k.cntOrd 1 })
    (addAt (.core n (ownerCore r.mask x.addr) r.stream (coreOf u n (ownerCore r.mask x.addr)).pc 0) x.isInt x.addr x.val.toNat u)

/-- Memory after a contribution. -/
def addContrib (m : Sparse 8) (x : Contrib) : Sparse 8 :=
  Sparse.sets m x.addr (bytesOf 4 (add32 x.isInt (natOf (getsOf m x.addr 4)) x.val.toNat))

/-- Contributions to plain memory are added in their order, and all else that happens is that they are counted. -/
theorem foldl_applyContrib {n : Nat} {s : State} {r : Run} {xs : List Contrib} (h : ∀ x ∈ xs, x.addr % 4 = 0 ∧ Plain s x.addr 4) :
    ∃ f, CountsOnly f ∧ xs.foldl (applyContrib n r) s = withBytes (xs.foldl addContrib s.mem.bytes) (modThl n f s) := by
  have key (m : Sparse 8) (f : Thallus → Thallus) (hf : CountsOnly f) : ∃ g, CountsOnly g ∧
      xs.foldl (applyContrib n r) (withBytes m (modThl n f s)) = withBytes (xs.foldl addContrib m) (modThl n g s) := by
    induction xs generalizing m f with
    | nil => exact ⟨f, hf, rfl⟩
    | cons x xs ih =>
      obtain ⟨haddr, hplain⟩ := h x (List.mem_cons_self ..)
      have hone : applyContrib n r (withBytes m (modThl n f s)) x =
          withBytes (addContrib m x) (modThl n (countOrd (ownerCore r.mask x.addr) ∘ f) s) := by
        unfold applyContrib
        rw [addAt_withBytes haddr (plain_modThl hplain), ← modThl_modThl]
        rfl
      rw [List.foldl_cons, List.foldl_cons, hone]
      exact ih (fun y hy => h y (List.mem_cons_of_mem _ hy)) _ _ (hf.countOrd _)
  have hid : withBytes s.mem.bytes (modThl n id s) = s := by
    unfold modThl
    rw [List.modify_id]
    rfl
  have := key s.mem.bytes id fun _ => ⟨rfl, rfl⟩
  rwa [hid] at this

/-- A core at the barrier goes on past its OSYNC (08 R182). -/
def Core.release (r : Run) (c : Nat) (q : Core) : Core :=
  if r.atBarrier.getLsbD c && q.state == .barrier then { q with state := .running, pc := (q.pc + 8) % 2 ^ 44 } else q

/-- A thallus whose run `k` has passed its barrier. -/
def Thallus.released (k : Nat) (r : Run) (h : Thallus) : Thallus := { h with
  runs := h.runs.modify k fun u => { u with contribs := [], atBarrier := 0 }
  core := h.core.zipIdx.map fun (q, c) => q.release r c }

theorem released_core {h : Thallus} {c : Nat} (hc : c < h.core.length) (k : Nat) (r : Run) :
    (h.released k r).core.getD c {} = (h.core.getD c {}).release r c := by
  simp [Thallus.released, List.getD_eq_getElem?_getD, hc]

theorem released_run {h : Thallus} {k : Nat} (hk : k < h.runs.length) (r : Run) :
    (h.released k r).runs.getD k {} = { h.runs.getD k {} with contribs := [], atBarrier := 0 } := by
  simp [Thallus.released, List.getD_eq_getElem?_getD, hk]

theorem release_regs (r : Run) (c : Nat) (q : Core) : (q.release r c).g = q.g ∧ (q.release r c).v = q.v ∧ (q.release r c).p = q.p := by
  unfold Core.release
  split <;> exact ⟨rfl, rfl, rfl⟩

theorem release_goes (r : Run) (c : Nat) (q : Core) :
    if r.atBarrier.getLsbD c = true ∧ q.state = .barrier then (q.release r c).state = .running ∧ (q.release r c).pc = (q.pc + 8) % 2 ^ 44
    else (q.release r c).state = q.state ∧ (q.release r c).pc = q.pc := by
  unfold Core.release
  simp only [Bool.and_eq_true, beq_iff_eq]
  split <;> exact ⟨rfl, rfl⟩

theorem execOsyncBarrierComplete_next {n k : Nat} {s : State} {r : Run} (hr : (thlOf s n).runs.getD k {} = r) (hthl : hasThl s n = true)
    (hk : k < (thlOf s n).runs.length) (hupd : r.isUpd = false) (harrived : (r.atBarrier ||| r.stopped) &&& r.mask = r.mask)
    (hwork : r.atBarrier ≠ 0 ∨ r.contribs ≠ []) : execOsyncBarrierComplete n k s =
      .next (classed (modThl n (Thallus.released k r) ((sortContribs r.contribs).foldl (applyContrib n r) s))) := by
  subst hr
  refine need_next hthl ?_ _
  simp only [Run.allArrived, hupd, harrived, hk, decide_true, Bool.not_false, beq_self_eq_true, Bool.true_and, Bool.or_eq_true, bne_iff_ne,
    Bool.not_eq_true', List.isEmpty_eq_false_iff]
  exact hwork

/-- Cores that differ in their counts only hold the same registers and stand at the same place. -/
theorem uncounted_eq {k q : Core} (h : k.uncounted = q.uncounted) : k.g = q.g ∧ k.v = q.v ∧ k.p = q.p ∧ k.state = q.state ∧ k.pc = q.pc :=
  ⟨(congrArg Core.g h :), (congrArg Core.v h :), (congrArg Core.p h :), (congrArg Core.state h :), (congrArg Core.pc h :)⟩

theorem CountsOnly.core {f : Thallus → Thallus} (hf : CountsOnly f) (h : Thallus) (c : Nat) :
    ((f h).core.getD c {}).uncounted = (h.core.getD c {}).uncounted := by
  have hmap (l : List Core) : (l.map Core.uncounted).getD c {} = (l.getD c {}).uncounted := List.getD_map (l := l) (d := {}) Core.uncounted
  rw [← hmap, ← hmap, (hf h).2]

theorem CountsOnly.length {f : Thallus → Thallus} (hf : CountsOnly f) (h : Thallus) : (f h).core.length = h.core.length := by
  simpa using congrArg List.length (hf h).2

theorem thlOf_released {n k : Nat} {s : State} (h : hasThl s n = true) (r : Run) (m : Sparse 8) (f : Thallus → Thallus) :
    thlOf (modThl n (Thallus.released k r) (withBytes m (modThl n f s))) n = (f (thlOf s n)).released k r := by
  have hthl : hasThl (withBytes m (modThl n f s)) n = true := by
    unfold hasThl at *
    rw [withBytes_thl, length_modThl]
    exact h
  rw [thlOf_modThl hthl, if_pos rfl, thlOf_of_thl (withBytes_thl _ _), thlOf_modThl h, if_pos rfl]

/-- Settles O20: OSYNC arrives; the barrier adds the contributions in key order, which leaves all but memory and the counts, and then
releases its cores. -/
theorem barrierAppliesInKeyOrder : Obligations.BarrierAppliesInKeyOrder := by
  refine ⟨fun n c w s h => execOsync_arrives h, ?_, fun xs => ⟨sortContribs_perm xs, sortContribs_sorted xs⟩⟩
  intro n k s
  dsimp only
  generalize hr : (thlOf s n).runs.getD k {} = r
  intro hthl hk hupd harrived hwork hplain
  have hsorted : ∀ x ∈ sortContribs r.contribs, x.addr % 4 = 0 ∧ Plain s x.addr 4 := fun x hx =>
    hplain x ((sortContribs_perm r.contribs).mem_iff.1 hx)
  obtain ⟨f, hf, hfold⟩ := foldl_applyContrib (n := n) (r := r) hsorted
  have hnext := execOsyncBarrierComplete_next hr hthl hk hupd harrived hwork
  rw [hfold] at hnext
  have hafter := thlOf_released (k := k) hthl r ((sortContribs r.contribs).foldl addContrib s.mem.bytes) f
  refine ⟨_, hnext, rfl, ?_, fun c hc => ?_⟩
  · rw [hafter, released_run (by rwa [(hf _).1]), (hf _).1, hr]
  · obtain ⟨hg, hv, hp, hst, hpc⟩ := uncounted_eq (hf.core (thlOf s n) c)
    obtain ⟨hg', hv', hp'⟩ := release_regs r c ((f (thlOf s n)).core.getD c {})
    have hgoes := release_goes r c ((f (thlOf s n)).core.getD c {})
    unfold coreOf
    rw [hafter, released_core (by rwa [hf.length]), ← hst, ← hpc]
    exact ⟨hg'.trans hg, hv'.trans hv, hp'.trans hp, hgoes⟩

end Sys2Proof.Machine
end

section
/-! Marionette cores (08): vector registers and their elements (R167, 02 R36), convert (R175), intersection and merge (R185, R186). -/

namespace Sys2Proof.Machine

open Sys2Proof

/-! ## Elements and registers (02 R36, 08 R167) -/

/-- An element of packed elements is the element, in its width. -/
theorem elemAt_packElems (e : Nat) (xs : List Nat) (i : Nat) : elemAt (packElems e xs) e i = xs.getD i 0 % 2 ^ e := by
  induction xs generalizing i with
  | nil => simp [elemAt, packElems]
  | cons x xs ih =>
    cases i with
    | zero => simp [elemAt, packElems]
    | succ i =>
      have hrest : (x % 2 ^ e + 2 ^ e * packElems e xs) / 2 ^ e = packElems e xs := by
        rw [Nat.add_mul_div_left _ _ (Nat.two_pow_pos e), Nat.div_eq_of_lt (Nat.mod_lt _ (Nat.two_pow_pos e)), Nat.zero_add]
      rw [List.getD_cons_succ, ← ih]
      unfold elemAt
      rw [packElems, Nat.mul_succ, Nat.add_comm (e * i), Nat.shiftRight_add, Nat.shiftRight_eq_div_pow _ e, hrest]

theorem packElems_lt (e : Nat) (xs : List Nat) : packElems e xs < 2 ^ (e * xs.length) := by
  induction xs with
  | nil => exact Nat.one_pos
  | cons x xs ih =>
    have hx : x % 2 ^ e < 2 ^ e := Nat.mod_lt _ (Nat.two_pow_pos e)
    calc x % 2 ^ e + 2 ^ e * packElems e xs < 2 ^ e + 2 ^ e * packElems e xs := Nat.add_lt_add_right hx _
      _ = 2 ^ e * (packElems e xs + 1) := by rw [Nat.mul_succ, Nat.add_comm]
      _ ≤ 2 ^ e * 2 ^ (e * xs.length) := Nat.mul_le_mul_left _ ih
      _ = 2 ^ (e * (xs.length + 1)) := by rw [← Nat.pow_add, Nat.mul_succ, Nat.add_comm]

/-- A word has no element beyond its bits. -/
theorem elemAt_toNat_beyond {n e i : Nat} (h : n ≤ e * i) (x : BitVec n) : elemAt x.toNat e i = 0 := by
  unfold elemAt
  rw [Nat.shiftRight_eq_div_pow, Nat.div_eq_of_lt (x.isLt.trans_le (Nat.pow_le_pow_right (by decide) h)), Nat.zero_mod]

/-- A word keeps packed elements that fit. -/
theorem toNat_ofNat_packElems {n e : Nat} {xs : List Nat} (h : e * xs.length ≤ n) : (BitVec.ofNat n (packElems e xs)).toNat = packElems e xs := by
  rw [BitVec.toNat_ofNat, Nat.mod_eq_of_lt ((packElems_lt e xs).trans_le (Nat.pow_le_pow_right (by decide) h))]

theorem vR_vW {j : Nat} (hj : j < 32) (k : Core) (i x : Nat) : (k.vW i x).vR j = if j = i then (BitVec.ofNat 1024 x).toNat else k.vR j := by
  unfold Core.vR Core.vW
  rw [setAt_getD hj]
  by_cases h : j = i
  · rw [if_pos h, if_pos h]
  · rw [if_neg h, if_neg h]
    exact congrArg (fun d => (k.v.getD j d).toNat) BitVec.zero_eq

/-- Packed elements that fit a register are read back from it. -/
theorem vR_vW_packElems {i e : Nat} {xs : List Nat} (hi : i < 32) (h : e * xs.length ≤ 1024) (k : Core) :
    (k.vW i (packElems e xs)).vR i = packElems e xs := by
  rw [vR_vW hi, if_pos rfl, toNat_ofNat_packElems h]

theorem fD_lt (w : Word) : fD w < 32 := Nat.mod_lt _ (by decide)

theorem getD_map_range {n i : Nat} (h : i < n) (f : Nat → Nat) : ((List.range n).map f).getD i 0 = f i := by
  simp [List.getD_eq_getElem?_getD, h]

theorem elemAt_mod (x e i : Nat) : elemAt x e i % 2 ^ e = elemAt x e i := Nat.mod_mod _ _

/-- An element of a predicated result (08 T8-2). -/
theorem elemAt_mergeV {e n i : Nat} (hi : i < n) (old pred : Nat) (pz : Bool) (xs : List Nat) : elemAt (mergeV e n old pred pz xs) e i =
    if pred.testBit i then xs.getD i 0 % 2 ^ e else if pz then 0 else elemAt old e i := by
  unfold mergeV
  rw [elemAt_packElems, getD_map_range hi]
  split
  · rfl
  · split
    · exact Nat.zero_mod _
    · exact elemAt_mod _ _ _

/-- Settles O7: a vector result is one write of vd, and its elements are those of the merge. -/
theorem elementsFollowThePredicate : Obligations.ElementsFollowThePredicate := by
  intro w e f k i he hi
  have hfits : e * (1024 / e) ≤ 1024 := Nat.mul_div_le 1024 e
  refine ⟨?_, fun j hj hne => ?_, rfl, rfl⟩
  · have hread : (vecMap w e f k).vR (fD w) = mergeV e (1024 / e) (k.vR (fD w)) (k.pR (fPg w)) (fPz w)
        ((List.range (1024 / e)).map fun i => f i (elemAt (k.vR (fA w)) e i) (elemAt (k.vR (fB w)) e i)) := by
      unfold vecMap mergeV
      exact vR_vW_packElems (fD_lt w) (by rwa [List.length_map, List.length_range]) k
    rw [hread, elemAt_mergeV hi, getD_map_range hi]
  · unfold vecMap
    rw [vR_vW hj, if_neg hne]

/-! ## Convert (08 R175) -/

/-- Refutes O14: with an MX source VCVT has 32 elements whatever the target, and 32 elements of FP64 do not fit the 1,024 bits of vd. The
word below converts MXFP4 to FP64: element 20 lies beyond the end of vd and reads 0, where the sixth clause gives it the converted value of
its source, which is not 0. -/
theorem not_convertResultsAndFlags : ¬ Obligations.ConvertResultsAndFlags := by
  rintro ⟨-, -, -, -, -, helement, -⟩
  let w : Word := BitVec.ofNat 64 (0x70 + 0x10 * 2 ^ 34 + 0x08 * 2 ^ 39)
  let k : Core := { v := List.replicate 32 (BitVec.allOnes 1024) }
  have hsource : cvtSource w k 20 = .fin true 3 (-126) := by decide +kernel
  have hscale : (cvtScale w k).1 = .fin false 1 0 := by decide
  have hconverted := (helement w k 20 (.flt fp64) (by decide) (by decide) (by decide)).1 (by decide)
  rw [hsource, hscale, Core.vR, elemAt_toNat_beyond (by decide)] at hconverted
  exact absurd hconverted (by decide)

/-! ## Intersection (08 R185) -/

theorem keysLegal_of {w : Word} (hew : fEw w = 32 ∨ fEw w = 64) (hpg : fPg w = 0) : keysLegal w = true := by
  simp [keysLegal, hew, hpg]

/-- The keys of a step of an intersection that are kept, and how many of each side it consumes. -/
def isect (key : Nat → Int) (a b : List Nat) : List Nat × Nat × Nat :=
  match a.getLast?, b.getLast? with
  | some x, some y =>
    let lim := min (key x) (key y)
    (a.filter fun x => key x ≤ lim && b.contains x, (a.filter fun x => key x ≤ lim).length, (b.filter fun x => key x ≤ lim).length)
  | _, _ => ([], 0, 0)

theorem isect_empty {a b : List Nat} (h : a = [] ∨ b = []) (key : Nat → Int) : isect key a b = ([], 0, 0) := by
  obtain rfl | rfl := h
  · rfl
  · unfold isect
    cases a.getLast? <;> rfl

theorem isect_nonempty {a b : List Nat} (ha : a ≠ []) (hb : b ≠ []) (key : Nat → Int) :
    let lim := min (key (a.getLast?.getD 0)) (key (b.getLast?.getD 0))
    isect key a b = (a.filter fun x => key x ≤ lim ∧ x ∈ b, (a.filter fun x => key x ≤ lim).length, (b.filter fun x => key x ≤ lim).length) := by
  unfold isect
  rw [List.getLast?_eq_some_getLast ha, List.getLast?_eq_some_getLast hb]
  simp

/-- What VISECT writes: the kept keys, their counts in gd, and the mask of the kept in pd. -/
def isectWrite (w : Word) (z : List Nat × Nat × Nat) (k : Core) : Core :=
  let k1 := (k.vW (fD w) (packElems (fEw w) z.1)).gW (fGd w) (BitVec.ofNat 64 (z.1.length + 256 * z.2.1 + 65536 * z.2.2))
  if fPd w = 0 then k1 else k1.pW (fPd w) (2 ^ z.1.length - 1)

/-- The keys of a register of VISECT. -/
def isectKeys (w : Word) (k : Core) (r cnt : Nat) : List Nat := (elems (fEw w) (1024 / fEw w) (k.vR r)).take (min cnt (1024 / fEw w))

theorem execVisect_eq (n c : Nat) (w : Word) (s : State) : execVisect n c w s = regInstr n c w (keysLegal w) (fun k =>
    isectWrite w (isect (sortKey false (fFa w % 2 == 1) (fEw w)) (isectKeys w k (fA w) (field (k.gR (fGx w)) 7 0))
      (isectKeys w k (fB w) (field (k.gR (fGx w)) 15 8))) k) s := by
  unfold execVisect isectWrite
  simp only [beq_iff_eq]
  rfl

theorem execVisect_completes : Completes .visect (fun w => (fEw w = 32 ∨ fEw w = 64) ∧ fPg w = 0) (fun w k =>
    let a := isectKeys w k (fA w) (field (k.gR (fGx w)) 7 0)
    let b := isectKeys w k (fB w) (field (k.gR (fGx w)) 15 8)
    let key := sortKey false (fFa w % 2 == 1) (fEw w)
    if a = [] ∨ b = [] then isectWrite w ([], 0, 0) k
    else
      let lim := min (key (a.getLast?.getD 0)) (key (b.getLast?.getD 0))
      isectWrite w (a.filter fun x => key x ≤ lim ∧ x ∈ b, (a.filter fun x => key x ≤ lim).length, (b.filter fun x => key x ≤ lim).length) k) := by
  refine completes_regInstr _ _ keysLegal _ (fun n c w s => ?_) fun w h => keysLegal_of h.1 h.2
  refine (execVisect_eq n c w s).trans (congrArg (fun f => regInstr n c w (keysLegal w) f s) (funext fun k => ?_))
  dsimp only
  split
  next h => rw [isect_empty h]
  next h =>
    rw [not_or] at h
    rw [isect_nonempty h.1 h.2]

/-! ## Merge (08 R186) -/

/-- Order of two keys with payloads. -/
abbrev keyLe (key : Nat → Int) (x y : Nat × Nat) : Bool := decide (key x.1 ≤ key y.1)

/-- The steps of VMERGE are the first elements of the stable merge. -/
theorem mergeGo_merge (key : Nat → Int) (m : Nat) (a b : List (Nat × Nat)) : (mergeGo key m a b).1 = (List.merge a b (keyLe key)).take m := by
  induction m generalizing a b with
  | zero => rfl
  | succ m ih =>
    cases a with
    | nil => cases b with
      | nil => simp [mergeGo]
      | cons y ys => simp [mergeGo, ih]
    | cons x xs => cases b with
      | nil => simp [mergeGo, ih]
      | cons y ys =>
        rw [List.cons_merge_cons, mergeGo]
        by_cases h : key x.1 ≤ key y.1 <;> simp [h, ih]

/-- The counts of VMERGE say how many of each side have come. -/
theorem mergeGo_perm (key : Nat → Int) (m : Nat) (a b : List (Nat × Nat)) :
    (mergeGo key m a b).1.Perm (a.take (mergeGo key m a b).2.1 ++ b.take (mergeGo key m a b).2.2) := by
  induction m generalizing a b with
  | zero => exact .refl _
  | succ m ih =>
    cases a with
    | nil => cases b with
      | nil => exact .refl _
      | cons y ys =>
        have hrest := (ih [] ys).cons y
        rw [List.take_nil] at hrest ⊢
        exact hrest
    | cons x xs => cases b with
      | nil => exact (ih xs []).cons x
      | cons y ys =>
        rw [mergeGo]
        by_cases h : key x.1 ≤ key y.1
        · rw [if_pos h]
          exact (ih xs (y :: ys)).cons x
        · rw [if_neg h]
          exact ((ih (x :: xs) ys).cons y).trans List.perm_middle.symm

theorem execVmerge_completes : Completes .vmerge (fun w => (fEw w = 32 ∨ fEw w = 64) ∧ fPg w = 0 ∧
      (bit w 35 = true → fA w % 2 = 0 ∧ fB w % 2 = 0 ∧ fD w % 2 = 0)) (fun w k =>
    let e := fEw w
    let m := 1024 / e
    let src := fun r cnt => ((elems e m (k.vR r)).zip (elems e m (k.vR (r + 1)))).take (min cnt m)
    let z := mergeGo (sortKey (bit w 36) (bit w 34) e) m (src (fA w) (field (k.gR (fGx w)) 7 0)) (src (fB w) (field (k.gR (fGx w)) 15 8))
    let k1 := k.vW (fD w) (packElems e (z.1.map (·.1)))
    let k2 := if bit w 35 then k1.vW (fD w + 1) (packElems e (z.1.map (·.2))) else k1
    let k3 := k2.gW (fGd w) (BitVec.ofNat 64 (z.1.length + 256 * z.2.1 + 65536 * z.2.2))
    if fPd w = 0 then k3 else k3.pW (fPd w) (2 ^ z.1.length - 1)) := by
  refine completes_regInstr _ _ (fun w => keysLegal w && (!bit w 35 || (fA w % 2 == 0 && fB w % 2 == 0 && fD w % 2 == 0))) _
    (fun n c w s => ?_) fun w h => ?_
  · show execVmerge n c w s = _
    unfold execVmerge
    simp only [beq_iff_eq]
    rfl
  · obtain ⟨hew, hpg, heven⟩ := h
    rw [keysLegal_of hew hpg]
    cases hpay : bit w 35 with
    | false => rfl
    | true => simp [heven hpay]

/-- Settles O16: one step of each, and the merge by its recursion. -/
theorem intersectAndMergeSteps : Obligations.IntersectAndMergeSteps :=
  ⟨execVisect_completes, execVmerge_completes, fun key m a b => ⟨mergeGo_merge key m a b, mergeGo_perm key m a b⟩⟩

end Sys2Proof.Machine
end

section
/-! Reduction messages (09 R206, R207): what the reduction units do with one before it acts, and the rows of a bucket. -/

namespace Sys2Proof.Machine

open Sys2Proof

/-! ## What every message meets (09 R206, 10 R231) -/

theorem redLive_running {s : State} (h : s.cmt.state = .running) : redLive s = true := by
  unfold redLive
  rw [h]

/-- Outside a step, and once the work of one has stopped, no message acts (10 R231, R392). -/
theorem redLive_outside {s : State} (h : s.cmt.state ∉ [.running, .gathering, .reported, .settling]) : redLive s = false := by
  unfold redLive
  simp only [List.mem_cons, List.not_mem_nil, or_false, not_or] at h
  obtain ⟨hrun, hgather, hreport, hsettle⟩ := h
  split
  next e => exact absurd e hrun
  next e => exact absurd e hgather
  next e => exact absurd e hreport
  next e => exact absurd e hsettle
  next => rfl

theorem redFresh_of {s : State} {tag : Word} (h : field tag 63 34 = s.cmt.step.toNat % 2 ^ 30) : redFresh s tag = true :=
  beq_iff_eq.mpr h

section
variable {s : State} {tag : Word} (body : RedBody) (f : State → State)

theorem redIn_otherStep (ok : Bool) (h : field tag 63 34 ≠ s.cmt.step.toNat % 2 ^ 30) :
    redIn tag body ok f s = ackRed tag body (staled (redTaken body s)) := by
  have hold : redFresh s tag = false := beq_eq_false_iff_ne.mpr h
  unfold redIn
  rw [hold]
  rfl

variable (hfresh : field tag 63 34 = s.cmt.step.toNat % 2 ^ 30)
include hfresh

theorem redIn_outside (ok : Bool) (h : s.cmt.state ∉ [.running, .gathering, .reported, .settling]) :
    redIn tag body ok f s = ackRed tag body (redTaken body s) := by
  unfold redIn
  rw [redFresh_of hfresh, redLive_outside h]
  rfl

variable (hrun : s.cmt.state = .running)
include hrun

theorem redIn_malformed {ok : Bool} (hok : ok = false) :
    redIn tag body ok f s = ackRed tag body (staled (redTaken body s)) := by
  unfold redIn
  rw [redFresh_of hfresh, redLive_running hrun, hok]
  rfl

theorem redIn_acts {ok : Bool} (hok : ok = true) : redIn tag body ok f s = f (redTaken body s) := by
  unfold redIn
  rw [redFresh_of hfresh, redLive_running hrun, hok]
  rfl

end

/-! ## Messages of a bucket (09 R206, R207; 10 R237) -/

/-- A message in range comes to its bucket: the bucket has timed out, has completed, or must wait for what the message builds on, or the
message acts. -/
theorem bktMsg_inRange {s : State} {tag : Word} {body : RedBody} (hfresh : field tag 63 34 = s.cmt.step.toNat % 2 ^ 30)
    (hrun : s.cmt.state = .running) (hok : redOk s (field tag 11 0) (field tag 25 12) body = true) :
    let b := field tag 11 0
    let u := openBkt b (redTaken body s)
    let k := bktOf u b
    let v := ackRed tag body (redMsg b tag body u)
    bktMsg tag body s = settle (
      if k.timedOut then ackRed tag body (lateData b (field tag 25 12) u)
      else if k.completed && body.kind != 0 then ackRed tag body u
      else if mustWait u b tag body then modBkt b (fun k => { k with waiting := k.waiting ++ [(tag, body)] }) u
      else drainWait b (bktOf v b).waiting.length v) := by
  unfold bktMsg
  exact redIn_acts body _ hfresh hrun hok

/-- Every row that hands its message to the bucket of its tag obeys R206. -/
theorem bucketRow_of_bktMsg {i : Instr} {tag : Word} {body : RedBody} (h : ∀ s, exec i s = .next (bktMsg tag body s)) :
    BucketRow i tag body := by
  intro s
  dsimp only
  rw [h s]
  refine ⟨fun hold => ?_, fun hfresh hout => ?_, fun hfresh hrun hbad => ?_, fun hfresh hrun hok => ?_⟩
  · unfold bktMsg
    rw [redIn_otherStep body _ _ hold]
  · unfold bktMsg
    rw [redIn_outside body _ hfresh _ hout]
  · unfold bktMsg
    rw [redIn_malformed body _ hfresh hrun hbad]
  · rw [bktMsg_inRange hfresh hrun hok]
    refine ⟨fun hlate => ?_, fun hlate hdone hkind => ?_, fun hlate hdone hwait => ?_, fun hlate hopen hwait => ?_⟩
    · rw [if_pos hlate]
    · simp only [hlate, hdone, bne_iff_ne.mpr hkind, Bool.and_self, if_true, Bool.false_eq_true, if_false]
    · simp only [hlate, hdone, hwait, Bool.false_and, if_true, Bool.false_eq_true, if_false]
    · rcases hopen with hdone | hkind
      · simp only [hlate, hdone, hwait, Bool.false_and, Bool.false_eq_true, if_false]
      · simp only [hlate, hkind, hwait, bne_self_eq_false, Bool.and_false, Bool.false_eq_true, if_false]

/-- Settles O36: each of the ten rows hands its message to its bucket. -/
theorem bucketMessages : Obligations.BucketMessages :=
  ⟨fun _ _ _ _ => bucketRow_of_bktMsg fun _ => rfl, fun _ _ _ _ _ _ _ => bucketRow_of_bktMsg fun _ => rfl,
    fun _ _ _ => bucketRow_of_bktMsg fun _ => rfl, fun _ _ _ _ _ => bucketRow_of_bktMsg fun _ => rfl,
    fun _ _ _ _ => bucketRow_of_bktMsg fun _ => rfl, fun _ _ _ => bucketRow_of_bktMsg fun _ => rfl,
    fun _ => bucketRow_of_bktMsg fun _ => rfl, fun _ _ _ => bucketRow_of_bktMsg fun _ => rfl,
    fun _ _ _ => bucketRow_of_bktMsg fun _ => rfl, fun _ _ => bucketRow_of_bktMsg fun _ => rfl⟩

end Sys2Proof.Machine
end

section
/-! Exact accumulators (09 T9-5, R208, R210): adding is joining, so the order of the addends is free; finite sums and results. -/

namespace Sys2Proof.Machine

open Sys2Proof

/-! ## The order of the addends (09 R208) -/

/-- Two accumulators added: the sums modulo 2^320, and every special value that either has met. -/
def Acc.join (c d : Acc) : Acc := ⟨c.a + d.a, c.nan || d.nan, c.pinf || d.pinf, c.ninf || d.ninf⟩

theorem Acc.add_eq_join (c : Acc) (x : W32) : c.add x = c.join (Acc.add {} x) := by
  unfold Acc.add
  cases fp32.decode x.toNat with
  | nan => simp [Acc.join]
  | inf neg => cases neg <;> simp [Acc.join]
  | fin neg m e => simp [Acc.join]

theorem Acc.join_right_comm (c d e : Acc) : (c.join d).join e = (c.join e).join d := by
  unfold Acc.join
  dsimp only
  rw [add_right_comm c.a, Bool.or_right_comm c.nan, Bool.or_right_comm c.pinf, Bool.or_right_comm c.ninf]

theorem Acc.add_swap (c : Acc) (x y : W32) : (c.add x).add y = (c.add y).add x := by
  rw [add_eq_join (c.add x), add_eq_join c x, join_right_comm, ← add_eq_join c y, ← add_eq_join (c.add y)]

theorem Acc.foldl_add_perm {xs ys : List W32} (h : xs.Perm ys) (c : Acc) : xs.foldl Acc.add c = ys.foldl Acc.add c :=
  h.foldl_eq' (fun x _ y _ c => add_swap c x y) c

/-! ## Finite values (09 R208) -/

/-- The pattern names neither NaN nor an infinity. -/
def IsFinite32 (x : W32) : Prop := (fp32.decode x.toNat).isNan = false ∧ (fp32.decode x.toNat).isInf = false

/-- A finite FP32 value in units of 2^-149. -/
def units149 (x : W32) : Int :=
  match fp32.decode x.toNat with
  | .fin neg m e => sigAt neg m e (-149)
  | _ => 0

theorem Acc.add_finite {x : W32} (h : IsFinite32 x) (c : Acc) : c.add x = { c with a := c.a + BitVec.ofInt 320 (units149 x) } := by
  obtain ⟨hnan, hinf⟩ := h
  unfold Acc.add units149
  cases hx : fp32.decode x.toNat with
  | nan => rw [hx] at hnan; cases hnan
  | inf neg => rw [hx] at hinf; cases hinf
  | fin neg m e => rfl

/-- Finite values add their exact multiples of 2^-149 modulo 2^320. -/
theorem Acc.foldl_add_finite {xs : List W32} (h : ∀ x ∈ xs, IsFinite32 x) (c : Acc) :
    xs.foldl Acc.add c = { c with a := c.a + BitVec.ofInt 320 (xs.map units149).sum } := by
  induction xs generalizing c with
  | nil => simp
  | cons x xs ih =>
    rw [List.foldl_cons, add_finite (h x List.mem_cons_self), ih fun y hy => h y (List.mem_cons_of_mem x hy), List.map_cons,
      List.sum_cons, BitVec.ofInt_add, BitVec.add_assoc]

/-! ## Results (09 R210) -/

theorem Acc.result_nan {c : Acc} (n : Nat) (h : c.nan = true ∨ (c.pinf = true ∧ c.ninf = true)) : c.result n = (0x7FC00000, false) := by
  unfold Acc.result
  rw [if_pos]
  rcases h with hnan | ⟨hpos, hneg⟩
  · rw [hnan, Bool.true_or]
  · rw [hpos, hneg, Bool.and_self, Bool.or_true]

theorem Acc.result_posInf {c : Acc} (n : Nat) (hnan : c.nan = false) (hpos : c.pinf = true) (hneg : c.ninf = false) :
    c.result n = (0x7F800000, false) := by
  unfold Acc.result
  rw [hnan, hpos, hneg]
  rfl

theorem Acc.result_negInf {c : Acc} (n : Nat) (hnan : c.nan = false) (hpos : c.pinf = false) (hneg : c.ninf = true) :
    c.result n = (0xFF800000, false) := by
  unfold Acc.result
  rw [hnan, hpos, hneg]
  rfl

theorem Acc.result_finite {c : Acc} (n : Nat) (hnan : c.nan = false) (hpos : c.pinf = false) (hneg : c.ninf = false) :
    c.result n = quotient c.a.toInt (-149) n := by
  unfold Acc.result
  rw [hnan, hpos, hneg]
  rfl

theorem quotient_zero (x e : Int) : quotient x e 0 = (0, false) := rfl

theorem quotient_of_ne_zero (x e : Int) {n : Nat} (h : n ≠ 0) : quotient x e n =
    (let r := fp32.conv .rne false ((Fp.fin (x < 0) x.natAbs e).div (.fin false n 0)); (r.1, r.2.ovf)) := by
  unfold quotient
  rw [if_neg (by simpa using h)]

/-- Settles O35: addends commute because adding is joining; the finite sum by induction on the addends, and each result by its case. -/
theorem exactSumsAreOrderFree : Obligations.ExactSumsAreOrderFree := by
  refine ⟨fun xs ys c h => Acc.foldl_add_perm h c, fun xs h => ?_, fun c n =>
    ⟨Acc.result_nan n, Acc.result_posInf n, Acc.result_negInf n, fun hnan hpos hneg => ⟨?_, fun hn => ?_⟩⟩⟩
  · have hsum := Acc.foldl_add_finite h {}
    exact ⟨congrArg Acc.nan hsum, congrArg Acc.pinf hsum, congrArg Acc.ninf hsum, (congrArg Acc.a hsum).trans (BitVec.zero_add _)⟩
  · exact (Acc.result_finite 0 hnan hpos hneg).trans (quotient_zero _ _)
  · exact (Acc.result_finite n hnan hpos hneg).trans (quotient_of_ne_zero _ _ hn)

end Sys2Proof.Machine
end

section
/-! The governor (05 R108, R109, R117, R118): one direction stage by stage, and what a run leaves of the device. -/

namespace Sys2Proof.Machine

open Sys2Proof

/-! ## Scales (05 R108, R109) -/

/-- A scale exponent stays, or is one of the range -`b` to `b`. -/
def StaysOrWithin (old : Int) (b : Int) (new : Int) : Prop := new = old ∨ (-b ≤ new ∧ new ≤ b)

theorem clampI_bounds (x : Int) {lo hi : Int} (h : lo ≤ hi) : lo ≤ clampI x lo hi ∧ clampI x lo hi ≤ hi :=
  ⟨le_max_left _ _, max_le h (min_le_left _ _)⟩

theorem clamp_within (old x : Int) {b : Int} (h : -b ≤ b) : StaysOrWithin old b (clampI x (-b) b) := .inr (clampI_bounds x h)

theorem zero_within (old : Int) {b : Int} (h : 0 ≤ b) : StaysOrWithin old b 0 := .inr ⟨neg_nonpos.mpr h, h⟩

theorem histOut_within {c : DirConf} {n : DirState} {old : Int} (h : StaysOrWithin old 40 n.eOut) : StaysOrWithin old 40 (histOut c n) := by
  unfold histOut
  dsimp only
  split
  · exact zero_within _ (by decide)
  · split
    · exact h
    · exact clamp_within _ _ (by decide)

/-! ## One direction (05 R117) -/

/-- What every stage of govern_direction has kept of the copy in force `o`, having moved the rung at most one down and `k` up. -/
structure GovStage (c : DirConf) (o : DirState) (learned k : Nat) (x : GovAcc) : Prop where
  inLadder : x.n.rung ≤ c.rungsM1
  downOne : o.rung ≤ x.n.rung + 1
  upMost : x.n.rung ≤ o.rung + k
  logged : x.n.rung ≠ o.rung → ∃ e ∈ x.evs, e.cause = 0x20 ∧ e.before = o.rung
  learned_eq : x.n.learned = learned
  eOut : StaysOrWithin o.eOut 40 x.n.eOut
  anchor : StaysOrWithin o.anchor 100 x.n.anchor

namespace GovStage

variable {c : DirConf} {o : DirState} {learned k : Nat} {x : GovAcc}

/-- A stage that leaves the rung, keeps its scales in range and may add events. -/
theorem sameRung {n : DirState} {evs : List GovEv} (h : GovStage c o learned k x) (hrung : n.rung = x.n.rung)
    (hlearned : n.learned = x.n.learned) (heOut : StaysOrWithin o.eOut 40 n.eOut) (hanchor : StaysOrWithin o.anchor 100 n.anchor) :
    GovStage c o learned k { n := n, evs := x.evs ++ evs } where
  inLadder := hrung ▸ h.inLadder
  downOne := hrung ▸ h.downOne
  upMost := hrung ▸ h.upMost
  logged hne :=
    have ⟨e, he, hcause⟩ := h.logged (hrung ▸ hne)
    ⟨e, List.mem_append_left _ he, hcause⟩
  learned_eq := hlearned.trans h.learned_eq
  eOut := heOut
  anchor := hanchor

/-- `sameRung` with no event. -/
theorem sameRung_quiet {n : DirState} (h : GovStage c o learned k x) (hrung : n.rung = x.n.rung)
    (hlearned : n.learned = x.n.learned) (heOut : StaysOrWithin o.eOut 40 n.eOut) (hanchor : StaysOrWithin o.anchor 100 n.anchor) :
    GovStage c o learned k { n := n, evs := x.evs } := by
  simpa using h.sameRung (evs := []) hrung hlearned heOut hanchor

theorem of_copy {n : DirState} (h : o.rung ≤ c.rungsM1) (hrung : n.rung = o.rung) (hlearned : n.learned = learned)
    (heOut : n.eOut = o.eOut) (hanchor : n.anchor = o.anchor) : GovStage c o learned 0 { n := n } where
  inLadder := hrung.le.trans h
  downOne := hrung.ge.trans (Nat.le_succ _)
  upMost := hrung.le
  logged hne := absurd hrung hne
  learned_eq := hlearned
  eOut := .inl heOut
  anchor := .inl hanchor

theorem mono {m : Nat} (h : GovStage c o learned k x) (hk : k ≤ m) : GovStage c o learned m x :=
  { h with upMost := h.upMost.trans (Nat.add_le_add_left hk _) }

/-- A change of the rung is logged: its event, or that of an earlier change, names the rung in force. -/
theorem change {m : Nat} {delta : Int} (l d : Nat) (mse : Option Db) (dorm : Nat) (h : GovStage c o learned k x)
    (hladder : ((x.n.rung : Int) + delta).toNat ≤ c.rungsM1) (hdown : o.rung ≤ ((x.n.rung : Int) + delta).toNat + 1)
    (hup : ((x.n.rung : Int) + delta).toNat ≤ o.rung + m) : GovStage c o learned m (govChange l d delta c mse dorm x) where
  inLadder := hladder
  downOne := hdown
  upMost := hup
  logged _ := by
    by_cases hsame : x.n.rung = o.rung
    · exact ⟨_, List.mem_append_right _ (List.mem_singleton.mpr rfl), rfl, hsame⟩
    · obtain ⟨e, he, hcause⟩ := h.logged hsame
      exact ⟨e, List.mem_append_left _ he, hcause⟩
  learned_eq := h.learned_eq
  eOut := h.eOut
  anchor := h.anchor

theorem widen (l d : Nat) (mse : Option Db) (dorm : Nat) (h : GovStage c o learned k x) (hroom : x.n.rung < c.rungsM1) :
    GovStage c o learned (k + 1) (govChange l d 1 c mse dorm x) := by
  have hdown := h.downOne
  have hup := h.upMost
  exact h.change l d mse dorm (by omega) (by omega) (by omega)

theorem narrow (l d : Nat) (mse : Option Db) (dorm : Nat) (h : GovStage c o learned k x) (hsame : x.n.rung = o.rung) :
    GovStage c o learned k (govChange l d (-1) c mse dorm x) := by
  have hladder := h.inLadder
  exact h.change l d mse dorm (by omega) (by omega) (by omega)

theorem counted (v : Nat) (h : GovStage c o learned k x) : GovStage c o learned k { x with n := { x.n with dorm := v } } :=
  h.sameRung_quiet rfl rfl h.eOut h.anchor

/-- The dormancy counter widens by one rung at most (05 R118). -/
theorem dormancy (l under f : Nat) (mse : Option Db) (h : GovStage c o learned k x) :
    GovStage c o learned (k + 1) (dormancy l c under f mse x) := by
  have hrest := h.mono (Nat.le_succ k)
  unfold Machine.dormancy
  split
  · exact hrest
  split
  · exact hrest.counted 0
  dsimp only
  split
  · exact hrest.counted _
  refine counted 0 ?_
  have warned (e : GovEv) : GovStage c o learned k { x with evs := x.evs ++ [e] } := h.sameRung rfl rfl h.eOut h.anchor
  split
  next hwiden =>
    obtain ⟨_, hroom⟩ := Bool.and_eq_true_iff.mp hwiden
    exact widen l 1 mse _ (warned _) (of_decide_eq_true hroom)
  next => exact (warned _).mono (Nat.le_succ k)

/-- set_e_out keeps e_out in its range (05 R108, R109). -/
theorem setOut (l d nOver f nClip nElem : Nat) (h : GovStage c o learned k x) :
    GovStage c o learned k (setOut l d c nOver f nClip nElem x) := by
  unfold Machine.setOut
  split
  · exact h.sameRung_quiet rfl rfl (histOut_within h.eOut) h.anchor
  · dsimp only
    split
    · split
      · exact h.sameRung rfl rfl (histOut_within h.eOut) h.anchor
      · exact h.sameRung_quiet rfl rfl (histOut_within h.eOut) h.anchor
    · exact h.sameRung_quiet rfl rfl (clamp_within _ _ (by decide)) h.anchor
  · exact h.sameRung_quiet rfl rfl (zero_within _ (by decide)) h.anchor

/-- The streaks move the rung by one, upward only below the widest rung (05 R117). -/
theorem moved (l d : Nat) (p : Bool) (q : Prop) [Decidable q] (mse : Option Db) (dorm : Nat) (h : GovStage c o learned 0 x)
    (hsame : x.n.rung = o.rung) : GovStage c o learned 1 (if p && o.rung < c.rungsM1 then govChange l d 1 c mse dorm x
      else if q then govChange l d (-1) c mse dorm x else x) := by
  split
  next hwiden =>
    obtain ⟨_, hroom⟩ := Bool.and_eq_true_iff.mp hwiden
    exact h.widen l d mse dorm (hsame ▸ of_decide_eq_true hroom)
  next =>
    split
    · exact (h.narrow l d mse dorm hsame).mono zero_le_one
    · exact h.mono zero_le_one

theorem dormancy_if (p : Prop) [Decidable p] (l under f : Nat) (mse : Option Db) (h : GovStage c o learned k x) :
    GovStage c o learned (k + 1) (if p then Machine.dormancy l c under f mse x else x) := by
  split
  · exact h.dormancy l under f mse
  · exact h.mono (Nat.le_succ k)

/-- The anchor of shadow comparison keeps its range (05 R115). -/
theorem anchored (p : Prop) [Decidable p] (y : Int) (h : GovStage c o learned k x) :
    GovStage c o learned k (if p then { x with n := { x.n with anchor := clampI y (-100) 100 } } else x) := by
  split
  · exact h.sameRung_quiet rfl rfl h.eOut (clamp_within _ _ (by decide))
  · exact h

end GovStage

theorem governDir_noElements {s : State} {l d : Nat} (c : DirConf) (o : DirState) (learned : Nat) (h : statLane s l d 0 = 0) :
    governDir s l d c o learned = { n := { o with learned := learned } } := by
  unfold governDir
  exact if_pos (beq_iff_eq.mpr h)

theorem governDir_stage (s : State) (l d : Nat) {c : DirConf} {o : DirState} (learned : Nat) (h : o.rung ≤ c.rungsM1) :
    GovStage c o learned 2 (governDir s l d c o learned) := by
  by_cases hnone : statLane s l d 0 = 0
  · rw [governDir_noElements c o learned hnone]
    exact (GovStage.of_copy (n := { o with learned := learned }) h rfl rfl rfl rfl).mono (Nat.zero_le 2)
  · unfold governDir
    extract_lets st n0 nElem f n1 mse shd nOver nUnder v up down n2 x0 x1 x2 x3
    rw [if_neg (show ¬ (nElem == 0) = true by simpa using hnone)]
    have h0 : GovStage c o learned 0 x0 := GovStage.of_copy h rfl rfl rfl rfl
    have h1 : GovStage c o learned 1 x1 := h0.moved l d _ _ _ _ rfl
    have h2 : GovStage c o learned 2 x2 := h1.dormancy_if _ l _ _ _
    have h3 : GovStage c o learned 2 x3 := h2.setOut l d _ _ _ _
    exact h3.anchored _ _

/-! ## GOVERNOR_RUN (05 R117) -/

/-- What a run of the governor leaves: the thalli, and of the governor's own state whether it governs and the step it last governed. -/
structure GovKeeps (s t : State) : Prop where
  thl : t.thl = s.thl
  enable : t.gov.enable = s.gov.enable
  lastStep : t.gov.lastStep = s.gov.lastStep

namespace GovKeeps

variable {s t u : State}

theorem refl (s : State) : GovKeeps s s := ⟨rfl, rfl, rfl⟩

theorem trans (h : GovKeeps s t) (g : GovKeeps t u) : GovKeeps s u :=
  ⟨g.thl.trans h.thl, g.enable.trans h.enable, g.lastStep.trans h.lastStep⟩

theorem of_around (h : around t = around s) : GovKeeps s t :=
  have hgov := gov_of_around h
  ⟨thl_of_around h, congrArg Gov.enable hgov, congrArg Gov.lastStep hgov⟩

theorem ite (p : Prop) [Decidable p] (h : GovKeeps s t) : GovKeeps s (if p then t else s) := by
  split
  · exact h
  · exact refl s

theorem foldl {α : Type} {f : State → α → State} (hf : ∀ s x, GovKeeps s (f s x)) (xs : List α) (s : State) : GovKeeps s (xs.foldl f s) := by
  induction xs generalizing s with
  | nil => exact refl s
  | cons x xs ih => exact (hf s x).trans (ih _)

end GovKeeps

theorem govConf_keeps (l : Nat) (s : State) : GovKeeps s (govConf l s).1 := by
  unfold govConf
  dsimp only
  split
  · exact .refl s
  · split <;> exact ⟨rfl, rfl, rfl⟩

theorem writeRaw_keeps (a : Nat) (ws : List Word) (s : State) : GovKeeps s (govLayer.writeRaw a ws s) :=
  .of_around (around_writeWords _ _ _)

theorem govLayer_keeps (s : State) (l : Nat) : GovKeeps s (govLayer s l) := by
  refine (govConf_keeps l s).trans (.foldl (fun t d => ?_) _ _)
  dsimp only
  refine .trans ?_ (writeRaw_keeps _ _ _)
  exact ⟨rfl, rfl, rfl⟩

theorem govScale_keeps (s : State) (l d : Nat) : GovKeeps s (govScale s l d) := .of_around (around_writeWords _ _ _)

theorem govReads_keeps (s : State) (l : Nat) : GovKeeps s (govReads s l) :=
  .of_around (around_foldl _ (fun _ _ => around_probe _ _ _) _ _)

theorem clearStatsOnly_keeps (s : State) : GovKeeps s (exchangeStart.clearStatsOnly s) :=
  .foldl (fun _ _ => .of_around (around_zeroMem _ _ _)) _ _

/-- The governor's run ends: it is done, and where it governs, the step is the last it has governed. -/
theorem governor_ends (s : State) : (governor s).gov.done = true ∧ (governor s).thl = s.thl ∧
    (governor s).gov.lastStep = if s.gov.enable then (governor s).cmt.step else s.gov.lastStep := by
  unfold governor
  extract_lets s1 saved probed gov1 s2 s3 s4 gov4
  have h1 : GovKeeps s s1 := .foldl govReads_keeps _ s
  clear_value s1
  have h2 : GovKeeps s1 s2 := by
    refine .ite _ (.trans (t := { probed with gov := { gov1 with localBlocks := saved, localSaved := true } }) ?_ (clearStatsOnly_keeps _))
    exact ⟨probes_thl _ s1, rfl, rfl⟩
  clear_value s2
  have h3 : GovKeeps s2 s3 := .foldl govLayer_keeps _ s2
  clear_value s3
  have h4 : GovKeeps s3 s4 := by
    refine .ite _ (.foldl (fun t x => ?_) _ s3)
    exact govScale_keeps t x.1 x.2
  have hkeeps : GovKeeps s s4 := ((h1.trans h2).trans h3).trans h4
  clear_value s4
  exact ⟨rfl, hkeeps.thl, by dsimp only [gov4]; rw [hkeeps.enable, hkeeps.lastStep]⟩

theorem govReady_of {s : State} (hjob : jobLoaded s = true) (hdone : s.gov.done = false) (hrun : s.cmt.state = .running)
    (hstreams : ∀ h ∈ s.thl, ∀ q ∈ h.strm, q.state = .done) (hstats : ∀ h ∈ s.thl, ∀ e ∈ h.eng, ∀ p ∈ e.passes, p.stats = none)
    (hexch : s.gov.scope = false ∨ s.gov.exchDone = true) : govReady s = true := by
  have hall : streamsDone s = true := by
    unfold streamsDone
    simpa only [List.all_eq_true, beq_iff_eq] using hstreams
  have hmerged : (s.thl.all fun t => t.eng.all fun e => e.passes.all fun p => p.stats.isNone) = true := by
    simpa only [List.all_eq_true, Option.isNone_iff_eq_none] using hstats
  have hrecord : (!s.gov.scope || s.gov.exchDone) = true := by
    rcases hexch with h | h
    · rw [h, Bool.not_false, Bool.true_or]
    · rw [h, Bool.or_true]
  unfold govReady
  rw [hjob, hdone, hrun, hall, hmerged, hrecord]
  rfl

theorem governorRun_next {s : State} (hready : govReady s = true) (hpup : s.dbg.pup.mode ≠ 2) :
    exec .governorRun s = .next (settle (governor s)) := by
  have hgoes : fwHalted s = false := beq_eq_false_iff_ne.mpr hpup
  exact need_next rfl (by rw [hready, hgoes]; rfl) _

/-! ## The record exchange (09 R217) -/

theorem recordUp_otherStep {tag : Word} {s : State} (first : Nat) (bs : List (List Word)) (h : field tag 63 34 ≠ s.cmt.step.toNat % 2 ^ 30) :
    exec (.recordUp tag first bs) s =
      .next (ackRed tag (.record first false bs) (staled (redTaken (.record first false bs) s))) :=
  congrArg Host.Outcome.next (redIn_otherStep _ _ _ h)

theorem recordDown_otherStep {tag : Word} {s : State} (first : Nat) (bs : List (List Word)) (h : field tag 63 34 ≠ s.cmt.step.toNat % 2 ^ 30) :
    exec (.recordDown tag first bs) s =
      .next (ackRed tag (.record first true bs) (staled (redTaken (.record first true bs) s))) :=
  congrArg Host.Outcome.next (redIn_otherStep _ _ _ h)

/-- The blocks of a message that the device does not hold yet. -/
def newUp (t : State) (src first : Nat) (bs : List (List Word)) : List (Nat × List Word) :=
  (indexed first bs).filter fun (i, _) => !t.gov.up.any fun (c, j, _) => c == src && j == i
def newDown (t : State) (first : Nat) (bs : List (List Word)) : List (Nat × List Word) :=
  (indexed first bs).filter fun (i, _) => !t.gov.down.any fun (j, _) => j == i

/-- The reduced record's blocks held, with those of a message. -/
def withDown (new : List (Nat × List Word)) (t : State) : State := { t with gov := { t.gov with down := t.gov.down ++ new } }

/-- Blocks 0 to `n` - 1 of those held. -/
def inOrder (n : Nat) (held : List (Nat × List Word)) : List (List Word) :=
  (List.range n).map fun i => match held.find? (·.1 == i) with
    | some (_, b) => b
    | none => []

section
variable {tag : Word} {s : State} {first : Nat} {bs : List (List Word)} (hfresh : field tag 63 34 = s.cmt.step.toNat % 2 ^ 30)
  (hrun : s.cmt.state = .running)
include hfresh hrun

theorem recordUp_gathers (hok : recordOk s first bs = true) :
    exec (.recordUp tag first bs) s = .next (
      let t := redTaken (.record first false bs) s
      ackRed tag (.record first false bs) (exchangeUp { t with gov := { t.gov with
        up := t.gov.up ++ (newUp t (field tag 25 12) first bs).map fun (i, b) => (field tag 25 12, i, b) } })) :=
  congrArg Host.Outcome.next (redIn_acts _ _ hfresh hrun hok)

/-- A message of the reduced record that leaves it incomplete is kept. -/
theorem recordDown_partial (hok : recordOk s first bs = true) :
    let t := redTaken (.record first true bs) s
    (t.gov.down ++ newDown t first bs).length ≠ 2 * nLayers t →
      exec (.recordDown tag first bs) s = .next (ackRed tag (.record first true bs) (withDown (newDown t first bs) t)) := by
  intro t hpart
  have hlen : ((t.gov.down ++ newDown t first bs).length == 2 * nLayers t) = false := beq_eq_false_iff_ne.mpr hpart
  have hacts : exec (.recordDown tag first bs) s = _ := congrArg Host.Outcome.next (redIn_acts _ _ hfresh hrun hok)
  refine hacts.trans (congrArg (fun u => Host.Outcome.next (ackRed tag (.record first true bs) u)) (if_neg ?_))
  exact fun hc => ne_true_of_eq_false hlen (Bool.and_eq_true_iff.mp hc).1

/-- The message that completes the reduced record ends the exchange: the record is written and passed on. -/
theorem recordDown_whole (hok : recordOk s first bs = true) :
    let t := redTaken (.record first true bs) s
    (t.gov.down ++ newDown t first bs).length = 2 * nLayers t → t.gov.exchDone = false →
      exec (.recordDown tag first bs) s = .next (ackRed tag (.record first true bs)
        (recordReduced (inOrder (2 * nLayers t) (t.gov.down ++ newDown t first bs)) (withDown (newDown t first bs) t))) := by
  intro t hwhole hopen
  have hlen : ((t.gov.down ++ newDown t first bs).length == 2 * nLayers t) = true := beq_iff_eq.mpr hwhole
  have hacts : exec (.recordDown tag first bs) s = _ := congrArg Host.Outcome.next (redIn_acts _ _ hfresh hrun hok)
  refine hacts.trans (congrArg (fun u => Host.Outcome.next (ackRed tag (.record first true bs) u)) (if_pos ?_))
  exact Bool.and_eq_true_iff.mpr ⟨hlen, by rw [hopen]; rfl⟩

end

/-- The reduced record ends the exchange and leaves the thalli. -/
theorem recordReduced_ends (bs : List (List Word)) (s : State) : (recordReduced bs s).gov.exchDone = true ∧
    (recordReduced bs s).gov.exchTimer = none ∧ (recordReduced bs s).gov.exchWait = false ∧ (recordReduced bs s).thl = s.thl :=
  ⟨rfl, rfl, rfl, recordReduced_thl bs s⟩

/-- The folds are sums and maxima, so the order of the two blocks is free (05 T5-6). -/
theorem foldBlock_comm (a b : List Word) : foldBlock a b = foldBlock b a := by
  have hword (i : Nat) : satAdd (wordAt a i) (wordAt b i).toNat = satAdd (wordAt b i) (wordAt a i).toNat := by
    unfold satAdd
    rw [Nat.add_comm]
  have hhalf (i hi lo : Nat) : field (wordAt a i) hi lo + field (wordAt b i) hi lo = field (wordAt b i) hi lo + field (wordAt a i) hi lo :=
    Nat.add_comm _ _
  have hmax (i hi lo : Nat) : max (field (wordAt a i) hi lo) (field (wordAt b i) hi lo) = max (field (wordAt b i) hi lo) (field (wordAt a i) hi lo) :=
    Nat.max_comm _ _
  have hwide (i j : Nat) : (wordAt a i).toNat + (wordAt a j).toNat * 2 ^ 64 + (wordAt b i).toNat + (wordAt b j).toNat * 2 ^ 64 =
      (wordAt b i).toNat + (wordAt b j).toNat * 2 ^ 64 + (wordAt a i).toNat + (wordAt a j).toNat * 2 ^ 64 := by omega
  unfold foldBlock
  simp only [hword, hhalf, hmax, hwide]

/-- Settles O34: the rung through the stages of one direction, the run by what it leaves, each record by what its message meets, and the
fold by its sums and maxima. -/
theorem governorMovesRungsAndRecords : Obligations.GovernorMovesRungsAndRecords := by
  refine ⟨fun s l d c o learned hladder => ?_, fun s hjob hdone hrun hstreams hstats hexch hpup => ?_, fun tag first bs s =>
    ⟨recordUp_otherStep first bs, fun hfresh hrun hok => recordUp_gathers hfresh hrun hok⟩, fun tag first bs s =>
    ⟨recordDown_otherStep first bs, fun hfresh hrun hok => ?_⟩, fun a b _ _ => foldBlock_comm a b⟩
  · obtain ⟨hin, hdown, hup, hlogged, hlearned, heOut, hanchor⟩ := governDir_stage s l d learned hladder
    exact ⟨hin, hdown, hup, governDir_noElements c o learned, heOut, hanchor, hlogged, hlearned⟩
  · obtain ⟨hend, hthl, hlast⟩ := governor_ends s
    exact ⟨governor s, hend, hlast, hthl, governorRun_next (govReady_of hjob hdone hrun hstreams hstats hexch) hpup⟩
  · refine ⟨recordDown_partial hfresh hrun hok, fun hwhole hopen => ?_⟩
    let t := redTaken (.record first true bs) s
    have hwrites := recordDown_whole hfresh hrun hok hwhole hopen
    obtain ⟨hdone, htimer, hwait, hthl⟩ :=
      recordReduced_ends (inOrder (2 * nLayers t) (t.gov.down ++ newDown t first bs)) (withDown (newDown t first bs) t)
    exact ⟨_, hdone, htimer, hwait, hthl, hwrites⟩

end Sys2Proof.Machine
end

section
/-! The commit unit (10): tokens and their folds, what the flip and the abort leave of the step, the report and the decision. -/

namespace Sys2Proof.Machine

open Sys2Proof

/-! ## Tokens (10 R222, T10-1) -/

theorem testBit_field {w : Nat} (x : BitVec w) (hi lo i : Nat) :
    (field x hi lo).testBit i = (decide (i < hi + 1 - lo) && x.getLsbD (lo + i)) := by
  unfold field
  rw [Nat.testBit_mod_two_pow, Nat.testBit_shiftRight, BitVec.testBit_toNat]

theorem testBit_above {x k i : Nat} (hx : x < 2 ^ k) (hi : k ≤ i) : x.testBit i = false :=
  Nat.testBit_lt_two_pow (hx.trans_le (Nat.pow_le_pow_right (by decide) hi))

theorem cls_mkToken {kind : Nat} {r : ClassRec} (flag : Bool) (step nDev nDrop nPoi tag : Nat) (hkind : kind < 2 ^ 4) (hcls : r.cls < 2 ^ 2) :
    (mkToken kind r flag step nDev nDrop nPoi tag).cls = r.cls := by
  refine Nat.eq_of_testBit_eq fun i => ?_
  rw [Token.cls, testBit_field]
  by_cases hi : i < 2
  · rw [mkToken, BitVec.getLsbD_ofNat]
    simp [Nat.testBit_or, Nat.testBit_shiftLeft, testBit_above hkind (Nat.le_add_right 4 i), hi,
      show 4 + i < 64 by omega, show ¬ 6 ≤ 4 + i by omega, show ¬ 8 ≤ 4 + i by omega, show ¬ 16 ≤ 4 + i by omega,
      show ¬ 32 ≤ 4 + i by omega]
  · simp [hi, testBit_above hcls (Nat.le_of_not_lt hi)]

theorem nDev_mkToken (kind : Nat) (r : ClassRec) (flag : Bool) (step : Nat) {nDev : Nat} (nDrop nPoi tag : Nat) (h : nDev < 2 ^ 15) :
    (mkToken kind r flag step nDev nDrop nPoi tag).nDev = nDev := by
  refine Nat.eq_of_testBit_eq fun i => ?_
  rw [Token.nDev, testBit_field]
  by_cases hi : i < 15
  · rw [mkToken, BitVec.getLsbD_ofNat]
    simp [Nat.testBit_or, Nat.testBit_shiftLeft, hi, show i < 64 by omega, show ¬ 16 ≤ i by omega,
      show ¬ 32 ≤ i by omega, show ¬ 48 ≤ i by omega]
  · simp [hi, testBit_above h (Nat.le_of_not_lt hi)]

theorem nDev_fold {a b : Token} (h : a.nDev + b.nDev < 2 ^ 15) : (a.fold b).nDev = a.nDev + b.nDev :=
  nDev_mkToken _ _ _ _ _ _ _ h

theorem worse_cls (a b : ClassRec) : (worse a b).cls = max a.cls b.cls := by
  unfold worse
  simp only [beq_iff_eq]
  split_ifs <;> omega

/-- Between equal classes the lower device stands (10 R222). -/
theorem worse_dev {a b : ClassRec} (heq : a.cls = b.cls) (hne : a.cls ≠ 0) : (worse a b).dev = min a.dev b.dev := by
  unfold worse
  simp only [beq_iff_eq]
  split_ifs <;> omega

/-! ## What an event, an access or a message leaves of the commit unit -/

/-- The commit unit but for the worst class that it has recorded. -/
def Cmt.unrecorded (c : Cmt) : Cmt := { c with worstRec := {} }

theorem Cmt.progress_of_unrecorded {c d : Cmt} (h : c.unrecorded = d) : c.epoch = d.epoch ∧ c.step = d.step ∧ c.cntCommit = d.cntCommit := by
  subst h
  exact ⟨rfl, rfl, rfl⟩

theorem unrecorded_of_around {s t : State} (h : around t = around s) : t.cmt.unrecorded = s.cmt.unrecorded := congrArg State.cmt h

theorem bkts_of_around {s t : State} (h : around t = around s) : t.rdx.bkts = s.rdx.bkts :=
  (congrArg (fun x : State => x.rdx.bkts) h :)

theorem foldl_keeps {α β : Type} (g : State → β) {f : State → α → State} (hf : ∀ s x, g (f s x) = g s) (xs : List α) (s : State) :
    g (xs.foldl f s) = g s := by
  induction xs generalizing s with
  | nil => rfl
  | cons x xs ih => rw [List.foldl_cons, ih, hf]

theorem logEv_unrecorded (a b c d e g : Nat) (s : State) : (logEv a b c d e g s).cmt.unrecorded = s.cmt.unrecorded :=
  unrecorded_of_around (around_logEv a b c d e g s)

theorem logEv_bkts (a b c d e g : Nat) (s : State) : (logEv a b c d e g s).rdx.bkts = s.rdx.bkts :=
  bkts_of_around (around_logEv a b c d e g s)

theorem cmtEv_cmt (cls cause dev bucket w3 : Nat) (s : State) : (cmtEv cls cause dev bucket w3 s).cmt = s.cmt := by
  obtain ⟨L, n, h⟩ := logEv_form 3 cls cause (cls <<< 8 ||| dev <<< 10 ||| bucket <<< 24) s.cmt.step.toNat w3 s
  unfold cmtEv
  rw [h]

theorem around_modMem (a n : Nat) (f : List Byte → List Byte) (s : State) : around (modMem a n f s) = around s := by
  have hread := around_readMem .unit a n s
  unfold modMem
  split
  next s1 h => rwa [h] at hread
  next s1 bs h =>
    rw [h] at hread
    exact (around_writeMem _ _ _ _).trans hread

theorem around_lcntAdd (l d k v : Nat) (s : State) : around (lcntAdd l d k v s) = around s := by
  unfold lcntAdd
  split
  · rfl
  · exact around_modMem _ _ _ _

theorem around_lifetime (s : State) : around (lifetime s) = around s := by
  unfold lifetime
  split
  · rfl
  · refine around_foldl _ (fun u x => ?_) _ _
    dsimp only
    simp only [around_lcntAdd]
    split
    · rfl
    · exact around_probe _ _ _

theorem around_sendToken (dst : Nat) (t : Token) (s : State) : around (sendToken dst t s) = around s := around_sendTxn _ _ _

theorem around_toChildren (t : Token) (s : State) : around (toChildren t s) = around s :=
  around_foldl _ (fun u c => around_sendToken c t u) _ _

theorem around_ackAll (ms : List (Word × RedBody)) (s : State) : around (ackAll ms s) = around s :=
  around_foldl _ (fun _ _ => around_takeRx _ _ _ _) _ _

theorem around_copyScales (s : State) : around (copyScales s) = around s := by
  refine around_foldl _ (fun t b => ?_) _ _
  split
  · rfl
  · exact (around_writeWords _ _ _).trans (around_probe _ _ _)

/-! ## The flip (10 R228) -/

theorem govCommit1_unrecorded (s : State) (e : GovEv) : (govCommit1 s e).cmt.unrecorded = s.cmt.unrecorded := by
  have hlcnt (l d k v : Nat) (u : State) : (lcntAdd l d k v u).cmt.unrecorded = u.cmt.unrecorded :=
    unrecorded_of_around (around_lcntAdd l d k v u)
  unfold govCommit1
  dsimp only
  split
  · split <;> exact (hlcnt _ _ _ _ _).trans (logEv_unrecorded _ _ _ _ _ _ _)
  · exact (hlcnt _ _ _ _ _).trans (logEv_unrecorded _ _ _ _ _ _ _)
  · exact logEv_unrecorded _ _ _ _ _ _ _

theorem sealStart_cmt (s : State) : (sealStart s).cmt = s.cmt := by
  unfold sealStart
  split <;> rfl

theorem flip_unrecorded (s : State) : (flip s).cmt.unrecorded =
    { s.cmt.unrecorded with epoch := !s.cmt.epoch, step := s.cmt.step + 1, cntCommit := satAdd s.cmt.cntCommit 1 } := by
  have hevents : (s.gov.events.foldl govCommit1 (lifetime s)).cmt.unrecorded = s.cmt.unrecorded :=
    (foldl_keeps (·.cmt.unrecorded) govCommit1_unrecorded _ _).trans (unrecorded_of_around (around_lifetime s))
  unfold flip
  rw [sealStart_cmt]
  exact congrArg (fun c : Cmt => { c with epoch := !c.epoch, step := c.step + 1, cntCommit := satAdd c.cntCommit 1 }) hevents

/-! ## Work that stops (10 R231, R392) -/

/-- A thallus whose streams, cores, engines and DMA channels have stopped. -/
def Thallus.stopped (t : Thallus) : Thallus :=
  { t with
    strm := t.strm.map Stream.reset
    core := t.core.map Core.reset
    eng := t.eng.map Engine.flush
    runs := []
    epochOpen := false
    dma := t.dma.map fun q => q.filter fun d => d.started && (!d.remote || d.sentAny) }

theorem stopWork_thl (s : State) : (stopWork s).thl = s.thl.map Thallus.stopped := rfl

/-- A thallus whose tags are freed and whose pegs are cleared. -/
def Thallus.freed (t : Thallus) : Thallus :=
  { t with strm := t.strm.map fun q => { q with tval := 0, tagTimer := none }, peg := List.replicate 64 0, pegSat := 0 }

theorem rdxClear_pegs_thl (s : State) : (clearPegs (rdxClear s)).thl = s.thl.map Thallus.freed := by
  have hacked := ackAll_thl (s.rdx.bkts.flatMap (·.waiting)) s
  unfold clearPegs rdxClear
  dsimp only
  rw [hacked, List.map_map]
  exact congrArg (fun f => s.thl.map f) (funext fun _ => rfl)

theorem abortStep_thl (s : State) : (abortStep s).thl = (s.thl.map Thallus.stopped).map Thallus.freed :=
  calc (abortStep s).thl
    _ = (clearStats (govClear (clearPegs (rdxClear (stopWork (lifetime s)))))).thl := abandonSnap_thl _ _
    _ = (clearPegs (rdxClear (stopWork (lifetime s)))).thl := clearStats_thl _
    _ = (s.thl.map Thallus.stopped).map Thallus.freed := by rw [rdxClear_pegs_thl, stopWork_thl, lifetime_thl]

/-- Nothing of the step is left in the thallus: no peg, no run, no stream on its way, no queued pass. -/
def Thallus.Cleared (t : Thallus) : Prop :=
  t.peg = List.replicate 64 0 ∧ t.runs = [] ∧ (∀ q ∈ t.strm, q.state = ({} : Stream).state) ∧
    ∀ e ∈ t.eng, ∀ p ∈ e.passes, p.stage ≠ .queued

theorem Engine.flush_notQueued {e : Engine} {p : Pass} (h : p ∈ e.flush.passes) : p.stage ≠ .queued := by
  obtain ⟨_, hstage⟩ := List.mem_filter.mp h
  exact bne_iff_ne.mp (Bool.and_eq_true_iff.mp hstage).1

theorem Thallus.freed_cleared (t : Thallus) : t.stopped.freed.Cleared := by
  refine ⟨rfl, rfl, fun q hq => ?_, fun e he p hp => ?_⟩
  · obtain ⟨k, hk, rfl⟩ := List.mem_map.mp hq
    obtain ⟨k0, _, rfl⟩ := List.mem_map.mp hk
    rfl
  · obtain ⟨e0, _, rfl⟩ := List.mem_map.mp he
    exact Engine.flush_notQueued hp

theorem clearStats_unrecorded (s : State) : (clearStats s).cmt.unrecorded = s.cmt.unrecorded :=
  foldl_keeps (·.cmt.unrecorded) (fun _ _ => unrecorded_of_around (around_zeroMem _ _ _)) _ s

theorem clearStats_bkts (s : State) : (clearStats s).rdx.bkts = s.rdx.bkts :=
  foldl_keeps (·.rdx.bkts) (fun _ _ => bkts_of_around (around_zeroMem _ _ _)) _ s

theorem abandonSnap_unrecorded (again : Bool) (s : State) : (abandonSnap again s).cmt.unrecorded = s.cmt.unrecorded := by
  unfold abandonSnap
  split
  · exact logEv_unrecorded _ _ _ _ _ _ _
  · rfl

theorem abandonSnap_bkts (again : Bool) (s : State) : (abandonSnap again s).rdx.bkts = s.rdx.bkts := by
  unfold abandonSnap
  split
  · exact logEv_bkts _ _ _ _ _ _ _
  · rfl

theorem rdxClear_unrecorded (s : State) : (rdxClear s).cmt.unrecorded = s.cmt.unrecorded :=
  (unrecorded_of_around (around_ackAll (s.rdx.bkts.flatMap (·.waiting)) s) :)

/-- The reduction units abandon every bucket. -/
theorem rdxClear_bkts (s : State) : (rdxClear s).rdx.bkts = [] := rfl

theorem abortStep_bkts (s : State) : (abortStep s).rdx.bkts = [] :=
  calc (abortStep s).rdx.bkts
    _ = (clearStats (govClear (clearPegs (rdxClear (stopWork (lifetime s)))))).rdx.bkts := abandonSnap_bkts _ _
    _ = (rdxClear (stopWork (lifetime s))).rdx.bkts := clearStats_bkts _
    _ = [] := rdxClear_bkts _

/-- The abort leaves the step and the epoch pointer as they are (10 R231). -/
theorem abortStep_unrecorded (s : State) :
    (abortStep s).cmt.unrecorded = { s.cmt.unrecorded with poisoned := false, excluded := false } := by
  have hkept : (clearStats (govClear (clearPegs (rdxClear (stopWork (lifetime s)))))).cmt.unrecorded = s.cmt.unrecorded :=
    calc (clearStats (govClear (clearPegs (rdxClear (stopWork (lifetime s)))))).cmt.unrecorded
      _ = (rdxClear (stopWork (lifetime s))).cmt.unrecorded := clearStats_unrecorded _
      _ = (lifetime s).cmt.unrecorded := rdxClear_unrecorded _
      _ = s.cmt.unrecorded := unrecorded_of_around (around_lifetime s)
  rw [← hkept]
  exact abandonSnap_unrecorded _ _

/-! ## The decision (10 R226, R228, R231) -/

/-- A dropped device counts its step (10 R232). -/
def dropCounted (s : State) : State :=
  if dropped s then { s with cmt := { s.cmt with cntDropped := satAdd s.cmt.cntDropped 1 } } else s

/-- The flip or the abort of a DECIDE. -/
def decided (t : Token) (s : State) : State := if t.flag then flip (dropCounted s) else abortStep (dropCounted s)

/-- DECIDE goes on to the children; the step, the thalli and the buckets are as the flip or the abort leaves them. -/
theorem actDecide_sends (t : Token) (s : State) : ∃ v, actDecide t s = toChildren t v ∧ v.cmt.epoch = (decided t s).cmt.epoch ∧
    v.cmt.step = (decided t s).cmt.step ∧ v.cmt.cntCommit = (decided t s).cmt.cntCommit ∧ v.thl = (decided t s).thl ∧
    v.rdx.bkts = (decided t s).rdx.bkts :=
  ⟨_, rfl, rfl, rfl, rfl, rfl, rfl⟩

theorem actDecide_leaves (t : Token) (s : State) : (actDecide t s).cmt.epoch = (decided t s).cmt.epoch ∧
    (actDecide t s).cmt.step = (decided t s).cmt.step ∧ (actDecide t s).cmt.cntCommit = (decided t s).cmt.cntCommit ∧
    (actDecide t s).thl = (decided t s).thl ∧ (actDecide t s).rdx.bkts = (decided t s).rdx.bkts := by
  obtain ⟨v, hsends, hepoch, hstep, hcount, hthl, hbkts⟩ := actDecide_sends t s
  have hsent := around_toChildren t v
  obtain ⟨hepochv, hstepv, hcountv⟩ := Cmt.progress_of_unrecorded (unrecorded_of_around hsent)
  rw [hsends]
  exact ⟨hepochv.trans hepoch, hstepv.trans hstep, hcountv.trans hcount, (thl_of_around hsent).trans hthl, (bkts_of_around hsent).trans hbkts⟩

theorem dropCounted_keeps (s : State) : (dropCounted s).cmt.epoch = s.cmt.epoch ∧ (dropCounted s).cmt.step = s.cmt.step ∧
    (dropCounted s).cmt.cntCommit = s.cmt.cntCommit := by
  unfold dropCounted
  split <;> exact ⟨rfl, rfl, rfl⟩

theorem actDecide_commits {t : Token} (s : State) (h : t.flag = true) : (actDecide t s).cmt.epoch = !s.cmt.epoch ∧
    (actDecide t s).cmt.step = s.cmt.step + 1 ∧ (actDecide t s).cmt.cntCommit = satAdd s.cmt.cntCommit 1 := by
  obtain ⟨hepoch, hstep, hcount, -⟩ := actDecide_leaves t s
  obtain ⟨hepoch0, hstep0, hcount0⟩ := dropCounted_keeps s
  have hflip : decided t s = flip (dropCounted s) := if_pos h
  rw [hepoch, hstep, hcount, hflip, ← hepoch0, ← hstep0, ← hcount0]
  exact Cmt.progress_of_unrecorded (flip_unrecorded (dropCounted s))

theorem decided_aborts {t : Token} (s : State) (h : t.flag = false) : decided t s = abortStep (dropCounted s) := if_neg (by rw [h]; decide)

theorem actDecide_aborts {t : Token} (s : State) (h : t.flag = false) : (actDecide t s).cmt.epoch = s.cmt.epoch ∧
    (actDecide t s).cmt.step = s.cmt.step ∧ (actDecide t s).cmt.cntCommit = s.cmt.cntCommit := by
  obtain ⟨hepoch, hstep, hcount, -⟩ := actDecide_leaves t s
  obtain ⟨hepoch0, hstep0, hcount0⟩ := dropCounted_keeps s
  rw [hepoch, hstep, hcount, decided_aborts s h, ← hepoch0, ← hstep0, ← hcount0]
  exact (Cmt.progress_of_unrecorded (abortStep_unrecorded (dropCounted s)) :)

theorem actDecide_clears {t : Token} (s : State) (h : t.flag = false) :
    (actDecide t s).rdx.bkts = [] ∧ ∀ k ∈ (actDecide t s).thl, k.Cleared := by
  obtain ⟨-, -, -, hthl, hbkts⟩ := actDecide_leaves t s
  rw [hthl, hbkts, decided_aborts s h, abortStep_bkts, abortStep_thl]
  refine ⟨rfl, fun k hk => ?_⟩
  obtain ⟨k1, hk1, rfl⟩ := List.mem_map.mp hk
  obtain ⟨k0, _, rfl⟩ := List.mem_map.mp hk1
  exact k0.freed_cleared

/-! ## DEVICE_READY (10 R224 to R226) -/

theorem readyNow_of {s : State} (h : StepFinished s) : readyNow s = true := by
  obtain ⟨hrun, hjob, hstart, hstreams, hgov, hclass, hbkts, hfill⟩ := h
  have hall : streamsDone s = true := by
    unfold streamsDone
    simpa only [List.all_eq_true, beq_iff_eq] using hstreams
  have hbuckets : (s.rdx.bkts.all fun k => k.completed || !k.touched) = true := by
    simpa only [List.all_eq_true, Bool.or_eq_true, Bool.not_eq_true'] using hbkts
  have hfilled : (s.snap.phase == 2 && !s.srun.fillDone) = false := by
    by_cases h : s.snap.phase = 2
    · rw [hfill h]; exact Bool.and_false _
    · rw [beq_eq_false_iff_ne.mpr h]; rfl
  unfold readyNow
  rw [hrun, hjob, hstart, hall, hgov, hclass, hbuckets, hfilled]
  rfl

/-- A token of every child is held, or one child's is missing. -/
theorem heldAll_iff {kids : List Nat} {held : List (Nat × Token)} :
    (kids.all fun c => held.any (·.1 == c)) = true ↔ ∀ c ∈ kids, ∃ p ∈ held, p.1 = c := by
  simp only [List.all_eq_true, List.any_eq_true, beq_iff_eq]

section
variable {g : State}

theorem tryReport_waits (hmissing : ∃ c ∈ children g, ∀ p ∈ g.crun.reports, p.1 ≠ c) : tryReport g = g := by
  have hnot : ((children g).all fun c => g.crun.reports.any (·.1 == c)) = false := by
    obtain ⟨c, hc, hnone⟩ := hmissing
    refine Bool.eq_false_iff.mpr fun hall => ?_
    obtain ⟨p, hp, heq⟩ := heldAll_iff.mp hall c hc
    exact hnone p hp heq
  unfold tryReport
  exact if_pos (by rw [hnot]; exact Bool.or_true _)

variable (hstate : g.cmt.state = .gathering) (hall : ∀ c ∈ children g, ∃ p ∈ g.crun.reports, p.1 = c)
include hstate hall

theorem tryReport_folds : tryReport g =
    let t := g.crun.reports.foldl (fun x p => x.fold p.2) (ownReport g)
    if g.cmt.root then (if fwHalted g then g else rootDecide t g)
    else sendToken g.cmt.parent.toNat t { g with cmt := { g.cmt with state := .reported }, crun := { g.crun with reported := true } } := by
  unfold tryReport
  refine if_neg ?_
  rw [hstate, heldAll_iff.mpr hall]
  decide

theorem tryReport_sends (hroot : g.cmt.root = false) : tryReport g =
    sendToken g.cmt.parent.toNat (g.crun.reports.foldl (fun x p => x.fold p.2) (ownReport g))
      { g with cmt := { g.cmt with state := .reported }, crun := { g.crun with reported := true } } :=
  (tryReport_folds hstate hall).trans (if_neg (by rw [hroot]; decide))

theorem tryReport_decides (hroot : g.cmt.root = true) (hgoes : fwHalted g = false) :
    tryReport g = rootDecide (g.crun.reports.foldl (fun x p => x.fold p.2) (ownReport g)) g :=
  (tryReport_folds hstate hall).trans ((if_pos hroot).trans (if_neg (by rw [hgoes]; decide)))

end

section
variable {t : Token} {s : State}

theorem rootDecide_missing (h : t.nDev ≠ s.cmt.nJob.toNat) :
    rootDecide t s = decideAs ⟨3, 0x7B, self s⟩ false t (cmtEv 3 0x7B (self s) 0 t.nDev s) := by
  unfold rootDecide
  exact if_pos (bne_iff_ne.mpr h)

variable (hwhole : t.nDev = s.cmt.nJob.toNat)
include hwhole

theorem rootDecide_drops (h : s.cmt.dropMax.toNat < t.nDropped) :
    ∃ cls, (cls = if s.cmt.dropMax.toNat < t.nPoisoned then 2 else 1) ∧
      rootDecide t s = decideAs ⟨cls, 0x77, self s⟩ false t (cmtEv cls 0x77 (self s) 0 (t.nDropped ||| t.nPoisoned <<< 16) s) := by
  refine ⟨_, rfl, ?_⟩
  unfold rootDecide
  exact (if_neg (by simpa using hwhole)).trans (if_pos h)

theorem rootDecide_commits (h : t.nDropped ≤ s.cmt.dropMax.toNat) : rootDecide t s = decideAs {} true t s := by
  unfold rootDecide
  exact (if_neg (by simpa using hwhole)).trans (if_neg (Nat.not_lt.mpr h))

end

theorem fwHalted_of_around {s t : State} (h : around t = around s) : fwHalted t = fwHalted s :=
  (congrArg (fun x : State => x.dbg.pup.mode == 2) h :)

theorem deviceReady_next {s : State} (h : StepFinished s) (hgoes : fwHalted s = false) :
    exec .deviceReady s = .next (settle (tryReport (gathering s))) :=
  need_next rfl (by rw [readyNow_of h, hgoes]; rfl) _

/-! ## Tokens that arrive (10 R222, R225) -/

section
variable {src : Nat} {w0 w1 : Word} {step : State → Nat} {live : State → Bool} (f : Token → State → State) {s : State}

/-- A token of this job and step acts once it is acknowledged. -/
theorem tokenIn_acts (h : (⟨w0, w1⟩ : Token).current (step s) s) (hlive : live s = true) :
    tokenIn src w0 w1 step live f s = settle (f ⟨w0, w1⟩ (ackCommit src w0 w1 s)) := by
  obtain ⟨hjob, htag, hstep⟩ := h
  unfold tokenIn
  refine if_neg ?_
  rw [hjob, htag, hstep, hlive, bne_self_eq_false, bne_self_eq_false]
  decide

theorem tokenIn_foreign (h : ¬ (⟨w0, w1⟩ : Token).current (step s) s) :
    tokenIn src w0 w1 step live f s = foreign src (ackCommit src w0 w1 s) := by
  unfold tokenIn
  refine if_pos ?_
  by_contra hacts
  simp only [Bool.or_eq_true, not_or, Bool.not_eq_true, Bool.not_eq_false', bne_eq_false_iff_eq] at hacts
  obtain ⟨⟨⟨hjob, htag⟩, hstep⟩, -⟩ := hacts
  exact h ⟨hjob, htag, hstep⟩

end

theorem decideIn_acts {t : Token} {s : State} (hroot : s.cmt.root = false)
    (h : s.cmt.state = .running ∨ s.cmt.state = .gathering ∨ s.cmt.state = .reported) : decideIn t s = actDecide t s := by
  unfold decideIn
  rcases h with h | h | h <;> (rw [h]; exact if_neg (by rw [hroot]; decide))

section
variable {src : Nat} {w0 w1 : Word} {s : State} (hkind : (⟨w0, w1⟩ : Token).kind = 1)
include hkind

theorem report_foreign (h : ¬ (⟨w0, w1⟩ : Token).current s.cmt.step.toNat s) :
    exec (.report src w0 w1) s = .next (foreign src (ackCommit src w0 w1 s)) :=
  (need_next rfl (beq_iff_eq.mpr hkind) _).trans (congrArg Host.Outcome.next (tokenIn_foreign _ h))

variable (hcur : (⟨w0, w1⟩ : Token).current s.cmt.step.toNat s) (hflag : (⟨w0, w1⟩ : Token).flag = false)
include hcur hflag

/-- A not-ready REPORT goes on to the parent unchanged (10 R225). -/
theorem report_passes : let t : Token := ⟨w0, w1⟩; let v := ackCommit src w0 w1 s
    v.cmt.root = false → v.cmt.state ≠ .idle → afterFlip v = false →
      exec (.report src w0 w1) s = .next (settle (sendToken v.cmt.parent.toNat t
        { v with cmt := { v.cmt with worstRec := worse v.cmt.worstRec t.rec' } })) := by
  intro t v hroot hidle hbefore
  refine (need_next rfl (beq_iff_eq.mpr hkind) _).trans (congrArg Host.Outcome.next ((tokenIn_acts _ hcur rfl).trans (congrArg settle ?_)))
  let w : State := { v with cmt := { v.cmt with worstRec := worse v.cmt.worstRec t.rec' } }
  have hpass : passReport t w = sendToken v.cmt.parent.toNat t w := by
    unfold passReport
    exact if_neg (by rw [show afterFlip w = false from hbefore]; decide)
  calc _
    _ = if v.cmt.root then _ else if v.cmt.state == .idle then v else passReport t w := if_pos (by rw [hflag]; rfl)
    _ = passReport t w := (if_neg (by rw [hroot]; decide)).trans (if_neg (by simpa using hidle))
    _ = _ := hpass

/-- A not-ready REPORT makes the root decide abort (10 R226). -/
theorem report_aborts : let t : Token := ⟨w0, w1⟩; let v := ackCommit src w0 w1 s
    v.cmt.root = true → fwHalted v = false → v.cmt.state = .running ∨ v.cmt.state = .gathering →
      exec (.report src w0 w1) s = .next (settle (decideAbort t.rec'
        { v with cmt := { v.cmt with worstRec := worse v.cmt.worstRec t.rec' } })) := by
  intro t v hroot hgoes hopen
  have hopens : (v.cmt.state == .running || v.cmt.state == .gathering) = true := by
    simpa only [Bool.or_eq_true, beq_iff_eq] using hopen
  refine (need_next rfl (beq_iff_eq.mpr hkind) _).trans (congrArg Host.Outcome.next ((tokenIn_acts _ hcur rfl).trans (congrArg settle ?_)))
  refine (if_pos (by rw [hflag]; rfl)).trans ((if_pos hroot).trans ((if_neg ?_).trans (if_neg (by rw [hgoes]; decide))))
  rw [hopens]
  decide

end

section
variable {src : Nat} {w0 w1 : Word} {s : State} (hkind : (⟨w0, w1⟩ : Token).kind = 2)
  (hcur : (⟨w0, w1⟩ : Token).current s.cmt.step.toNat s) (hroot : (ackCommit src w0 w1 s).cmt.root = false)
  (hstate : (ackCommit src w0 w1 s).cmt.state = .running ∨ (ackCommit src w0 w1 s).cmt.state = .gathering ∨
    (ackCommit src w0 w1 s).cmt.state = .reported)
include hkind hcur hroot hstate

theorem decideCommit_acts (hflag : (⟨w0, w1⟩ : Token).flag = true) :
    exec (.decideCommit src w0 w1) s = .next (settle (actDecide ⟨w0, w1⟩ (ackCommit src w0 w1 s))) :=
  (need_next rfl (by rw [hkind, hflag]; rfl) _).trans (congrArg Host.Outcome.next
    ((tokenIn_acts _ hcur rfl).trans (congrArg settle (decideIn_acts hroot hstate))))

theorem decideAbort_acts (hflag : (⟨w0, w1⟩ : Token).flag = false) :
    exec (.decideAbort src w0 w1) s = .next (settle (actDecide ⟨w0, w1⟩ (ackCommit src w0 w1 s))) :=
  (need_next rfl (by rw [hkind, hflag]; rfl) _).trans (congrArg Host.Outcome.next
    ((tokenIn_acts _ hcur rfl).trans (congrArg settle (decideIn_acts hroot hstate))))

end

/-- Settles O43: the ready device by what it holds of its children, a token by what it meets, the flip and the abort by what each leaves. -/
theorem readinessAndDecisions : Obligations.ReadinessAndDecisions := by
  refine ⟨fun s hdone hgoes => ⟨_, deviceReady_next hdone hgoes, tryReport_waits, fun hall => ?_⟩, fun a b => ⟨worse_cls a b, worse_dev⟩,
    fun a b h => nDev_fold h, fun src w0 w1 s => ?_, fun t s h => actDecide_commits s h, fun t s h => ?_⟩
  · have hstate : (gathering s).cmt.state = .gathering := rfl
    have hfw : fwHalted (gathering s) = false := (fwHalted_of_around (around_copyScales s)).trans hgoes
    refine ⟨tryReport_sends hstate hall, fun hroot hmissing => ?_, fun hroot hwhole hdrops => ?_, fun hroot hwhole hfew => ?_⟩
    · rw [tryReport_decides hstate hall hroot hfw, rootDecide_missing hmissing]
    · rw [tryReport_decides hstate hall hroot hfw]
      exact rootDecide_drops hwhole hdrops
    · rw [tryReport_decides hstate hall hroot hfw, rootDecide_commits hwhole hfew]
  · exact ⟨fun hkind hcur hflag => report_passes hkind hcur hflag, fun hkind hcur hflag => report_aborts hkind hcur hflag,
      fun hkind hforeign => report_foreign hkind hforeign,
      fun hkind hflag hcur hroot hstate => decideCommit_acts hkind hcur hroot hstate hflag,
      fun hkind hflag hcur hroot hstate => decideAbort_acts hkind hcur hroot hstate hflag⟩
  · obtain ⟨hepoch, hstep, hcount⟩ := actDecide_aborts s h
    exact ⟨hepoch, hstep, hcount, actDecide_clears s h⟩

end Sys2Proof.Machine
end

section
/-! The commit unit (10): quiescence and DONE, RELEASE and the outcomes of the root, the timeouts, and the start of a step. -/

namespace Sys2Proof.Machine

open Sys2Proof

/-! ## A device that stops (10 R392) -/

theorem stopAll_stops (s : State) : Stopped (stopAll s) := by
  refine ⟨rfl, rfl, rfl, rfl, rfl, rfl, rfl, rfl, fun k hk => ?_⟩
  obtain ⟨k0, _, rfl⟩ := List.mem_map.mp hk
  rfl

/-! ## RELEASE (10 R229, R230, T10-3) -/

/-- RELEASE leaves of the commit unit what it does not set: the event and the messages to the children change nothing there. -/
theorem releaseNote_sends (t : Token) (s : State) : ∃ c : Cmt, c.unrecorded = s.cmt.unrecorded ∧
    (releaseNote t s).crun.decide = none ∧
    (releaseNote t s).cmt = { c with
      worstRec := worse c.worstRec t.rec'
      lastOutcome := BitVec.ofNat 2 t.cls, lastCommitted := t.flag
      cntRetry := if t.cls == 1 then satAdd c.cntRetry 1 else c.cntRetry
      cntSkip := if t.cls == 2 then satAdd c.cntSkip 1 else c.cntSkip
      cntRestart := if t.cls == 3 then satAdd c.cntRestart 1 else c.cntRestart
      retryRun := if t.flag || t.cls == 2 then 0 else if t.cls == 1 then satAdd c.retryRun 1 else c.retryRun
      skipRun := if t.flag then 0 else if t.cls == 2 then satAdd c.skipRun 1 else c.skipRun
      step := if t.cls == 2 then c.step + 1 else c.step } := by
  refine ⟨_, ?_, rfl, rfl⟩
  rw [cmtEv_cmt]
  exact unrecorded_of_around (around_toChildren t s)

theorem Cmt.counters_of_unrecorded {c d : Cmt} (h : c.unrecorded = d.unrecorded) :
    c.cntRetry = d.cntRetry ∧ c.cntSkip = d.cntSkip ∧ c.cntRestart = d.cntRestart ∧ c.step = d.step ∧ c.epoch = d.epoch :=
  ⟨(congrArg Cmt.cntRetry h :), (congrArg Cmt.cntSkip h :), (congrArg Cmt.cntRestart h :), (congrArg Cmt.step h :), (congrArg Cmt.epoch h :)⟩

theorem releaseNote_counts (t : Token) (s : State) : let u := releaseNote t s
    u.cmt.cntRetry = (if t.cls = 1 then satAdd s.cmt.cntRetry 1 else s.cmt.cntRetry) ∧
    u.cmt.cntSkip = (if t.cls = 2 then satAdd s.cmt.cntSkip 1 else s.cmt.cntSkip) ∧
    u.cmt.cntRestart = (if t.cls = 3 then satAdd s.cmt.cntRestart 1 else s.cmt.cntRestart) ∧
    u.cmt.step = (if t.cls = 2 then s.cmt.step + 1 else s.cmt.step) ∧ u.cmt.epoch = s.cmt.epoch ∧ u.crun.decide = none ∧
    (t.flag = true → u.cmt.retryRun = 0 ∧ u.cmt.skipRun = 0) := by
  obtain ⟨c, hc, hdecide, hcmt⟩ := releaseNote_sends t s
  obtain ⟨hretry, hskip, hrestart, hstep, hepoch⟩ := Cmt.counters_of_unrecorded hc
  dsimp only
  rw [hcmt, hdecide, ← hretry, ← hskip, ← hrestart, ← hstep, ← hepoch]
  simp only [beq_iff_eq]
  exact ⟨trivial, trivial, trivial, trivial, trivial, trivial, fun hflag => by simp [hflag]⟩

theorem releaseAct_stops {t : Token} (s : State) (h : t.cls = 3) : Stopped (releaseAct t s) := by
  unfold releaseAct
  rw [if_pos (beq_iff_eq.mpr h)]
  exact stopAll_stops _

theorem releaseAct_again {t : Token} (s : State) (hcls : t.cls ≠ 3) (hflag : t.flag = false) :
    (releaseAct t s).crun.startDue = true ∧ (releaseAct t s).cmt.state = .running := by
  have hagain : releaseAct t s = releaseAgain t (settledStep s) (releaseNote t s) :=
    (if_neg (by simpa using hcls)).trans (if_neg (by rw [hflag]; decide))
  rw [hagain]
  exact ⟨rfl, rfl⟩

/-- The root's RELEASE for a restart stops the device. -/
theorem releaseAs_restart_stops (cause dev : Nat) (flag : Bool) (cover : Token) (s : State) : Stopped (releaseAs ⟨3, cause, dev⟩ flag cover s) :=
  releaseAct_stops s (cls_mkToken flag _ _ _ _ _ (by decide) (show 3 < 2 ^ 2 by decide))

/-! ## The outcomes of the root (10 T10-3) -/

section
variable {r : ClassRec} (d : Token) {s : State}

theorem rootOutcome_retry (h : r.cls = 1) : rootOutcome false r d s =
    if s.cmt.retryRun < s.cmt.retryMax then releaseAs { r with cls := 1 } false d s
    else releaseAs ⟨3, 0x78, self s⟩ false d (cmtEv 3 0x78 r.dev 0 0 s) := by
  unfold rootOutcome
  rw [if_neg Bool.false_ne_true, if_pos (beq_iff_eq.mpr h)]

theorem rootOutcome_skip (h : r.cls = 2) : rootOutcome false r d s =
    if s.cmt.skipRun < s.cmt.skipMax then releaseAs { r with cls := 2 } false d s
    else releaseAs ⟨3, 0x79, self s⟩ false d (cmtEv 3 0x79 r.dev 0 0 s) := by
  unfold rootOutcome
  rw [if_neg Bool.false_ne_true, if_neg (by rw [h]; decide), if_pos (beq_iff_eq.mpr h)]

end

/-! ## Quiescence and DONE (10 R227, R230) -/

theorem quietNow_of {s : State} {d : Token} (h : Quiet s d) : quietNow s = true := by
  obtain ⟨hdecide, hquiet, hsent, htxns, hwork⟩ := h
  have hidle : ((d.flag && !s.crun.startDue) ||
      ((s.thl.all fun t => t.eng.all (·.passes.isEmpty) && t.dma.all (·.isEmpty) && t.runs.isEmpty) &&
        s.rdx.bkts.all fun k => k.completed || !k.touched)) = true := by
    rcases hwork with ⟨hflag, hstart⟩ | ⟨hthl, hbkts⟩
    · rw [hflag, hstart]
      rfl
    · have hempty : (s.thl.all fun t => t.eng.all (·.passes.isEmpty) && t.dma.all (·.isEmpty) && t.runs.isEmpty) = true := by
        simpa only [List.all_eq_true, Bool.and_eq_true, List.isEmpty_iff, and_assoc] using hthl
      have hbuckets : (s.rdx.bkts.all fun k => k.completed || !k.touched) = true := by
        simpa only [List.all_eq_true, Bool.or_eq_true, Bool.not_eq_true'] using hbkts
      rw [hempty, hbuckets]
      exact Bool.or_true _
  unfold quietNow
  rw [hdecide]
  dsimp only
  rw [hquiet, hsent, hidle, Bool.and_true]
  refine List.all_eq_true.mpr fun x hx => ?_
  obtain ⟨hstep, hdma⟩ := htxns x hx
  split
  next e => exact absurd e hstep
  next n ch e => exact absurd e (hdma n ch)
  next => rfl

theorem deviceQuiet_next {s : State} {d : Token} (h : Quiet s d) :
    exec .deviceQuiet s = .next (settle (tryDone { s with crun := { s.crun with quiet := true } })) :=
  need_next rfl (quietNow_of h) _

section
variable {src : Nat} {w0 w1 : Word} {s : State} (hcur : (⟨w0, w1⟩ : Token).current (settledStep s) s)
include hcur

theorem done_holds (hkind : (⟨w0, w1⟩ : Token).kind = 3) (hdecide : s.crun.decide.isSome = true)
    (hchild : (children (ackCommit src w0 w1 s)).contains src = true) (hfirst : ∀ p ∈ (ackCommit src w0 w1 s).crun.dones, p.1 ≠ src) :
    let v := ackCommit src w0 w1 s
    exec (.done src w0 w1) s = .next (settle (tryDone { v with crun := { v.crun with dones := v.crun.dones ++ [(src, ⟨w0, w1⟩)] } })) := by
  intro v
  have hnew : (v.crun.dones.any (·.1 == src)) = false := by
    simpa only [List.any_eq_false, beq_iff_eq] using hfirst
  refine (need_next rfl (beq_iff_eq.mpr hkind) _).trans (congrArg Host.Outcome.next ((tokenIn_acts _ hcur hdecide).trans (congrArg settle ?_)))
  exact if_pos (by rw [hchild, hnew]; rfl)

theorem release_acts (hkind : (⟨w0, w1⟩ : Token).kind = 4) (hstate : s.cmt.state = .settling) (hdecide : s.crun.decide.isSome = true)
    (hsent : s.crun.doneSent = true) : exec (.release src w0 w1) s = .next (settle (releaseAct ⟨w0, w1⟩ (ackCommit src w0 w1 s))) :=
  (need_next rfl (beq_iff_eq.mpr hkind) _).trans (congrArg Host.Outcome.next
    (tokenIn_acts _ hcur (by rw [hstate, hdecide, hsent]; rfl)))

end

/-! ## Timeouts (10 R226, R230, R235) -/

theorem rootDecisionTimeout_faults {s : State} (htimer : s.crun.rootTimer = some 0) (hroot : s.cmt.root = true) (hgoes : fwHalted s = false)
    (hopen : s.cmt.state = .running ∨ s.cmt.state = .gathering) : exec .rootDecisionTimeout s =
      .next (settle (cmtFault 0x74 (missingChild s s.crun.reports) 0 0 { s with crun := { s.crun with rootTimer := none } })) := by
  have hopens : (s.cmt.state == .running || s.cmt.state == .gathering) = true := by
    simpa only [Bool.or_eq_true, beq_iff_eq] using hopen
  exact need_next rfl (by rw [htimer, hroot, hgoes, hopens]; rfl) _

/-- A device that has waited too long for a token of its parent stops. -/
theorem lostToken_stops (cause : Nat) (s : State) : Stopped (lostToken cause s) := stopAll_stops _

theorem doneWaitExpired_stops {s : State} {d : Token} (htimer : s.crun.doneTimer = some 0) (hroot : s.cmt.root = true)
    (hgoes : fwHalted s = false) (hdecide : s.crun.decide = some d) : ∃ t, exec .doneWaitExpired s = .next t ∧ Stopped t :=
  ⟨_, need_next rfl (by rw [htimer, hroot, hgoes, hdecide]; rfl) _, releaseAs_restart_stops _ _ _ _ _⟩

theorem recordHalt_notDue {k : Stream} (s : State) (h : k.haltDue = false) : recordHalt k s = s := by
  unfold recordHalt
  exact if_neg (by rw [h, Bool.false_and]; decide)

theorem foldl_leaves {α : Type} {f : State → α → State} {xs : List α} (hf : ∀ s, ∀ x ∈ xs, f s x = s) (s : State) : xs.foldl f s = s :=
  (List.foldl_ext f (fun u _ => u) s hf).trans (List.foldl_fixed xs)

theorem cmtFault_thl (cause dev bucket w3 : Nat) (s : State) : (cmtFault cause dev bucket w3 s).thl = s.thl :=
  (recordClass_thl _ _ _).trans (logEv_thl _ _ _ _ _ _ _)

/-- Where no stream has a halt to record, clearing the marks leaves the thallus as it is. -/
theorem Thallus.haltDue_cleared {k : Thallus} (h : ∀ q ∈ k.strm, q.haltDue = false) :
    { k with strm := k.strm.map fun q => { q with haltDue := false } } = k := by
  have hstrm : (k.strm.map fun q => { q with haltDue := false }) = k.strm :=
    (List.map_congr_left fun q hq => by rw [← h q hq]; rfl).trans (List.map_id _)
  rw [hstrm]

/-- Where no halt was left out, the step's timeout records cause 0x72, or nothing where a class is recorded (10 R235). -/
theorem stepTimeout_next {s : State} (htimer : s.crun.stepTimer = some 0) (hhalts : ∀ h ∈ s.thl, ∀ k ∈ h.strm, k.haltDue = false) :
    let u := { s with crun := { s.crun with stepTimer := none } }
    exec .stepTimeout s = .next (settle (if s.crun.worst.cls == 0 then cmtFault 0x72 (self s) 0 0 u else u)) := by
  intro u
  refine (need_next rfl (by rw [htimer]; rfl) _).trans (congrArg (fun x => Host.Outcome.next (settle x)) ?_)
  generalize hx : (if s.crun.worst.cls == 0 then cmtFault 0x72 (self s) 0 0 u else u) = x
  have hthl : x.thl = s.thl := by
    rw [← hx]
    split
    · exact cmtFault_thl _ _ _ _ _
    · rfl
  have hnone : s.thl.foldl (fun t h => h.strm.foldl (fun t k => recordHalt k t) t) x = x :=
    foldl_leaves (fun t h hh => foldl_leaves (fun t k hk => recordHalt_notDue t (hhalts h hh k hk)) t) x
  have hsame : (x.thl.map fun h => { h with strm := h.strm.map fun k => { k with haltDue := false } }) = x.thl := by
    rw [hthl]
    exact (List.map_congr_left fun h hh => Thallus.haltDue_cleared (hhalts h hh)).trans (List.map_id _)
  rw [hnone, hsame]

/-! ## The start of a step (06 R123, 10 R235, R236) -/

theorem raise_cmt (old floor : Nat) (set : State → State) (s : State) : (raise old floor set s).cmt =
    if floor ≤ old then s.cmt else (set { s with cmt := { s.cmt with cntTmoRaised := satAdd s.cmt.cntTmoRaised 1 } }).cmt := by
  unfold raise
  split
  · rfl
  · exact cmtEv_cmt _ _ _ _ _ _

/-- The collective timeout at its floor, which the hops of the job set (10 R236). -/
def collRaised (s : State) : State :=
  let floor := s.cmt.maxHops.toNat * 40 + 1000
  raise s.cmt.collTmo.toNat floor (fun t => { t with cmt := { t.cmt with collTmo := BitVec.ofNat 20 floor } }) s

/-- The step timeout at its floor (10 R236). -/
def stepRaised (s : State) : State :=
  raise s.cmt.stepTmo.toNat 1000 (fun t => { t with cmt := { t.cmt with stepTmo := 1000 } }) s

theorem latchTmo_eq (s : State) : latchTmo s = stepRaised (collRaised (tmoNow s)) := rfl

theorem collRaised_floor (s : State) :
    (collRaised s).cmt.maxHops = s.cmt.maxHops ∧ s.cmt.maxHops.toNat * 40 + 1000 ≤ (collRaised s).cmt.collTmo.toNat := by
  have hfits : s.cmt.maxHops.toNat * 40 + 1000 < 2 ^ 20 := by
    have := s.cmt.maxHops.isLt
    omega
  unfold collRaised
  rw [raise_cmt]
  split
  next h => exact ⟨rfl, h⟩
  next => exact ⟨rfl, by rw [BitVec.toNat_ofNat, Nat.mod_eq_of_lt hfits]⟩

theorem stepRaised_floor (s : State) : (stepRaised s).cmt.maxHops = s.cmt.maxHops ∧ (stepRaised s).cmt.collTmo = s.cmt.collTmo ∧
    1000 ≤ (stepRaised s).cmt.stepTmo.toNat := by
  unfold stepRaised
  rw [raise_cmt]
  split
  next h => exact ⟨rfl, rfl, h⟩
  next => exact ⟨rfl, rfl, le_refl 1000⟩

theorem latchTmo_floors (s : State) :
    (latchTmo s).cmt.maxHops.toNat * 40 + 1000 ≤ (latchTmo s).cmt.collTmo.toNat ∧ 1000 ≤ (latchTmo s).cmt.stepTmo.toNat := by
  obtain ⟨hhops, hcoll⟩ := collRaised_floor (tmoNow s)
  obtain ⟨hhopsStep, hcollStep, hstep⟩ := stepRaised_floor (collRaised (tmoNow s))
  rw [latchTmo_eq, hhopsStep, hcollStep, hhops]
  exact ⟨hcoll, hstep⟩

theorem Stream.begin_starts (q : Nat) (k : Stream) : (Stream.begin q k).pc = k.prog.toNat * 8 ∧
    ((Stream.begin q k).state = if q = 1 then .barrier else .running) ∧
    (Stream.begin q k).treg = ({} : Stream).treg ∧ (Stream.begin q k).tval = ({} : Stream).tval :=
  ⟨rfl, by simp only [Stream.begin, beq_iff_eq], rfl, rfl⟩

/-- Settles O44: each token and timeout by what it meets, the root's outcome by its limits, the latched timeouts by their floors. -/
theorem quietDoneAndRelease : Obligations.QuietDoneAndRelease := by
  refine ⟨fun s d h => deviceQuiet_next h,
    fun src w0 w1 s => ⟨fun hkind hcur hdecide hchild hfirst => done_holds hcur hkind hdecide hchild hfirst,
      fun hkind hcur hstate hdecide hsent => release_acts hcur hkind hstate hdecide hsent⟩, releaseNote_counts, fun t s h => releaseAct_stops s h,
    fun t s hcls hflag => releaseAct_again s hcls hflag, fun r d s => ?_,
    fun s htimer hroot hgoes hopen => rootDecisionTimeout_faults htimer hroot hgoes hopen,
    fun s htimer hstate => ⟨_, need_next rfl (by rw [htimer, hstate]; rfl) _, lostToken_stops _ _⟩,
    fun s htimer hstate hsent => ⟨_, need_next rfl (by rw [htimer, hstate, hsent]; rfl) _, lostToken_stops _ _⟩,
    fun s d htimer hroot hgoes hdecide => doneWaitExpired_stops htimer hroot hgoes hdecide, fun s htimer hhalts => ?_,
    fun s hdue hjob hgoes => need_next rfl (by rw [hdue, hjob, hgoes]; rfl) _, Stream.begin_starts, latchTmo_floors⟩
  · refine ⟨fun h hlim => ?_, fun h hlim => ?_, fun h hlim => ?_, fun h hlim => ?_⟩
    · exact (rootOutcome_retry d h).trans (if_pos hlim)
    · exact (rootOutcome_retry d h).trans (if_neg (BitVec.not_lt.mpr hlim))
    · exact (rootOutcome_skip d h).trans (if_pos hlim)
    · exact (rootOutcome_skip d h).trans (if_neg (BitVec.not_lt.mpr hlim))
  · have hnext := stepTimeout_next htimer hhalts
    refine ⟨fun hnone => ?_, fun hsome => ?_⟩
    · rw [hnext, if_pos (beq_iff_eq.mpr hnone)]
    · rw [hnext, if_neg (by simpa using hsome)]

end Sys2Proof.Machine
end

section
/-! ScavenLink (13): decoding and lanes of a flit (R262, R265), what its header acknowledges (R263), what each kind of flit does, and
replay (R264). -/

namespace Sys2Proof.Machine

open Sys2Proof

/-! ## An update of one link -/

theorem linkOf_modLink_same {s : State} {l : Nat} (h : hasLink s l = true) (f : Link → Link) : linkOf (modLink l f s) l = f (linkOf s l) := by
  rw [linkOf_modLink h, if_pos rfl]

/-! ## Decoding (13 R262) -/

theorem fecWordOk_iff (fec : Fec) (c : Nat) :
    fecWordOk fec c = true ↔ ((List.range 256).filter fun i => i % 2 == c && fec.errs.contains i).length ≤ 4 := decide_eq_true_iff

theorem mem_fecErrs {fec : Fec} {c i : Nat} : i ∈ fecErrs fec c ↔ i < 256 ∧ i % 2 = c ∧ i ∈ fec.errs := by
  simp [fecErrs, flitBytes, codeword]

theorem fecGood_iff (fec : Fec) : fecGood fec = true ↔ fec.crcOk = true ∧ ∀ c < 2, fecWordOk fec c = true := by
  simp only [fecGood, Bool.and_eq_true, Nat.forall_lt_succ_left', Nat.not_lt_zero, IsEmpty.forall_iff, implies_true, and_true]
  tauto

/-- A byte is corrected with its own codeword, one of the two. -/
theorem mem_fecFixed {fec : Fec} {i : Nat} : i ∈ fecFixed fec ↔ i < 256 ∧ i ∈ fec.errs ∧ fecWordOk fec (i % 2) = true := by
  have hword (c : Nat) : i ∈ (if fecWordOk fec c then fecErrs fec c else []) ↔ fecWordOk fec c = true ∧ i ∈ fecErrs fec c := by
    split <;> simp_all
  simp only [fecFixed, List.mem_flatMap, hword, mem_fecErrs]
  constructor
  · rintro ⟨c, -, hok, hlt, rfl, hmem⟩
    exact ⟨hlt, hmem, hok⟩
  · rintro ⟨hlt, hmem, hok⟩
    refine ⟨i % 2, ?_, hok, hlt, rfl, hmem⟩
    rcases Nat.mod_two_eq_zero_or_one i with h | h <;> simp [h]

/-! ## Corrected bytes of the lanes (13 R265) -/

/-- Counting by buckets: each bucket has grown by the elements that fall into it. -/
theorem getD_foldl_modify_succ {α : Type} (b : α → Nat) (xs : List α) {c : List Nat} {i : Nat} (hi : i < c.length) :
    (xs.foldl (fun c x => c.modify (b x) (· + 1)) c).getD i 0 = c.getD i 0 + (xs.filter fun x => b x == i).length := by
  induction xs generalizing c with
  | nil => rfl
  | cons x xs ih =>
    have hstep : (c.modify (b x) (· + 1)).getD i 0 = c.getD i 0 + if b x = i then 1 else 0 := by
      simp only [List.getD_eq_getElem?_getD, List.getElem?_modify, List.getElem?_eq_getElem hi]
      split <;> rfl
    rw [List.foldl_cons, ih (by simpa using hi), hstep, List.filter_cons]
    by_cases h : b x = i
    · rw [if_pos h, if_pos (beq_iff_eq.mpr h), List.length_cons, Nat.add_assoc, Nat.add_comm 1]
    · rw [if_neg h, if_neg (by simpa using h), Nat.add_zero]

theorem linkOf_fecIn {s : State} {l : Nat} (h : hasLink s l = true) (fl : Flit) (fec : Fec) : linkOf (fecIn l fl fec s) l =
    { linkOf s l with
      cntFecCorr := satAdd (linkOf s l).cntFecCorr (fecFixed fec).length
      cntFecUncorr := if fecGood fec then (linkOf s l).cntFecUncorr else satAdd (linkOf s l).cntFecUncorr 1
      laneCorr := (fecFixed fec).foldl (fun c i => c.modify (byteLane fl.lanes i) (· + 1)) (linkOf s l).laneCorr } :=
  linkOf_modLink_same h _

theorem laneCheck_within {l : Nat} {s : State} (h : ∀ i < 8, (linkOf s l).laneCorr.getD i 0 ≤ s.lnk.degradeThr.toNat) : laneCheck l s = s :=
  foldl_leaves (fun _ i hi => if_neg fun hc =>
    Nat.not_lt.mpr (h i (List.mem_range.mp hi)) (of_decide_eq_true (Bool.and_eq_true_iff.mp hc).1)) s

/-! ## Flits (13 R262) -/

theorem flitIn_good (l : Nat) (fl : Flit) {fec : Fec} (h : fecGood fec = true) (body : State → State) (s : State) :
    flitIn l fl fec body s = settle (laneCheck l (body (headerIn l fl (fecIn l fl fec s)))) := by
  unfold flitIn
  dsimp only
  rw [if_pos h]

theorem flitIn_bad (l : Nat) (fl : Flit) {fec : Fec} (h : fecGood fec = false) (body : State → State) (s : State) :
    flitIn l fl fec body s = flitDiscarded l fl fec s := by
  unfold flitIn flitDiscarded nakFlit
  dsimp only
  rw [if_neg (by rw [h]; decide)]

theorem takesFlits_iff (s : State) (l : Nat) (ctl : Bool) : takesFlits s l ctl = true ↔
    (linkOf s l).state = .up ∨ ctl = true ∧ ((linkOf s l).state = .ready ∨ (linkOf s l).state = .training) := by
  simp [takesFlits]

/-- A row that brings a flit, on a link that takes flits of its kind. -/
theorem takesFlits_next {s : State} {l : Nat} {ctl : Bool} (h : hasLink s l = true) (ht : takesFlits s l ctl = true) (t : State) :
    need (hasLink s l) true (if !takesFlits s l ctl then s else t) = .next t := by
  rw [ht]
  exact need_next h rfl t

theorem takesFlits_down {s : State} {l : Nat} (h : hasLink s l = true) (hs : (linkOf s l).state = .down) (ctl : Bool) (t : State) :
    need (hasLink s l) true (if !takesFlits s l ctl then s else t) = .next s := by
  have ht : takesFlits s l ctl = false := by simp [takesFlits, hs]
  rw [ht]
  exact need_next h rfl s

/-- What a good data flit does to its link: in sequence it is assembled and acknowledged, any other is acknowledged only (R263). -/
theorem dataFlit_taken {s : State} {l : Nat} (h : hasLink s l = true) (hup : (linkOf s l).state = .up) {fec : Fec} (hgood : fecGood fec = true)
    (fl : Flit) : exec (.dataFlit l fl fec) s = .next (settle (laneCheck l (modLink l (fun k =>
      if fl.seq = k.rxNext ∧ k.state = .up then
        assemble fl.slots { k with rxNext := (k.rxNext + 1) % 4096, rxAny := true, owe := 2, cntRxFlits := satAdd k.cntRxFlits 1 }
      else { k with owe := 2 }) (headerIn l fl (fecIn l fl fec s))))) := by
  refine (takesFlits_next h ((takesFlits_iff s l false).mpr (.inl hup)) _).trans ?_
  rw [flitIn_good l fl hgood]
  simp only [Bool.and_eq_true, beq_iff_eq]

/-! ## Assembly (13 R262) -/

/-- The link with a transaction received whole. -/
def Link.received (t : Txn) (k : Link) : Link :=
  { k with asm := none, rxq := k.rxq ++ [t], cntRxBytes := satAdd k.cntRxBytes (16 + 16 * txnSlots t) }

/-- The link with `n` slots of a transaction still missing. -/
def Link.awaits (t : Txn) (n : Nat) (k : Link) : Link := { k with asm := some (t, n) }

theorem assemble_head (t : Txn) (xs : List Slot) (k : Link) :
    assemble (.head t :: xs) k = assemble xs (if txnSlots t = 0 then k.received t else k.awaits t (txnSlots t)) := by
  simp only [assemble, beq_iff_eq]
  rfl

theorem assemble_body (t : Txn) (n : Nat) (xs : List Slot) (k : Link) :
    assemble (.body :: xs) (k.awaits t n) = assemble xs (if n = 1 then k.received t else k.awaits t (n - 1)) := by
  simp only [assemble, Link.awaits, beq_iff_eq]
  rfl

theorem assemble_bodies (t : Txn) (k : Link) (n : Nat) : assemble (List.replicate (n + 1) .body) (k.awaits t (n + 1)) = k.received t := by
  induction n with
  | zero => exact assemble_body t 1 [] k
  | succ n ih => exact (assemble_body t (n + 2) _ k).trans ih

theorem assemble_whole (t : Txn) (k : Link) : assemble (.head t :: List.replicate (txnSlots t) .body) k = k.received t := by
  rw [assemble_head]
  cases txnSlots t with
  | zero => rfl
  | succ n => exact assemble_bodies t k n

/-! ## What a header acknowledges (13 R263) -/

theorem headerIn_replay {l : Nat} {fl : Flit} {s : State} (hnak : fl.nak = false) (hack : fl.ackValid = true) (h : hasLink s l = true) :
    let k := linkOf (headerIn l fl s) l
    let old := linkOf s l
    k.replayBuf = old.replayBuf.filter (fun f => !covered f.seq fl.ackSeq) ∧
      (k.replayBuf.length < old.replayBuf.length → k.ackTimer =
        (old.sentAt.drop (old.replayBuf.length - k.replayBuf.length)).head?.map fun t => s.lnk.ackTmo.toNat - (old.clk - t)) := by
  intro k old
  have hk : k = linkOf (headerIn l fl s) l := rfl
  unfold headerIn at hk
  rw [hnak, if_neg (by decide), linkOf_modLink_same h] at hk
  simp only [hack, Bool.not_true, Bool.false_eq_true, if_false] at hk
  split at hk
  next hlt => rw [hk]; exact ⟨rfl, fun _ => rfl⟩
  next hlt => rw [hk]; exact ⟨rfl, fun h' => absurd h' hlt⟩

/-! ## Replay (13 R263, R264) -/

theorem foldl_emit {α : Type} (o : α → Out) (xs : List α) (s : State) :
    xs.foldl (fun t x => emit (o x) t) s = { s with out := s.out ++ xs.map o } := by
  induction xs generalizing s with
  | nil => simp
  | cons x xs ih => rw [List.foldl_cons, ih, List.map_cons, List.append_cons]; rfl

/-- A replay that may begin sends the whole buffer again and counts itself. -/
theorem replay_sends {l : Nat} {s : State} (h : hasLink s l = true) (hbuf : (linkOf s l).replayBuf ≠ [])
    (hless : (linkOf s l).epReplays ≠ 16) (hrp : (linkOf s l).rpTimer = none) :
    (replay l s).out = s.out ++ (linkOf s l).replayBuf.map (.flit l) ∧
      (linkOf (replay l s) l).epReplays = (linkOf s l).epReplays + 1 ∧
      (linkOf (replay l s) l).cntReplay = satAdd (linkOf s l).cntReplay 1 ∧ (linkOf (replay l s) l).replayBuf = (linkOf s l).replayBuf := by
  obtain ⟨fl, rest, hcons⟩ := List.exists_cons_of_ne_nil hbuf
  obtain ⟨f, hf, hreplay⟩ : ∃ f : Link → Link, (∀ k, (f k).epReplays = k.epReplays + 1 ∧ (f k).cntReplay = satAdd k.cntReplay 1 ∧
      (f k).replayBuf = k.replayBuf) ∧ replay l s = (linkOf s l).replayBuf.foldl (fun t x => emit (.flit l x) t) (modLink l f s) := by
    unfold replay
    simp only [hcons, hrp, Option.isSome_none, Bool.false_eq_true, if_false, beq_iff_eq, hless]
    refine ⟨_, ?_, rfl⟩
    exact fun k => ⟨rfl, rfl, rfl⟩
  have hlink : linkOf (replay l s) l = f (linkOf s l) := by
    rw [hreplay, foldl_emit]
    exact linkOf_modLink_same h f
  rw [hlink, hreplay, foldl_emit]
  exact ⟨rfl, hf _⟩

theorem ackTimeout_next {l : Nat} {s : State} (h : hasLink s l = true) (hup : (linkOf s l).state = .up)
    (htimer : (linkOf s l).ackTimer = some 0) (hbuf : (linkOf s l).replayBuf ≠ []) (hless : (linkOf s l).epReplays ≠ 16) :
    exec (.ackTimeout l) s = .next (settle (replay l s)) :=
  need_next h (by simpa [hup, htimer, hbuf] using hless) _

theorem replayExhausted_next {l : Nat} {s : State} (h : hasLink s l = true) (hup : (linkOf s l).state = .up)
    (hep : (linkOf s l).epSeq.isSome = true) (htimer : (linkOf s l).epTimer = some 0) :
    exec (.replayExhausted l) s = .next (exhaust l s) :=
  need_next h (by simp [hup, hep, htimer]) _

/-- Settles O40: each flit by whether FEC corrects it, what a header acknowledges, assembly slot by slot, and the replay of the buffer. What
a receiver owes after a flit, and the codeword of a check byte, are the model's choices (log entries 28 and 71). -/
theorem linkFlitsAndReplay : Obligations.LinkFlitsAndReplay := by
  refine ⟨fun fec => ⟨?_, fun i => ?_⟩, fun l fl fec s h hlanes => ?_, fun l s h => laneCheck_within h,
    fun l fl fec s h hup hgood => dataFlit_taken h hup hgood fl, fun l fl fec s h hup hbad => ?_, fun l fl fec s h hup hgood => ?_,
    fun l fl fec s w h hstate hgood => ?_, fun l s h hdown fl fec ctl => ?_, fun t k _ => ⟨_, rfl, ?_⟩, fun l fl s hnak hack h => ?_,
    fun l s h hup htimer hbuf hless hrp => ?_, fun l s h hup hep htimer => replayExhausted_next h hup hep htimer⟩
  · simp only [fecGood_iff, fecWordOk_iff]
  · simp only [mem_fecFixed, fecWordOk_iff]
  · rw [linkOf_fecIn h]
    exact ⟨rfl, rfl, fun i hi => getD_foldl_modify_succ _ _ (by rw [hlanes]; exact hi)⟩
  · have htakes (ctl : Bool) := (takesFlits_iff s l ctl).mpr (.inl hup)
    refine ⟨?_, ?_, fun ctl => ?_⟩ <;> exact (takesFlits_next h (htakes _) _).trans (congrArg _ (flitIn_bad l fl hbad _ s))
  · exact (takesFlits_next h ((takesFlits_iff s l false).mpr (.inl hup)) _).trans (congrArg _ (flitIn_good l fl hgood _ s))
  · have htakes := (takesFlits_iff s l true).mpr (hstate.imp_right fun h => ⟨rfl, h⟩)
    refine ⟨?_, ?_⟩ <;> exact (takesFlits_next h htakes _).trans (congrArg _ (flitIn_good l fl hgood _ s))
  · exact ⟨takesFlits_down h hdown _ _, takesFlits_down h hdown _ _, takesFlits_down h hdown _ _⟩
  · rw [assemble_whole]
    exact ⟨rfl, rfl, rfl⟩
  · obtain ⟨hbuf, htimer⟩ := headerIn_replay (l := l) (s := s) hnak hack h
    refine ⟨hbuf, fun hsent hless => ⟨fun hnil => ?_, fun a rest hrest => ?_⟩⟩
    · rw [htimer hless, hnil, List.length_nil, Nat.sub_zero, ← hsent, List.drop_length]
      rfl
    · rw [htimer hless, hrest]
      rfl
  · obtain ⟨hout, heps, hcount, hkeeps⟩ := replay_sends h hbuf hless hrp
    exact ⟨_, hout, heps, hcount, hkeeps, ackTimeout_next h hup htimer hbuf hless⟩

end Sys2Proof.Machine
end

section
/-! ScavenLink (13): lanes and training (R265, R266), transactions at their destination and originator (R269 to R271), transit (R273) and the
routing table (R272). -/

namespace Sys2Proof.Machine

open Sys2Proof

/-! ## Lanes (13 R265, R266) -/

/-- The device after lane `lane` of link `l` has failed, before the link degrades or goes down. -/
def laneLost (l lane : Nat) (s : State) : State :=
  modLink l (fun k => { k with laneOk := (linkOf s l).laneOk &&& ~~~(BitVec.ofNat 8 (1 <<< lane)), disturbed := some 1000000 }) s

theorem laneFail_next {l lane : Nat} {s : State} (h : hasLink s l = true) (hstate : (linkOf s l).state = .up ∨ (linkOf s l).state = .ready)
    (hlane : lane < 8) (hok : bit (linkOf s l).laneOk lane = true) : exec (.laneFail l lane) s = .next (laneFail l lane s) :=
  need_next h (by simp [laneLive, hstate, hlane, hok]) _

theorem laneFail_spare {l lane : Nat} {s : State} (h : bit (lanesOf (linkOf s l).width.toNat) lane = false) :
    laneFail l lane s = laneLost l lane s :=
  if_pos (by rw [h]; rfl)

theorem laneFail_inUse {l lane : Nat} {s : State} (h : bit (lanesOf (linkOf s l).width.toNat) lane = true) :
    let k := linkOf s l
    let ok := k.laneOk &&& ~~~(BitVec.ofNat 8 (1 <<< lane))
    laneFail l lane s = if k.width ≠ 1 ∨ (ok &&& 0x0F ≠ 0x0F ∧ ok &&& 0xF0 ≠ 0xF0) then goDown l true (laneLost l lane s)
      else lnkEv 0x91 l k.peerDev.toNat ok.toNat (modLink l (fun k => { k with
        width := if ok &&& 0x0F = 0x0F then 2 else 3, cntDegrade := satAdd k.cntDegrade 1 }) (laneLost l lane s)) := by
  intro k ok
  refine (if_neg (by rw [h]; decide)).trans ?_
  simp only [Bool.or_eq_true, Bool.and_eq_true, bne_iff_ne, beq_iff_eq]
  rfl

/-- A link at 8 lanes uses each of them. -/
theorem bit_lanesOf_full : ∀ lane < 8, bit (lanesOf (1 : BitVec 2).toNat) lane = true := by decide

/-! ## Training (13 R266) -/

/-- Without a whole half of its lanes a link fails its training. -/
theorem linkTrained_fails {l : Nat} {usable : BitVec 8} {s : State} (h : hasLink s l = true) (hstate : (linkOf s l).state = .training)
    (hlow : usable &&& ~~~(linkOf s l).laneBad &&& 0x0F ≠ 0x0F) (hhigh : usable &&& ~~~(linkOf s l).laneBad &&& 0xF0 ≠ 0xF0) (pd pl : Nat) :
    exec (.linkTrained l usable pd pl) s =
      .next (goDown l true (modLink l (fun k => { k with laneOk := usable &&& ~~~(linkOf s l).laneBad }) s)) := by
  refine (need_next h (beq_iff_eq.mpr hstate) _).trans ?_
  have hfull : usable &&& ~~~(linkOf s l).laneBad ≠ 0xFF := fun h => hlow (by rw [h]; decide)
  simp only [beq_iff_eq, hfull, hlow, hhigh, if_false, if_true]

/-- With all its lanes a link is ready at 8 lanes; with a job loaded it waits for software to be willing. -/
theorem linkTrained_full {l : Nat} {usable : BitVec 8} {s : State} (h : hasLink s l = true) (hstate : (linkOf s l).state = .training)
    (hjob : jobLoaded s = true) (hfull : usable &&& ~~~(linkOf s l).laneBad = 0xFF) (pd pl : Nat) :
    exec (.linkTrained l usable pd pl) s = .next (modLink l (fun k => { k with
      laneOk := 0xFF, state := .ready, width := 1, peerDev := BitVec.ofNat 14 pd, peerLink := BitVec.ofNat 5 pl, peerValid := true }) s) := by
  refine (need_next h (beq_iff_eq.mpr hstate) _).trans ?_
  simp only [hfull, beq_self_eq_true, if_true, hjob, modLink_modLink]
  rfl

theorem linkTrainRetry_next {l : Nat} {s : State} (h : hasLink s l = true) (hdown : (linkOf s l).state = .down)
    (hon : (linkOf s l).enable = true) (htimer : (linkOf s l).trainTimer = some 0) (hid : s.lnk.devValid = true) :
    exec (.linkTrainRetry l) s = .next (loseTxns l (fun k => { k with state := .training, width := 0, trainTimer := none }) s) :=
  (need_next h (by simp [hdown, hon, htimer, hid]) _).trans (congrArg _ (if_pos hid))

/-! ## Transactions at their destination and originator (13 R269 to R271) -/

section Arrived

variable {l : Nat} {t : Txn} {s : State}

theorem rxHas_link (hdst : t.dst = self s) (hrx : (linkOf s l).rxq.contains t = true) : rxHas s (some l) t = true := by
  simpa [rxHas, hdst] using hrx

theorem write_next {a : Nat} {bs : List Byte} (hbody : t.body = .write a bs) (hdst : t.dst = self s)
    (hrx : (linkOf s l).rxq.contains t = true) : exec (.write (some l) t) s = .next (settle (writeArrived (some l) t a bs s)) := by
  show execWrite (some l) t s = _
  unfold execWrite
  rw [hbody]
  exact need_next rfl (rxHas_link hdst hrx) _

theorem writeArrived_outside {a : Nat} {bs : List Byte} (h : remoteWritable a bs.length = false) :
    writeArrived (some l) t a bs s = sendReply t.src (.nack t.tid 1) (freeRx l t s) :=
  if_pos (by rw [h]; rfl)

theorem writeArrived_awake {a : Nat} {bs : List Byte} (h : remoteWritable a bs.length = true) (hawake : sleeping s a bs.length = none) :
    writeArrived (some l) t a bs s =
      sendReply t.src (.ack [t.tid]) (freeRx l t (touchMem a bs.length (writeMem (.remote 0) a bs s))) := by
  unfold writeArrived
  rw [h, hawake]
  rfl

theorem writeFin_next {p n : Nat} (hbody : t.body = .writeFin p n) (hdst : t.dst = self s) (hrx : (linkOf s l).rxq.contains t = true)
    (hawake : sleeping s (thlAddr n) 1 = none) :
    exec (.writeFin (some l) t) s = .next (settle (sendReply t.src (.ack [t.tid]) (freeRx l t (remotePost n p s)))) := by
  show execWriteFin (some l) t s = _
  unfold execWriteFin
  rw [hbody]
  refine (need_next rfl (rxHas_link hdst hrx) _).trans ?_
  rw [hawake]
  rfl

theorem remotePost_present {n p : Nat} (h : (resolve s (thlAddr n)).isSome = true) : remotePost n p s = postPeg n (p % 64) 1 2 3 0 s := if_pos h

theorem ack_next {tids : List Nat} (hbody : t.body = .ack tids) (hdst : t.dst = self s) (hrx : (linkOf s l).rxq.contains t = true) :
    exec (.ack (some l) t) s = .next (settle (unhold (tids.foldl (fun u i => ackTid i u) (freeRx l t s)))) := by
  show execAck (some l) t s = _
  unfold execAck
  rw [hbody]
  exact need_next rfl (rxHas_link hdst hrx) _

theorem nack_next {tid r : Nat} (hbody : t.body = .nack tid r) (hdst : t.dst = self s) (hrx : (linkOf s l).rxq.contains t = true) :
    exec (.nack (some l) t) s = .next (settle (unhold (lostTid 0x94 tid (freeRx l t s)))) := by
  show execNack (some l) t s = _
  unfold execNack
  rw [hbody]
  exact need_next rfl (rxHas_link hdst hrx) _

theorem transactionTimeout_next {tid : Nat} (h : ∃ x ∈ s.lnk.txns, x.txn.tid = tid ∧ x.timer = some 0) :
    exec (.transactionTimeout tid) s = .next (settle (unhold (lostTid 0x95 tid s))) := by
  obtain ⟨x, hmem, htid, htimer⟩ := h
  exact need_next rfl (List.any_eq_true.mpr ⟨x, hmem, by rw [htid, htimer, beq_self_eq_true]; rfl⟩) _

/-! ## Transit (13 R273) -/

section Forward

variable (h : hasLink s l = true) (hdst : t.dst ≠ self s) (hrx : (linkOf s l).rxq.contains t = true)

include h hdst hrx

theorem transactionForward_routed {k : Nat} (hroute : routeLink (freeRx l t s) t.dst = some k) :
    exec (.transactionForward l t) s = .next (modLink k (fun x => { x with txq := x.txq ++ [t] }) (freeRx l t s)) := by
  refine (need_next h (by rw [hrx, bne_iff_ne.mpr hdst]; rfl) _).trans ?_
  simp only [hroute]

theorem transactionForward_unroutable (hroute : routeLink (freeRx l t s) t.dst = none) (hvc : txnVc t ≠ 1) :
    let u := freeRx l t s
    exec (.transactionForward l t) s = .next (sendReply t.src (.nack t.tid 0)
      { u with lnk := { u.lnk with cntUnroutable := satAdd u.lnk.cntUnroutable 1 } }) := by
  refine (need_next h (by rw [hrx, bne_iff_ne.mpr hdst]; rfl) _).trans ?_
  simp only [hroute, beq_iff_eq, hvc, if_false]

end Forward

end Arrived

/-! ## The routing table (13 R272) -/

/-- What a load of the routing table sets: the table in force and its two flags; and the memory that it is read from. -/
def routing (s : State) : Sparse 32 × Bool × Bool × Mem := (s.lnk.rt, s.lnk.rtLoaded, s.lnk.rtBusy, s.mem)

theorem routing_iff {s : State} {m : Sparse 32} {a b : Bool} {x : Mem} :
    routing s = (m, a, b, x) ↔ s.lnk.rt = m ∧ s.lnk.rtLoaded = a ∧ s.lnk.rtBusy = b ∧ s.mem = x := by
  simp only [routing, Prod.mk.injEq]

theorem logEv_lnk (a b c d e g : Nat) (s : State) : (logEv a b c d e g s).lnk = s.lnk := by
  obtain ⟨L, n, h⟩ := logEv_form a b c d e g s
  rw [h]

theorem recordClass_lnk (cls cause : Nat) (s : State) : (recordClass cls cause s).lnk = s.lnk := by
  unfold recordClass
  dsimp only
  split
  · rfl
  · split <;> rfl

theorem fault_lnk (a b c d e : Nat) (s : State) : (fault a b c d e s).lnk = s.lnk :=
  (recordClass_lnk _ _ _).trans (logEv_lnk _ _ _ _ _ _ _)

theorem absentEv_lnk (ag : Agent) (a : Nat) (s : State) : (absentEv ag a s).lnk = s.lnk := by
  obtain ⟨L, n, h⟩ := absent_form ag a s
  rw [h]

theorem badRead_lnk (ag : Agent) (a p : Nat) (s : State) : (badRead ag a p s).lnk = s.lnk := by
  have hev (c : Nat) (u : State) : (memFaultEv ag c a u).lnk = u.lnk := by
    unfold memFaultEv
    cases ag <;> exact fault_lnk _ _ _ _ _ _
  unfold badRead
  split
  · exact hev _ _
  · exact hev _ _

theorem readPiece_lnk (ag : Agent) (a n : Nat) (s : State) : (readPiece ag a n s).1.lnk = s.lnk := by
  unfold readPiece
  split
  · exact absentEv_lnk _ _ _
  · split
    · exact badRead_lnk _ _ _ _
    · rfl

theorem readGo_lnk (ag : Agent) (fuel a n : Nat) (s : State) : (readGo ag fuel a n s).1.lnk = s.lnk := by
  induction fuel generalizing a n s with
  | zero => rfl
  | succ fuel ih =>
    have hpiece := readPiece_lnk ag a (min n (64 - a % 64)) s
    unfold readGo
    dsimp only
    split
    · rfl
    · split
      next s1 e => rwa [e] at hpiece
      next s1 bs e =>
        have hrest := (ih (a + min n (64 - a % 64)) (n - min n (64 - a % 64)) s1).trans (e ▸ hpiece)
        split <;> (rename_i e2; rwa [e2] at hrest)

theorem probe_lnk (a n : Nat) (s : State) : (probe a n s).lnk = s.lnk := readGo_lnk _ _ _ _ _

theorem logEv_routing (a b c d e g : Nat) (s : State) : routing (logEv a b c d e g s) = routing s := by
  obtain ⟨L, n, h⟩ := logEv_form a b c d e g s
  rw [h]
  rfl

theorem lostEv_routing (cause : Nat) (t : Txn) (s : State) : routing (lostEv cause t s) = routing s := by
  unfold lostEv
  dsimp only
  generalize (if (cause == 0x94) = true then s.lnk.evt94 else s.lnk.evt95).isSome = armed
  generalize (cause == 0x94) = nacked
  have hev := logEv_routing 5 0 cause ((t.tid / 256 % 32) <<< 8 ||| t.dst <<< 13) (if jobLoaded s then s.cmt.step.toNat else 0) (txnWord0 t)
    { s with lnk := { s.lnk with cntLost := satAdd s.lnk.cntLost 1 } }
  cases armed
  · cases nacked <;> exact hev
  · rfl

theorem txFailed_routing (x : OutTxn) (s : State) : routing (txFailed x s) = routing s := by
  unfold txFailed
  split <;> rfl

theorem place_routing (x : OutTxn) (s : State) : routing (place x s).1 = routing s := by
  unfold place
  split
  · exact (txFailed_routing _ _).trans (lostEv_routing _ _ _)
  · split <;> rfl

theorem sendTxn_routing (dst : Nat) (body : TxnBody) (o : TxOwner) (s : State) : routing (sendTxn dst body o s).1 = routing s := by
  unfold sendTxn
  split
  · split <;> rfl
  · exact place_routing _ _

theorem sendReply_routing (dst : Nat) (body : TxnBody) (s : State) : routing (sendReply dst body s) = routing s := by
  unfold sendReply
  split <;> rfl

theorem reroute_routing (t : Txn) (s : State) : routing (reroute t s) = routing s := by
  unfold reroute
  split
  · exact sendTxn_routing _ _ _ _
  · split
    · rfl
    · dsimp only
      split
      · rfl
      · exact sendReply_routing _ _ _

theorem rechoose_routing (s : State) : routing (rechoose s) = routing s :=
  foldl_keeps routing (fun t l => foldl_keeps routing (fun u x => reroute_routing x (modLink l (fun k => { k with txq := k.txq.erase x }) u)) _ t) _ s

theorem unhold_routing (s : State) : routing (unhold s) = routing s :=
  (foldl_keeps routing (fun t x => place_routing x t) _ _).trans rfl

/-- A table lists each key of `ks` with its value, but where that is 0 and but for the key `me`. -/
theorem Sparse.get_filterMap {w : Nat} (f : Nat → BitVec w) {me i : Nat} (hi : i ≠ me) (ks : List Nat) :
    Sparse.get (ks.filterMap fun k => if f k == 0 || k == me then none else some (k, f k)) i = if i ∈ ks then f i else 0 := by
  induction ks with
  | nil => rfl
  | cons k ks ih =>
    by_cases hskip : f k = 0 ∨ k = me
    · have hnone : (if f k == 0 || k == me then none else some (k, f k)) = none := if_pos (by simpa using hskip)
      simp only [List.filterMap_cons, hnone, ih]
      by_cases hk : i = k
      · subst hk
        simp [hskip.resolve_right hi]
      · simp [hk]
    · have hsome : (if f k == 0 || k == me then none else some (k, f k)) = some (k, f k) := if_neg (by simpa using hskip)
      simp only [List.filterMap_cons, hsome, Sparse.get, ih]
      by_cases hk : k = i
      · simp [hk]
      · simp [hk, Ne.symm hk]

/-- The table in memory at `base`: its entries that are not 0, but the device's own. -/
def rtTable (base : Nat) (s : State) : Sparse 32 := (List.range 16384).filterMap fun i =>
  let e := BitVec.ofNat 32 (natOf (peek s (base + 4 * i) 4))
  if e == 0 || i == self s then none else some (i, e)

theorem rtTable_get {s : State} {i : Nat} (hi : i < 16384) (hself : i ≠ self s) (base : Nat) :
    Sparse.get (rtTable base s) i = BitVec.ofNat 32 (natOf (peek s (base + 4 * i) 4)) :=
  (Sparse.get_filterMap (fun i => BitVec.ofNat 32 (natOf (peek s (base + 4 * i) 4))) hself _).trans (if_pos (List.mem_range.mpr hi))

/-- A table takes force. -/
def rtTaken (m : Sparse 32) (s : State) : State :=
  { s with lnk := { s.lnk with
      rt := m, rtLoaded := true, rtBusy := false, rtMaxHops := BitVec.ofNat 8 (m.foldl (fun x (_, e) => max x (entryHops e)) 0) } }

theorem rtTaken_routing (m : Sparse 32) (s : State) : routing (rtTaken m s) = (m, true, false, s.mem) := rfl

theorem rtLoad_eq (s : State) : let u := probe (s.lnk.rtBase.toNat * 64) 65536 s
    rtLoad s = unhold (rechoose (rtTaken (rtTable (s.lnk.rtBase.toNat * 64) u) u)) := by
  unfold rtLoad rtTaken rtTable
  rfl

theorem rtLoad_sets (s : State) :
    (rtLoad s).lnk.rt = rtTable (s.lnk.rtBase.toNat * 64) (probe (s.lnk.rtBase.toNat * 64) 65536 s) ∧
      (rtLoad s).lnk.rtLoaded = true ∧ (rtLoad s).lnk.rtBusy = false ∧ (rtLoad s).mem = s.mem := by
  rw [← routing_iff, rtLoad_eq, unhold_routing, rechoose_routing, rtTaken_routing, probe_mem]

theorem routeTableLoaded_awake {s : State} (hbusy : s.lnk.rtBusy = true)
    (hawake : sleeping s (s.lnk.rtBase.toNat * 64) 65536 = none) : exec .routeTableLoaded s = .next (rtLoad s) := by
  show execRouteTableLoaded s = _
  unfold execRouteTableLoaded
  rw [hbusy, hawake]
  rfl

theorem routeTableLoaded_asleep {s : State} {d : Admit} {a : Nat} (hbusy : s.lnk.rtBusy = true)
    (hasleep : sleeping s (s.lnk.rtBase.toNat * 64) 65536 = some (d, a)) : exec .routeTableLoaded s = .next (want a s) := by
  show execRouteTableLoaded s = _
  unfold execRouteTableLoaded
  rw [hbusy, hasleep]
  rfl

/-- Settles O41: each lane and link by its lanes left, each transaction by its body, the table entry by entry from memory. -/
theorem linkLanesAndTransactions : Obligations.LinkLanesAndTransactions := by
  refine ⟨fun l lane s h hstate hlane hok => ?_, fun l lanes pd pl s h hstate hjob hfull => linkTrained_full h hstate hjob hfull pd pl,
    fun l usable pd pl s h hstate hlow hhigh => linkTrained_fails h hstate hlow hhigh pd pl,
    fun l s h hdown hon htimer hid => linkTrainRetry_next h hdown hon htimer hid,
    fun l t a bs s hbody hdst hrx => ⟨fun hout => ?_, fun hin hawake => ?_⟩, fun l t p n s hbody hdst hrx hawake hthl => ?_,
    fun l t tids s hbody hdst hrx => ack_next hbody hdst hrx, fun l t tid r s hbody hdst hrx => nack_next hbody hdst hrx,
    fun tid s h => transactionTimeout_next h,
    fun l t s h hdst hrx => ⟨fun k hk => transactionForward_routed h hdst hrx hk,
      fun hnone hvc => transactionForward_unroutable h hdst hrx hnone hvc⟩, fun s hbusy => ⟨fun hawake => ?_, fun i a hasleep => routeTableLoaded_asleep hbusy hasleep⟩⟩
  · have hnext := laneFail_next h hstate hlane hok
    have hused (h1 : (linkOf s l).width = 1) : bit (lanesOf (linkOf s l).width.toNat) lane = true := by rw [h1]; exact bit_lanesOf_full lane hlane
    refine ⟨fun hspare => ?_, fun hin hhalf => ?_, fun hwide hlow hhigh => ?_, fun hwide hleft => ?_⟩
    · rw [hnext, laneFail_spare hspare]; rfl
    · rw [hnext, laneFail_inUse hin]
      exact congrArg _ (if_pos (.inl hhalf))
    · rw [hnext, laneFail_inUse (hused hwide)]
      exact congrArg _ (if_pos (.inr ⟨hlow, hhigh⟩))
    · rw [hnext, laneFail_inUse (hused hwide)]
      exact congrArg _ (if_neg (by rintro (hn | ⟨hlow, hhigh⟩); exacts [hn hwide, hleft.elim hlow hhigh]))
  · rw [write_next hbody hdst hrx, writeArrived_outside hout]
  · rw [write_next hbody hdst hrx, writeArrived_awake hin hawake]
  · rw [writeFin_next hbody hdst hrx hawake, remotePost_present hthl]
  · obtain ⟨hrt, hloaded, hdone, hmem⟩ := rtLoad_sets s
    have hme : self (probe (s.lnk.rtBase.toNat * 64) 65536 s) = self s := congrArg (fun x : Lnk => x.devId.toNat) (probe_lnk _ _ s)
    refine ⟨rtLoad s, routeTableLoaded_awake hbusy hawake, hloaded, hdone, hmem, fun i hi hself => ?_⟩
    rw [hrt]
    exact rtTable_get hi (hme ▸ hself) _

end Sys2Proof.Machine
end

section
/-! The fabric timebase (13): the root and its order (R276), time flits and samples (R277, R278), PPS (R279); measured token rates (01 R387). -/

namespace Sys2Proof.Machine

open Sys2Proof

/-! ## The order of roots (13 R276) -/

/-- The place of a root in the order of R276: locked to PPS first, then the lower priority value, then the lower identifier. -/
def RootInfo.rank (a : RootInfo) : Bool ×ₗ Nat ×ₗ Nat := toLex (!a.ppsLocked, toLex (a.prio, a.dev))

theorem RootInfo.before_iff (a b : RootInfo) : a.before b = true ↔ a.rank < b.rank := by
  have hlow : (if a.prio = b.prio then a.dev < b.dev else a.prio < b.prio) ↔ a.prio < b.prio ∨ a.prio = b.prio ∧ a.dev < b.dev := by
    split <;> simp [*]
  simp only [RootInfo.before, RootInfo.rank, Prod.Lex.toLex_lt_toLex]
  cases a.ppsLocked <;> cases b.ppsLocked <;> simp [hlow]

/-- A fold that keeps the better of what it has and what comes ends with one that no other is better than. -/
theorem foldl_best {α β : Type} [LinearOrder β] (rank : α → β) {f : Option α → α → Option α}
    (hf : ∀ x y, f (some y) x = some x ∧ rank x ≤ rank y ∨ f (some y) x = some y ∧ rank y ≤ rank x) (xs : List α) (y : α) :
    ∃ z, xs.foldl f (some y) = some z ∧ z ∈ y :: xs ∧ ∀ x ∈ y :: xs, rank z ≤ rank x := by
  induction xs generalizing y with
  | nil => exact ⟨y, rfl, by simp, by simp⟩
  | cons x xs ih =>
    obtain ⟨w, hw, hmem, hx, hy⟩ : ∃ w, f (some y) x = some w ∧ w ∈ [y, x] ∧ rank w ≤ rank x ∧ rank w ≤ rank y := by
      rcases hf x y with ⟨hw, hle⟩ | ⟨hw, hle⟩
      · exact ⟨x, hw, by simp, le_refl _, hle⟩
      · exact ⟨y, hw, by simp, hle, le_refl _⟩
    obtain ⟨z, hz, hzmem, hbest⟩ := ih w
    have hzw : rank z ≤ rank w := hbest w (by simp)
    refine ⟨z, by rw [List.foldl_cons, hw, hz], ?_, fun u hu => ?_⟩
    · simp only [List.mem_cons, List.not_mem_nil, or_false] at hmem hzmem ⊢
      rcases hzmem with rfl | h
      · tauto
      · exact .inr (.inr h)
    · rcases List.mem_cons.mp hu with rfl | hu
      · exact hzw.trans hy
      · rcases List.mem_cons.mp hu with rfl | hu
        · exact hzw.trans hx
        · exact hbest u (List.mem_cons_of_mem _ hu)

/-- The candidates with the links that announce them. -/
def rootChoices (s : State) : List (RootInfo × Option Nat) :=
  ((liveAnns s).map fun (l, r) => (r, some l)) ++ if s.time.prio == 255 || !s.lnk.devValid then [] else [(ownRoot s, none)]

theorem rootChoices_roots (s : State) : (rootChoices s).map (·.1) = rootCandidates s := by
  simp only [rootChoices, rootCandidates, List.map_append, List.map_map]
  congr 1
  by_cases h : s.time.prio = 255 ∨ s.lnk.devValid = false
  · rw [if_pos h, if_pos (by simpa using h)]
    rfl
  · rw [if_neg h, if_neg (by simpa using h)]
    rfl

/-- Between announcements of one root the link decides, else the order of roots. -/
theorem bestRoot_fold (s : State) : ∃ f : Option (RootInfo × Option Nat) → RootInfo × Option Nat → Option (RootInfo × Option Nat),
    (∀ x, f none x = some x) ∧
    (∀ x y, f (some y) x = some x ∧ x.1.rank ≤ y.1.rank ∨ f (some y) x = some y ∧ y.1.rank ≤ x.1.rank) ∧
    bestRoot s = (rootChoices s).foldl f none := by
  refine ⟨_, ?_, ?_, rfl⟩
  · exact fun x => rfl
  · rintro ⟨r, l⟩ ⟨q, k⟩
    dsimp only
    by_cases hsame : (r.dev == q.dev && r.ppsLocked == q.ppsLocked && r.prio == q.prio) = true
    · have hrank : r.rank = q.rank := by
        simp only [Bool.and_eq_true, beq_iff_eq] at hsame
        obtain ⟨⟨hdev, hpps⟩, hprio⟩ := hsame
        simp only [RootInfo.rank, hdev, hpps, hprio]
      have heither (b : Bool) (x y : Option (RootInfo × Option Nat)) : (if b then x else y) = x ∨ (if b then x else y) = y := by
        cases b
        · exact .inr rfl
        · exact .inl rfl
      rw [if_pos hsame]
      exact (heither _ _ _).imp (⟨·, hrank.le⟩) (⟨·, hrank.ge⟩)
    · rw [if_neg hsame]
      split
      next h => exact .inl ⟨rfl, ((RootInfo.before_iff r q).mp h).le⟩
      next h => exact .inr ⟨rfl, not_lt.mp (mt (RootInfo.before_iff r q).mpr h)⟩

theorem bestRoot_none {s : State} (h : rootCandidates s = []) : bestRoot s = none := by
  obtain ⟨f, -, -, hfold⟩ := bestRoot_fold s
  have hnil : rootChoices s = [] := List.map_eq_nil_iff.mp ((rootChoices_roots s).trans h)
  rw [hfold, hnil]
  rfl

theorem bestRoot_best {s : State} (h : rootCandidates s ≠ []) :
    ∃ r l, bestRoot s = some (r, l) ∧ r ∈ rootCandidates s ∧ ∀ q ∈ rootCandidates s, q.before r = false := by
  obtain ⟨f, hnone, hbetter, hfold⟩ := bestRoot_fold s
  rw [← rootChoices_roots] at h ⊢
  obtain ⟨x, xs, hcons⟩ := List.exists_cons_of_ne_nil (mt List.map_eq_nil_iff.mpr h)
  obtain ⟨⟨r, l⟩, hz, hmem, hbest⟩ := foldl_best (fun x : RootInfo × Option Nat => x.1.rank) hbetter xs x
  refine ⟨r, l, by rw [hfold, hcons, List.foldl_cons, hnone, hz], List.mem_map.mpr ⟨(r, l), hcons.symm ▸ hmem, rfl⟩, ?_⟩
  simp only [List.mem_map, hcons, forall_exists_index, and_imp, forall_apply_eq_imp_iff₂]
  exact fun q hq => Bool.eq_false_iff.mpr fun hb => (not_lt.mpr (hbest q hq)) ((RootInfo.before_iff _ _).mp hb)

/-! ## Choosing a root (13 R276) -/

@[simp] theorem lnkEv_time (a b c d : Nat) (s : State) : (lnkEv a b c d s).time = s.time := by
  obtain ⟨L, n, h⟩ := lnkEv_form a b c d s
  rw [h]

/-- The timebase island with a root and, of a follower, its up-link. -/
def TimeSt.rooted (r : RootInfo) : Option Nat → TimeSt → TimeSt
  | some l, t => { t with role := 2, rootDev := BitVec.ofNat 14 r.dev, hops := BitVec.ofNat 6 (r.hops + 1), upLink := BitVec.ofNat 5 l }
  | none, t => { t with role := 1, rootDev := BitVec.ofNat 14 r.dev, hops := 0, upLink := 0, locked := false }

/-- A change of root touches its counter only, beside the log. -/
theorem rootChanged_time (was : Option (Nat × Option Nat)) (t : State) : ∃ n, (if rootNow t == was then t
    else lnkEv 0xA0 t.time.upLink.toNat t.time.rootDev.toNat 0 { t with time := { t.time with
      cntRootChange := satAdd t.time.cntRootChange 1 } }).time = { t.time with cntRootChange := n } := by
  split
  · exact ⟨t.time.cntRootChange, rfl⟩
  · exact ⟨_, lnkEv_time _ _ _ _ _⟩

theorem chooseRoot_some {s : State} {r : RootInfo} {l : Option Nat} (h : bestRoot s = some (r, l)) :
    ∃ n, (chooseRoot s).time = { s.time.rooted r l with cntRootChange := n } := by
  unfold chooseRoot
  rw [h]
  cases l with
  | none => exact rootChanged_time (rootNow s) { s with time := s.time.rooted r none }
  | some k => exact rootChanged_time (rootNow s) { s with time := s.time.rooted r (some k) }

theorem chooseRoot_none {s : State} (h : bestRoot s = none) : (chooseRoot s).time =
    if s.time.role = 2 then { s.time with role := 3, locked := false }
    else if s.time.role = 1 then { s.time with role := 0, locked := false } else s.time := by
  unfold chooseRoot
  rw [h]
  simp only [beq_iff_eq]
  split
  · exact lnkEv_time _ _ _ _ _
  · split <;> rfl

/-- The timebase island but for its root. -/
def TimeSt.unrooted (t : TimeSt) : TimeSt := { t with role := 0, rootDev := 0, hops := 0, upLink := 0, locked := false, cntRootChange := 0 }

theorem chooseRoot_unrooted (s : State) : (chooseRoot s).time.unrooted = s.time.unrooted := by
  cases h : bestRoot s with
  | some x =>
    obtain ⟨r, l⟩ := x
    obtain ⟨n, hn⟩ := chooseRoot_some h
    rw [hn]
    cases l <;> rfl
  | none =>
    rw [chooseRoot_none h]
    split
    · rfl
    · split <;> rfl

theorem chooseRoot_leaves {α : Type} {g : TimeSt → α} (hg : ∀ t, g t.unrooted = g t) (s : State) : g (chooseRoot s).time = g s.time := by
  rw [← hg, chooseRoot_unrooted, hg]

/-! ## Steering the timebase (13 R278) -/

/-- The count of the timebase in units of 2^-32 ns. -/
def TimeSt.count (t : TimeSt) : Nat := t.now.toNat * 2 ^ 32 + t.frac.toNat

/-- The timebase island but for its count and the steering of it. -/
def TimeSt.unsteered (t : TimeSt) : TimeSt := { t with now := 0, frac := 0, adj := 0, ppsDone := false, cntStep := 0 }

theorem stepTime_time (l : Nat) (d : Int) (s : State) : let x := wrapNat 96 ((s.time.count : Int) + d * 2 ^ 26)
    (stepTime l d s).time = { s.time with
      now := BitVec.ofNat 64 (x / 2 ^ 32), frac := BitVec.ofNat 32 x, ppsDone := false, cntStep := satAdd s.time.cntStep 1 } :=
  lnkEv_time _ _ _ _ _

theorem discipline_slews {s : State} {o : Int} (h : jobLoaded s = true ∨ o.natAbs ≤ 64000) (l : Nat) : discipline l o s = servo o s := by
  refine if_neg ?_
  rcases h with h | h
  · simp [h]
  · simp [Nat.not_lt.mpr h]

theorem discipline_steps {s : State} {o : Int} (hjob : jobLoaded s = false) (ho : 64000 < o.natAbs) (l : Nat) :
    discipline l o s = stepTime l (-o) s :=
  if_pos (by simp [hjob, ho])

theorem discipline_unsteered (l : Nat) (o : Int) (s : State) : (discipline l o s).time.unsteered = s.time.unsteered := by
  unfold discipline
  split
  · rw [stepTime_time]
    rfl
  · rfl

theorem discipline_leaves {α : Type} {g : TimeSt → α} (hg : ∀ t, g t.unsteered = g t) (l : Nat) (o : Int) (s : State) :
    g (discipline l o s).time = g s.time := by
  rw [← hg, discipline_unsteered, hg]

/-- A step adds to the count, which wraps. -/
theorem stepTime_count (l : Nat) (d : Int) (s : State) : (stepTime l d s).time.count = (((s.time.count : Int) + d * 2 ^ 26) % 2 ^ 96).toNat := by
  have hsplit (x : Nat) (hx : x < 2 ^ 96) : (BitVec.ofNat 64 (x / 2 ^ 32)).toNat * 2 ^ 32 + (BitVec.ofNat 32 x).toNat = x := by
    rw [BitVec.toNat_ofNat, BitVec.toNat_ofNat, Nat.mod_eq_of_lt (by omega)]
    omega
  have hlt (v : Int) : wrapNat 96 v < 2 ^ 96 := by
    unfold wrapNat
    omega
  exact (congrArg TimeSt.count (stepTime_time _ _ _)).trans (hsplit _ (hlt _))

/-! ## Samples (13 R277, R278) -/

theorem sample_dropped {l : Nat} {s : State} (h : (linkOf s l).disturbed.isSome = true) (t1 t2 t3 t4 : Int) :
    sample l t1 t2 t3 t4 s = { s with time := { s.time with cntSampleDrop := satAdd s.time.cntSampleDrop 1 } } :=
  if_pos (by rw [h]; rfl)

/-- 64 kept offsets of at most 2 ns (R278). -/
def locks (os : List Int) : Bool := os.length == 64 && os.all fun x => x.natAbs ≤ 128

theorem locks_iff (os : List Int) : locks os = true ↔ os.length = 64 ∧ ∀ x ∈ os, x.natAbs ≤ 128 := by
  simp [locks]

/-- A sample with offset `o` and delay `d` is kept. -/
def keptSample (o d : Int) (s : State) : State :=
  { s with time := { s.time with
      samples := (o :: s.time.samples).take 64, delays := (d :: s.time.delays).take 16, lastO := BitVec.ofInt 32 o } }

/-- The first sample on a link that nothing has disturbed is kept, and the timebase follows its offset. -/
theorem sample_first {l : Nat} {s : State} (hcalm : (linkOf s l).disturbed = none) (hfirst : s.time.delays = []) (t1 t2 t3 t4 : Int) :
    let o := ((t4 - t3) - (t2 - t1)) / 2
    let d := ((t4 - t3) + (t2 - t1)) / 2
    (sample l t1 t2 t3 t4 s).time =
      { (discipline l o (keptSample o d s)).time with locked := locks ((o :: s.time.samples).take 64) } := by
  intro o d
  unfold sample
  dsimp only
  rw [if_neg (by simp [hcalm, hfirst])]
  split
  · exact lnkEv_time _ _ _ _ _
  · rfl

/-- What the first sample leaves: its record, the lock, and the count, stepped where a large offset meets no job. -/
theorem sample_first_acts {l : Nat} {s : State} (hcalm : (linkOf s l).disturbed = none) (hfirst : s.time.delays = []) (t1 t2 t3 t4 : Int) :
    let o := ((t4 - t3) - (t2 - t1)) / 2
    let u := sample l t1 t2 t3 t4 s
    u.time.samples = (o :: s.time.samples).take 64 ∧ u.time.delays = [((t4 - t3) + (t2 - t1)) / 2] ∧
      (u.time.locked = true ↔ u.time.samples.length = 64 ∧ ∀ x ∈ u.time.samples, x.natAbs ≤ 128) ∧
      (jobLoaded s = true ∨ o.natAbs ≤ 64000 → u.time.now = s.time.now ∧ u.time.frac = s.time.frac) ∧
      (jobLoaded s = false → 64000 < o.natAbs → u.time.count = (((s.time.count : Int) - o * 2 ^ 26) % 2 ^ 96).toNat) := by
  intro o u
  have htime : u.time = _ := sample_first hcalm hfirst t1 t2 t3 t4
  generalize hd : ((t4 - t3) + (t2 - t1)) / 2 = d at htime
  have hsamples : u.time.samples = (o :: s.time.samples).take 64 := by
    rw [htime]
    exact discipline_leaves (g := TimeSt.samples) (fun _ => rfl) l o (keptSample o d s)
  have hdelays : u.time.delays = [d] := by
    rw [htime]
    refine (discipline_leaves (g := TimeSt.delays) (fun _ => rfl) l o (keptSample o d s)).trans ?_
    rw [keptSample, hfirst]
    rfl
  refine ⟨hsamples, hdelays, ?_, fun hslew => ?_, fun hjob ho => ?_⟩
  · rw [hsamples, ← locks_iff, htime]
  · rw [htime, discipline_slews (s := keptSample o d s) hslew]
    exact ⟨rfl, rfl⟩
  · have hcount : u.time.count = (stepTime l (-o) (keptSample o d s)).time.count := by
      rw [htime, discipline_steps (s := keptSample o d s) hjob ho]
      rfl
    rw [hcount, stepTime_count, Int.neg_mul, ← Int.sub_eq_add_neg]
    rfl

/-! ## Time flits (13 R276, R277) -/

theorem timeFlitSend_next {l : Nat} {s : State} (h : hasLink s l = true) (hup : (linkOf s l).state = .up)
    (htimer : (linkOf s l).timeTimer = some 0) (corr : Int) : ∃ t, exec (.timeFlitSend l corr) s = .next t ∧
      t.out = s.out ++ [.timeFlit l ((linkOf s l).mk' 0 [] false) (announced s) (isUpLink s l)
        ((linkOf s l).reqArrival.map fun a => (a, stamp corr s))] ∧
      (linkOf t l).timeTimer = some 125000 ∧ (linkOf t l).t1 = (if isUpLink s l then some (stamp corr s) else none) ∧
      t.time.cntSampleDrop = if (linkOf s l).t1.isSome then satAdd s.time.cntSampleDrop 1 else s.time.cntSampleDrop := by
  have hlink := linkOf_modLink_same h fun k => { k with
    timeTimer := some 125000, t1 := if isUpLink s l then some (stamp corr s) else none, reqArrival := none }
  refine ⟨_, need_next h (by rw [hup, htimer]; rfl) _, ?_⟩
  cases (linkOf s l).t1.isSome
  all_goals exact ⟨rfl, congrArg Link.timeTimer hlink, congrArg Link.t1 hlink, rfl⟩

section TimeFlit

variable {l : Nat} {fec : Fec} {i : TimeInfo} {s : State} (h : hasLink s l = true) (hup : (linkOf s l).state = .up)
  (hgood : fecGood fec = true) (hreq : i.request = false) (fl : Flit)

include h hup hgood hreq

/-- A good time flit that asks for nothing and answers nothing only announces a root. -/
theorem timeFlit_announces (hreply : i.reply = none) : exec (.timeFlit l fl fec i) s =
    .next (settle (laneCheck l (chooseRoot (announcedOn l i (headerIn l fl (fecIn l fl fec s)))))) := by
  refine (takesFlits_next h ((takesFlits_iff s l false).mpr (.inl hup)) _).trans ?_
  rw [hgood, if_neg (by decide), flitIn_good l fl hgood]
  simp only [hreq, hreply]
  rfl

/-- A good time flit that asks for nothing and answers the request sent at `a` on the up-link gives a sample. -/
theorem timeFlit_samples {a b c : Int} (hreply : i.reply = some (b, c)) :
    let u := chooseRoot (announcedOn l i (headerIn l fl (fecIn l fl fec s)))
    (linkOf u l).t1 = some a → isUpLink u l = true → exec (.timeFlit l fl fec i) s =
      .next (settle (laneCheck l (sample l a b c (stamp i.corr s) (modLink l (fun k => { k with t1 := none }) u)))) := by
  intro u ht1 huplink
  refine (takesFlits_next h ((takesFlits_iff s l false).mpr (.inl hup)) _).trans ?_
  rw [hgood, if_neg (by decide), flitIn_good l fl hgood]
  simp only [hreq, hreply]
  change Host.Outcome.next (settle (laneCheck l (match some (b, c), (linkOf u l).t1 with
    | some (b, c), some a => if isUpLink u l then _ else _
    | _, _ => _))) = _
  rw [ht1]
  exact congrArg (fun t => Host.Outcome.next (settle (laneCheck l t))) (if_pos huplink)

end TimeFlit

theorem rootAnnounceTimeout_next {l : Nat} {s : State} (h : hasLink s l = true) (hdue : ∃ r, (l, r, some 0) ∈ s.time.anns) :
    exec (.rootAnnounceTimeout l) s = .next (chooseRoot { s with time := { s.time with anns := s.time.anns.filter fun x => x.1 != l } }) := by
  obtain ⟨r, hr⟩ := hdue
  exact need_next h (List.any_eq_true.mpr ⟨_, hr, by simp⟩) _

/-! ## PPS (13 R279) -/

/-- Edges in a row within 20 ns of a whole second, at most 8. -/
def ppsRunNext (s : State) : Nat := if (secondErr s).natAbs ≤ 20 then min (s.time.ppsRun + 1) 8 else 0

/-- An edge has been seen and judged, before the timebase and the root follow it. -/
def ppsSeen (s : State) : State :=
  { s with time := { s.time with
      ppsTimer := some 1100000000, ppsRun := ppsRunNext s, ppsInLocked := s.time.ppsInLocked || ppsRunNext s == 8 } }

theorem ppsInEdge_off {s : State} (h : s.time.ppsInEn = false) : exec .ppsInEdge s = .next s :=
  congrArg Host.Outcome.next (if_pos (by rw [h]; rfl))

theorem ppsInEdge_next {s : State} (h : s.time.ppsInEn = true) : exec .ppsInEdge s = .next (chooseRoot
    (if s.time.role = 1 then discipline 0 (secondErr s * 64) (ppsSeen s) else ppsSeen s)) := by
  show execPpsInEdge s = _
  unfold execPpsInEdge
  rw [h]
  simp only [beq_iff_eq]
  rfl

theorem ppsInEdge_leaves {α : Type} {g : TimeSt → α} (hroot : ∀ t, g t.unrooted = g t) (hsteer : ∀ t, g t.unsteered = g t) (s : State) :
    g (chooseRoot (if s.time.role = 1 then discipline 0 (secondErr s * 64) (ppsSeen s) else ppsSeen s)).time = g (ppsSeen s).time := by
  rw [chooseRoot_leaves hroot]
  split
  · exact discipline_leaves hsteer _ _ _
  · rfl

/-- No edge for 1.1 s. -/
def ppsLost (s : State) : State := { s with time := { s.time with ppsTimer := none, ppsRun := 0, ppsInLocked := false } }

theorem ppsInTimeout_next {s : State} (h : s.time.ppsTimer = some 0) :
    exec .ppsInTimeout s = .next (chooseRoot (lnkEv 0xA3 0 s.time.rootDev.toNat 0 (ppsLost s))) :=
  need_next rfl (beq_iff_eq.mpr h) _

/-! ## Token rates (01 R387) -/

theorem trateIntervalEnd_next {f tokens : Nat} {s : State} (hf : f < 4) (hdue : (s.trate.getD f {}).due = true) :
    ∃ t, exec (.trateIntervalEnd f tokens) s = .next { s with trate := t } ∧ t.length = s.trate.length ∧
    ∀ g < s.trate.length, let k := s.trate.getD g {}; let r := if k.lastOn = 0 then 0 else min (tokens / 10) 0xFFFF
      t.getD g {} = if g = f then { k with
        due := false, rate := BitVec.ofNat 16 r
        rateMin := BitVec.ofNat 16 (min k.rateMin.toNat r), rateMax := BitVec.ofNat 16 (max k.rateMax.toNat r) } else k := by
  refine ⟨_, need_next (decide_eq_true hf) hdue _, by simp, fun g hg => ?_⟩
  simp only [List.getD_eq_getElem?_getD, List.getElem?_modify, List.getElem?_eq_getElem hg, beq_iff_eq]
  by_cases h : f = g
  · subst h
    simp [hg]
  · simp [h, Ne.symm h]

/-- Settles O42: the root by the order of R276, each time flit and sample, each PPS edge and timeout, and each token rate. When PPS_OUT may
rise, and that an exchange still open at the next send counts as dropped, are the model's choices (log entry 30). -/
theorem timeRootsFlitsAndSecondEdges : Obligations.TimeRootsFlitsAndSecondEdges := by
  refine ⟨⟨fun s => ⟨bestRoot_none, bestRoot_best⟩, fun s r l h => ?_, fun s h hrole => ?_,
      fun l corr s h hup htimer => timeFlitSend_next h hup htimer corr,
      fun l fl fec i s h hup hgood hreq => ⟨fun hreply => timeFlit_announces h hup hgood hreq fl hreply,
        fun a b c hreply ht1 huplink => timeFlit_samples h hup hgood hreq fl hreply ht1 huplink⟩,
      fun l t1 t2 t3 t4 s => ⟨fun h => sample_dropped h t1 t2 t3 t4, fun hcalm hfirst => sample_first_acts hcalm hfirst t1 t2 t3 t4⟩,
      fun l s h hdue => rootAnnounceTimeout_next h hdue⟩,
    fun s h => ppsInEdge_off h, fun s h => ?_, fun s h => ?_, fun s hsec hdone => need_next rfl (by simp [atSecond, hsec, hdone]) _,
    fun s h => need_next rfl (beq_iff_eq.mpr h) _, fun f tokens s hf hdue => trateIntervalEnd_next hf hdue⟩
  · obtain ⟨n, hn⟩ := chooseRoot_some h
    rw [hn]
    cases l <;> exact ⟨rfl, rfl⟩
  · rw [chooseRoot_none h, if_pos hrole]
    exact ⟨rfl, rfl⟩
  · refine ⟨_, ppsInEdge_next h, ppsInEdge_leaves (g := TimeSt.ppsTimer) (fun _ => rfl) (fun _ => rfl) s,
      ppsInEdge_leaves (g := TimeSt.ppsRun) (fun _ => rfl) (fun _ => rfl) s,
      ppsInEdge_leaves (g := TimeSt.ppsInLocked) (fun _ => rfl) (fun _ => rfl) s, fun hrole => ?_⟩
    rw [if_neg hrole]
    exact ⟨chooseRoot_leaves (g := TimeSt.now) (fun _ => rfl) _, chooseRoot_leaves (g := TimeSt.adj) (fun _ => rfl) _⟩
  · have hkeeps {α : Type} {g : TimeSt → α} (hg : ∀ t, g t.unrooted = g t) :=
      (chooseRoot_leaves hg _).trans (congrArg g (lnkEv_time 0xA3 0 s.time.rootDev.toNat 0 (ppsLost s)))
    exact ⟨_, ppsInTimeout_next h, hkeeps (g := TimeSt.ppsTimer) fun _ => rfl, hkeeps (g := TimeSt.ppsRun) fun _ => rfl,
      hkeeps (g := TimeSt.ppsInLocked) fun _ => rfl, hkeeps (g := TimeSt.now) fun _ => rfl, hkeeps (g := TimeSt.adj) fun _ => rfl⟩

end Sys2Proof.Machine
end

section
/-! Every command keeps what Laws/Kept.lean names (one lemma per meaning stands under Laws/), and so does a step (14 R294, 07). -/

namespace Sys2Proof.Machine

open Sys2Proof

/-- Whatever command is in front, the state that its meaning answers is kept. -/
theorem kept_exec (i : Instr) (s : State) : ResKept s (exec i s) :=
  have h := Kept.refl s
  match i with
  | .stepStart => kept_execStepStart s h
  | .issue n q w0 pw => kept_execIssue n q w0 pw s h
  | .pegwait n q w => kept_execPegwait n q w s h
  | .pegwaitTimeout n q => kept_execPegwaitTimeout n q s h
  | .pegPostEv n p amount agent => kept_execPegPostEv n p amount agent s h
  | .pegpost n q w => kept_execPegpost n q w s h
  | .pegpostFenceDone n q => kept_execPegpostFenceDone n q s h
  | .dma n q w0 w1 => kept_execDma n q w0 w1 s h
  | .bopen n q w => kept_execBopen n q w s h
  | .bcontrib n q w0 w1 w2 => kept_execBcontrib n q w0 w1 w2 s h
  | .markEndOfForward n q w0 w1 => kept_execMarkEndOfForward n q w0 w1 s h
  | .endOfForwardLossCheck n => kept_execEndOfForwardLossCheck n s h
  | .forwardBarrierOpen => kept_execForwardBarrierOpen s h
  | .markEnd n q w0 w1 => kept_execMarkEnd n q w0 w1 s h
  | .markTrace n q w0 w1 => kept_execMarkTrace n q w0 w1 s h
  | .epoch n q w => kept_execEpoch n q w s h
  | .upd n q w0 w1 => kept_execUpd n q w0 w1 s h
  | .updComplete n k => kept_execUpdComplete n k s h
  | .mrun n q w0 w1 => kept_execMrun n q w0 w1 s h
  | .mrunComplete n k => kept_execMrunComplete n k s h
  | .lset n q w0 w1 => kept_execLset n q w0 w1 s h
  | .brung n q w0 w1 w2 => kept_execBrung n q w0 w1 w2 s h
  | .jump n q w => kept_execJump n q w s h
  | .streamResume n q who => kept_execStreamResume n q who s h
  | .streamResumeSkip n q who => kept_execStreamResumeSkip n q who s h
  | .passDispatch n m => kept_execPassDispatch n m s h
  | .passDrainComplete n m f => kept_execPassDrainComplete n m f s h
  | .outputPathTile n m => kept_execOutputPathTile n m s h
  | .passComplete n m => kept_execPassComplete n m s h
  | .shadowCompare n m => kept_execShadowCompare n m s h
  | .statsRecordMerge n m => kept_execStatsRecordMerge n m s h
  | .frondFault n m f => kept_execFrondFault n m f s h
  | .drainParityError n m f => kept_execDrainParityError n m f s h
  | .accMemUncorrectable n m k => kept_execAccMemUncorrectable n m k s h
  | .engPreemptSet n m => kept_execEngPreemptSet n m s h
  | .engPreemptClear n m => kept_execEngPreemptClear n m s h
  | .actLoadStart n m data who => kept_execActLoadStart n m data who s h
  | .actLoadDone n m => kept_execActLoadDone n m s h
  | .governorRun => kept_execGovernorRun s h
  | .recordUp tag first blocks => kept_execRecordUp tag first blocks s h
  | .recordDown tag first blocks => kept_execRecordDown tag first blocks s h
  | .dmaDescriptorStart n ch => kept_execDmaDescriptorStart n ch s h
  | .dmaComplete n ch => kept_execDmaComplete n ch s h
  | .hbmScrubLine addr r => kept_execHbmScrubLine addr r s h
  | .add n c w => kept_execAdd n c w s h
  | .sub n c w => kept_execSub n c w s h
  | .mul n c w => kept_execMul n c w s h
  | .mulh n c w => kept_execMulh n c w s h
  | .div n c w => kept_execDiv n c w s h
  | .divu n c w => kept_execDivu n c w s h
  | .rem n c w => kept_execRem n c w s h
  | .and n c w => kept_execAnd n c w s h
  | .or n c w => kept_execOr n c w s h
  | .xor n c w => kept_execXor n c w s h
  | .shl n c w => kept_execShl n c w s h
  | .shr n c w => kept_execShr n c w s h
  | .sra n c w => kept_execSra n c w s h
  | .slt n c w => kept_execSlt n c w s h
  | .sltu n c w => kept_execSltu n c w s h
  | .addi n c w => kept_execAddi n c w s h
  | .andi n c w => kept_execAndi n c w s h
  | .ori n c w => kept_execOri n c w s h
  | .lui n c w => kept_execLui n c w s h
  | .fadd n c w => kept_execFadd n c w s h
  | .fsub n c w => kept_execFsub n c w s h
  | .fmul n c w => kept_execFmul n c w s h
  | .fdiv n c w => kept_execFdiv n c w s h
  | .fsqrt n c w => kept_execFsqrt n c w s h
  | .fmin n c w => kept_execFmin n c w s h
  | .fmax n c w => kept_execFmax n c w s h
  | .beq n c w => kept_execBeq n c w s h
  | .bne n c w => kept_execBne n c w s h
  | .blt n c w => kept_execBlt n c w s h
  | .bge n c w => kept_execBge n c w s h
  | .bltu n c w => kept_execBltu n c w s h
  | .bgeu n c w => kept_execBgeu n c w s h
  | .jal n c w => kept_execJal n c w s h
  | .jalr n c w => kept_execJalr n c w s h
  | .ld n c w => kept_execLd n c w s h
  | .st n c w => kept_execSt n c w s h
  | .vld n c w => kept_execVld n c w s h
  | .vst n c w => kept_execVst n c w s h
  | .pld n c w => kept_execPld n c w s h
  | .pst n c w => kept_execPst n c w s h
  | .vadd n c w => kept_execVadd n c w s h
  | .vsub n c w => kept_execVsub n c w s h
  | .vmul n c w => kept_execVmul n c w s h
  | .vdiv n c w => kept_execVdiv n c w s h
  | .vsqrt n c w => kept_execVsqrt n c w s h
  | .vmin n c w => kept_execVmin n c w s h
  | .vmax n c w => kept_execVmax n c w s h
  | .vabs n c w => kept_execVabs n c w s h
  | .vand n c w => kept_execVand n c w s h
  | .vor n c w => kept_execVor n c w s h
  | .vxor n c w => kept_execVxor n c w s h
  | .vshl n c w => kept_execVshl n c w s h
  | .vshr n c w => kept_execVshr n c w s h
  | .vcmp n c w => kept_execVcmp n c w s h
  | .vsel n c w => kept_execVsel n c w s h
  | .vperm n c w => kept_execVperm n c w s h
  | .vbcast n c w => kept_execVbcast n c w s h
  | .vmovg n c w => kept_execVmovg n c w s h
  | .vmovv n c w => kept_execVmovv n c w s h
  | .vreduce n c w => kept_execVreduce n c w s h
  | .pand n c w => kept_execPand n c w s h
  | .por n c w => kept_execPor n c w s h
  | .pnot n c w => kept_execPnot n c w s h
  | .pcnt n c w => kept_execPcnt n c w s h
  | .vcvt n c w => kept_execVcvt n c w s h
  | .vgather n c w => kept_execVgather n c w s h
  | .vscatter n c w => kept_execVscatter n c w s h
  | .vscaddUnordered n c w => kept_execVscaddUnordered n c w s h
  | .vscaddOrdered n c w => kept_execVscaddOrdered n c w s h
  | .osync n c w => kept_execOsync n c w s h
  | .osyncBarrierComplete n k => kept_execOsyncBarrierComplete n k s h
  | .vsegred n c w => kept_execVsegred n c w s h
  | .visect n c w => kept_execVisect n c w s h
  | .vmerge n c w => kept_execVmerge n c w s h
  | .mpegpost n c w => kept_execMpegpost n c w s h
  | .mpegwait n c w => kept_execMpegwait n c w s h
  | .mpegwaitTimeout n c => kept_execMpegwaitTimeout n c s h
  | .mdma n c w => kept_execMdma n c w s h
  | .fence n c w => kept_execFence n c w s h
  | .stop n c w => kept_execStop n c w s h
  | .coreRunEnd n c => kept_execCoreRunEnd n c s h
  | .timerd n c w => kept_execTimerd n c w s h
  | .mcsr n c w => kept_execMcsr n c w s h
  | .tagWaitDiag n q => kept_execTagWaitDiag n q s h
  | .announce tag kind count digest => kept_execAnnounce tag kind count digest s h
  | .sealDeadline b => kept_execSealDeadline b s h
  | .seal tag total att part parts members bits => kept_execSeal tag total att part parts members bits s h
  | .grant tag shard window => kept_execGrant tag shard window s h
  | .data tag offset shard window vals => kept_execData tag offset shard window vals s h
  | .dataEnd tag shard window sent => kept_execDataEnd tag shard window sent s h
  | .ring tag offset vals => kept_execRing tag offset vals s h
  | .esc tag => kept_execEsc tag s h
  | .result tag offset vals => kept_execResult tag offset vals s h
  | .shardSum tag shard sum => kept_execShardSum tag shard sum s h
  | .final tag sum => kept_execFinal tag sum s h
  | .collectiveTimeout b => kept_execCollectiveTimeout b s h
  | .deviceReady => kept_execDeviceReady s h
  | .report src w0 w1 => kept_execReport src w0 w1 s h
  | .decideCommit src w0 w1 => kept_execDecideCommit src w0 w1 s h
  | .decideAbort src w0 w1 => kept_execDecideAbort src w0 w1 s h
  | .deviceQuiet => kept_execDeviceQuiet s h
  | .done src w0 w1 => kept_execDone src w0 w1 s h
  | .release src w0 w1 => kept_execRelease src w0 w1 s h
  | .rootDecisionTimeout => kept_execRootDecisionTimeout s h
  | .decisionWaitExpired => kept_execDecisionWaitExpired s h
  | .doneWaitExpired => kept_execDoneWaitExpired s h
  | .releaseWaitExpired => kept_execReleaseWaitExpired s h
  | .stepTimeout => kept_execStepTimeout s h
  | .snapPeriodElapsed => kept_execSnapPeriodElapsed s h
  | .snapRequest => kept_execSnapRequest s h
  | .snapFillDone => kept_execSnapFillDone s h
  | .snapHeaderWrite => kept_execSnapHeaderWrite s h
  | .mirrorAckTimeout => kept_execMirrorAckTimeout s h
  | .drainFlushComplete => kept_execDrainFlushComplete s h
  | .snapPush data who => kept_execSnapPush data who s h
  | .dataFlit l fl fec => kept_execDataFlit l fl fec s h
  | .idleFlit l fl fec => kept_execIdleFlit l fl fec s h
  | .timeFlit l fl fec info => kept_execTimeFlit l fl fec info s h
  | .linkControlFlit l fl fec ctl => kept_execLinkControlFlit l fl fec ctl s h
  | .ackTimeout l => kept_execAckTimeout l s h
  | .replayExhausted l => kept_execReplayExhausted l s h
  | .laneFail l lane => kept_execLaneFail l lane s h
  | .linkTrainRetry l => kept_execLinkTrainRetry l s h
  | .linkTrained l lanes peerDev peerLink => kept_execLinkTrained l lanes peerDev peerLink s h
  | .linkRetrain l data who => kept_execLinkRetrain l data who s h
  | .linkEnableWrite l data who => kept_execLinkEnableWrite l data who s h
  | .write l t => kept_execWrite l t s h
  | .writeFin l t => kept_execWriteFin l t s h
  | .ack l t => kept_execAck l t s h
  | .nack l t => kept_execNack l t s h
  | .transactionTimeout tid => kept_execTransactionTimeout tid s h
  | .transactionForward l t => kept_execTransactionForward l t s h
  | .routeTableLoad data who => kept_execRouteTableLoad data who s h
  | .routeTableLoaded => kept_execRouteTableLoaded s h
  | .timeFlitSend l departure => kept_execTimeFlitSend l departure s h
  | .rootAnnounceTimeout l => kept_execRootAnnounceTimeout l s h
  | .timeSet v who => kept_execTimeSet v who s h
  | .timeNowRead => kept_execTimeNowRead s h
  | .ppsInEdge => kept_execPpsInEdge s h
  | .ppsInTimeout => kept_execPpsInTimeout s h
  | .ppsOutRise => kept_execPpsOutRise s h
  | .ppsOutFall => kept_execPpsOutFall s h
  | .trateIntervalEnd f tokens => kept_execTrateIntervalEnd f tokens s h
  | .trateClear f => kept_execTrateClear f s h
  | .bar2Write req offset bytes => kept_execBar2Write req offset bytes s h
  | .bar2Read req offset len => kept_execBar2Read req offset len s h
  | .hostReadTimeout => kept_execHostReadTimeout s h
  | .registerWrite who offset size value => kept_execRegisterWrite who offset size value s h
  | .jobLoad req page => kept_execJobLoad req page s h
  | .jobUnload req => kept_execJobUnload req s h
  | .logWrite k => kept_execLogWrite k s h
  | .logConsWrite v => kept_execLogConsWrite v s h
  | .logIrqTimer => kept_execLogIrqTimer s h
  | .timePublish => kept_execTimePublish s h
  | .ptmDialog r => kept_execPtmDialog r s h
  | .outboundError addr drain => kept_execOutboundError addr drain s h
  | .functionLevelReset => kept_execFunctionLevelReset s h
  | .d3hotEntry => kept_execD3hotEntry s h
  | .d0Entry => kept_execD0Entry s h
  | .pwrTargetWrite value who => kept_execPwrTargetWrite value who s h
  | .fieldOffWrite value who => kept_execFieldOffWrite value who s h
  | .fieldIdleSleep f => kept_execFieldIdleSleep f s h
  | .hbmIdleSelfRefresh f => kept_execHbmIdleSelfRefresh f s h
  | .wakeOnAccess addr => kept_execWakeOnAccess addr s h
  | .fieldWakeComplete f => kept_execFieldWakeComplete f s h
  | .smbusWake addr => kept_execSmbusWake addr s h
  | .smbusStretchTimeout => kept_execSmbusStretchTimeout s h
  | .vstepChange up => kept_execVstepChange up s h
  | .avsTransitionDone mv => kept_execAvsTransitionDone mv s h
  | .avsRetry mv => kept_execAvsRetry mv s h
  | .shaperUpdate x => kept_execShaperUpdate x s h
  | .shaperCalibrate coreW => kept_execShaperCalibrate coreW s h
  | .thermalSample temps => kept_execThermalSample temps s h
  | .perstAssert => kept_execPerstAssert s h
  | .resetRampDone => kept_execResetRampDone s h
  | .perstDeassert => kept_execPerstDeassert s h
  | .pwrOkRise => kept_execPwrOkRise s h
  | .pwrOkFall => kept_execPwrOkFall s h
  | .refclkLoss => kept_execRefclkLoss s h
  | .bootRom flashOk => kept_execBootRom flashOk s h
  | .recovGo => kept_execRecovGo s h
  | .fwProgram value who => kept_execFwProgram value who s h
  | .fwProgramDone flashOk => kept_execFwProgramDone flashOk s h
  | .fwAdvanceSvn value who => kept_execFwAdvanceSvn value who s h
  | .getVersion t => kept_execGetVersion t s h
  | .getCapabilities t => kept_execGetCapabilities t s h
  | .negotiateAlgorithms t offered => kept_execNegotiateAlgorithms t offered s h
  | .getDigests t => kept_execGetDigests t s h
  | .getCertificate t slot offset len => kept_execGetCertificate t slot offset len s h
  | .challenge t slot nonce => kept_execChallenge t slot nonce s h
  | .getMeasurements t index signed nonce => kept_execGetMeasurements t index signed nonce s h
  | .keyExchange t slot exchange => kept_execKeyExchange t slot exchange s h
  | .finish t session verifies => kept_execFinish t session verifies s h
  | .heartbeat t session => kept_execHeartbeat t session s h
  | .keyUpdate t session op => kept_execKeyUpdate t session op s h
  | .endSession t session => kept_execEndSession t session s h
  | .vendorDefinedIdeKm t session keySlot key go => kept_execVendorDefinedIdeKm t session keySlot key go s h
  | .pldmRequest type cmd => kept_execPldmRequest type cmd s h
  | .idcode => kept_execIdcode s h
  | .samplePreload preload => kept_execSamplePreload preload s h
  | .extest drive => kept_execExtest drive s h
  | .clamp => kept_execClamp s h
  | .highz => kept_execHighz s h
  | .dbgAccessRead scan => kept_execDbgAccessRead scan s h
  | .dbgAccessWrite addr value => kept_execDbgAccessWrite addr value s h
  | .dbgStatus => kept_execDbgStatus s h
  | .scanSel shift => kept_execScanSel shift s h
  | .bypass code => kept_execBypass code s h
  | .tapReset => kept_execTapReset s h
  | .dbgUnlock value clearOk => kept_execDbgUnlock value clearOk s h
  | .dbgRelock => kept_execDbgRelock s h
  | .dbgNonceRefresh => kept_execDbgNonceRefresh s h
  | .dbgHalt => kept_execDbgHalt s h
  | .dbgResume => kept_execDbgResume s h
  | .dbgStep => kept_execDbgStep s h
  | .selftestGroup field phase last fails => kept_execSelftestGroup field phase last fails s h
  | .sliceDue => kept_execSliceDue s h
  | .sliceEnd fails => kept_execSliceEnd fails s h
  | .hmapRetest who => kept_execHmapRetest who s h
  | .registerRead who offset size => kept_execRegisterRead who offset size s h
  | .configurationRequest r => kept_execConfigurationRequest r s h
  | .l1Exit => kept_execL1Exit s h
  | .pcieRefclkLoss => kept_execPcieRefclkLoss s h
  | .hbmSelfRefreshExit f => kept_execHbmSelfRefreshExit f s h
  | .doeDiscovery index => kept_execDoeDiscovery index s h

theorem Kept.inv {s t : State} (h : Kept s t) (hs : s.Inv) : t.Inv := ⟨h.mem hs.1, h.log hs.2⟩

/-- Settles O59: a step is a tick or a command on the rest of the queue, and both are kept. -/
theorem stepKeepsTheInvariant : Obligations.StepKeepsTheInvariant := by
  intro s t hs hstep
  unfold step at hstep
  cases hq : s.pending with
  | nil =>
    rw [hq] at hstep
    cases hstep
    exact (kept_tick s (Kept.refl s)).inv hs
  | cons c cs =>
    rw [hq] at hstep
    exact ((kept_exec c { s with pending := cs }).keeps t hstep).inv hs

end Sys2Proof.Machine
end

section
/-! The host's accesses through BAR2 (14 R285 to R287): what a request of an open port meets in the bridge, what a write and a read do at
their memory, and the end of a read that was held too long. -/

namespace Sys2Proof.Machine

open Sys2Proof

/-! ## What an access leaves -/

/-- That a request has reached memory is kept in the idle timers only. -/
theorem touchMem_form (a n : Nat) (s : State) : ∃ r, touchMem a n s = { s with prun := r } := by
  unfold touchMem
  refine List.foldlRecOn (motive := fun t => ∃ r, t = { s with prun := r }) _ _ ⟨s.prun, rfl⟩ ?_
  rintro t ⟨r, rfl⟩ b -
  split <;> exact ⟨_, rfl⟩

theorem hostEv_form (cause : Nat) (req : BitVec 16) (w2 w3 : Nat) (s : State) :
    ∃ L n, hostEv cause req w2 w3 s = { s with log := L, pci := { s.pci with cntLogLost := n } } := logEv_form _ _ _ _ _ _ _

theorem portOpen_countIn {s : State} (h : PortOpen s) (n : Nat) : PortOpen (countIn n s) := h

theorem sleeping_countIn (m a n : Nat) (s : State) : sleeping (countIn m s) a n = sleeping s a n := rfl

theorem bar2Addr_countIn (m off : Nat) (s : State) : bar2Addr (countIn m s) off = bar2Addr s off := rfl

theorem resolve_countIn (m a : Nat) (s : State) : resolve (countIn m s) a = resolve s a := rfl

theorem readsAs_countIn {s : State} {a n : Nat} {bs : List Byte} (h : ReadsAs s a n bs) (m : Nat) : ReadsAs (countIn m s) a n bs := h

/-! ## The bridge (14 R285) -/

theorem reachable_of_portOpen {s : State} (h : PortOpen s) : reachable s = true := by
  obtain ⟨hlink, hrun, _⟩ := h
  simp [reachable, hlink, hrun]

/-- A BAR2 request that meets no sleeping domain, or no memory at all, is done. -/
theorem bar2Act_runs {h : HeldReq} {n : Nat} {s : State} (hgate : bar2Absent h.addr = true ∨ sleeping s h.addr n = none)
    (act : State → State) : bar2Act h n act s = act s := by
  unfold bar2Act
  rcases hgate with habs | hwake
  · cases hr : regionOf h.addr
    case regs | reserved => rfl
    all_goals simp [bar2Absent, hr] at habs
  · simp only [hwake, ite_self]
    cases regionOf h.addr <;> rfl

theorem bar2Do_unviewed {h : HeldReq} (hview : h.view = none) (n : Nat) (act : State → State) (s : State) :
    bar2Do h n act s = bar2Act h n act s := by
  unfold bar2Do HeldReq.under
  rw [hview]

theorem enter_write (req : BitVec 16) (off : Nat) (bs : List Byte) (t : Timer) (s : State) :
    HeldReq.enter s ⟨req, off, false, .write bs, t, none⟩ = ⟨req, bar2Addr s off, true, .write bs, t, none⟩ := rfl

theorem enter_read (req : BitVec 16) (off n : Nat) (t : Timer) (s : State) :
    HeldReq.enter s ⟨req, off, false, .read n, t, none⟩ = ⟨req, bar2Addr s off, true, .read n, t, none⟩ := rfl

/-- An open port takes up a write at once, with its device address. -/
theorem submit_write {s : State} (h : PortOpen s) (req : BitVec 16) (off : Nat) (bs : List Byte) (t : Timer) :
    submit ⟨req, off, false, .write bs, t, none⟩ s =
      bar2Do ⟨req, bar2Addr s off, true, .write bs, t, none⟩ bs.length (bar2Put req (bar2Addr s off) bs) s := by
  obtain ⟨_, _, hrestr, hps, hheld⟩ := h
  have hawake : (s.pwr.state == 4) = false := by simpa using hps
  simp only [submit, behind, hrestr, hheld, hawake, enter_write, List.isEmpty_nil, Bool.not_true, Bool.false_eq_true, if_false]

/-- An open port takes up a read at once, with its device address. -/
theorem submit_read {s : State} (h : PortOpen s) (req : BitVec 16) (off n : Nat) (t : Timer) :
    submit ⟨req, off, false, .read n, t, none⟩ s =
      bar2Do ⟨req, bar2Addr s off, true, .read n, t, none⟩ n (bar2Get req (bar2Addr s off) n) s := by
  obtain ⟨_, _, hrestr, hps, hheld⟩ := h
  have hawake : (s.pwr.state == 4) = false := by simpa using hps
  simp only [submit, behind, hrestr, hheld, hawake, enter_read, List.isEmpty_nil, Bool.not_true, Bool.false_eq_true, if_false]

theorem hostArrive_write {req : BitVec 16} {off : Nat} {bs : List Byte} {s : State} (h : PortOpen s) (hin : InBar2 s off bs.length) :
    hostArrive req off (.write bs) s = submit ⟨req, off, false, .write bs, none, none⟩ (countIn bs.length s) := by
  have hbar : inBar s off (.write bs) = true := decide_eq_true (p := off + bs.length ≤ 2 ^ s.port.bar2Log2) hin
  unfold hostArrive
  dsimp only
  rw [reachable_of_portOpen h, hbar]
  rfl

theorem hostArrive_read {req : BitVec 16} {off n : Nat} {s : State} (h : PortOpen s) (hin : InBar2 s off n) :
    hostArrive req off (.read n) s = submit ⟨req, off, false, .read n, some (1000 * s.pci.rdTmo.toNat), none⟩ (countIn 0 s) := by
  have hbar : inBar s off (.read n) = true := decide_eq_true (p := off + n ≤ 2 ^ s.port.bar2Log2) hin
  unfold hostArrive
  dsimp only
  rw [reachable_of_portOpen h, hbar]
  rfl

/-- BAR2_WRITE at an open port: the write lands. -/
theorem bar2Write_open {req : BitVec 16} {off : Nat} {bs : List Byte} {s : State} (h : PortOpen s) (hin : InBar2 s off bs.length)
    (hgate : sleeping s (bar2Addr s off) bs.length = none) :
    exec (.bar2Write req off bs) s = .next (bar2Put req (bar2Addr s off) bs (countIn bs.length s)) := by
  refine congrArg Host.Outcome.next ((hostArrive_write h hin).trans ?_)
  rw [submit_write (portOpen_countIn h _), bar2Addr_countIn, bar2Do_unviewed rfl]
  refine bar2Act_runs (.inr ?_) _
  rw [sleeping_countIn]
  exact hgate

/-- BAR2_READ at an open port: the read is answered. -/
theorem bar2Read_open {req : BitVec 16} {off n : Nat} {s : State} (h : PortOpen s) (hin : InBar2 s off n)
    (hgate : bar2Absent (bar2Addr s off) = true ∨ sleeping s (bar2Addr s off) n = none) :
    exec (.bar2Read req off n) s = .next (bar2Get req (bar2Addr s off) n (countIn 0 s)) := by
  refine congrArg Host.Outcome.next ((hostArrive_read h hin).trans ?_)
  rw [submit_read (portOpen_countIn h _), bar2Addr_countIn, bar2Do_unviewed rfl]
  refine bar2Act_runs ?_ _
  rw [sleeping_countIn]
  exact hgate

theorem hostArrive_linkDown {req : BitVec 16} {addr : Nat} {kind : HeldKind} {s : State} (h : s.port.linkUp = false) :
    hostArrive req addr kind s = s := by
  have hreach : reachable s = false := by simp only [reachable, h, Bool.false_and]
  unfold hostArrive
  dsimp only
  rw [hreach, h]
  rfl

/-! ## At the memory (14 R286, R287) -/

/-- HBM and the stores, which are no absent unit. -/
theorem bar2Absent_of_memory {a : Nat} (h : regionOf a = .hbm ∨ ∃ n, regionOf a = .store n) : bar2Absent a = false := by
  unfold bar2Absent
  rcases h with h | ⟨n, h⟩ <;> rw [h]

theorem bar2Put_absent {req : BitVec 16} {a : Nat} {bs : List Byte} {s : State} (h : bar2Absent a = true) :
    bar2Put req a bs s = absentEv (.host req) a s := if_pos h

theorem bar2Put_memory {req : BitVec 16} {a : Nat} {bs : List Byte} {s : State} (h : regionOf a = .hbm ∨ ∃ n, regionOf a = .store n) :
    bar2Put req a bs s =
      let v := touchMem a bs.length (writeMem (.host req) a bs s)
      settle ((wwHits v a bs.length).foldl (fun t k => wwMatch k t) v) := by
  unfold bar2Put
  rw [bar2Absent_of_memory h]
  rcases h with h | ⟨n, h⟩ <;> rw [h] <;> rfl

/-- A read of an absent unit completes with zeros. -/
theorem bar2Get_absent {req : BitVec 16} {a n : Nat} {s : State} (h : bar2Absent a = true) :
    (bar2Get req a n s).out = s.out ++ [.compl .ok (List.replicate n 0)] ∧ (bar2Get req a n s).mem = s.mem := by
  obtain ⟨L, m, hev⟩ := absent_form (.host req) a s
  unfold bar2Get
  rw [if_pos h, hev]
  exact ⟨rfl, rfl⟩

theorem firstBad_none {s : State} {a n : Nat} {bs : List Byte} (h : ReadsAs s a n bs) : firstBad s a n = none := by
  refine List.findSome?_eq_none_iff.mpr fun i hi => ?_
  obtain ⟨p, hp, hgood, _⟩ := h.2 i (List.mem_range.mp hi)
  rw [hp]
  simp [hgood]

theorem firstBad_some {s : State} {a n i p : Nat} (hi : i < n) (hp : resolve s (a + i) = some p) (hbad : s.mem.bad p = true) :
    ∃ r, firstBad s a n = some r := by
  refine Option.isSome_iff_exists.mp (List.findSome?_isSome_iff.mpr ⟨i, List.mem_range.mpr hi, ?_⟩)
  rw [hp]
  simp [hbad]

/-- A read of correctable bytes completes with them. -/
theorem bar2Get_reads {req : BitVec 16} {a n : Nat} {s : State} {bs : List Byte} (hmem : bar2Absent a = false) (h : ReadsAs s a n bs) :
    (bar2Get req a n s).out = s.out ++ [.compl .ok bs] ∧ (bar2Get req a n s).mem = s.mem ∧ (bar2Get req a n s).log = s.log := by
  obtain ⟨r, ht⟩ := touchMem_form a n s
  have h' : ReadsAs { s with prun := r } a n bs := h
  unfold bar2Get
  rw [hmem]
  simp only [ht, firstBad_none h', readMem_as h', Bool.false_eq_true, if_false]
  exact ⟨rfl, rfl, rfl⟩

/-- A read that meets an uncorrectable byte completes poisoned, and is counted. -/
theorem bar2Get_poisoned {req : BitVec 16} {a n i p : Nat} {s : State} (hmem : bar2Absent a = false) (hi : i < n)
    (hp : resolve s (a + i) = some p) (hbad : s.mem.bad p = true) :
    (bar2Get req a n s).out = s.out ++ [.compl .poisoned (List.replicate n 0xFF)] ∧
      (bar2Get req a n s).pci.cntPoisoned = satAdd s.pci.cntPoisoned 1 := by
  obtain ⟨r, ht⟩ := touchMem_form a n s
  obtain ⟨⟨b, q⟩, hfirst⟩ : ∃ r, firstBad (touchMem a n s) a n = some r := firstBad_some hi (by rw [ht]; exact hp) (by rw [ht]; exact hbad)
  unfold bar2Get
  rw [hmem]
  simp only [hfirst, Bool.false_eq_true, if_false]
  obtain ⟨L, m, hev⟩ := hostEv_form 0xB4 req b 0 (modPci (fun q => { q with cntPoisoned := satAdd q.cntPoisoned 1 })
    (if isHbm q then noteUncorr q false (touchMem a n s) else touchMem a n s))
  rw [hev, ht]
  cases isHbm q <;> exact ⟨rfl, rfl⟩

/-! ## HOST_READ_TIMEOUT (14 R285) -/

/-- The held read `h` ends in a Completer Abort. -/
def abortHeld (h : HeldReq) (s : State) : State :=
  emit (.compl .abort []) (hostEv 0xB5 h.req (if h.entered then h else h.enter s).addr 0
    (modPci (fun p => { p with cntRdTmo := satAdd p.cntRdTmo 1 }) { s with port := { s.port with held := s.port.held.erase h } }))

theorem hostReadTimeout_next {h : HeldReq} {s : State} (hfind : s.port.held.find? (fun h => !h.kind.posted && h.timer == some 0) = some h) :
    exec .hostReadTimeout s = .next (retryHeld (abortHeld h s)) := by
  show execHostReadTimeout s = _
  unfold execHostReadTimeout
  rw [hfind]
  rfl

theorem abortHeld_counts (h : HeldReq) (s : State) :
    (abortHeld h s).out = s.out ++ [.compl .abort []] ∧ (abortHeld h s).port.held = s.port.held.erase h ∧
      (abortHeld h s).pci.cntRdTmo = satAdd s.pci.cntRdTmo 1 := by
  obtain ⟨L, n, hev⟩ := hostEv_form 0xB5 h.req (if h.entered then h else h.enter s).addr 0
    (modPci (fun p => { p with cntRdTmo := satAdd p.cntRdTmo 1 }) { s with port := { s.port with held := s.port.held.erase h } })
  unfold abortHeld
  rw [hev]
  exact ⟨rfl, rfl, rfl⟩

/-- Settles O46: a request of an open port is done at once; the write and the read by what they meet at their address. -/
theorem hostAccessesToMemory : Obligations.HostAccessesToMemory := by
  refine ⟨fun req off bs s hopen hin hwake => ⟨fun habs => ?_, fun hmem => ?_⟩, fun req off bs s hopen hin hwake _ hmem hreads => ?_,
    fun req off n s hopen hin habs => ?_, fun req off n i p s hopen hin hwake hi hmem hp hbad => ?_, fun req off bs n s hdown => ?_,
    fun h s hfind => ⟨_, hostReadTimeout_next hfind, abortHeld_counts h s⟩⟩
  · rw [bar2Write_open hopen hin hwake, bar2Put_absent habs]
  · rw [bar2Write_open hopen hin hwake, bar2Put_memory hmem]
  · exact ⟨_, bar2Read_open hopen hin (.inr hwake), bar2Get_reads (bar2Absent_of_memory hmem) (readsAs_countIn hreads 0)⟩
  · exact ⟨_, bar2Read_open hopen hin (.inl habs), bar2Get_absent habs⟩
  · exact ⟨_, bar2Read_open hopen hin (.inr hwake), bar2Get_poisoned (bar2Absent_of_memory hmem) hi ((resolve_countIn 0 _ s).trans hp) hbad⟩
  · exact ⟨congrArg Host.Outcome.next (hostArrive_linkDown hdown), congrArg Host.Outcome.next (hostArrive_linkDown hdown)⟩

end Sys2Proof.Machine
end

section
/-! What the device writes to the host (14): MSI-X vectors (R295), the event log ring (R293, R294), time publications and PTM results,
and outbound errors (R296). -/

namespace Sys2Proof.Machine

open Sys2Proof

/-! ## MSI-X (14 R295) -/

theorem signal_unmasked {v : Nat} {s : State} (h : msixMasked s v = false) : signal v s = emit (.msix v) s := by
  unfold signal
  rw [h]
  rfl

theorem msixMasked_of_busMaster {s : State} (h : s.port.busMaster = false) (v : Nat) : msixMasked s v = true := by
  simp [msixMasked, h]

/-- A masked vector leaves all but the pending bits, where it is pending. -/
theorem signal_masked {v : Nat} {s : State} (h : msixMasked s v = true) :
    ∃ p, signal v s = { s with port := { s.port with pba := p } } ∧ v ∈ p := by
  unfold signal
  rw [h]
  by_cases hv : v ∈ s.port.pba
  · exact ⟨s.port.pba, by simp [hv], hv⟩
  · exact ⟨s.port.pba ++ [v], by simp [hv], by simp⟩

/-- A signal is a message or a pending bit. -/
theorem signal_form (v : Nat) (s : State) :
    ∃ p tail, signal v s = { s with port := { s.port with pba := p }, out := s.out ++ tail } ∧ ∀ o ∈ tail, o = .msix v := by
  cases h : msixMasked s v with
  | false => exact ⟨s.port.pba, [.msix v], signal_unmasked h, by simp⟩
  | true =>
    obtain ⟨p, hp, _⟩ := signal_masked h
    exact ⟨p, [], by rw [hp, List.append_nil], by simp⟩

/-! ## The ring (14 R293, R294) -/

/-- The write of the record at place `p.2` of a batch. -/
def recWrite (s : State) (p : LogRec × Nat) : Out :=
  .hostWrite (4096 * s.pci.logBase.toNat + 64 * ((s.pci.logProd.toNat + p.2) % 2 ^ s.pci.logSize.toNat))
    (recBytes (s.log.nextSeq + BitVec.ofNat 32 p.2) p.1) false

/-- The state once a batch of `k` and the producer index are written, before it is signalled. -/
def batchWritten (k : Nat) (s : State) : State :=
  let prod := s.pci.logProd + BitVec.ofNat 32 k
  let t := emit (.hostWrite (s.pci.logProdAddr.toNat * 8) (bytesOf 8 prod.toNat) false)
    ((batch s k).zipIdx.foldl (fun t p => emit (recWrite s p) t) s)
  { t with
    pci := { t.pci with logProd := prod, cntOutBytes := satAdd t.pci.cntOutBytes (64 * k + 8) }
    log := { t.log with
      buf := t.log.buf.drop (if s.log.lost == 0 then k else k - 1), lost := 0
      nextSeq := t.log.nextSeq + BitVec.ofNat 32 k
      unsignalled := s.log.unsignalled + k
      irqTimer := if s.log.unsignalled == 0 then some (1000 * s.pci.irqUs.toNat) else s.log.irqTimer } }

theorem batchWritten_out (k : Nat) (s : State) :
    (batchWritten k s).out = s.out ++ (batch s k).zipIdx.map (recWrite s) ++
      [.hostWrite (s.pci.logProdAddr.toNat * 8) (bytesOf 8 (s.pci.logProd + BitVec.ofNat 32 k).toNat) false] := by
  unfold batchWritten
  rw [foldl_emit]
  rfl

theorem batchWritten_buf (k : Nat) (s : State) :
    (batchWritten k s).log.buf = s.log.buf.drop (if s.log.lost = 0 then k else k - 1) := by
  unfold batchWritten
  rw [foldl_emit]
  simp only [beq_iff_eq]
  rfl

theorem batchWritten_nextSeq (k : Nat) (s : State) : (batchWritten k s).log.nextSeq = s.log.nextSeq + BitVec.ofNat 32 k := by
  unfold batchWritten
  rw [foldl_emit]
  rfl

/-- The batch counts as signalled. -/
def logQuiet (s : State) : State := { s with log := { s.log with unsignalled := 0, irqTimer := none } }

theorem logOut_eq (k : Nat) (s : State) :
    logOut k s =
      if (batch s k).any urgent then logQuiet (signal s.pci.urgentVec.toNat (batchWritten k s))
      else if s.pci.irqCount.toNat ≤ s.log.unsignalled + k then logQuiet (signal s.pci.logVec.toNat (batchWritten k s))
      else batchWritten k s := by
  rfl

/-- `t` is the state once the batch is written but for what signalling it does: pending bits, messages of one vector, the coalescing. -/
def BatchSignalled (k : Nat) (s t : State) : Prop :=
  ∃ p q u i tail, t = { batchWritten k s with
    port := { (batchWritten k s).port with pba := p }, out := (batchWritten k s).out ++ tail
    log := { (batchWritten k s).log with unsignalled := u, irqTimer := i } } ∧ ∀ o ∈ tail, o = .msix q

theorem batchSignalled_quiet (k v : Nat) (s : State) : BatchSignalled k s (logQuiet (signal v (batchWritten k s))) := by
  obtain ⟨p, tail, hsig, htail⟩ := signal_form v (batchWritten k s)
  exact ⟨p, v, 0, none, tail, by rw [hsig]; rfl, htail⟩

theorem logOut_form (k : Nat) (s : State) : BatchSignalled k s (logOut k s) := by
  rw [logOut_eq]
  split
  · exact batchSignalled_quiet _ _ _
  · split
    · exact batchSignalled_quiet _ _ _
    · exact ⟨_, 0, _, _, [], by rw [List.append_nil], by simp⟩

/-! ## Timers (14 R298, R299) -/

theorem msTimer_eq_everyMs (p : BitVec 16) : msTimer p = everyMs p := by
  simp [msTimer, everyMs]

/-- A publication is an odd and an even write. -/
theorem timePublish_next {s : State} (hdue : s.port.pubTimer = some 0) (hper : s.pci.pubPeriod ≠ 0) (hbus : s.port.busMaster = true)
    (hps : s.pwr.state ≠ 4) : ∃ t, exec .timePublish s = .next t ∧ t.port.pubSeq = s.port.pubSeq + 2 ∧
      t.port.pubTimer = everyMs s.pci.pubPeriod ∧
      t.out = s.out ++ [.hostWrite (s.pci.pubAddr.toNat * 64) (bytesOf 8 (s.port.pubSeq + 1).toNat) false,
        .hostWrite (s.pci.pubAddr.toNat * 64) (pubBytes (s.port.pubSeq + 2) s) false] := by
  have hseq : s.port.pubSeq + 1 + 1 = s.port.pubSeq + 2 := by bv_omega
  refine ⟨_, need_next rfl (beq_iff_eq.mpr hdue) _, ?_⟩
  rw [hbus, beq_false_of_ne hper, beq_false_of_ne hps, ← hseq, ← msTimer_eq_everyMs]
  exact ⟨rfl, rfl, List.append_assoc _ _ _⟩

theorem timePublish_skips {s : State} (hdue : s.port.pubTimer = some 0) (hbus : s.port.busMaster = false) :
    exec .timePublish s = .next { s with port := { s.port with pubTimer := everyMs s.pci.pubPeriod } } := by
  refine (need_next rfl (beq_iff_eq.mpr hdue) _).trans ?_
  rw [hbus, msTimer_eq_everyMs, Bool.not_false, Bool.or_true]
  rfl

theorem ptmDialog_next {s : State} (hdue : s.port.ptmTimer = some 0) (hen : s.port.ptmEn = true) (r : PtmResult) :
    exec (.ptmDialog (some r)) s = .next { s with
      port := { s.port with ptmTimer := everyMs s.pci.ptmPeriod }
      pci := { s.pci with ptmLocal := r.local_, ptmMaster := r.master, ptmDelay := BitVec.ofNat 32 r.delay } } := by
  rw [← msTimer_eq_everyMs]
  exact need_next rfl (by rw [hdue, hen]; rfl) _

theorem ptmDialog_fails {s : State} (hdue : s.port.ptmTimer = some 0) (hen : s.port.ptmEn = true) :
    exec (.ptmDialog none) s = .next { s with
      port := { s.port with ptmTimer := everyMs s.pci.ptmPeriod }, pci := { s.pci with cntPtmFail := satAdd s.pci.cntPtmFail 1 } } := by
  rw [← msTimer_eq_everyMs]
  exact need_next rfl (by rw [hdue, hen]; rfl) _

/-- Settles O47: a vector by whether it is masked, the batch by what is written before it is signalled, each timer's row by its condition.
That the record of a loss is the first of its batch (log entry 58), and that a masked vector becomes pending (log entry 41), are the
model's choices. -/
theorem logRingInterruptsAndTime : Obligations.LogRingInterruptsAndTime := by
  refine ⟨fun v s => ⟨fun h _ => signal_unmasked h, fun h => ?_⟩, fun k s hready => ?_, fun s hdue hsome => ?_,
    fun s => timePublish_next, fun s => timePublish_skips, fun r s hdue hen => ⟨ptmDialog_next hdue hen r, ptmDialog_fails hdue hen⟩,
    fun addr s => ⟨rfl, rfl⟩⟩
  · obtain ⟨p, hp, hv⟩ := signal_masked (h.elim id fun hbus => msixMasked_of_busMaster hbus v)
    rw [hp]
    exact ⟨rfl, hv⟩
  · obtain ⟨p, q, u, i, tail, hout, htail⟩ := logOut_form k s
    refine ⟨_, tail, need_next rfl hready _, ?_, fun o ho => ⟨q, htail o ho⟩, ?_⟩
    · rw [hout]
      exact congrArg (· ++ tail) (batchWritten_out k s)
    · rw [hout]
      exact ⟨rfl, rfl, batchWritten_nextSeq k s, batchWritten_buf k s⟩
  · exact need_next rfl (by simp [hdue, hsome]) _

end Sys2Proof.Machine
end

section
/-! The PCI Express function (14 R282, R296, R301; 15 R306): what an inbound TLP leaves of a running device, Function Level Reset,
configuration requests and DOE Discovery. -/

namespace Sys2Proof.Machine

open Sys2Proof

/-! ## A TLP arrives (15 T15-3) -/

/-- An inbound TLP brings the link up and may wake the device. -/
theorem tlpIn_form (s : State) :
    ∃ r, tlpIn s = { s with port := { s.port with linkUp := true }, pins := { s.pins with pcieRefclkOk := true }, prun := r } := by
  unfold tlpIn leaveSleep
  dsimp only
  split
  · split <;> exact ⟨_, rfl⟩
  · exact ⟨s.prun, rfl⟩

theorem noLink_of_running {s : State} (h : s.rst = .running) : noLink s = false := by
  unfold noLink
  rw [h]
  rfl

theorem noLink_of_reset {s : State} (h : s.rst = .held ∨ s.rst = .ramping) : noLink s = true := by
  unfold noLink
  rcases h with h | h <;> rw [h] <;> rfl

theorem cfgAnswers_of_running {s : State} (h : s.rst = .running) : cfgAnswers s = true := by
  unfold cfgAnswers up
  rw [h]
  rfl

theorem cfgAnswers_tlpIn {s : State} (h : s.rst = .running) : cfgAnswers (tlpIn s) = true := by
  obtain ⟨r, ht⟩ := tlpIn_form s
  rw [ht]
  exact cfgAnswers_of_running h

/-! ## Function Level Reset (14 R301) -/

theorem functionLevelReset_running {s : State} (h : s.rst = .running) :
    ∃ t, exec .functionLevelReset s = .next t ∧ t.port = { linkUp := true, pubSeq := t.port.pubSeq } ∧
      t.pci = { speed := t.pci.speed, width := t.pci.width, flit := t.pci.flit } := by
  have hgo : (noLink s || !cfgAnswers s) = false := by rw [noLink_of_running h, cfgAnswers_of_running h]; rfl
  exact ⟨_, congrArg Host.Outcome.next (if_neg (Bool.eq_false_iff.mp hgo)), rfl, rfl⟩

/-! ## Configuration requests (14 R296) -/

theorem configurationRequest_read {s : State} (h : s.rst = .running) (off : Nat) :
    exec (.configurationRequest (.read off)) s = .next (emit (.cfg .ok (cfgValue s off)) (tlpIn s)) := by
  have hval : cfgValue (tlpIn s) off = cfgValue s off := by
    obtain ⟨r, ht⟩ := tlpIn_form s
    rw [ht]
    rfl
  show execConfigurationRequest (.read off) s = _
  unfold execConfigurationRequest
  dsimp only
  rw [noLink_of_running h, cfgAnswers_tlpIn h, ← hval]
  rfl

theorem configurationRequest_put {s : State} (h : s.rst = .running) {r : CfgReq} (hr : ∀ off, r ≠ .read off) :
    exec (.configurationRequest r) s = .next (emit (.cfg .ok 0) (cfgPut r (tlpIn s))) := by
  show execConfigurationRequest r s = _
  unfold execConfigurationRequest
  dsimp only
  rw [noLink_of_running h, cfgAnswers_tlpIn h]
  cases r
  case read off => exact absurd rfl (hr off)
  all_goals rfl

theorem signalPending_none {s : State} (h : s.port.pba = []) : signalPending s = s := by
  unfold signalPending
  rw [h]
  rfl

/-! ## The drain ends (11 R251, 14 R296) -/

theorem snapPhase_form (s : State) : ∃ p, snapPhase s = { s with snap := { s.snap with phase := p } } := by
  unfold snapPhase
  split
  · exact ⟨0, rfl⟩
  · exact ⟨s.snap.phase, rfl⟩

theorem drainAbandon_drain {s : State} (h : s.snap.drain = 1) :
    (drainAbandon s).snap.drain = 3 ∧ (drainAbandon s).port = s.port := by
  unfold drainAbandon
  rw [if_pos (beq_iff_eq.mpr h)]
  obtain ⟨L, n, hev⟩ := logEv_form 4 0 0x86 (b2n s.snap.targetSlot <<< 8 ||| 0 <<< 9) s.cmt.step.toNat 0
    { s with snap := { s.snap with drain := 3 }, srun := { s.srun with drainStage := 0 } }
  obtain ⟨p, hphase⟩ := snapPhase_form (snapEv 0x86 (b2n s.snap.targetSlot) 0 0
    { s with snap := { s.snap with drain := 3 }, srun := { s.srun with drainStage := 0 } })
  rw [hphase, snapEv, hev]
  exact ⟨rfl, rfl⟩

/-! ## Configuration writes (14 R296) -/

theorem cfgPut_bar2Size (k : Nat) (s : State) :
    let t := emit (.cfg .ok 0) (cfgPut (.bar2Size k) (tlpIn s))
    t.out = s.out ++ [.cfg .ok 0] ∧ t.port.bar2Log2 = if 30 ≤ k ∧ k ≤ 40 then k else s.port.bar2Log2 := by
  obtain ⟨r, ht⟩ := tlpIn_form s
  rw [ht, cfgPut]
  by_cases hk : 30 ≤ k ∧ k ≤ 40
  · rw [if_pos (by simpa using hk), if_pos hk]
    exact ⟨rfl, rfl⟩
  · rw [if_neg (by simpa using hk), if_neg hk]
    exact ⟨rfl, rfl⟩

theorem cfgPut_msixCtl {s : State} (on mask : Bool) (hpba : s.port.pba = []) :
    let t := emit (.cfg .ok 0) (cfgPut (.msixCtl on mask) (tlpIn s))
    t.port.msixOn = on ∧ t.port.msixMask = mask ∧ t.out = s.out ++ [.cfg .ok 0] := by
  obtain ⟨r, ht⟩ := tlpIn_form s
  rw [ht, cfgPut, signalPending_none (by exact hpba)]
  exact ⟨rfl, rfl, rfl⟩

theorem cfgPut_busMaster_set {s : State} (hpba : s.port.pba = []) :
    let t := emit (.cfg .ok 0) (cfgPut (.busMaster true) (tlpIn s))
    t.port.busMaster = true ∧ t.out = s.out ++ [.cfg .ok 0] := by
  obtain ⟨r, ht⟩ := tlpIn_form s
  rw [ht, cfgPut, if_pos rfl, signalPending_none (by exact hpba)]
  exact ⟨rfl, rfl⟩

theorem cfgPut_busMaster_clear {s : State} (hdrain : s.snap.drain = 1) :
    let t := emit (.cfg .ok 0) (cfgPut (.busMaster false) (tlpIn s))
    t.port.busMaster = false ∧ t.snap.drain = 3 := by
  have hsnap : (tlpIn s).snap.drain = 1 := by
    obtain ⟨r, ht⟩ := tlpIn_form s
    rw [ht]
    exact hdrain
  obtain ⟨hd, hport⟩ := drainAbandon_drain (s := { tlpIn s with port := { (tlpIn s).port with busMaster := false } }) hsnap
  exact ⟨congrArg PciPort.busMaster hport, hd⟩

/-! ## DOE Discovery (14 R282) -/

theorem doeDiscovery_running {s : State} (h : s.rst = .running) (i : Nat) :
    exec (.doeDiscovery i) s = .next (emit (.doe (if i < 3 then [i, (i + 1) % 3] else [])) (tlpIn s)) := by
  show execDoeDiscovery i s = _
  unfold execDoeDiscovery
  dsimp only
  rw [noLink_of_running h, cfgAnswers_tlpIn h]
  rfl

/-- Settles O48: a running device by the state that an inbound TLP leaves, a device held in reset by its missing link; D3hot, D0 and L1 exit
by their conditions. What 14 gives of the configuration space stands at the offsets of a type 0 header, and the order of the DOE protocols,
the effects of the MSI-X control and what Function Level Reset keeps are the model's choices (log entry 41); so is that D3hot ends a load
under way (log entry 33). -/
theorem functionStatesAndConfiguration : Obligations.FunctionStatesAndConfiguration := by
  refine ⟨fun s h => functionLevelReset_running h, fun s h => ?_, fun off s h => ⟨_, configurationRequest_read h off, ?_⟩,
    fun on s h => ⟨_, configurationRequest_put h (by simp), ?_⟩, fun k s h => ⟨_, configurationRequest_put h (by simp), ?_⟩,
    fun on mask s h hpba => ⟨_, configurationRequest_put h (by simp), ?_⟩, fun s h hdrain => ⟨_, configurationRequest_put h (by simp), ?_⟩,
    fun s h hpba => ⟨_, configurationRequest_put h (by simp), ?_⟩, fun i s h => ⟨_, doeDiscovery_running h i, ?_⟩,
    fun s h hd => need_next rfl (by simp [up, h, hd]) _, fun s h hd hps => ⟨_, need_next rfl (by simp [up, h, hd]) _, ?_⟩,
    fun s h hlink hps => (need_next rfl (by simp [up, h, hlink]) _).trans (congrArg Host.Outcome.next (if_pos (beq_iff_eq.mpr hps))),
    fun s => rfl⟩
  · have hno : noLink s = true := noLink_of_reset h
    refine ⟨?_, fun r => congrArg Host.Outcome.next (if_pos hno), fun i => congrArg Host.Outcome.next (if_pos hno)⟩
    exact congrArg Host.Outcome.next (if_pos (by rw [hno]; rfl))
  · obtain ⟨r, ht⟩ := tlpIn_form s
    rw [ht]
    exact ⟨rfl, rfl, rfl⟩
  · obtain ⟨r, ht⟩ := tlpIn_form s
    rw [ht]
    exact ⟨rfl, rfl⟩
  · exact cfgPut_bar2Size k s
  · exact cfgPut_msixCtl on mask hpba
  · exact cfgPut_busMaster_clear hdrain
  · exact cfgPut_busMaster_set hpba
  · obtain ⟨r, ht⟩ := tlpIn_form s
    rw [ht]
    rfl
  · rw [leaveSleep, if_pos (beq_iff_eq.mpr hps)]
    exact ⟨rfl, rfl⟩

end Sys2Proof.Machine
end

section
/-! The chassis of the device: the part, the pins, the reset and the host port, and the power unit with its working state (15, 19). The
commit unit, the snapshots and the fabric leave it as it is, whatever they settle or lose. -/

namespace Sys2Proof.Machine

open Sys2Proof

/-- What the power and reset logic of the device owns. -/
structure Chassis where
  part : Part
  pins : Pins
  rst : RstPhase
  refclkLost : Bool
  refclkTimer : Timer
  port : PciPort
  pwr : Pwr
  prun : PwrRun

/-- The chassis of a device. -/
def chassis (s : State) : Chassis := ⟨s.part, s.pins, s.rst, s.refclkLost, s.refclkTimer, s.port, s.pwr, s.prun⟩

theorem chassis_around (s : State) : chassis (around s) = chassis s := rfl

/-- No access to memory, event or message of the step touches the chassis. -/
theorem chassis_of_around {s t : State} (h : around t = around s) : chassis t = chassis s := by
  rw [← chassis_around t, h, chassis_around]

theorem chassis_logEv (a b c d e g : Nat) (s : State) : chassis (logEv a b c d e g s) = chassis s :=
  chassis_of_around (around_logEv _ _ _ _ _ _ _)

/-! ## The commit unit (10 R226, R228, R231) -/

theorem chassis_zeroStats (ls : List Nat) (s : State) : chassis (ls.foldl (fun t l => zeroMem (statAddr t l 0) 256 t) s) = chassis s :=
  foldl_keeps chassis (fun _ _ => chassis_of_around (around_zeroMem _ _ _)) _ _

theorem chassis_abandonSnap (again : Bool) (s : State) : chassis (abandonSnap again s) = chassis s := by
  unfold abandonSnap
  split
  · exact chassis_logEv _ _ _ _ _ _ _
  · rfl

theorem chassis_govCommit1 (s : State) (e : GovEv) : chassis (govCommit1 s e) = chassis s := by
  have hlcnt (l d k v : Nat) (u : State) : chassis (lcntAdd l d k v u) = chassis u := chassis_of_around (around_lcntAdd l d k v u)
  unfold govCommit1
  dsimp only
  split
  · split <;> exact (hlcnt _ _ _ _ _).trans (chassis_logEv _ _ _ _ _ _ _)
  · exact (hlcnt _ _ _ _ _).trans (chassis_logEv _ _ _ _ _ _ _)
  · exact chassis_logEv _ _ _ _ _ _ _

theorem chassis_sealStart (s : State) : chassis (sealStart s) = chassis s := by
  unfold sealStart
  split <;> rfl

theorem chassis_flip (s : State) : chassis (flip s) = chassis s :=
  (chassis_sealStart _).trans
    ((foldl_keeps chassis chassis_govCommit1 _ _).trans (chassis_of_around (around_lifetime s)))

theorem chassis_clearStats (s : State) : chassis (clearStats s) = chassis s :=
  (chassis_zeroStats (List.range (nLayers s)) s :)

theorem chassis_rdxClear (s : State) : chassis (rdxClear s) = chassis s :=
  (chassis_of_around (around_ackAll (s.rdx.bkts.flatMap (·.waiting)) s) :)

/-- What the abort stops and clears leaves the chassis. -/
theorem chassis_stopped (s : State) : chassis (govClear (clearPegs (rdxClear (stopWork s)))) = chassis s :=
  (chassis_rdxClear (stopWork s) :)

theorem chassis_abortStep (s : State) : chassis (abortStep s) = chassis s := by
  have hclear : chassis (clearStats (govClear (clearPegs (rdxClear (stopWork (lifetime s)))))) = chassis s :=
    (chassis_clearStats _).trans ((chassis_stopped _).trans (chassis_of_around (around_lifetime s)))
  unfold abortStep
  rw [chassis_abandonSnap]
  generalize clearStats (govClear (clearPegs (rdxClear (stopWork (lifetime s))))) = v at hclear ⊢
  exact hclear

theorem chassis_actDecide (t : Token) (s : State) : chassis (actDecide t s) = chassis s := by
  have hdropped (c : Cmt) : chassis (if dropped s then { s with cmt := c } else s) = chassis s := by split <;> rfl
  have hdone (u : State) : chassis (if t.flag then flip u else abortStep u) = chassis u := by
    split
    · exact chassis_flip u
    · exact chassis_abortStep u
  exact (chassis_of_around (around_toChildren _ _)).trans ((hdone _).trans (hdropped _))

theorem chassis_actClass (s : State) : chassis (actClass s) = chassis s := by
  unfold actClass
  dsimp only
  split
  · rfl
  split
  · split
    · split
      · rfl
      · exact chassis_actDecide _ _
    · exact (chassis_of_around (around_sendToken _ _ _)).trans rfl
  · split <;> rfl

theorem chassis_probes (rs : List (Nat × Nat)) (s : State) : chassis (probes rs s) = chassis s := by
  unfold probes
  exact foldl_keeps chassis (fun _ _ => chassis_of_around (around_probe _ _ _)) _ _

theorem chassis_recordReduced (bs : List (List Word)) (s : State) : chassis (recordReduced bs s) = chassis s :=
  (foldl_keeps chassis (fun _ _ => chassis_of_around (around_sendBlocks _ _ _ _ _ _)) _ _).trans
    (foldl_keeps chassis (fun _ _ => chassis_of_around (around_writeWords _ _ _)) _ _)

theorem chassis_exchangeUp (s : State) : chassis (exchangeUp s) = chassis s := by
  unfold exchangeUp
  split
  · dsimp only
    split
    · exact (chassis_recordReduced _ _).trans (chassis_probes _ _)
    · exact (chassis_of_around (around_sendBlocks _ _ _ _ _ _)).trans (chassis_probes _ _)
  · rfl

theorem chassis_exchangeStart (s : State) : chassis (exchangeStart s) = chassis s := by
  unfold exchangeStart
  split
  · dsimp only
    rw [chassis_exchangeUp]
    split
    · exact (chassis_zeroStats _ _).trans (chassis_probes _ _)
    · exact chassis_probes _ _
  · rfl

theorem chassis_settle (s : State) : chassis (settle s) = chassis s :=
  (chassis_actClass _).trans (chassis_exchangeStart _)

/-! ## The fabric (13 R266, R271) -/

theorem chassis_txFailed (x : OutTxn) (s : State) : chassis (txFailed x s) = chassis s := by
  unfold txFailed
  split <;> rfl

theorem chassis_place (x : OutTxn) (s : State) : chassis (place x s).1 = chassis s := by
  unfold place
  split
  · exact (chassis_txFailed _ _).trans (chassis_of_around (around_lostEv _ _ _))
  · split <;> rfl

theorem chassis_sendTxn (dst : Nat) (body : TxnBody) (o : TxOwner) (s : State) : chassis (sendTxn dst body o s).1 = chassis s := by
  unfold sendTxn
  split
  · split <;> rfl
  · exact chassis_place _ _

theorem chassis_lostTid (cause tid : Nat) (s : State) : chassis (lostTid cause tid s) = chassis s := by
  unfold lostTid
  split
  · rfl
  · exact (chassis_txFailed _ _).trans (chassis_of_around (around_lostEv _ _ _))

theorem chassis_reroute (t : Txn) (s : State) : chassis (reroute t s) = chassis s := by
  unfold reroute
  split
  · exact chassis_sendTxn _ _ _ _
  · split
    · rfl
    · dsimp only
      split
      · rfl
      · exact chassis_of_around (around_sendReply _ _ _)

theorem chassis_unhold (s : State) : chassis (unhold s) = chassis s := foldl_keeps chassis (fun t x => chassis_place x t) _ _

/-- A link that leaves service leaves the chassis, whatever its loss ends. -/
theorem chassis_loseTxns (l : Nat) (f : Link → Link) (s : State) : chassis (loseTxns l f s) = chassis s :=
  calc chassis (loseTxns l f s)
    _ = _ := (chassis_settle _).trans (chassis_unhold _)
    _ = _ := foldl_keeps chassis (fun t x => chassis_reroute x t) _ _
    _ = _ := foldl_keeps chassis (fun t _ => chassis_lostTid _ _ t) _ _

theorem chassis_train (l : Nat) (s : State) : chassis (train l s) = chassis s := by
  unfold train
  split
  · exact chassis_loseTxns _ _ _
  · rfl

theorem chassis_linksDown (s : State) : chassis (linksDown s) = chassis s := by
  refine foldl_keeps chassis (fun t l => ?_) _ _
  split
  · exact chassis_loseTxns _ _ _
  · rfl

end Sys2Proof.Machine
end

section
/-! Power domains (15 R307 to R310): a field core that goes off or comes up, stacks, requests that wait for one, SMBus. -/

namespace Sys2Proof.Machine

open Sys2Proof

/-! ## Masks of fields and the stores of a thallus -/

theorem getLsbD_setBit4 {f : Nat} (hf : f < 4) (x : BitVec 4) (b : Bool) (g : Nat) :
    (setBit4 x f b).getLsbD g = if g = f then b else x.getLsbD g := by
  have hbit : (BitVec.ofNat 4 (2 ^ f)).getLsbD g = decide (g = f) := by
    rw [BitVec.getLsbD_ofNat, Nat.testBit_two_pow]
    by_cases hg : g = f
    · simp [hg, hf]
    · simp [hg, Ne.symm hg]
  unfold setBit4
  cases b
  · simp only [Bool.false_eq_true, if_false, BitVec.getLsbD_and, BitVec.getLsbD_not, hbit]
    by_cases hg : g = f
    · simp [hg]
    · by_cases hg4 : g < 4
      · simp [hg, hg4]
      · simp [hg, hg4, BitVec.getLsbD_of_ge x g (Nat.le_of_not_lt hg4)]
  · simp only [if_true, BitVec.getLsbD_or, hbit]
    by_cases hg : g = f <;> simp [hg]

/-- Address `a` lies in the store or the scratch of logical thallus `n` (07 T7-1). -/
def inStores (n a : Nat) : Bool :=
  (storeBase + 0x1000000 * n ≤ a && a < storeBase + 0x1000000 * (n + 1)) ||
    (scratchBase + 0x80000 * n ≤ a && a < scratchBase + 0x80000 * (n + 1))

theorem inStores_iff {n a : Nat} : inStores n a = true ↔
    (storeBase + 0x1000000 * n ≤ a ∧ a < storeBase + 0x1000000 * (n + 1)) ∨
      (scratchBase + 0x80000 * n ≤ a ∧ a < scratchBase + 0x80000 * (n + 1)) := by
  simp only [inStores, Bool.or_eq_true, Bool.and_eq_true, decide_eq_true_eq]

theorem inStores_of_isHbm {a : Nat} (h : isHbm a = true) (n : Nat) : inStores n a = false := by
  rw [← Bool.not_eq_true, inStores_iff]
  have h := of_decide_eq_true h
  unfold hbmEnd at h
  unfold storeBase scratchBase
  omega

theorem Sparse.get_filter {w : Nat} (p : Nat → Bool) (m : Sparse w) (a : Nat) :
    Sparse.get (m.filter fun x => p x.1) a = if p a then Sparse.get m a else 0 := by
  induction m with
  | nil => simp [Sparse.get]
  | cons x m ih =>
    obtain ⟨k, v⟩ := x
    by_cases hk : k = a
    · subst hk
      cases hp : p k <;> simp_all [Sparse.get]
    · cases hp : p k <;> simp [Sparse.get, hp, hk, ih]

theorem clearStores_get (n a : Nat) (s : State) : (clearStores n s).mem.get a = if inStores n a then 0 else s.mem.get a := by
  have hfilter : (clearStores n s).mem.get a = if !inStores n a then s.mem.get a else 0 :=
    Sparse.get_filter (fun a => !inStores n a) s.mem.bytes a
  rw [hfilter]
  cases inStores n a <;> rfl

/-! ## A field core goes off or comes up (15 R304, R307) -/

/-- The memories of a thallus of the field are cleared, its latches lost. -/
def thlCleared (t : State) (n : Nat) : State := clearStores n (modThl n Thallus.powerUp t)

theorem clearField_eq (f : Nat) (s : State) :
    clearField f s = ((List.range s.thl.length).filter fun n => fieldOf s n == f).foldl thlCleared s := rfl

theorem mem_fieldThalli {f n : Nat} {s : State} :
    n ∈ (List.range s.thl.length).filter (fun n => fieldOf s n == f) ↔ n < s.thl.length ∧ fieldOf s n = f := by
  simp

/-- Clearing touches memory and the thalli only. -/
theorem clearField_form (f : Nat) (s : State) : ∃ m h, clearField f s = { s with mem := m, thl := h } := by
  rw [clearField_eq]
  refine List.foldlRecOn (motive := fun t => ∃ m h, t = { s with mem := m, thl := h }) _ _ ⟨s.mem, s.thl, rfl⟩ ?_
  rintro t ⟨m, h, rfl⟩ n -
  exact ⟨_, _, rfl⟩

theorem thlOf_modThl_ne {n m : Nat} (h : n ≠ m) (g : Thallus → Thallus) (s : State) : thlOf (modThl n g s) m = thlOf s m := by
  unfold thlOf modThl
  simp [List.getD_eq_getElem?_getD, h]

theorem foldl_thlCleared_thlOf {ns : List Nat} {k : Nat} (h : k ∉ ns) (s : State) : thlOf (ns.foldl thlCleared s) k = thlOf s k := by
  induction ns generalizing s with
  | nil => rfl
  | cons n ns ih =>
    rw [List.mem_cons, not_or] at h
    rw [List.foldl_cons, ih h.2]
    exact thlOf_modThl_ne (Ne.symm h.1) _ s

theorem foldl_thlCleared_get (ns : List Nat) (a : Nat) (s : State) :
    (ns.foldl thlCleared s).mem.get a = if ∃ n ∈ ns, inStores n a then 0 else s.mem.get a := by
  induction ns generalizing s with
  | nil => simp
  | cons n ns ih =>
    rw [List.foldl_cons, ih, thlCleared, clearStores_get]
    simp only [List.exists_mem_cons_iff, modThl_mem]
    by_cases hrest : ∃ n ∈ ns, inStores n a
    · simp [hrest]
    · simp [hrest]

theorem foldl_thlCleared_badLines (ns : List Nat) (s : State) : (ns.foldl thlCleared s).mem.badLines = s.mem.badLines :=
  foldl_keeps (f := thlCleared) (fun t : State => t.mem.badLines) (fun _ _ => rfl) _ _

theorem clearField_thlOf {f n : Nat} {s : State} (h : fieldOf s n ≠ f) : thlOf (clearField f s) n = thlOf s n := by
  rw [clearField_eq]
  exact foldl_thlCleared_thlOf (fun hmem => h (mem_fieldThalli.mp hmem).2) s

theorem clearField_get_stores {f n a : Nat} {s : State} (hn : n < s.thl.length) (hf : fieldOf s n = f) (ha : inStores n a = true) :
    (clearField f s).mem.get a = 0 := by
  rw [clearField_eq, foldl_thlCleared_get, if_pos ⟨n, mem_fieldThalli.mpr ⟨hn, hf⟩, ha⟩]

/-- HBM keeps what it holds through a power cycle of its field's core. -/
theorem clearField_hbm (f : Nat) (s : State) {a : Nat} (ha : isHbm a = true) :
    (clearField f s).mem.get a = s.mem.get a ∧ (clearField f s).mem.bad a = s.mem.bad a := by
  rw [clearField_eq]
  refine ⟨?_, ?_⟩
  · rw [foldl_thlCleared_get, if_neg]
    rintro ⟨n, -, hn⟩
    rw [inStores_of_isHbm ha n] at hn
    exact Bool.noConfusion hn
  · unfold Mem.bad
    rw [if_pos ha, if_pos ha, foldl_thlCleared_badLines]

/-! ## The power state (15 T15-2) -/

theorem pwrUpdate_form (s : State) : ∃ p L n, pwrUpdate s = { s with
    pwr := { s.pwr with state := p }, log := L, pci := { s.pci with cntLogLost := n } } := by
  unfold pwrUpdate enterPs
  split
  · exact ⟨s.pwr.state, s.log, s.pci.cntLogLost, rfl⟩
  · split
    · exact ⟨s.pwr.state, s.log, s.pci.cntLogLost, rfl⟩
    · obtain ⟨L, n, h, -⟩ := pwrEv_rec 0xC0 s.pwr.state.toNat (psNow s) 0 0 { s with pwr := { s.pwr with state := BitVec.ofNat 3 (psNow s) } }
      exact ⟨_, L, n, h⟩

theorem psNow_le (s : State) : psNow s ≤ 3 := by
  unfold psNow
  dsimp only
  split_ifs <;> decide

theorem psNow_pwrUpdate (s : State) : psNow (pwrUpdate s) = psNow s := by
  obtain ⟨p, L, n, h⟩ := pwrUpdate_form s
  rw [h]
  rfl

/-- Outside PS4, and with no load under way, the device is in the state that its job and field cores give. -/
theorem pwrUpdate_state {s : State} (hps : s.pwr.state ≠ 4) (hload : s.pci.loading = none) :
    (pwrUpdate s).pwr.state.toNat = psNow (pwrUpdate s) := by
  have hgo : (s.pwr.state == 4 || s.pci.loading.isSome) = false := by rw [beq_eq_false_iff_ne.mpr hps, hload]; rfl
  rw [psNow_pwrUpdate]
  unfold pwrUpdate enterPs
  rw [hgo, if_neg (by decide)]
  split
  next heq => exact beq_iff_eq.mp heq
  next hne =>
    obtain ⟨L, n, h, -⟩ := pwrEv_rec 0xC0 s.pwr.state.toNat (psNow s) 0 0 { s with pwr := { s.pwr with state := BitVec.ofNat 3 (psNow s) } }
    rw [h]
    exact Nat.mod_eq_of_lt ((psNow_le s).trans_lt (by decide))

/-! ## Going off (15 R307, R309) -/

theorem fieldIdleSleep_next {f d : Nat} {s : State} (hf : f < 4) (hrst : s.rst = .running) (hjob : jobLoaded s = false)
    (hload : s.pci.loading = none) (hauto : s.pwr.autoSleep = true) (hcompat : s.caps.compat = false) (hon : fieldIsOn s f = true)
    (hidle : s.prun.idle.getD f none = some d) (hd : idleNs s ≤ d) (hquiet : fieldQuiet s f = true) (hwant : fieldWanted s f = false) :
    exec (.fieldIdleSleep f) s = .next (pwrUpdate (fieldDown f s)) := by
  have hlong : (s.prun.idle.getD f none).any (idleNs s ≤ ·) = true := by rw [hidle]; exact decide_eq_true hd
  refine need_next (decide_eq_true hf) ?_ _
  rw [up, hrst, hjob, hload, hauto, hcompat, hon, hlong, hquiet, hwant]
  rfl

theorem fieldDown_domains {f : Nat} (hf : f < 4) (s : State) (g : Nat) :
    fieldIsOn (fieldDown f s) g = (if g = f then false else fieldIsOn s g) ∧
      hbmIsActive (fieldDown f s) g = (if g = f then false else hbmIsActive s g) := by
  obtain ⟨m, h, hclear⟩ := clearField_form f s
  unfold fieldDown fieldIsOn hbmIsActive
  rw [hclear]
  exact ⟨getLsbD_setBit4 hf _ _ _, getLsbD_setBit4 hf _ _ _⟩

theorem fieldDown_clamped {f : Nat} (hf : f < 4) (s : State) : (fieldDown f s).prun.clamped.getLsbD f = true := by
  unfold fieldDown
  dsimp only
  rw [getLsbD_setBit4 hf, if_pos rfl]

theorem fieldDown_pci (f : Nat) (s : State) : (fieldDown f s).pci = s.pci := by
  obtain ⟨m, h, hclear⟩ := clearField_form f s
  unfold fieldDown
  rw [hclear]

theorem fieldDown_state (f : Nat) (s : State) : (fieldDown f s).pwr.state = s.pwr.state := by
  obtain ⟨m, h, hclear⟩ := clearField_form f s
  unfold fieldDown
  rw [hclear]

/-- What an idle field core leaves when it goes off. -/
theorem fieldSleeps {f : Nat} {s : State} (hf : f < 4) (hps : s.pwr.state ≠ 4) (hload : s.pci.loading = none) :
    let t := pwrUpdate (fieldDown f s)
    fieldIsOn t f = false ∧ hbmIsActive t f = false ∧ t.prun.clamped.getLsbD f = true ∧
      (∀ g < 4, g ≠ f → fieldIsOn t g = fieldIsOn s g ∧ hbmIsActive t g = hbmIsActive s g) ∧
      (∀ n < s.thl.length, fieldOf s n ≠ f → thlOf t n = thlOf s n) ∧
      (∀ a, isHbm a = true → t.mem.get a = s.mem.get a ∧ t.mem.bad a = s.mem.bad a) ∧ t.pwr.state.toNat = psNow t := by
  have hstate := pwrUpdate_state (s := fieldDown f s) (by rwa [fieldDown_state]) (by rwa [fieldDown_pci])
  have hdom := fieldDown_domains hf s
  have hclamp := fieldDown_clamped hf s
  have hthl (n : Nat) (h : fieldOf s n ≠ f) : thlOf (fieldDown f s) n = thlOf s n := clearField_thlOf h
  have hmem (a : Nat) (ha : isHbm a = true) : (fieldDown f s).mem.get a = s.mem.get a ∧ (fieldDown f s).mem.bad a = s.mem.bad a :=
    clearField_hbm f s ha
  refine ⟨?_, ?_, ?_, fun g _ hg => ?_, fun n _ hn => ?_, fun a ha => ?_, hstate⟩ <;>
    obtain ⟨p, L, k, hupd⟩ := pwrUpdate_form (fieldDown f s) <;> rw [hupd]
  · exact (hdom f).1.trans (if_pos rfl)
  · exact (hdom f).2.trans (if_pos rfl)
  · exact hclamp
  · exact ⟨(hdom g).1.trans (if_neg hg), (hdom g).2.trans (if_neg hg)⟩
  · exact hthl n hn
  · exact hmem a ha

/-! ## Coming up (15 R307, R308) -/

/-- Posts that were held are made: they touch the thalli and their events, and wait no longer. -/
theorem heldPosts_keeps (f : Nat) (s : State) : (heldPosts f s).pwr = s.pwr ∧ (heldPosts f s).mem = s.mem ∧
    ∃ p, (heldPosts f s).prun = { s.prun with posts := p } := by
  have hpost (x : Nat × Nat × Nat) (u : State) : chassis (postPeg x.1 x.2.1 x.2.2 6 3 0 u) = chassis u :=
    (chassis_of_around (around_postPeg _ _ _ _ _ _ u)).trans rfl
  have hchassis : ∀ u, chassis ((s.prun.posts.filter fun (n, _, _) => fieldOf s n == f).foldl
      (fun t x => postPeg x.1 x.2.1 x.2.2 6 3 0 t) u) = chassis u := foldl_keeps chassis (fun u x => hpost x u) _
  have hmem : ∀ u, ((s.prun.posts.filter fun (n, _, _) => fieldOf s n == f).foldl
      (fun t x => postPeg x.1 x.2.1 x.2.2 6 3 0 t) u).mem = u.mem := foldl_keeps State.mem (fun u _ => postPeg_mem _ _ _ _ _ _ u) _
  exact ⟨congrArg Chassis.pwr (hchassis _), hmem _, _, congrArg Chassis.prun (hchassis _)⟩

/-- A field core before the posts that waited for it are made: cleared, its clamps released, its idle time begun anew. -/
def fieldPowered (f : Nat) (s : State) : State :=
  let s1 := clearField f s
  touchField f true (touchField f false { s1 with
    pwr := { s1.pwr with fieldOn := setBit4 s1.pwr.fieldOn f true, hbmActive := setBit4 s1.pwr.hbmActive f true }
    prun := { s1.prun with
      clamped := setBit4 s1.prun.clamped f false, waking := setBit4 s1.prun.waking f false
      hbmWaking := setBit4 s1.prun.hbmWaking f false } })

theorem fieldUp_of_off {f : Nat} {s : State} (h : fieldIsOn s f = false) : fieldUp f s = heldPosts f (fieldPowered f s) :=
  if_neg (by rw [h]; decide)

theorem fieldComesUp {f : Nat} {s : State} (hf : f < 4) (hoff : fieldIsOn s f = false) :
    let t := fieldUp f s
    fieldIsOn t f = true ∧ hbmIsActive t f = true ∧ t.prun.clamped.getLsbD f = false ∧ t.prun.waking.getLsbD f = false ∧
    (∀ n < s.thl.length, fieldOf s n = f → ∀ a, inStores n a = true → t.mem.get a = 0) ∧
    (∀ a, isHbm a = true → t.mem.get a = s.mem.get a ∧ t.mem.bad a = s.mem.bad a) := by
  obtain ⟨hpwr, hmem, p, hprun⟩ := heldPosts_keeps f (fieldPowered f s)
  have hset (x : BitVec 4) (b : Bool) : (setBit4 x f b).getLsbD f = b := (getLsbD_setBit4 hf x b f).trans (if_pos rfl)
  unfold fieldIsOn hbmIsActive
  dsimp only
  rw [fieldUp_of_off hoff, hpwr, hmem, hprun]
  exact ⟨hset _ true, hset _ true, hset _ false, hset _ false, fun n hn hfield a ha => clearField_get_stores hn hfield ha,
    fun a ha => clearField_hbm f s ha⟩

/-! ## Requests that wait for a domain (15 R308) -/

theorem ask_new {d : Admit} {s : State} (h : askedFor s d = false) (prio : Nat) :
    ask prio d s = { s with prun := { s.prun with loadSteps := s.prun.loadSteps ++ [(prio, d, stepLoad s d)] } } :=
  if_neg (by rw [h]; decide)

theorem ask_form (prio : Nat) (d : Admit) (s : State) : ∃ p, ask prio d s = { s with prun := { s.prun with loadSteps := p } } := by
  unfold ask
  split <;> exact ⟨_, rfl⟩

theorem ask_again {d : Admit} {s : State} (h : askedFor s d = true) (prio : Nat) :
    ask prio d s = { s with prun := { s.prun with
      loadSteps := s.prun.loadSteps.map fun (p, a, w) => (if a == d then min p prio else p, a, w) } } := if_pos h

/-- The requests that wait once those for a sleeping domain have had their wake asked for. -/
def wantsLeft (s : State) (d : Admit) : List Nat := s.prun.wants.filter fun b => !(wantsIn s d).contains b

theorem not_mem_wantsLeft {a : Nat} {d : Admit} {s : State} (ha : a ∈ s.prun.wants) (hd : (resolve s a).bind (sleeper s) = some d) :
    a ∉ wantsLeft s d := by
  simp [wantsLeft, wantsIn, ha, hd]

/-- The state in which a held access asks for the wake of its domain: counted and logged where nobody has asked (15 R308). -/
def accessWants (a : Nat) (d : Admit) (s : State) : State :=
  let s1 := { s with prun := { s.prun with wants := wantsLeft s d } }
  if askedFor s d then s1 else pwrEv 0xC1 0 0 d.fieldIdx a
    { s1 with prun := { s1.prun with cntWakeAccess := satAdd s.prun.cntWakeAccess 1 } }

theorem wakeOnAccess_asleep {a : Nat} {d : Admit} {s : State} (hrst : s.rst = .running) (ha : a ∈ s.prun.wants)
    (hd : (resolve s a).bind (sleeper s) = some d) : exec (.wakeOnAccess a) s = .next (ask 0 d (accessWants a d s)) := by
  show execWakeOnAccess a s = _
  unfold execWakeOnAccess
  rw [hd]
  exact need_next rfl (by simp [up, hrst, ha]) _

/-- The first access that waits for a domain asks for its wake. -/
theorem ask_accessWants_new {d : Admit} {s : State} (hnew : askedFor s d = false) (a : Nat) :
    let t := ask 0 d (accessWants a d s)
    t.prun = { s.prun with
      wants := wantsLeft s d, cntWakeAccess := satAdd s.prun.cntWakeAccess 1, loadSteps := s.prun.loadSteps ++ [(0, d, stepLoad s d)] } ∧
    t.mem = s.mem ∧ t.out = s.out ∧
    (s.log.buf.length < 4096 → ∃ r, t.log.buf = s.log.buf ++ [r] ∧ r.cause = 0xC1 ∧ r.source = 9 ∧ r.cls = 0 ∧ r.w1 = s.time.now ∧
      r.w3 = BitVec.ofNat 64 a) := by
  obtain ⟨L, n, hev, hrec⟩ := pwrEv_rec 0xC1 0 0 d.fieldIdx a { s with prun := { s.prun with
    wants := wantsLeft s d, cntWakeAccess := satAdd s.prun.cntWakeAccess 1 } }
  have hwants : accessWants a d s = _ := (if_neg (by rw [hnew]; decide)).trans hev
  rw [hwants, ask_new (by exact hnew)]
  exact ⟨rfl, rfl, rfl, fun hlog => hrec hlog⟩

/-- A domain that is asked for already is asked for with the priority of an access. -/
theorem ask_accessWants_again {d : Admit} {s : State} (hasked : askedFor s d = true) (a : Nat) :
    ask 0 d (accessWants a d s) = { s with prun := { s.prun with
      wants := wantsLeft s d, loadSteps := s.prun.loadSteps.map fun (p, x, w) => (if x = d then 0 else p, x, w) } } := by
  have hwants : accessWants a d s = { s with prun := { s.prun with wants := wantsLeft s d } } := if_pos hasked
  rw [hwants, ask_again (by exact hasked)]
  simp

theorem wakeOnAccess_awake {a : Nat} {s : State} (hrst : s.rst = .running) (ha : a ∈ s.prun.wants)
    (hd : (resolve s a).bind (sleeper s) = none) : exec (.wakeOnAccess a) s =
      .next (retryHeld { s with prun := { s.prun with wants := s.prun.wants.filter (· != a) } }) := by
  show execWakeOnAccess a s = _
  unfold execWakeOnAccess
  rw [hd]
  exact need_next rfl (by simp [up, hrst, ha]) _

/-- In compat mode an address of an off field names an absent unit (15 T15-6). -/
theorem absentEv_compatOff {a f : Nat} {s : State} (ag : Agent) (hoff : compatOff s a = some f) (hlog : s.log.buf.length < 4095) :
    ∃ r q, (absentEv ag a s).log.buf = s.log.buf ++ [r, q] ∧ r.cause = 0xC7 ∧ r.source = 9 ∧ r.cls = 0 ∧ r.w3 = BitVec.ofNat 64 a ∧
      q.cause = 0xB8 ∧ q.cls = 0 := by
  obtain ⟨L, n, hev, hrec⟩ := pwrEv_rec 0xC7 0 0 f a s
  obtain ⟨r, hbuf, hcause, hsource, hcls, -, hw3⟩ := hrec (hlog.trans (by decide))
  have habsent (src w0 w2 w3 : Nat) : ∃ r q, (logEv src 0 0xB8 w0 w2 w3 (pwrEv 0xC7 0 0 f a s)).log.buf = s.log.buf ++ [r, q] ∧
      r.cause = 0xC7 ∧ r.source = 9 ∧ r.cls = 0 ∧ r.w3 = BitVec.ofNat 64 a ∧ q.cause = 0xB8 ∧ q.cls = 0 := by
    obtain ⟨L', n', hev', hrec'⟩ := logEv_rec src 0 0xB8 w0 w2 w3 (pwrEv 0xC7 0 0 f a s)
    rw [hev] at hrec' hev' ⊢
    obtain ⟨q, hbuf', hcause', -, hcls', -⟩ := hrec' (by simp only [hbuf, List.length_append, List.length_singleton]; omega)
    refine ⟨r, q, ?_, hcause, hsource, hcls, hw3, hcause', hcls'⟩
    rw [hev', hbuf', hbuf, List.append_assoc]
    rfl
  unfold absentEv
  rw [hoff]
  cases ag <;> exact habsent _ _ _ _

/-! ## SMBus (15 R310) -/

/-- The wake is logged and counted, its address acknowledged, the clock stretched for 20 ms at most. -/
def smbStretched (s : State) : State :=
  let s1 := pwrEv 0xC2 0 0 0 0 { s with prun := { s.prun with cntWakeSmb := satAdd s.prun.cntWakeSmb 1, smbTimer := some 20000000 } }
  emit (.smbAck true) { s1 with pins := { s1.pins with smbSclHeld := true } }

theorem leaveSleep_asleep {s : State} (h : s.pwr.state = 4) : leaveSleep s = { s with prun := { s.prun with leaving := true } } :=
  if_pos (beq_iff_eq.mpr h)

theorem smbStretched_form (s : State) : ∃ L n, smbStretched s = { s with
    prun := { s.prun with cntWakeSmb := satAdd s.prun.cntWakeSmb 1, smbTimer := some 20000000 }
    pins := { s.pins with smbSclHeld := true }, out := s.out ++ [.smbAck true], log := L, pci := { s.pci with cntLogLost := n } } := by
  obtain ⟨L, n, hev, -⟩ := pwrEv_rec 0xC2 0 0 0 0 { s with prun := { s.prun with
    cntWakeSmb := satAdd s.prun.cntWakeSmb 1, smbTimer := some 20000000 } }
  refine ⟨L, n, ?_⟩
  rw [smbStretched, hev]
  rfl

theorem smbusWake_eq {addr : BitVec 7} {s : State} (hnack : s.prun.smbNackNext = false) : exec (.smbusWake addr) s = .next
    (if !up s || s.pwr.state != 4 then s
    else if !(s.pwr.wakeEn && (addr == s.pwr.smbAddr || (s.pwr.arpEn && addr == 0x61))) || s.pins.smbSclHeld then s
    else leaveSleep (smbStretched s)) :=
  congrArg Host.Outcome.next (if_neg (by rw [hnack]; decide))

theorem smbusWake_hit {addr : BitVec 7} {s : State} (hrst : s.rst = .running) (hps : s.pwr.state = 4) (hnack : s.prun.smbNackNext = false)
    (hscl : s.pins.smbSclHeld = false) (hen : s.pwr.wakeEn = true) (hit : addr = s.pwr.smbAddr ∨ (s.pwr.arpEn = true ∧ addr = 0x61)) :
    exec (.smbusWake addr) s = .next (leaveSleep (smbStretched s)) := by
  have hhit : (addr == s.pwr.smbAddr || (s.pwr.arpEn && addr == 0x61)) = true := by simpa using hit
  rw [smbusWake_eq hnack, up, hrst, hps, hhit, hen, hscl]
  rfl

theorem smbusWake_miss {addr : BitVec 7} {s : State} (hnack : s.prun.smbNackNext = false)
    (hmiss : s.pwr.wakeEn = false ∨ (addr ≠ s.pwr.smbAddr ∧ (s.pwr.arpEn = false ∨ addr ≠ 0x61))) :
    exec (.smbusWake addr) s = .next s := by
  have hhit : (s.pwr.wakeEn && (addr == s.pwr.smbAddr || (s.pwr.arpEn && addr == 0x61))) = false := by
    rcases hmiss with h | ⟨h1, h2 | h2⟩
    · rw [h]; rfl
    · rw [beq_eq_false_iff_ne.mpr h1, h2]; exact Bool.and_false _
    · rw [beq_eq_false_iff_ne.mpr h1, beq_eq_false_iff_ne.mpr h2, Bool.and_false]; exact Bool.and_false _
  rw [smbusWake_eq hnack, hhit]
  exact congrArg Host.Outcome.next (ite_self _)

theorem smbusWake_idle {addr : BitVec 7} {s : State} (hnack : s.prun.smbNackNext = false) (hps : s.pwr.state ≠ 4) :
    exec (.smbusWake addr) s = .next s := by
  rw [smbusWake_eq hnack, bne_iff_ne.mpr hps, Bool.or_true]
  rfl

theorem smbusWake_nack {addr : BitVec 7} {s : State} (hnack : s.prun.smbNackNext = true) :
    exec (.smbusWake addr) s = .next (emit (.smbAck false) { s with prun := { s.prun with smbNackNext := false } }) :=
  congrArg Host.Outcome.next (if_pos hnack)

/-- Settles O51: a field core goes off and comes up by what clearing and the held posts leave; a held access by whether its domain sleeps and
is asked for; the SMBus detector by its address. That the power state follows the job and the field cores is the model's reading
(log entry 31). -/
theorem powerDomainsAndWake : Obligations.PowerDomainsAndWake := by
  refine ⟨fun f d s hf hrst hjob hload hauto hcompat hps hon hidle hd hquiet hwant =>
      ⟨_, fieldIdleSleep_next hf hrst hjob hload hauto hcompat hon hidle hd hquiet hwant, fieldSleeps hf hps hload⟩,
    fun f s hf hrst hjob hload hact hidle hwant =>
      need_next (decide_eq_true hf) (by rw [up, hrst, hjob, hload, hact, hidle, hwant]; rfl) _,
    fun a d s hrst ha hd hnew => ?_, fun a d s hrst ha hd hasked => ?_, fun a s hrst ha hd => wakeOnAccess_awake hrst ha hd,
    fun ag a f s hoff hlog => ⟨if_pos (by rw [hoff]; rfl), absentEv_compatOff ag hoff hlog⟩, fun f s hf hrst hwaking => ?_,
    fun f s hf hoff => ?_, fun s hps hleave => need_next rfl (by simp [hps, hleave]) _,
    fun f s hf hrst hwaking => ⟨need_next (decide_eq_true hf) (by simp [up, hrst, hwaking]) _, (getLsbD_setBit4 hf _ _ _).trans (if_pos rfl), rfl⟩,
    fun addr s hrst hps hnack hscl => ⟨fun hen hit => ⟨_, smbusWake_hit hrst hps hnack hscl hen hit, ?_⟩, fun hmiss => smbusWake_miss hnack hmiss⟩,
    fun addr s hnack hps => smbusWake_idle hnack hps, fun s htimer hscl => ⟨_, need_next rfl (by simp [htimer, hscl]) _, rfl, fun addr => ⟨_, smbusWake_nack rfl, rfl⟩⟩⟩
  · obtain ⟨hprun, hmem, hout, hlog⟩ := ask_accessWants_new hnew a
    refine ⟨_, wakeOnAccess_asleep hrst ha hd, ?_⟩
    rw [hprun]
    exact ⟨rfl, rfl, not_mem_wantsLeft ha hd, hmem, hout, hlog⟩
  · refine ⟨_, (wakeOnAccess_asleep hrst ha hd).trans (congrArg Host.Outcome.next (ask_accessWants_again hasked a)), rfl, ?_, rfl, rfl⟩
    exact not_mem_wantsLeft ha hd
  · have hne : (f == 4) = false := by simpa using hf.ne
    show execFieldWakeComplete f s = _
    unfold execFieldWakeComplete
    rw [hne]
    exact need_next (decide_eq_true hf) (by simp [up, hrst, hwaking]) _
  · obtain ⟨hon, hact, hclamp, hwake, hstores, hhbm⟩ := fieldComesUp hf hoff
    exact ⟨hon, hact, hclamp, hwake, fun n hn hfield a ha => hstores n hn hfield a (inStores_iff.mpr ha), hhbm⟩
  · obtain ⟨L, n, hform⟩ := smbStretched_form s
    rw [hform, leaveSleep_asleep (by exact hps)]
    exact ⟨rfl, rfl, rfl, rfl, rfl⟩

end Sys2Proof.Machine
end

section
/-! The core voltage, the load shaper and the thermal monitor (15 R311 to R320). -/

namespace Sys2Proof.Machine

open Sys2Proof

/-! ## The core voltage over AVSBus (15 R311 to R313) -/

theorem vstepChange_up {s : State} (hawake : awake s = true) (hfw : fwHalted s = false) (hbus : s.prun.avsTimer = none)
    (hgap : s.prun.vGap.getD 0 = 0) (hlow : s.pwr.cur < s.pwr.vtarget) (hok : s.pwr.avsFault = false) (hcool : s.pwr.therm = 0) :
    let u := stepPrep (s.pwr.cur + 1).toNat s
    exec (.vstepChange true) s = .next (emit (.avsWrite (s.pwr.cur + 1).toNat) { u with
      pwr := { u.pwr with cur := s.pwr.cur + 1 }
      prun := { u.prun with cntVstep := satAdd s.prun.cntVstep 1, avsTimer := some 200000, vGap := some 1000000 } }) := by
  refine need_next rfl ?_ _
  rw [hawake, hfw, hbus, hgap, hok, hcool, decide_eq_true hlow]
  rfl

theorem vstepChange_down {s : State} (hawake : awake s = true) (hfw : fwHalted s = false) (hbus : s.prun.avsTimer = none)
    (hgap : s.prun.vGap.getD 0 = 0) (hhigh : s.pwr.vtarget < s.pwr.cur) :
    let u := stepPrep (s.pwr.cur - 1).toNat s
    exec (.vstepChange false) s = .next (emit (.avsWrite (s.pwr.cur - 1).toNat) { u with
      pwr := { u.pwr with cur := s.pwr.cur - 1 }
      prun := { u.prun with cntVstep := satAdd s.prun.cntVstep 1, avsTimer := some 200000, vGap := some 1000000 } }) := by
  refine need_next rfl ?_ _
  rw [hawake, hfw, hbus, hgap]
  exact decide_eq_true hhigh

/-- Before a step up the gates only tighten. -/
theorem stepPrep_up {new : Nat} {s : State} (h : s.pwr.cur.toNat < new) :
    (stepPrep new s).prun.ballast = s.prun.ballast ∧ ∀ i, (stepPrep new s).prun.gates.getD i 0 ≤ s.prun.gates.getD i 0 := by
  unfold stepPrep
  dsimp only
  rw [if_pos h]
  refine ⟨rfl, fun i => ?_⟩
  simp only [List.getD_eq_getElem?_getD, List.getElem?_map, List.getElem?_zipIdx]
  cases s.prun.gates[i]? with
  | none => exact le_refl _
  | some g => exact Nat.min_le_left _ _

/-- Before a step down ballast takes the place of the fall that is predicted. -/
theorem stepPrep_down {new : Nat} {s : State} (h : new ≤ s.pwr.cur.toNat) : (stepPrep new s).prun.gates = s.prun.gates ∧
    (stepPrep new s).prun.ballast = s.prun.ballast + (s.prun.load - Config.stepLoad s.pwr.cur.toNat new s.prun.load) := by
  unfold stepPrep
  dsimp only
  rw [if_neg (Nat.not_lt.mpr h)]
  exact ⟨rfl, rfl⟩

theorem avsOk_some {s : State} {v : Nat} :
    avsOk s (some v) = true ↔ v ≤ stepMv s.pwr.cur.toNat + 10 ∧ stepMv s.pwr.cur.toNat ≤ v + 10 := by
  simp [avsOk]

theorem avsOk_false {s : State} {mv : Option Nat}
    (h : ∀ v, mv = some v → stepMv s.pwr.cur.toNat + 10 < v ∨ v + 10 < stepMv s.pwr.cur.toNat) : avsOk s mv = false := by
  cases mv with
  | none => rfl
  | some v =>
    rw [← Bool.not_eq_true, avsOk_some]
    have := h v rfl
    omega

theorem avsTransitionDone_next {s : State} (hawake : awake s = true) (hfw : fwHalted s = false) (hbus : s.prun.avsTimer.isSome = true)
    (mv : Option Nat) : exec (.avsTransitionDone mv) s =
      .next (if avsOk s mv then { s with prun := { s.prun with avsTimer := none } }
        else avsFault mv { s with prun := { s.prun with avsTimer := none } }) :=
  need_next rfl (by rw [hawake, hfw, hbus]; rfl) _

/-- An AVSBus fault is counted, logged, and retried in 100 ms (15 R312). -/
theorem avsFault_counts (mv : Option Nat) (s : State) : (avsFault mv s).pwr = { s.pwr with avsFault := true } ∧
    (avsFault mv s).prun = { s.prun with cntAvsErr := satAdd s.prun.cntAvsErr 1, avsRetryTimer := some 100000000 } ∧
    (avsFault mv s).out = s.out ∧
    (s.log.buf.length < 4096 → ∃ r, (avsFault mv s).log.buf = s.log.buf ++ [r] ∧ r.cause = 0xC3 ∧ r.source = 9) := by
  obtain ⟨L, n, hev, hrec⟩ := pwrEv_rec 0xC3 0 0 0 (s.pwr.cur.toNat ||| (mv.getD 0 % 65536) <<< 16)
    { s with
      pwr := { s.pwr with avsFault := true }
      prun := { s.prun with cntAvsErr := satAdd s.prun.cntAvsErr 1, avsRetryTimer := some 100000000 } }
  unfold avsFault
  rw [hev]
  refine ⟨rfl, rfl, rfl, fun hlog => ?_⟩
  obtain ⟨r, hbuf, hcause, hsource, -⟩ := hrec hlog
  exact ⟨r, hbuf, hcause, hsource⟩

/-- The state after a retry at its time: the step is written again, and its answer ends the fault or repeats it. -/
def avsRetried (mv : Option Nat) (s : State) : State :=
  let s1 := emit (.avsWrite s.pwr.cur.toNat) s
  if avsOk s mv then { s1 with pwr := { s1.pwr with avsFault := false }, prun := { s1.prun with avsRetryTimer := none } }
  else avsFault mv s1

theorem avsRetry_next {s : State} (hawake : awake s = true) (hfw : fwHalted s = false) (hfault : s.pwr.avsFault = true)
    (htimer : s.prun.avsRetryTimer = some 0) (mv : Option Nat) : exec (.avsRetry mv) s = .next (avsRetried mv s) :=
  need_next rfl (by rw [hawake, hfw, hfault, htimer]; rfl) _

theorem avsRetried_ok {mv : Option Nat} {s : State} (h : avsOk s mv = true) : (avsRetried mv s).pwr = { s.pwr with avsFault := false } ∧
    (avsRetried mv s).out = s.out ++ [.avsWrite s.pwr.cur.toNat] := by
  unfold avsRetried
  rw [if_pos h]
  exact ⟨rfl, rfl⟩

theorem avsRetried_fault {mv : Option Nat} {s : State} (h : avsOk s mv = false) : (avsRetried mv s).pwr = { s.pwr with avsFault := true } ∧
    (avsRetried mv s).out = s.out ++ [.avsWrite s.pwr.cur.toNat] ∧ (avsRetried mv s).prun.cntAvsErr = satAdd s.prun.cntAvsErr 1 := by
  obtain ⟨hpwr, hprun, hout, -⟩ := avsFault_counts mv (emit (.avsWrite s.pwr.cur.toNat) s)
  unfold avsRetried
  rw [if_neg (Bool.eq_false_iff.mp h)]
  exact ⟨hpwr, hout, congrArg PwrRun.cntAvsErr hprun⟩

theorem avsRetried_writes (mv : Option Nat) (s : State) :
    (avsRetried mv s).out = s.out ++ [.avsWrite s.pwr.cur.toNat] ∧ (avsRetried mv s).pwr.cur = s.pwr.cur := by
  cases h : avsOk s mv with
  | true =>
    obtain ⟨hpwr, hout⟩ := avsRetried_ok h
    exact ⟨hout, by rw [hpwr]⟩
  | false =>
    obtain ⟨hpwr, hout, -⟩ := avsRetried_fault h
    exact ⟨hout, by rw [hpwr]⟩

/-! ## The limits of an update (15 R316 to R318, R320) -/

/-- No limit lets the load rise faster than the slew limit. -/
theorem limits_rise (x : Measure) (s : State) : (limits x s).ceil ≤ s.prun.load + slewNow s ∧ (limits x s).slewMin ≤ s.prun.load + slewNow s ∧
    (limits x s).floorMin ≤ s.prun.load + slewNow s := by
  unfold limits
  dsimp only
  split_ifs <;> dsimp only <;> omega

/-- Below critical the minimum is the slew limit's. -/
theorem limits_fall {s : State} (x : Measure) (htherm : s.pwr.therm ≠ 2) (htrip : s.prun.tripped = false) :
    (limits x s).slewMin = s.prun.load - slewNow s := by
  unfold limits
  dsimp only
  rw [beq_eq_false_iff_ne.mpr htherm, htrip, if_neg (by decide)]
  split <;> rfl

/-- After a trip the load is cut toward idle at 1,000 W/ms. -/
theorem limits_tripped {s : State} (x : Measure) (htrip : s.prun.tripped = true) :
    (limits x s).slewMin = s.prun.load - 1000 ∧ (limits x s).floorMin = 0 := by
  unfold limits
  dsimp only
  rw [htrip, Bool.or_true, if_pos rfl]
  exact ⟨rfl, rfl⟩

/-! ## The load of an update (15 R317, R318, 19 R383) -/

/-- The gated demand of an update. -/
def gatedLoad (x : Measure) (l : Limits) (s : State) : Nat :=
  min (if s.prun.tripped then min (100 * x.demand) Config.idleLoad else 100 * x.demand) l.ceil

/-- The ballast of an update. -/
def ballastLoad (x : Measure) (l : Limits) (s : State) : Nat :=
  max (l.slewMin - gatedLoad x l s) (min (l.floorMin - gatedLoad x l s) (100 * Config.ballastMax s.pwr.cur.toNat (ballastFronds s)))

/-- An event that is logged or not touches no power unit. -/
theorem pwrEv_if_keeps (b : Bool) (cause w3 : Nat) (s : State) :
    (if b then pwrEv cause 0 0 0 w3 s else s).prun = s.prun ∧ (if b then pwrEv cause 0 0 0 w3 s else s).pwr = s.pwr := by
  split
  · obtain ⟨L, n, hev, -⟩ := pwrEv_rec cause 0 0 0 w3 s
    rw [hev]
    exact ⟨rfl, rfl⟩
  · exact ⟨rfl, rfl⟩

/-- What an update sets: the load with its ballast, and the gates; the target of the voltage stays. -/
theorem setLoad_sets (x : Measure) (l : Limits) (s : State) :
    (setLoad x l s).prun.load = gatedLoad x l s + ballastLoad x l s ∧
      (setLoad x l s).prun.gates = (List.range 5).map (fun i => if s.prun.tripped then 0 else Config.gateTokens i s.pwr.cur.toNat l.ceil) ∧
      (setLoad x l s).pwr.vtarget = s.pwr.vtarget := by
  unfold setLoad
  dsimp only
  rw [(pwrEv_if_keeps _ 0xC6 0 _).1, (pwrEv_if_keeps _ 0xC6 0 _).2]
  exact ⟨rfl, rfl, rfl⟩

theorem gates_tripped (f : Nat → Nat) {trip : Bool} (h : trip = true) :
    (List.range 5).map (fun i => if trip then 0 else f i) = List.replicate 5 0 := by
  subst h
  rfl

section Load

variable (x : Measure) (l : Limits) (s : State)

theorem load_le : gatedLoad x l s + ballastLoad x l s ≤ max l.ceil (max l.slewMin l.floorMin) := by
  have hgate : gatedLoad x l s ≤ l.ceil := Nat.min_le_right _ _
  unfold ballastLoad
  omega

theorem slewMin_le_load : l.slewMin ≤ gatedLoad x l s + ballastLoad x l s := by
  unfold ballastLoad
  omega

theorem load_le_idle {s : State} (htrip : s.prun.tripped = true) :
    gatedLoad x l s + ballastLoad x l s ≤ max Config.idleLoad (max l.slewMin l.floorMin) := by
  have hgate : gatedLoad x l s ≤ Config.idleLoad := by
    unfold gatedLoad
    rw [if_pos htrip]
    omega
  unfold ballastLoad
  omega

/-- The floor is met as far as the fronds allow. -/
theorem floorMin_le_load {s : State} (htrip : s.prun.tripped = false)
    (h : l.floorMin ≤ min (100 * x.demand) l.ceil + 100 * Config.ballastMax s.pwr.cur.toNat (ballastFronds s)) :
    l.floorMin ≤ gatedLoad x l s + ballastLoad x l s := by
  have hgate : gatedLoad x l s = min (100 * x.demand) l.ceil := by
    unfold gatedLoad
    rw [htrip, if_neg (by decide)]
  unfold ballastLoad
  omega

end Load

/-! ## What an update leaves -/

theorem admitted_keeps (d : Admit) (s : State) : (admitted d s).pwr = s.pwr ∧ (admitted d s).prun.load = s.prun.load ∧
    (admitted d s).prun.gates = s.prun.gates := by
  cases d with
  | link l =>
    have hchassis : chassis (admitted (.link l) s) = chassis s := by
      unfold admitted
      dsimp only
      split
      · exact chassis_train l s
      · rfl
    have hprun : (admitted (.link l) s).prun = s.prun := congrArg Chassis.prun hchassis
    exact ⟨congrArg Chassis.pwr hchassis, by rw [hprun], by rw [hprun]⟩
  | _ => exact ⟨rfl, rfl, rfl⟩

/-- The admission of a load step leaves the voltage, the load and the gates. -/
theorem admitNext_keeps (l : Limits) (s : State) : (admitNext l s).pwr = s.pwr ∧ (admitNext l s).prun.load = s.prun.load ∧
    (admitNext l s).prun.gates = s.prun.gates := by
  unfold admitNext
  dsimp only
  split
  · exact ⟨rfl, rfl, rfl⟩
  split
  · exact ⟨rfl, rfl, rfl⟩
  split
  · exact ⟨rfl, rfl, rfl⟩
  · exact admitted_keeps _ _

theorem wantStep_form (x : Measure) (s : State) : ∃ v a b, wantStep x s = { s with
    pwr := { s.pwr with vtarget := v }, prun := { s.prun with lowTimer := a, lowered := b } } := by
  unfold wantStep
  dsimp only
  split_ifs <;> exact ⟨_, _, _, rfl⟩

/-- At critical, and without a job, the target is V0. -/
theorem wantStep_low {x : Measure} {s : State} (h : s.pwr.therm = 2 ∨ jobLoaded s = false) : (wantStep x s).pwr.vtarget = 0 := by
  unfold wantStep
  dsimp only
  by_cases hhot : s.pwr.therm = 2
  · rw [if_pos (beq_iff_eq.mpr hhot)]
    rfl
  · rw [if_neg (by rwa [beq_iff_eq]), if_pos (by rw [h.resolve_left hhot]; rfl)]
    rfl

theorem latchPwr_keeps (s : State) : ∃ p, latchPwr s = { s with pwr := p } ∧ p.therm = s.pwr.therm ∧ p.cur = s.pwr.cur := by
  unfold latchPwr
  dsimp only
  cases s.pwr.shapePend <;> dsimp only <;> split <;> exact ⟨_, rfl, rfl, rfl⟩

theorem sliceAsk_form (s : State) : ∃ p b, sliceAsk s = { s with prun := { s.prun with loadSteps := p }, bist := b } := by
  unfold sliceAsk
  split
  · split
    · obtain ⟨p, hask⟩ := ask_form 2 .slice { s with bist := { s.bist with sliceWait := true } }
      exact ⟨p, _, hask⟩
    · exact ⟨s.prun.loadSteps, s.bist, rfl⟩
  · exact ⟨s.prun.loadSteps, s.bist, rfl⟩

/-- The state in which an update takes its limits: the shape in force, a slice asked for. -/
def shaperReady (s : State) : State :=
  let s0 := { s with prun := { s.prun with shapeDue := false } }
  sliceAsk (if jobLoaded s then s0 else latchPwr s0)

theorem shaperReady_keeps (s : State) : (shaperReady s).prun.load = s.prun.load ∧ (shaperReady s).prun.tripped = s.prun.tripped ∧
    (shaperReady s).pwr.therm = s.pwr.therm ∧ (shaperReady s).pwr.cur = s.pwr.cur ∧ jobLoaded (shaperReady s) = jobLoaded s := by
  obtain ⟨p, hshape, htherm, hcur⟩ : ∃ p, (if jobLoaded s then { s with prun := { s.prun with shapeDue := false } }
      else latchPwr { s with prun := { s.prun with shapeDue := false } }) = { s with prun := { s.prun with shapeDue := false }, pwr := p } ∧
      p.therm = s.pwr.therm ∧ p.cur = s.pwr.cur := by
    split
    · exact ⟨s.pwr, rfl, rfl, rfl⟩
    · exact latchPwr_keeps _
  obtain ⟨q, b, hask⟩ := sliceAsk_form { s with prun := { s.prun with shapeDue := false }, pwr := p }
  unfold shaperReady
  dsimp only
  rw [hshape, hask]
  exact ⟨rfl, rfl, htherm, hcur, rfl⟩

/-- The state that an update leaves. -/
def shaped (x : Measure) (s : State) : State :=
  let u := shaperReady s
  admitNext (limits x u) (setLoad x (limits x u) (wantStep x u))

theorem shaperUpdate_next {s : State} (hawake : awake s = true) (hdue : s.prun.shapeDue = true) (hfw : fwHalted s = false) (x : Measure) :
    exec (.shaperUpdate x) s = .next (shaped x s) := by
  refine (need_next rfl (by rw [hawake, hdue]; rfl) _).trans (congrArg Host.Outcome.next (if_neg ?_))
  rw [hfw]
  decide

/-- With the puppeteer core halted the last limits are held, and only the critical cut and the trip act (16 R346). -/
theorem shaperUpdate_halted {s : State} (hawake : awake s = true) (hdue : s.prun.shapeDue = true) (hfw : fwHalted s = true) (x : Measure) :
    exec (.shaperUpdate x) s = .next (setLoad x (if s.pwr.therm = 2 ∨ s.prun.tripped = true then limits x s else s.prun.lim)
      { s with prun := { s.prun with shapeDue := false } }) := by
  refine (need_next rfl (by rw [hawake, hdue]; rfl) _).trans (congrArg Host.Outcome.next ((if_pos hfw).trans ?_))
  simp only [Bool.or_eq_true, beq_iff_eq]

theorem shaped_load (x : Measure) (s : State) :
    let u := wantStep x (shaperReady s)
    (shaped x s).prun.load = gatedLoad x (limits x (shaperReady s)) u + ballastLoad x (limits x (shaperReady s)) u :=
  (admitNext_keeps _ _).2.1.trans (setLoad_sets _ _ _).1

theorem shaped_vtarget {x : Measure} {s : State} (h : s.pwr.therm = 2 ∨ jobLoaded s = false) : (shaped x s).pwr.vtarget = 0 := by
  obtain ⟨-, -, htherm, -, hjob⟩ := shaperReady_keeps s
  obtain ⟨hpwr, -⟩ := admitNext_keeps (limits x (shaperReady s)) (setLoad x (limits x (shaperReady s)) (wantStep x (shaperReady s)))
  obtain ⟨-, -, htarget⟩ := setLoad_sets x (limits x (shaperReady s)) (wantStep x (shaperReady s))
  rw [shaped, hpwr, htarget]
  exact wantStep_low (by rwa [htherm, hjob])

/-- An update keeps the slew limit, the trip and the floor (R317, R318, R320). -/
theorem shaped_bounds (x : Measure) (s : State) :
    let u := shaperReady s
    let t := shaped x s
    t.prun.load ≤ s.prun.load + slewNow u ∧
      (s.prun.tripped = true → t.prun.load ≤ max Config.idleLoad (s.prun.load - 1000) ∧ t.prun.gates = List.replicate 5 0) ∧
      (s.prun.tripped = false → s.pwr.therm ≠ 2 → s.prun.load - slewNow u ≤ t.prun.load) ∧
      (s.prun.tripped = false →
        (limits x u).floorMin ≤ min (100 * x.demand) (limits x u).ceil + 100 * Config.ballastMax s.pwr.cur.toNat (ballastFronds (wantStep x u)) →
        (limits x u).floorMin ≤ t.prun.load) := by
  obtain ⟨hload, htrip, htherm, hcur, -⟩ := shaperReady_keeps s
  have hsame : (wantStep x (shaperReady s)).prun.tripped = s.prun.tripped ∧ (wantStep x (shaperReady s)).pwr.cur = s.pwr.cur := by
    obtain ⟨v, a, b, hwant⟩ := wantStep_form x (shaperReady s)
    rw [hwant]
    exact ⟨htrip, hcur⟩
  obtain ⟨htrip', hcur'⟩ := hsame
  dsimp only
  rw [shaped_load]
  refine ⟨?_, fun h => ⟨?_, ?_⟩, fun h hcool => ?_, fun h hfloor => ?_⟩
  · obtain ⟨hceil, hslew, hfloor⟩ := limits_rise x (shaperReady s)
    have hle := load_le x (limits x (shaperReady s)) (wantStep x (shaperReady s))
    omega
  · obtain ⟨hslew, hfloor⟩ := limits_tripped x (htrip.trans h)
    have hle := load_le_idle x (limits x (shaperReady s)) (htrip'.trans h)
    omega
  · obtain ⟨-, -, hgates⟩ := admitNext_keeps (limits x (shaperReady s)) (setLoad x (limits x (shaperReady s)) (wantStep x (shaperReady s)))
    exact hgates.trans ((setLoad_sets _ _ _).2.1.trans (gates_tripped _ (htrip'.trans h)))
  · have hslew := limits_fall x (by rwa [htherm]) (htrip.trans h)
    have hle := slewMin_le_load x (limits x (shaperReady s)) (wantStep x (shaperReady s))
    omega
  · exact floorMin_le_load x _ (htrip'.trans h) (by rwa [hcur'])

/-! ## The thermal monitor (15 R320, 19 R383) -/

theorem thermNext_of_pwr {s t : State} (h : t.pwr = s.pwr) (c : Nat) : thermNext t c = thermNext s c := by
  unfold thermNext
  rw [h]

theorem tripAt_below {c : Nat} (h : c < 125) (s : State) : tripAt c s = s := if_pos h

theorem tripAt_trips {c : Nat} (h : 125 ≤ c) (s : State) : tripAt c s = { s with
    prun := { s.prun with tripped := true, gates := List.replicate 5 0 }, pins := { s.pins with thermtripN := false } } :=
  if_neg (Nat.not_lt.mpr h)

/-- A trip touches its pin, its latch and the gates only. -/
theorem tripAt_form (c : Nat) (s : State) : ∃ p q, tripAt c s = { s with prun := p, pins := q } := by
  unfold tripAt
  split
  · exact ⟨s.prun, s.pins, rfl⟩
  · exact ⟨_, _, rfl⟩

/-- A sample of `c` °C is taken, before its change of level is logged. -/
def sampled (temps : List Int) (c : Nat) (s : State) : State :=
  let ts := (0, c) :: s.prun.temps
  let lvl := thermNext s c
  { s with
    pwr := { s.pwr with
      therm := BitVec.ofNat 2 lvl, tjMax := BitVec.ofNat 8 (min 255 (hottest ts))
      vtarget := if lvl == 2 then 0 else s.pwr.vtarget }
    prun := { s.prun with temps := ts, fieldC := temps.map Int.toNat, lowered := s.prun.lowered || lvl == 2 }
    pins := { s.pins with thermAlertN := lvl == 0 } }

/-- A change of the thermal level from `old` to `lvl` is logged (15 T15-5). -/
def levelLogged (old lvl : Nat) (s : State) : State :=
  if lvl == old then s
  else
    match lvl with
    | 0 => pwrEv 0xC8 0 0 0 0 s
    | 1 => pwrEv 0xC4 0 0 0 s.pwr.tjMax.toNat s
    | _ => pwrEv 0xC5 0 0 0 s.pwr.tjMax.toNat s

/-- The cause of a change to a level. -/
def levelCause (lvl : Nat) : Nat := if lvl = 0 then 0xC8 else if lvl = 1 then 0xC4 else 0xC5

theorem levelLogged_event {old lvl : Nat} (h : lvl ≠ old) (s : State) : ∃ w3, levelLogged old lvl s = pwrEv (levelCause lvl) 0 0 0 w3 s := by
  unfold levelLogged
  rw [if_neg (by rwa [beq_iff_eq])]
  match lvl with
  | 0 => exact ⟨_, rfl⟩
  | 1 => exact ⟨_, rfl⟩
  | k + 2 =>
    have hcause : levelCause (k + 2) = 0xC5 := (if_neg (by omega)).trans (if_neg (by omega))
    rw [hcause]
    exact ⟨_, rfl⟩

theorem levelLogged_rec (old lvl : Nat) (s : State) : ∃ L n, levelLogged old lvl s = { s with log := L, pci := { s.pci with cntLogLost := n } } ∧
    (lvl ≠ old → s.log.buf.length < 4096 → ∃ r, L.buf = s.log.buf ++ [r] ∧ r.source = 9 ∧ r.cls = 0 ∧
      r.cause = if lvl = 0 then 0xC8 else if lvl = 1 then 0xC4 else 0xC5) := by
  by_cases hsame : lvl = old
  · exact ⟨s.log, s.pci.cntLogLost, if_pos (beq_iff_eq.mpr hsame), fun h => absurd hsame h⟩
  · obtain ⟨w3, hevent⟩ := levelLogged_event hsame s
    obtain ⟨L, n, hev, hrec⟩ := pwrEv_rec (levelCause lvl) 0 0 0 w3 s
    refine ⟨L, n, hevent.trans hev, fun _ hlog => ?_⟩
    obtain ⟨r, hbuf, hcause, hsource, hcls, -⟩ := hrec hlog
    refine ⟨r, hbuf, hsource, hcls, hcause.trans ?_⟩
    unfold levelCause
    split_ifs <;> rfl

theorem thermalSample_held {temps : List Int} {c : Nat} {s : State} (hne : temps ≠ []) (hrst : s.rst = .held)
    (hc : c = temps.foldl (fun m t => max m t.toNat) 0) : exec (.thermalSample temps) s = .next (tripAt c s) := by
  obtain ⟨p, q, htrip⟩ := tripAt_form c s
  subst hc
  refine (need_next (bne_iff_ne.mpr hne) rfl _).trans (congrArg Host.Outcome.next (if_pos ?_))
  rw [htrip]
  exact beq_iff_eq.mpr hrst

theorem thermalSample_next {temps : List Int} {c : Nat} {s : State} (hne : temps ≠ []) (hrst : s.rst ≠ .held)
    (hc : c = temps.foldl (fun m t => max m t.toNat) 0) : exec (.thermalSample temps) s =
      .next (levelLogged s.pwr.therm.toNat (thermNext s c) (sampled temps c (tripAt c s))) := by
  obtain ⟨p, q, htrip⟩ := tripAt_form c s
  subst hc
  refine (need_next (bne_iff_ne.mpr hne) rfl _).trans (congrArg Host.Outcome.next ?_)
  dsimp only
  rw [htrip, if_neg (by rwa [beq_iff_eq])]
  rfl

theorem thermalSample_sets {temps : List Int} {c : Nat} {s : State} :
    let t := levelLogged s.pwr.therm.toNat (thermNext s c) (sampled temps c (tripAt c s))
    t.pwr.therm = BitVec.ofNat 2 (thermNext s c) ∧
      (t.pins.thermAlertN = true ↔ thermNext s c = 0) ∧ (thermNext s c = 2 → t.pwr.vtarget = 0) ∧
      (125 ≤ c → t.pins.thermtripN = false ∧ t.prun.tripped = true ∧ t.prun.gates = List.replicate 5 0) ∧
      (c < 125 → t.pins.thermtripN = s.pins.thermtripN ∧ t.prun.tripped = s.prun.tripped) ∧
      (thermNext s c ≠ s.pwr.therm.toNat → s.log.buf.length < 4096 → ∃ r, t.log.buf = s.log.buf ++ [r] ∧ r.source = 9 ∧ r.cls = 0 ∧
        r.cause = if thermNext s c = 0 then 0xC8 else if thermNext s c = 1 then 0xC4 else 0xC5) := by
  obtain ⟨p, q, htrip⟩ := tripAt_form c s
  have hnext : thermNext (tripAt c s) c = thermNext s c := thermNext_of_pwr (by rw [htrip]) c
  have hlog : (sampled temps c (tripAt c s)).log = s.log := by rw [htrip]; rfl
  obtain ⟨L, n, hlevel, hrec⟩ := levelLogged_rec s.pwr.therm.toNat (thermNext s c) (sampled temps c (tripAt c s))
  rw [hlog] at hrec
  rw [hlevel]
  refine ⟨congrArg (BitVec.ofNat 2) hnext, ?_, fun h => if_pos ?_, fun h => ?_, fun h => ?_, hrec⟩
  · rw [← hnext]
    exact beq_iff_eq
  · rw [hnext, h]
    rfl
  · rw [tripAt_trips h]
    exact ⟨rfl, rfl, rfl⟩
  · rw [tripAt_below h]
    exact ⟨rfl, rfl⟩

theorem thermNext_table (s : State) (c : Nat) :
    (110 ≤ c → thermNext s c = 2) ∧ (s.pwr.therm = 0 → c < s.pwr.warnC.toNat → c < 110 → thermNext s c = 0) ∧
    (s.pwr.therm = 0 → s.pwr.warnC.toNat ≤ c → c < 110 → thermNext s c = 1) ∧
    (s.pwr.therm = 1 → c < 110 → thermNext s c = if c + 5 < s.pwr.warnC.toNat then 0 else 1) ∧
    (s.pwr.therm = 2 → 105 ≤ c → thermNext s c = 2) ∧
    (s.pwr.therm = 2 → c < 105 → thermNext s c = if c + 5 < s.pwr.warnC.toNat then 0 else 1) := by
  have hcool (hc : c < 110) : thermNext s c = match s.pwr.therm.toNat with
      | 0 => if s.pwr.warnC.toNat ≤ c then 1 else 0
      | 1 => if c + 5 < s.pwr.warnC.toNat then 0 else 1
      | _ => if 105 ≤ c then 2 else if c + 5 < s.pwr.warnC.toNat then 0 else 1 := if_neg (Nat.not_le.mpr hc)
  have hcrit (hc : 110 ≤ c) : thermNext s c = 2 := if_pos hc
  refine ⟨hcrit, fun ht hw hc => ?_, fun ht hw hc => ?_, fun ht hc => ?_, fun ht hc => ?_, fun ht hc => ?_⟩
  · rw [hcool hc, ht]
    exact if_neg (Nat.not_le.mpr hw)
  · rw [hcool hc, ht]
    exact if_pos hw
  · rw [hcool hc, ht]
    rfl
  · by_cases h : 110 ≤ c
    · exact hcrit h
    · rw [hcool (Nat.not_le.mp h), ht]
      exact if_pos hc
  · rw [hcool (by omega), ht]
    exact if_neg (Nat.not_le.mpr hc)

/-- Settles O52: the voltage by its direction and the answer of the regulator; an update by the limits that it takes and the load that they
give; a sample by the trip, then the level. That the target is V0 at critical whatever vmin is, and that the measurements come with their
rows, are the model's choices (log entry 39); the shaper of a halted firmware core is 16 R346. -/
theorem voltageShaperAndThermal : Obligations.VoltageShaperAndThermal := by
  refine ⟨fun s hawake hfw hbus hgap => ⟨fun hlow hok hcool => vstepChange_up hawake hfw hbus hgap hlow hok hcool,
      fun hhigh => vstepChange_down hawake hfw hbus hgap hhigh⟩,
    fun new s => ⟨fun h => stepPrep_up h, fun h => stepPrep_down h⟩,
    fun v s hawake hfw hbus hle hge => ?_, fun mv s hawake hfw hbus hfar => ?_,
    fun mv s hawake hfw hfault htimer => ⟨_, avsRetry_next hawake hfw hfault htimer mv, ?_⟩,
    fun x s hawake hdue hfw => shaperUpdate_halted hawake hdue hfw x,
    fun x s hawake hdue hfw => ⟨_, shaperUpdate_next hawake hdue hfw x, ?_⟩,
    fun w s hawake hfw => need_next rfl (by rw [hawake, hfw]; rfl) _,
    fun temps c s hne hrst hc => thermalSample_held hne hrst hc,
    fun temps c s hne hrst hc => ⟨_, thermalSample_next hne hrst hc, thermalSample_sets⟩, thermNext_table⟩
  · rw [avsTransitionDone_next hawake hfw hbus, if_pos (avsOk_some.mpr ⟨hle, hge⟩)]
  · obtain ⟨hpwr, hprun, -, hlog⟩ := avsFault_counts mv { s with prun := { s.prun with avsTimer := none } }
    refine ⟨_, (avsTransitionDone_next hawake hfw hbus mv).trans (congrArg Host.Outcome.next (if_neg ?_)), hpwr, ?_, ?_, hlog⟩
    · exact Bool.eq_false_iff.mp (avsOk_false hfar)
    · rw [hprun]
    · rw [hprun]
  · obtain ⟨hout, hcur⟩ := avsRetried_writes mv s
    refine ⟨hout, hcur, fun v hv hle hge => ?_, fun hnone => ?_⟩
    · rw [(avsRetried_ok (hv ▸ avsOk_some.mpr ⟨hle, hge⟩)).1]
    · obtain ⟨hpwr, -, hcount⟩ := avsRetried_fault (mv := mv) (s := s) (hnone ▸ rfl)
      exact ⟨by rw [hpwr], hcount⟩
  · obtain ⟨hrise, htrip, hfall, hfloor⟩ := shaped_bounds x s
    exact ⟨hrise, htrip, hfall, hfloor, fun h => shaped_vtarget (.inl h), fun h => shaped_vtarget (.inr h)⟩

end Sys2Proof.Machine
end

section
/-! Resets, boot, recovery, the stored image, start-up self-test and slices (15 R321, 16 R327 to R330, 17, 19 R378 to R383). -/

namespace Sys2Proof.Machine

open Sys2Proof

/-! ## The core's reset (15 R321, 19 R383) -/

theorem coreReset_deviceReset (s : State) : CoreReset s (deviceReset s) := by
  have hpart : (deviceReset s).part = if s.sec.fwState == 1 && !s.sec.copying then
      { s.part with image := Config.flashAfterCut s.nonce, flashCut := true } else s.part := rfl
  refine ⟨rfl, rfl, rfl, rfl, ?_, ?_, fun hidle => ?_, rfl, rfl, rfl⟩
  · rw [hpart]
    split <;> rfl
  · rw [hpart]
    split <;> rfl
  · rw [hpart, beq_eq_false_iff_ne.mpr hidle]
    rfl

/-- The start of the boot touches nothing that the reset has set. -/
theorem coreReset_startBoot {s t : State} (h : CoreReset s t) : CoreReset s (startBoot t) := h

theorem bootBegins_startBoot (s : State) : BootBegins s (startBoot s) := ⟨rfl, rfl, rfl, rfl, rfl⟩

theorem perstAssert_ramps {s : State} (hhigh : s.pins.perstN = true) (hrst : s.rst ≠ .held) (hcool : s.prun.tripped = false) :
    exec .perstAssert s = .next { s with
      rst := .ramping, pins := { s.pins with perstN := false }, port := { s.port with linkUp := false, held := [] } } := by
  refine congrArg Host.Outcome.next ((if_pos hhigh).trans ((if_neg ?_).trans (if_neg ?_)))
  · exact fun h => hrst (beq_iff_eq.mp h)
  · exact fun h => Bool.noConfusion (hcool.symm.trans h)

theorem perstAssert_low {s : State} (hlow : s.pins.perstN = false) : exec .perstAssert s = .next s :=
  congrArg Host.Outcome.next (if_neg (by rw [hlow]; decide))

/-- The end of the ramp: the reset, and the boot where the pins allow it. -/
def rampEnded (s : State) : State :=
  if s.pins.perstN && s.pins.pwrOk && !s.refclkLost then startBoot (deviceReset s) else deviceReset s

theorem resetRampDone_next {s : State} (hrst : s.rst = .ramping) (hload : s.prun.load ≤ Config.idleLoad) :
    exec .resetRampDone s = .next (rampEnded s) := need_next rfl (by rw [hrst, decide_eq_true hload]; rfl) _

theorem rampEnded_resets (s : State) : CoreReset s (rampEnded s) := by
  unfold rampEnded
  split
  · exact coreReset_startBoot (coreReset_deviceReset s)
  · exact coreReset_deviceReset s

theorem rampEnded_boots {s : State} (hperst : s.pins.perstN = true) (hpwr : s.pins.pwrOk = true) (hclk : s.refclkLost = false) :
    BootBegins s (rampEnded s) := by
  unfold rampEnded
  rw [hperst, hpwr, hclk]
  exact bootBegins_startBoot (deviceReset s)

theorem rampEnded_holds {s : State} (h : s.pins.perstN = false ∨ s.pins.pwrOk = false ∨ s.refclkLost = true) : (rampEnded s).rst = .held := by
  have hstay : (s.pins.perstN && s.pins.pwrOk && !s.refclkLost) = false := by
    rcases h with h | h | h <;> simp [h]
  unfold rampEnded
  rw [hstay]
  rfl

/-- The state in which a rise of PERST_N finds the device. -/
def perstRisen (s : State) : State :=
  { s with nonce := s.nonce + 1, pins := { s.pins with perstN := true }, dbg := { s.dbg with pinDrive := .normal } }

/-- A rise of PERST_N: the boot, in test mode the manufacturing mode, or no start (19 R379 to R382). -/
theorem perstDeassert_eq {s : State} (hlow : s.pins.perstN = false) : exec .perstDeassert s =
    if s.pins.pwrOk && s.rst == .held && refclkRuns s then
      if s.pins.testEn then .fault .manufacturingMode
      else .next (startBoot { perstRisen s with
        refclkLost := false, refclkTimer := none, pins := { (perstRisen s).pins with refclkOk := true } })
    else .next (perstRisen s) := if_neg (by rw [hlow]; decide)

theorem startsAt {s : State} (hpwr : s.pins.pwrOk = true) (hrst : s.rst = .held) (hclk : refclkRuns s = true) :
    (s.pins.pwrOk && s.rst == .held && refclkRuns s) = true := by
  rw [hpwr, hrst, hclk]
  rfl

theorem perstDeassert_boots {s : State} (hlow : s.pins.perstN = false) (hpwr : s.pins.pwrOk = true) (hrst : s.rst = .held)
    (hclk : refclkRuns s = true) (htest : s.pins.testEn = false) : exec .perstDeassert s = .next (startBoot { perstRisen s with
      refclkLost := false, refclkTimer := none, pins := { (perstRisen s).pins with refclkOk := true } }) := by
  rw [perstDeassert_eq hlow, if_pos (startsAt hpwr hrst hclk), htest]
  rfl

theorem perstDeassert_manufactures {s : State} (hlow : s.pins.perstN = false) (hpwr : s.pins.pwrOk = true) (hrst : s.rst = .held)
    (hclk : refclkRuns s = true) (htest : s.pins.testEn = true) : exec .perstDeassert s = .fault .manufacturingMode := by
  rw [perstDeassert_eq hlow, if_pos (startsAt hpwr hrst hclk), if_pos htest]

theorem perstDeassert_waits {s : State} (hlow : s.pins.perstN = false)
    (h : s.pins.pwrOk = false ∨ s.rst ≠ .held ∨ refclkRuns s = false) : exec .perstDeassert s = .next (perstRisen s) := by
  have hstay : (s.pins.pwrOk && s.rst == .held && refclkRuns s) = false := by
    rcases h with h | h | h
    · rw [h]; rfl
    · rw [beq_eq_false_iff_ne.mpr h, Bool.and_false]; rfl
    · rw [h, Bool.and_false]
  rw [perstDeassert_eq hlow, hstay]
  rfl

/-- A fall of PWR_OK resets at once, with no ramp (19 R379). -/
theorem pwrOkFall_resets (s : State) : ∃ t, exec .pwrOkFall s = .next t ∧ t.rst = .held ∧ t.pins.pwrOk = false ∧
    (s.rst ≠ .held → CoreReset s t ∧ t.port.linkUp = false) := by
  by_cases hrst : s.rst = .held
  · exact ⟨_, congrArg Host.Outcome.next (if_pos (beq_iff_eq.mpr hrst)), hrst, rfl, fun h => absurd hrst h⟩
  · refine ⟨_, congrArg Host.Outcome.next (if_neg (by rwa [beq_iff_eq])), rfl, rfl, fun _ => ⟨?_, rfl⟩⟩
    exact coreReset_deviceReset (linkDrop { s with pins := { s.pins with pwrOk := false } })

/-- A lost reference clock drops every link and starts the ramp (19 R382). -/
theorem refclkLoss_ramps {s : State} (hpwr : s.pins.pwrOk = true) (hrst : s.rst ≠ .held) (hcool : s.prun.tripped = false) :
    ∃ t, exec .refclkLoss s = .next t ∧ t.rst = .ramping ∧ t.refclkLost = true ∧ t.refclkTimer = some 100000 ∧
      t.pins.refclkOk = false ∧ t.port.linkUp = false ∧ t.part = s.part := by
  have hdown := chassis_linksDown (linkDrop { s with
    refclkLost := true, refclkTimer := some 100000, pins := { s.pins with refclkOk := false } })
  generalize hu : linksDown (linkDrop { s with
    refclkLost := true, refclkTimer := some 100000, pins := { s.pins with refclkOk := false } }) = u at hdown
  have hnext : exec .refclkLoss s = .next (rampDown u) := hu ▸ need_next rfl hpwr _
  obtain ⟨hpart, hpins, hrst', hlost, htimer, hport, -, hprun⟩ := Chassis.mk.inj hdown
  have hramp : rampDown u = { u with rst := .ramping } := by
    unfold rampDown
    rw [if_neg (by rw [hrst', beq_iff_eq]; exact hrst), if_neg (by rw [hprun]; exact Bool.eq_false_iff.mp hcool)]
  refine ⟨_, hnext.trans (congrArg Host.Outcome.next hramp), rfl, hlost, htimer, ?_, ?_, hpart⟩
  · exact congrArg Pins.refclkOk hpins
  · exact congrArg PciPort.linkUp hport

/-! ## Boot and recovery (16 R327 to R329) -/

theorem recover_sets (reason : Nat) (s : State) :
    (recover reason s).sec.stage = 1 ∧ (recover reason s).sec.reason = BitVec.ofNat 4 reason ∧ (recover reason s).rst = s.rst := by
  obtain ⟨L, n, hev⟩ := secEv_form 0xD1 reason 0 { s with sec := { s.sec with stage := 1, reason := BitVec.ofNat 4 reason } }
  unfold recover
  rw [hev]
  exact ⟨rfl, rfl, rfl⟩

theorem startImage_runs (img : List Byte) (redelivered : Bool) (s : State) : RunsImage img redelivered s (startImage img redelivered s) := by
  unfold startImage
  dsimp only
  rw [(ask_form 1 (.group 0 1) _).choose_spec]
  exact ⟨rfl, rfl, rfl, rfl, rfl⟩

/-- What the boot ROM does once the flash has answered or not. -/
def romRuns (flashOk : Bool) (s : State) : State :=
  let s1 := { s with sec := { s.sec with flashOk := flashOk } }
  if s.sec.strap then recover 9 s1
  else if !flashOk then recover 1 s1
  else if s.part.flashCut then recover ([1, 2, 7, 8].getD (Config.cutReason s.nonce % 4) 1) { s1 with nonce := s.nonce + 1 }
  else
    match imgBad s.part s.part.image with
    | some r => recover r s1
    | none => startImage s.part.image false s1

theorem bootRom_next {s : State} (hrst : s.rst = .booting) (hstage : s.sec.stage = 0) (ok : Bool) :
    exec (.bootRom ok) s = .next (romRuns ok s) := need_next rfl (by rw [hrst, hstage]; rfl) _

theorem romRuns_strap {s : State} (hstrap : s.sec.strap = true) (ok : Bool) :
    romRuns ok s = recover 9 { s with sec := { s.sec with flashOk := ok } } := if_pos hstrap

theorem romRuns_silent {s : State} (hstrap : s.sec.strap = false) :
    romRuns false s = recover 1 { s with sec := { s.sec with flashOk := false } } := if_neg (Bool.eq_false_iff.mp hstrap)

theorem romRuns_cut {s : State} (hstrap : s.sec.strap = false) (hcut : s.part.flashCut = true) :
    romRuns true s = recover ([1, 2, 7, 8].getD (Config.cutReason s.nonce % 4) 1)
      { s with sec := { s.sec with flashOk := true }, nonce := s.nonce + 1 } :=
  (if_neg (Bool.eq_false_iff.mp hstrap)).trans (if_pos hcut)

/-- A flash that answers and was not cut: the image is checked. -/
theorem romRuns_bad {r : Nat} {s : State} (hstrap : s.sec.strap = false) (hwhole : s.part.flashCut = false)
    (hbad : imgBad s.part s.part.image = some r) : romRuns true s = recover r { s with sec := { s.sec with flashOk := true } } := by
  unfold romRuns
  rw [hstrap, hwhole, hbad]
  rfl

theorem romRuns_valid {s : State} (hstrap : s.sec.strap = false) (hwhole : s.part.flashCut = false)
    (hok : imgBad s.part s.part.image = none) :
    romRuns true s = startImage s.part.image false { s with sec := { s.sec with flashOk := true } } := by
  unfold romRuns
  rw [hstrap, hwhole, hok]
  rfl

/-- A cut in programming gives one of the four reasons of 16 R330. -/
theorem cutReason_mem (n : Nat) : (BitVec.ofNat 4 ([1, 2, 7, 8].getD (n % 4) 1)).toNat ∈ [1, 2, 7, 8] := by
  have h : ∀ k < 4, (BitVec.ofNat 4 ([1, 2, 7, 8].getD k 1)).toNat ∈ [1, 2, 7, 8] := by decide
  exact h _ (Nat.mod_lt _ (by decide))

theorem recovVerdict_bad {r : Nat} {s : State} (hstage : s.sec.stage = 2) (hbad : imgBad s.part (stagedImage s) = some r) :
    recovVerdict s = recover r s := by
  refine (if_neg (by rw [hstage]; decide)).trans ?_
  dsimp only
  rw [hbad]

theorem recovVerdict_valid {s : State} (hstage : s.sec.stage = 2) (hok : imgBad s.part (stagedImage s) = none) :
    recovVerdict s = startImage (stagedImage s) true (secEv 0xD2 0 (fwWord (stagedImage s)) s) := by
  refine (if_neg (by rw [hstage]; decide)).trans ?_
  dsimp only
  rw [hok]

/-- The write of SEC.RECOV.go as the host port takes it. -/
def recovGoReq : HeldReq := ⟨0, 0xA018, false, .regWrite 8 1, none, none⟩

/-- RECOV_GO reaches SEC.RECOV of a device in recovery, whose link is up (16 R328, R329). -/
theorem recovGo_next {s : State} (hlink : s.port.linkUp = true) (hstage : s.sec.stage = 1) :
    exec .recovGo s = .next (recovGo (countIn 8 s)) := by
  have hrestr : restricted (countIn 8 s) = true := by
    unfold restricted
    rw [show (countIn 8 s).sec.stage = 1 from hstage]
    rfl
  have hreach : reachable s = true := by
    have hrestr' : restricted s = true := hrestr
    unfold reachable
    rw [hlink, hrestr', Bool.or_true]
    rfl
  have hreg : regAt (countIn 8 s) 0xA018 = some { val := 0, locks := [(0, 0)], inUse := (countIn 8 s).sec.stage == 2 || (countIn 8 s).sec.stage == 3
                                                  put := fun x t => if x.sets 0 then recovGo t else t } := rfl
  have hfree : ((countIn 8 s).sec.stage == 2 || (countIn 8 s).sec.stage == 3) = false := by
    rw [show (countIn 8 s).sec.stage = 1 from hstage]
    rfl
  have hsets : ({ who := .host 0, off := 0xA018, data := 1 } : Wr).sets 0 = true := by decide
  have hput : spaceWrite (.host 0) 0xA018 8 1 (countIn 8 s) = recovGo (countIn 8 s) := by
    rw [space_put (by decide) (by decide) (by decide) hreg (.inl hfree)]
    dsimp only
    rw [if_pos hsets]
  refine congrArg Host.Outcome.next ?_
  calc hostArrive 0 0xA018 (.regWrite 8 1) s
    _ = submit recovGoReq (countIn 8 s) := if_pos (by rw [hreach]; rfl)
    _ = recovDo recovGoReq (countIn 8 s) := if_pos hrestr
    _ = bar0Put 0 0xA018 8 1 (countIn 8 s) := by unfold recovDo recovGoReq; dsimp only; rw [if_neg (by decide)]
    _ = spaceWrite (.host 0) 0xA018 8 1 (countIn 8 s) := if_neg (by decide)
    _ = recovGo (countIn 8 s) := hput

theorem recovGo_sets {s : State} (hstage : s.sec.stage = 1) :
    (recovGo s).sec = { s.sec with stage := 2 } ∧ (recovGo s).rst = s.rst ∧ (recovGo s).part = s.part := by
  unfold recovGo
  rw [if_pos (by rw [hstage]; rfl)]
  exact ⟨rfl, rfl, rfl⟩

theorem ite_some_eq_none {α : Type} {c : Prop} [Decidable c] {x : α} {o : Option α} : (if c then some x else o) = none ↔ ¬ c ∧ o = none := by
  split <;> simp_all

/-- An image is valid where it passes every check of Table 16-1. -/
theorem imgBad_none {p : Part} {img : List Byte} (h : imgBad p img = none) : imgField img 0 4 = 0x4F5A4657 ∧ imgKeyIdx img ≤ 3 ∧
    p.revoked.getLsbD (imgKeyIdx img) = false ∧ imgKeyHash img = p.keyHash.getD (imgKeyIdx img) 0 ∧ p.minSvn ≤ imgSvn img ∧
    0 < imgLen img ∧ imgLen img ≤ 12581888 ∧
    pssVerify ((img.drop 64).take 384) ((img.drop 448).take 4) ((img.drop 512).take 384) (sha256 (img.take 512)) = true ∧
    sha256 (imgBody img) = (img.drop 32).take 32 := by
  unfold imgBad at h
  simp only [ite_some_eq_none, Bool.or_eq_true, not_or, bne_iff_ne, ne_eq, Decidable.not_not, beq_iff_eq, decide_eq_true_eq, not_lt,
    Bool.not_eq_true, Bool.not_eq_false', and_true] at h
  obtain ⟨⟨hmagic, -⟩, ⟨⟨⟨⟨⟨hpos, hlen⟩, -⟩, -⟩, -⟩, -⟩, ⟨hidx, hrevoked⟩, hkey, hsvn, hsig, hbody⟩ := h
  exact ⟨hmagic, hidx, hrevoked, hkey, hsvn, Nat.pos_of_ne_zero hpos, hlen, hsig, hbody⟩

/-! ## The stored image (16 R330) -/

/-- The flash has been programmed, or not, before the commands that wait are obeyed. -/
def programmed (flashOk : Bool) (s : State) : State :=
  if flashOk then
    secEv 0xD3 0 (fwWord (stagedImage s)) { s with
      part := { s.part with image := stagedImage s, flashCut := false }, sec := { s.sec with fwState := 2 } }
  else
    secEv 0xD4 1 0 { s with
      part := { s.part with image := Config.flashAfterCut s.nonce }
      nonce := s.nonce + 1
      sec := { s.sec with fwState := 3, fwReason := 1 } }

theorem fwProgramDone_next {s : State} (hstate : s.sec.fwState = 1) (hcopied : s.sec.copying = false) (hfw : fwHalted s = false) (ok : Bool) :
    exec (.fwProgramDone ok) s = .next (fwDrain (programmed ok s)) := need_next rfl (by rw [hstate, hcopied, hfw]; rfl) _

theorem programmed_true (s : State) : (programmed true s).part = { s.part with image := stagedImage s, flashCut := false } ∧
    (programmed true s).sec = { s.sec with fwState := 2 } := by
  obtain ⟨L, n, hev⟩ := secEv_form 0xD3 0 (fwWord (stagedImage s)) { s with
    part := { s.part with image := stagedImage s, flashCut := false }, sec := { s.sec with fwState := 2 } }
  unfold programmed
  rw [if_pos rfl, hev]
  exact ⟨rfl, rfl⟩

theorem programmed_false (s : State) : (programmed false s).part.minSvn = s.part.minSvn ∧
    (programmed false s).sec = { s.sec with fwState := 3, fwReason := 1 } := by
  obtain ⟨L, n, hev⟩ := secEv_form 0xD4 1 0 { s with
    part := { s.part with image := Config.flashAfterCut s.nonce }
    nonce := s.nonce + 1
    sec := { s.sec with fwState := 3, fwReason := 1 } }
  unfold programmed
  rw [if_neg (by decide), hev]
  exact ⟨rfl, rfl⟩

/-! ## Start-up self-test (17 R351 to R355) -/

/-- An admitted group has ended: what it finds is recorded; the first phase powers its field. -/
def groupEnded (f phase : Nat) (fails : List TestFail) (s : State) : State :=
  let v := if phase = 1 then fieldUp f s else s
  groupFinds f fails { v with bist := { v.bist with groupOn := false } }

theorem selftestGroup_next {f phase : Nat} {s : State} (hf : f < 4) (hrst : s.rst = .selftest) (hon : s.bist.groupOn = true)
    (hfield : s.bist.nextField = f) (hphase : s.bist.nextPhase = phase) (last : Bool) (fails : List TestFail) :
    exec (.selftestGroup f phase last fails) s = .next (
      let u := groupEnded f phase fails s
      if !last then nextGroup f phase u
      else if phase < 6 then nextGroup f (phase + 1) u
      else if f < 3 then nextGroup (f + 1) 1 u
      else selftestDone u) := by
  have hready : (s.rst == .selftest && s.bist.groupOn && s.bist.nextField == f && s.bist.nextPhase == phase) = true := by
    simp only [hrst, hon, hfield, hphase, beq_self_eq_true, Bool.and_self]
  refine (need_next (decide_eq_true hf) hready _).trans ?_
  unfold groupEnded
  simp only [beq_iff_eq]

theorem columns_repaired {p b n : Nat} (h : n ≤ 8) (time : Nat) :
    foundOne (.columns p b n) time = [] ∧ repairOf (.columns p b n) = [(p, b, n)] := ⟨if_pos h, if_pos h⟩

theorem columns_lost {p b n : Nat} (h : 8 < n) (time : Nat) : repairOf (.columns p b n) = [] ∧
    foundOne (.columns p b n) time = [⟨1, p, 0, 0, 1, 1, true, 0, time⟩] := ⟨if_neg (Nat.not_le.mpr h), if_neg (Nat.not_le.mpr h)⟩

/-- How far the start has come, and the floor of the security version. -/
def started (s : State) : RstPhase × BitVec 4 × Nat := (s.rst, s.sec.stage, s.part.minSvn)

theorem started_bistEv (cause entry w3 : Nat) (s : State) : started (bistEv cause entry w3 s) = started s := by
  obtain ⟨L, n, hev⟩ := bistEv_form cause entry w3 s
  rw [hev]
  rfl

theorem started_secEv (cause reason w3 : Nat) (s : State) : started (secEv cause reason w3 s) = started s := by
  obtain ⟨L, n, hev⟩ := secEv_form cause reason w3 s
  rw [hev]
  rfl

theorem started_fieldDown (f : Nat) (s : State) : started (fieldDown f s) = started s := by
  obtain ⟨m, h, hclear⟩ := clearField_form f s
  unfold fieldDown
  rw [hclear]
  rfl

theorem started_ite {c : Prop} [Decidable c] {s t u : State} (ht : started t = started s) (hu : started u = started s) :
    started (if c then t else u) = started s := by
  split <;> assumption

theorem selftestDone_started (s : State) : started (selftestDone s) = (.running, 4, s.part.minSvn) := by
  unfold selftestDone
  generalize hmap : readMap s = r
  obtain ⟨old, hm⟩ := r
  dsimp -zeta only
  extract_lets found es lost phys counts stks links mask _ _ _ _ s1 s2 s4 s5 s6 _ _ s7
  have h1 : started s1 = (.running, 4, s.part.minSvn) :=
    congrArg (fun v => (RstPhase.running, (4 : BitVec 4), v)) (partAfter_minSvn hm old found s)
  have h2 : started s2 = started s1 := started_ite rfl (started_bistEv _ _ _ s1)
  have h4 : started s4 = started s2 := started_ite (started_bistEv _ _ _ s2) rfl
  have h5 : started s5 = started s4 := started_bistEv _ _ _ s4
  have h6 : started s6 = started s5 := started_ite rfl (foldl_keeps started (fun t f => started_fieldDown f t) _ s5)
  calc started (secEv 0xD0 0 (fwWord s.sec.runImage) s7)
    _ = started s6 := started_secEv _ _ _ s7
    _ = started s1 := h6.trans (h5.trans (h4.trans h2))
    _ = (.running, 4, s.part.minSvn) := h1

/-! ## Slices (17 R359 to R362) -/

/-- The next engine in order has its turn (17 R359). -/
def sliceTurn (s : State) : State :=
  let e := nextEngine s s.bist.nextThl.toNat s.bist.nextEng.toNat
  { s with bist := { s.bist with nextThl := BitVec.ofNat 8 e.1, nextEng := BitVec.ofNat 2 e.2, sliceK := s.bist.sliceK + 1 } }

/-- The engine whose slice is due is held for it. -/
def sliceTaken (s : State) : State :=
  modEng s.bist.nextThl.toNat s.bist.nextEng.toNat (fun e => { e with sliceHold := true })
    { sliceTurn s with bist := { (sliceTurn s).bist with target := some (s.bist.nextThl.toNat, s.bist.nextEng.toNat) } }

/-- The slice that is due is skipped, logged and counted. -/
def sliceSkipped (why : Nat) (s : State) : State :=
  bistEv 0xF5 0 (s.bist.nextThl.toNat ||| s.bist.nextEng.toNat <<< 8 ||| why <<< 10)
    { sliceTurn s with bist := { (sliceTurn s).bist with cntSliceSkip := satAdd s.bist.cntSliceSkip 1 } }

theorem periodMin_of_sliceTime {s : State} (h : sliceTime s = true) : (s.bist.periodMin == 0) = false := by
  unfold sliceTime at h
  simp only [Bool.and_eq_true] at h
  exact Bool.eq_false_iff.mpr (by simpa using h.1)

theorem sliceDue_next {s : State} (hrst : s.rst = .running) (htime : sliceTime s = true) (hfree : s.bist.target = none) (hthl : s.thl ≠ [])
    (hfw : fwHalted s = false) (hjob : jobLoaded s = true) : exec .sliceDue s = .next (
      if !fieldIsOn s (fieldOf s s.bist.nextThl.toNat) then sliceSkipped 0 s
      else if s.pwr.therm != 0 then sliceSkipped 1 s
      else sliceTaken s) := by
  have hready : (s.rst == .running && sliceTime s && s.bist.target.isNone && !s.thl.isEmpty && !fwHalted s) = true := by
    rw [hrst, htime, hfree, hfw]
    simpa using hthl
  refine (need_next rfl hready _).trans (congrArg Host.Outcome.next ?_)
  dsimp only
  rw [if_pos hjob, periodMin_of_sliceTime htime]
  rfl

theorem sliceSkipped_sets (why : Nat) (s : State) :
    (sliceSkipped why s).bist = { (sliceTurn s).bist with cntSliceSkip := satAdd s.bist.cntSliceSkip 1 } ∧
      (sliceSkipped why s).thl = s.thl := by
  obtain ⟨L, n, hev⟩ := bistEv_form 0xF5 (0) (s.bist.nextThl.toNat ||| s.bist.nextEng.toNat <<< 8 ||| why <<< 10)
    { sliceTurn s with bist := { (sliceTurn s).bist with cntSliceSkip := satAdd s.bist.cntSliceSkip 1 } }
  unfold sliceSkipped
  rw [hev]
  exact ⟨rfl, rfl⟩

theorem sliceEnd_next {n m : Nat} {s : State} (htarget : s.bist.target = some (n, m)) (hbusy : s.bist.sliceBusy = true) (fails : List SliceFail) :
    let u := fails.foldl (fun t x => sliceFail n m (fun f => decide (1 < (fails.filter fun x => failFrond x == some f).length)) x t) s
    exec (.sliceEnd fails) s = .next (obeyOff (modEng n m (fun e => { e with sliceHold := false }) { u with bist := { u.bist with
      sliceBusy := false, target := none, cntSlices := satAdd u.bist.cntSlices 1, cntSliceFail := satAdd u.bist.cntSliceFail (min 1 fails.length) } })) := by
  show execSliceEnd fails s = _
  unfold execSliceEnd
  rw [htarget]
  exact need_next rfl hbusy _

/-! ## The obligation -/

theorem bootRom_ends {s : State} (hrst : s.rst = .booting) (ok : Bool) :
    (s.sec.strap = true → (romRuns ok s).sec.stage = 1 ∧ (romRuns ok s).sec.reason = 9 ∧ (romRuns ok s).rst = .booting) ∧
    (s.sec.strap = false → ok = false → (romRuns ok s).sec.stage = 1 ∧ (romRuns ok s).sec.reason = 1 ∧ (romRuns ok s).rst = .booting) ∧
    (s.sec.strap = false → ok = true → s.part.flashCut = true →
      (romRuns ok s).sec.stage = 1 ∧ (romRuns ok s).sec.reason.toNat ∈ [1, 2, 7, 8] ∧ (romRuns ok s).rst = .booting) ∧
    (∀ r, s.sec.strap = false → ok = true → s.part.flashCut = false → imgBad s.part s.part.image = some r →
      (romRuns ok s).sec.stage = 1 ∧ (romRuns ok s).sec.reason = BitVec.ofNat 4 r ∧ (romRuns ok s).rst = .booting) ∧
    (s.sec.strap = false → ok = true → s.part.flashCut = false → imgBad s.part s.part.image = none →
      RunsImage s.part.image false s (romRuns ok s)) := by
  have hrecover : ∀ (reason : Nat) (t : State), t.rst = s.rst → (recover reason t).sec.stage = 1 ∧
      (recover reason t).sec.reason = BitVec.ofNat 4 reason ∧ (recover reason t).rst = .booting := fun reason t ht => by
    obtain ⟨hstage, hreason, hkeep⟩ := recover_sets reason t
    exact ⟨hstage, hreason, hkeep.trans (ht.trans hrst)⟩
  refine ⟨fun hstrap => ?_, ?_, ?_, ?_, ?_⟩
  · rw [romRuns_strap hstrap]
    exact hrecover 9 _ rfl
  · rintro hstrap rfl
    rw [romRuns_silent hstrap]
    exact hrecover 1 _ rfl
  · rintro hstrap rfl hcut
    rw [romRuns_cut hstrap hcut]
    obtain ⟨hstage, hreason, hboot⟩ := hrecover ([1, 2, 7, 8].getD (Config.cutReason s.nonce % 4) 1)
      { s with sec := { s.sec with flashOk := true }, nonce := s.nonce + 1 } rfl
    exact ⟨hstage, by rw [hreason]; exact cutReason_mem _, hboot⟩
  · rintro r hstrap rfl hwhole hbad
    rw [romRuns_bad hstrap hwhole hbad]
    exact hrecover r _ rfl
  · rintro hstrap rfl hwhole hok
    rw [romRuns_valid hstrap hwhole hok]
    exact startImage_runs s.part.image false { s with sec := { s.sec with flashOk := true } }

theorem recovVerdict_ends {s : State} (hstage : s.sec.stage = 2) :
    (∀ r, imgBad s.part (stagedImage s) = some r →
      (recovVerdict s).sec.stage = 1 ∧ (recovVerdict s).sec.reason = BitVec.ofNat 4 r ∧ (recovVerdict s).rst = s.rst) ∧
    (imgBad s.part (stagedImage s) = none → RunsImage (stagedImage s) true s (recovVerdict s)) := by
  refine ⟨fun r hbad => ?_, fun hok => ?_⟩
  · rw [recovVerdict_bad hstage hbad]
    exact recover_sets r s
  · obtain ⟨L, n, hev⟩ := secEv_form 0xD2 0 (fwWord (stagedImage s)) s
    have hpart : (secEv 0xD2 0 (fwWord (stagedImage s)) s).part = s.part := by rw [hev]
    obtain ⟨hrst, hthree, himg, hfrom, hkeep⟩ := startImage_runs (stagedImage s) true (secEv 0xD2 0 (fwWord (stagedImage s)) s)
    rw [recovVerdict_valid hstage hok]
    exact ⟨hrst, hthree, himg, hfrom, hkeep.trans hpart⟩

/-- A group that has ended hands over to the next phase, the next field, or the end of self-test. -/
theorem selftestGroup_advances {f phase : Nat} {s : State} (fails : List TestFail) (hf : f < 4) (hrst : s.rst = .selftest)
    (hon : s.bist.groupOn = true) (hfield : s.bist.nextField = f) (hphase : s.bist.nextPhase = phase) :
    let u := groupEnded f phase fails s
    exec (.selftestGroup f phase false fails) s = .next (nextGroup f phase u) ∧
    (phase < 6 → exec (.selftestGroup f phase true fails) s = .next (nextGroup f (phase + 1) u)) ∧
    (6 ≤ phase → f < 3 → exec (.selftestGroup f phase true fails) s = .next (nextGroup (f + 1) 1 u)) ∧
    (6 ≤ phase → f = 3 → exec (.selftestGroup f phase true fails) s = .next (selftestDone u)) := by
  have hnext := fun last => selftestGroup_next hf hrst hon hfield hphase last fails
  refine ⟨hnext false, fun hlow => ?_, fun hhigh hless => ?_, fun hhigh hlast => ?_⟩
  · exact (hnext true).trans (congrArg Host.Outcome.next (if_pos hlow))
  · exact (hnext true).trans (congrArg Host.Outcome.next ((if_neg (Nat.not_lt.mpr hhigh)).trans (if_pos hless)))
  · refine (hnext true).trans (congrArg Host.Outcome.next ((if_neg (Nat.not_lt.mpr hhigh)).trans (if_neg ?_)))
    omega

/-- A slice that is due is taken, or skipped for its field or the temperature. -/
theorem sliceDue_ends {s : State} (hrst : s.rst = .running) (htime : sliceTime s = true) (hfree : s.bist.target = none) (hthl : s.thl ≠ [])
    (hfw : fwHalted s = false) (hjob : jobLoaded s = true) : ∃ t, exec .sliceDue s = .next t ∧ t.bist.sliceK = s.bist.sliceK + 1 ∧
      (fieldIsOn s (fieldOf s s.bist.nextThl.toNat) = true → s.pwr.therm = 0 →
        t.bist.target = some (s.bist.nextThl.toNat, s.bist.nextEng.toNat) ∧ t.bist.cntSliceSkip = s.bist.cntSliceSkip) ∧
      (fieldIsOn s (fieldOf s s.bist.nextThl.toNat) = false ∨ s.pwr.therm ≠ 0 →
        t.bist.target = none ∧ t.bist.cntSliceSkip = satAdd s.bist.cntSliceSkip 1 ∧ t.thl = s.thl) ∧
      (t.bist.nextThl, t.bist.nextEng) = (BitVec.ofNat 8 (nextEngine s s.bist.nextThl.toNat s.bist.nextEng.toNat).1,
        BitVec.ofNat 2 (nextEngine s s.bist.nextThl.toNat s.bist.nextEng.toNat).2) := by
  have hnext := sliceDue_next hrst htime hfree hthl hfw hjob
  by_cases hgo : fieldIsOn s (fieldOf s s.bist.nextThl.toNat) = true ∧ s.pwr.therm = 0
  · obtain ⟨hon, hcool⟩ := hgo
    rw [hon, hcool] at hnext
    refine ⟨sliceTaken s, hnext, rfl, fun _ _ => ⟨rfl, rfl⟩, fun h => ?_, rfl⟩
    rcases h with h | h
    · exact Bool.noConfusion (hon.symm.trans h)
    · exact absurd hcool h
  · obtain ⟨why, hskip⟩ : ∃ why, exec .sliceDue s = .next (sliceSkipped why s) := by
      by_cases hon : fieldIsOn s (fieldOf s s.bist.nextThl.toNat) = true
      · rw [hon] at hnext
        exact ⟨1, hnext.trans (congrArg Host.Outcome.next (if_pos (bne_iff_ne.mpr fun hcool => hgo ⟨hon, hcool⟩)))⟩
      · exact ⟨0, hnext.trans (congrArg Host.Outcome.next (if_pos (by rw [Bool.eq_false_iff.mpr hon]; rfl)))⟩
    obtain ⟨hbist, hkeep⟩ := sliceSkipped_sets why s
    rw [hskip]
    refine ⟨sliceSkipped why s, rfl, ?_⟩
    rw [hbist]
    exact ⟨rfl, fun hon hcool => absurd ⟨hon, hcool⟩ hgo, fun _ => ⟨hfree, rfl, hkeep⟩, rfl⟩

/-- Settles O53: each command's next state is named once, and what it sets and keeps is read off it. The clauses rest on the choices of
the assumption log: the fault with TEST_EN high (log 70, DESIGN CHOICE), the time of the recovery verdict (log 34), the order of the
self-test groups (log 35) and the end of the ramp (log 40). -/
theorem resetBootAndSelfTest : Obligations.ResetBootAndSelfTest := by
  unfold Obligations.ResetBootAndSelfTest
  refine ⟨fun s hhigh hrst hcool => perstAssert_ramps hhigh hrst hcool, fun s hlow => perstAssert_low hlow,
    fun s hrst hload => ⟨rampEnded s, resetRampDone_next hrst hload, rampEnded_resets s,
      fun ⟨hperst, hpwr, hclk⟩ => rampEnded_boots hperst hpwr hclk, rampEnded_holds⟩,
    fun s hlow hpwr hrst hclk htest => ⟨_, perstDeassert_boots hlow hpwr hrst hclk htest, bootBegins_startBoot _, rfl, rfl⟩,
    fun s hlow hpwr hrst hclk htest => perstDeassert_manufactures hlow hpwr hrst hclk htest,
    fun s hlow hno => ⟨_, perstDeassert_waits hlow hno, rfl, rfl⟩,
    fun _ => rfl, pwrOkFall_resets, fun s hpwr hrst hcool => refclkLoss_ramps hpwr hrst hcool,
    fun ok s hrst hstage => ⟨romRuns ok s, bootRom_next hrst hstage ok, bootRom_ends hrst ok⟩,
    fun s hlink hstage => ⟨_, recovGo_next hlink hstage, recovGo_sets hstage⟩,
    fun s hstage => recovVerdict_ends hstage, fun p img hok => imgBad_none hok,
    fun s hstate hcopied hfw => ⟨⟨_, fwProgramDone_next hstate hcopied hfw true, programmed_true s⟩,
      ⟨_, fwProgramDone_next hstate hcopied hfw false, programmed_false s⟩⟩,
    fun f phase fails s hf hrst hon hfield hphase => selftestGroup_advances fails hf hrst hon hfield hphase,
    fun p b n time => ⟨fun h => columns_repaired h time, fun h => ?_⟩, fun s => ?_,
    fun s hrst htime hfree hthl hfw hjob => sliceDue_ends hrst htime hfree hthl hfw hjob,
    fun fails n m s htarget hbusy => sliceEnd_next htarget hbusy fails⟩
  · obtain ⟨hrepair, hfound⟩ := columns_lost (p := p) (b := b) h time
    exact ⟨hrepair, _, hfound, rfl, rfl, rfl, rfl⟩
  · obtain ⟨hrst, hrest⟩ := Prod.mk.inj (selftestDone_started s)
    obtain ⟨hstage, hsvn⟩ := Prod.mk.inj hrest
    exact ⟨hrst, hstage, hsvn⟩

end Sys2Proof.Machine
end

section
/-! What was written at manufacture stays, and min_svn never falls (16 R331, R332). -/

namespace Sys2Proof.Machine

open Sys2Proof

/-- A step, a tick or the front command on the rest of the queue, keeps what every command and every tick keeps. -/
theorem step_kept {s t : State} (hstep : step s = .next t) : ∃ rest, Kept { s with pending := rest } t := by
  unfold step at hstep
  cases hq : s.pending with
  | nil =>
    rw [hq] at hstep
    cases hstep
    exact ⟨s.pending, kept_tick s (Kept.refl s)⟩
  | cons c cs =>
    rw [hq] at hstep
    exact ⟨cs, (kept_exec c { s with pending := cs }).keeps t hstep⟩

/-- Settles O60: the queue is no part of what was written at manufacture, and every step keeps the rest. -/
theorem minSvnNeverFalls : Obligations.MinSvnNeverFalls := by
  intro s t hstep
  obtain ⟨_, hkept⟩ := step_kept hstep
  exact ⟨hkept.minSvn, hkept.fixed⟩

end Sys2Proof.Machine
end

section
/-! The SPDM responder and PLDM (16 R334 to R338): the state in which a request is answered, its way to the answer, what each answer
needs, and the sessions of a transport. -/

namespace Sys2Proof.Machine

open Sys2Proof

/-! ## The state in which a request is answered -/

/-- A request over DOE has come over the link, which is up; an SMBus request finds the device as it is. -/
theorem heard_form (t : Transport) (s : State) : ∃ p q r, heard t s = { s with port := p, pins := q, prun := r } := by
  cases t with
  | doe =>
    obtain ⟨r, hr⟩ := tlpIn_form s
    exact ⟨_, _, r, hr⟩
  | mctp => exact ⟨s.port, s.pins, s.prun, rfl⟩

@[simp] theorem heard_sec (t : Transport) (s : State) : (heard t s).sec = s.sec := by
  obtain ⟨p, q, r, h⟩ := heard_form t s; rw [h]

@[simp] theorem heard_out (t : Transport) (s : State) : (heard t s).out = s.out := by
  obtain ⟨p, q, r, h⟩ := heard_form t s; rw [h]

@[simp] theorem heard_part (t : Transport) (s : State) : (heard t s).part = s.part := by
  obtain ⟨p, q, r, h⟩ := heard_form t s; rw [h]

@[simp] theorem heard_dbg (t : Transport) (s : State) : (heard t s).dbg = s.dbg := by
  obtain ⟨p, q, r, h⟩ := heard_form t s; rw [h]

@[simp] theorem heard_pwr (t : Transport) (s : State) : (heard t s).pwr = s.pwr := by
  obtain ⟨p, q, r, h⟩ := heard_form t s; rw [h]

@[simp] theorem heard_rst (t : Transport) (s : State) : (heard t s).rst = s.rst := by
  obtain ⟨p, q, r, h⟩ := heard_form t s; rw [h]

@[simp] theorem measurement_heard (t : Transport) (s : State) (i : Nat) : measurement (heard t s) i = measurement s i := by
  obtain ⟨p, q, r, h⟩ := heard_form t s; rw [h]; rfl

@[simp] theorem spdmOf_heard (t w : Transport) (s : State) : spdmOf (heard t s) w = spdmOf s w := by
  unfold spdmOf; rw [heard_sec]

theorem fwHalted_heard (t : Transport) (s : State) : fwHalted (heard t s) = fwHalted s := by
  unfold fwHalted; rw [heard_dbg]

/-! ## From the request to its answer (16 R336, R346) -/

/-- Every request passes the same gate to its answer. -/
theorem exec_request {t : Transport} {i : Instr} (hi : requestOn t i = true) (s : State) :
    exec i s = .next (request t i (answer i) s) := by
  unfold requestOn at hi
  split at hi
  -- the last case is that of a command that is no request
  case h_15 => exact absurd hi (by decide)
  all_goals
    cases beq_iff_eq.mp hi
    rfl

theorem request_up {s : State} (hrun : s.rst = .running) (t : Transport) (i : Instr) (act : State → State) :
    request t i act s = if (spdmOf s t).held.isSome then responds t (.error .busy) (heard t s)
      else if fwRuns (heard t s) then act (heard t s) else modSpdm t (fun p => { p with held := some i }) (heard t s) := by
  have hup : (!up s) = false := by rw [up, hrun]; rfl
  unfold request
  rw [if_neg (by rw [hup]; decide), ← spdmOf_heard t t s]
  rfl

theorem exec_held {t : Transport} {i : Instr} {s : State} (hrun : s.rst = .running) (hi : requestOn t i = true)
    (hfree : (spdmOf s t).held = none) (hfw : fwHalted s = true) :
    exec i s = .next (modSpdm t (fun p => { p with held := some i }) (heard t s)) := by
  have hstops : fwRuns (heard t s) = false := by rw [fwRuns, fwHalted_heard, hfw, Bool.not_true, Bool.and_false]
  rw [exec_request hi, request_up hrun, hfree, if_neg (by decide), if_neg (by rw [hstops]; decide)]

theorem exec_busy {t : Transport} {i j : Instr} {s : State} (hrun : s.rst = .running) (hi : requestOn t i = true)
    (hheld : (spdmOf s t).held = some j) : exec i s = .next (responds t (.error .busy) (heard t s)) := by
  rw [exec_request hi, request_up hrun, hheld, if_pos (by rfl)]

/-- Running firmware answers a request at once. -/
theorem exec_answers {t : Transport} {i : Instr} {s u : State} (h : Hears t s) (hi : requestOn t i = true)
    (hans : answer i (heard t s) = u) : exec i s = .next u := by
  obtain ⟨hrun, hps, hfw, hfree⟩ := h
  have hgoes : fwRuns (heard t s) = true := by
    rw [fwRuns, fwHalted_heard, hfw, up, heard_rst, hrun, heard_pwr]
    simpa using hps
  rw [exec_request hi, request_up hrun, hfree, if_neg (by decide), if_pos hgoes, hans]

/-! ## What an answer changes -/

@[simp] theorem spdmOf_modSpdm (t : Transport) (f : Spdm → Spdm) (s : State) : spdmOf (modSpdm t f s) t = f (spdmOf s t) := by
  cases t <;> rfl

theorem spdmOf_modSpdm_ne {t w : Transport} (h : w ≠ t) (f : Spdm → Spdm) (s : State) : spdmOf (modSpdm t f s) w = spdmOf s w := by
  cases t <;> cases w
  case doe.doe | mctp.mctp => exact absurd rfl h
  all_goals rfl

@[simp] theorem modSpdm_ideKeys (t : Transport) (f : Spdm → Spdm) (s : State) : (modSpdm t f s).sec.ideKeys = s.sec.ideKeys := by
  cases t <;> rfl

@[simp] theorem modSpdm_ideSecure (t : Transport) (f : Spdm → Spdm) (s : State) : (modSpdm t f s).sec.ideSecure = s.sec.ideSecure := by
  cases t <;> rfl

@[simp] theorem modSpdm_cntSign (t : Transport) (f : Spdm → Spdm) (s : State) : (modSpdm t f s).sec.cntSign = s.sec.cntSign := by
  cases t <;> rfl

@[simp] theorem respond_out (t : Transport) (r : SpdmResp) (s : State) : (respond t r s).out = s.out ++ [.spdm t r] := rfl

@[simp] theorem respond_ideKeys (t : Transport) (r : SpdmResp) (s : State) : (respond t r s).sec.ideKeys = s.sec.ideKeys := rfl

@[simp] theorem respond_ideSecure (t : Transport) (r : SpdmResp) (s : State) : (respond t r s).sec.ideSecure = s.sec.ideSecure := rfl

@[simp] theorem respond_cntSign (t : Transport) (r : SpdmResp) (s : State) : (respond t r s).sec.cntSign = s.sec.cntSign := rfl

@[simp] theorem spdmOf_respond (t w : Transport) (r : SpdmResp) (s : State) : spdmOf (respond t r s) w = spdmOf s w := by
  cases w <;> rfl

theorem spdmOf_congr {s u : State} (hdoe : u.sec.doe = s.sec.doe) (hmctp : u.sec.mctp = s.sec.mctp) (w : Transport) :
    spdmOf u w = spdmOf s w := by
  cases w <;> assumption

/-! ## Negotiation (16 Table 16-4) -/

theorem negotiated_open {t : Transport} {s : State} (h : (spdmOf s t).algs = true) (act : State → State) :
    negotiated t act (heard t s) = act (heard t s) := by
  unfold negotiated
  rw [spdmOf_heard, if_pos h]

/-- A request that comes before the algorithms are chosen is refused. -/
theorem negotiated_early {t : Transport} {s : State} (h : (spdmOf s t).algs = false) (act : State → State) :
    negotiated t act (heard t s) = responds t (.error .unexpectedRequest) (heard t s) := by
  unfold negotiated
  rw [spdmOf_heard, if_neg (by rw [h]; decide)]
  rfl

theorem answers_early {t : Transport} {s : State} (h : (spdmOf s t).algs = false) (k o n : Nat) (x : BitVec 256) (i : Nat) (g : Bool) :
    ∀ c ∈ [Instr.getDigests t, .getCertificate t k o n, .challenge t k x, .getMeasurements t i g x, .keyExchange t k o],
      requestOn t c = true ∧ answer c (heard t s) = responds t (.error .unexpectedRequest) (heard t s) := by
  simp only [List.forall_mem_cons, requestOn, beq_self_eq_true, answer, ansDigests, ansCertificate, ansChallenge, ansMeasurements,
    ansKeyExchange, negotiated_early h, true_and]
  exact List.forall_mem_nil _

/-- GET_VERSION begins the negotiation of its transport anew, and leaves IDE keys and the other transport. -/
theorem ansVersion_restarts (t : Transport) (s : State) :
    (ansVersion t s).out = s.out ++ [.spdm t (.version 0x12)] ∧
    (spdmOf (ansVersion t s) t).version = true ∧ (spdmOf (ansVersion t s) t).caps = false ∧ (spdmOf (ansVersion t s) t).algs = false ∧
    (spdmOf (ansVersion t s) t).sessions = [] ∧ (ansVersion t s).sec.ideKeys = s.sec.ideKeys ∧
    ∀ w, w ≠ t → spdmOf (ansVersion t s) w = spdmOf s w := by
  unfold ansVersion endSessions
  dsimp only
  simp only [respond_out, modSpdm_out, spdmOf_respond, spdmOf_modSpdm, respond_ideKeys, modSpdm_ideKeys, true_and]
  intro w hw
  rw [spdmOf_modSpdm_ne hw, spdmOf_modSpdm_ne hw]
  exact spdmOf_congr rfl rfl w

theorem ansCapabilities_eq (t : Transport) (s : State) : ansCapabilities t s =
    if (spdmOf s t).version = true then respond t (.capabilities spdmCaps 16) (modSpdm t (fun p => { p with caps := true }) s)
    else spdmError t .unexpectedRequest s := by
  unfold ansCapabilities
  cases (spdmOf s t).version <;> rfl

/-- The algorithms that are chosen are the supported ones among those offered, if the first two are among them. -/
theorem ansAlgorithms_eq {t : Transport} {s : State} (h : (spdmOf s t).caps = true) (o : List Nat) : ansAlgorithms t o s =
    if 0 ∈ o ∧ 1 ∈ o then respond t (.algorithms ([0, 1, 2, 3].filter fun a => decide (a ∈ o)))
      (modSpdm t (fun p => { p with algs := true, keyEx := decide (2 ∈ o ∧ 3 ∈ o) }) s)
    else spdmError t .invalidRequest s := by
  have hoffer : (!o.contains 0 || !o.contains 1) = !decide (0 ∈ o ∧ 1 ∈ o) := by simp [Bool.decide_and]
  have hkeyEx : (o.contains 2 && o.contains 3) = decide (2 ∈ o ∧ 3 ∈ o) := by simp [Bool.decide_and]
  have hchosen : (List.range 4).filter o.contains = [0, 1, 2, 3].filter fun a => decide (a ∈ o) := by
    rw [show List.range 4 = [0, 1, 2, 3] from rfl]
    exact List.filter_congr fun a _ => List.contains_eq_mem a o
  unfold ansAlgorithms
  rw [h, if_neg (by decide), hoffer, hchosen, hkeyEx]
  by_cases hok : 0 ∈ o ∧ 1 ∈ o
  · rw [if_pos hok, decide_eq_true hok, if_neg (by decide)]
  · rw [if_neg hok, decide_eq_false hok, if_pos (by decide)]

theorem ansCertificate_eq {t : Transport} {s : State} (h : (spdmOf s t).algs = true) (k o n : Nat) :
    ansCertificate t k o n (heard t s) = if k ≠ 0 ∨ (certChain s.part).length ≤ o then responds t (.error .invalidRequest) (heard t s)
      else responds t (.certificate (((certChain s.part).drop o).take n)) (heard t s) := by
  unfold ansCertificate
  rw [negotiated_open h, heard_part]
  simp only [Bool.or_eq_true, bne_iff_ne, decide_eq_true_eq]
  rfl

/-! ## Signed answers (16 R333, R337) -/

theorem noSign_heard (t : Transport) (s : State) : noSign (heard t s) = noSign s := by
  unfold noSign; rw [heard_sec]

theorem noSign_iff {s : State} : noSign s = true ↔ s.sec.vaultLoaded = false ∨ s.sec.vaultCleared = true := by
  simp [noSign, or_comm]

theorem signs_of_vault {s : State} (hkey : s.sec.vaultLoaded = true) (hkept : s.sec.vaultCleared = false) : noSign s = false := by
  rw [noSign, hkey, hkept]; rfl

theorem secEv_rec (c r w : Nat) (s : State) : ∃ L n, secEv c r w s = { s with log := L, pci := { s.pci with cntLogLost := n } } ∧
    (s.log.buf.length < 4096 → ∃ e, L.buf = s.log.buf ++ [e] ∧ e.cause = BitVec.ofNat 8 c ∧ e.source = 10 ∧ e.cls = 0) := by
  obtain ⟨L, n, hev, hrec⟩ := logEv_rec 10 0 c (r <<< 8 ||| s.dbg.level.toNat <<< 12) (if jobLoaded s then s.cmt.step.toNat else 0) w s
  refine ⟨L, n, hev, fun hroom => ?_⟩
  obtain ⟨e, hbuf, hcause, hsource, hcls, -⟩ := hrec hroom
  exact ⟨e, hbuf, hcause, hsource, hcls⟩

/-- A signed answer that is refused logs 0xD7 the first time on its transport. -/
theorem refuseSign_refuses (t : Transport) (s : State) : RefusesToSign t s (refuseSign t s) := by
  unfold refuseSign spdmError
  by_cases hlogged : (spdmOf s t).refusedLogged = true
  · dsimp only
    rw [if_pos hlogged]
    exact ⟨rfl, rfl, by rw [spdmOf_respond]; exact hlogged, by rw [spdmOf_respond], fun _ => rfl,
      fun hno => absurd hlogged (by rw [hno]; decide)⟩
  · obtain ⟨L, n, hev, hrec⟩ := secEv_rec 0xD7 0 0 s
    have hsame : spdmOf { s with log := L, pci := { s.pci with cntLogLost := n } } t = spdmOf s t := spdmOf_congr rfl rfl t
    dsimp only
    rw [if_neg hlogged, hev]
    refine ⟨?_, ?_, ?_, ?_, fun hyes => absurd hyes hlogged, fun _ hroom => ?_⟩
    · rw [respond_out, modSpdm_out]
    · rw [respond_cntSign, modSpdm_cntSign]
    · rw [spdmOf_respond, spdmOf_modSpdm]
    · rw [spdmOf_respond, spdmOf_modSpdm, hsame]
    · obtain ⟨e, hbuf, hcause, hsource, hcls⟩ := hrec hroom
      refine ⟨e, ?_, hcause, hsource, hcls⟩
      rw [← hbuf]
      cases t <;> rfl

theorem ansChallenge_slot {t : Transport} {s : State} (h : (spdmOf s t).algs = true) {k : Nat} (hk : k ≠ 0) (x : BitVec 256) :
    ansChallenge t k x (heard t s) = responds t (.error .invalidRequest) (heard t s) := by
  unfold ansChallenge
  rw [negotiated_open h, if_pos (bne_iff_ne.mpr hk)]
  rfl

theorem ansChallenge_refused {t : Transport} {s : State} (h : (spdmOf s t).algs = true) (hno : noSign s = true) (x : BitVec 256) :
    ansChallenge t 0 x (heard t s) = refuseSign t (heard t s) := by
  unfold ansChallenge
  rw [negotiated_open h, if_neg (by decide), if_pos (by rw [noSign_heard, hno])]

theorem ansChallenge_signs {t : Transport} {s : State} (h : (spdmOf s t).algs = true) (hsign : noSign s = false) (x : BitVec 256) :
    ∃ g, ansChallenge t 0 x (heard t s) = responds t (.challengeAuth g) (signedOnce (heard t s)) := by
  refine ⟨(signNow 0 [x.toNat] (heard t s)).2, ?_⟩
  unfold ansChallenge
  rw [negotiated_open h, if_neg (by decide), if_neg (by rw [noSign_heard, hsign]; decide)]
  rfl

/-- The blocks that a request for index `i` is given (16 Table 16-5). -/
def measured (s : State) (i : Nat) : List (Nat × BitVec 256) :=
  if i = 0 then [(0, 5)] else if i = 0xFF then [1, 2, 3, 4, 5].map fun k => (k, measurement s k) else [(i, measurement s i)]

theorem measured_one {i : Nat} (h1 : 1 ≤ i) (h5 : i ≤ 5) (s : State) : measured s i = [(i, measurement s i)] := by
  unfold measured
  rw [if_neg (by omega), if_neg (by omega)]

/-- GET_MEASUREMENTS by its index, and by whether it asks for a signature. -/
theorem ansMeasurements_eq {t : Transport} {s : State} (h : (spdmOf s t).algs = true) (i : Nat) (g : Bool) (x : BitVec 256) :
    ansMeasurements t i g x (heard t s) =
      if 5 < i ∧ i ≠ 0xFF then responds t (.error .invalidRequest) (heard t s)
      else if g = false then responds t (.measurements (measured s i) none) (heard t s)
      else if noSign s = true then refuseSign t (heard t s)
      else responds t (.measurements (measured s i)
        (some (signNow 1 (x.toNat :: (measured s i).map fun b => b.2.toNat) (heard t s)).2)) (signedOnce (heard t s)) := by
  unfold ansMeasurements
  rw [negotiated_open h]
  simp only [measurement_heard, noSign_heard, beq_iff_eq, Bool.and_eq_true, decide_eq_true_eq, bne_iff_ne, Bool.not_eq_true']
  rfl

theorem ansMeasurements_beyond {t : Transport} {s : State} (h : (spdmOf s t).algs = true) {i : Nat} (h6 : 6 ≤ i) (hall : i ≠ 0xFF) (g : Bool)
    (x : BitVec 256) : ansMeasurements t i g x (heard t s) = responds t (.error .invalidRequest) (heard t s) := by
  rw [ansMeasurements_eq h, if_pos ⟨h6, hall⟩]

theorem ansMeasurements_plain {t : Transport} {s : State} (h : (spdmOf s t).algs = true) {i : Nat} (hi : i ≤ 5 ∨ i = 0xFF) (x : BitVec 256) :
    ansMeasurements t i false x (heard t s) = responds t (.measurements (measured s i) none) (heard t s) := by
  rw [ansMeasurements_eq h, if_neg (by omega), if_pos rfl]

theorem ansMeasurements_refused {t : Transport} {s : State} (h : (spdmOf s t).algs = true) {i : Nat} (hi : i ≤ 5 ∨ i = 0xFF)
    (hno : noSign s = true) (x : BitVec 256) : ansMeasurements t i true x (heard t s) = refuseSign t (heard t s) := by
  rw [ansMeasurements_eq h, if_neg (by omega), if_neg (by decide), if_pos hno]

theorem ansMeasurements_signs {t : Transport} {s : State} (h : (spdmOf s t).algs = true) {i : Nat} (hi : i ≤ 5 ∨ i = 0xFF)
    (hsign : noSign s = false) (x : BitVec 256) :
    ∃ g, ansMeasurements t i true x (heard t s) = responds t (.measurements (measured s i) (some g)) (signedOnce (heard t s)) := by
  rw [ansMeasurements_eq h, if_neg (by omega), if_neg (by decide), if_neg (by rw [hsign]; decide)]
  exact ⟨_, rfl⟩

theorem ansKeyExchange_slot {t : Transport} {s : State} (h : (spdmOf s t).algs = true) {k : Nat} (hk : k ≠ 0) (e : Nat) :
    ansKeyExchange t k e (heard t s) = responds t (.error .invalidRequest) (heard t s) := by
  unfold ansKeyExchange
  rw [negotiated_open h, if_pos (bne_iff_ne.mpr hk)]
  rfl

theorem ansKeyExchange_unchosen {t : Transport} {s : State} (h : (spdmOf s t).algs = true) (hno : (spdmOf s t).keyEx = false) (e : Nat) :
    ansKeyExchange t 0 e (heard t s) = responds t (.error .unsupportedRequest) (heard t s) := by
  unfold ansKeyExchange
  rw [negotiated_open h, if_neg (by decide), spdmOf_heard, hno, if_pos (by decide)]
  rfl

/-- Where the key exchange was chosen, KEY_EXCHANGE goes by the vault and the sessions that are there. -/
theorem ansKeyExchange_chosen {t : Transport} {s : State} (h : (spdmOf s t).algs = true) (hex : (spdmOf s t).keyEx = true) (e : Nat) :
    ansKeyExchange t 0 e (heard t s) = if noSign s = true then refuseSign t (heard t s)
      else if 2 ≤ (spdmOf s t).sessions.length then responds t (.error .sessionLimit) (heard t s)
      else respond t (.keyExchange (spdmOf s t).nextId (signNow 2 [e] (heard t s)).2)
        (modSpdm t (fun p => { p with sessions := p.sessions ++ [{ id := (spdmOf s t).nextId }], nextId := (spdmOf s t).nextId + 1 })
          { signedOnce (heard t s) with sec := { (signedOnce (heard t s)).sec with
              sessionKeys := s.sec.sessionKeys ++ [(sessKey t (spdmOf s t).nextId, e)] } }) := by
  unfold ansKeyExchange
  rw [negotiated_open h, if_neg (by decide), spdmOf_heard, hex, if_neg (by decide), noSign_heard]
  refine if_congr Iff.rfl rfl (if_congr Iff.rfl rfl ?_)
  rw [← heard_sec t s]
  rfl

/-- A key exchange opens a session, which has still to be finished. -/
theorem ansKeyExchange_opens {t : Transport} {s : State} (h : (spdmOf s t).algs = true) (hex : (spdmOf s t).keyEx = true)
    (hsign : noSign s = false) (hroom : (spdmOf s t).sessions.length < 2) (e : Nat) : ∃ g,
    let v := ansKeyExchange t 0 e (heard t s)
    v.out = s.out ++ [.spdm t (.keyExchange (spdmOf s t).nextId g)] ∧ v.sec.cntSign = satAdd s.sec.cntSign 1 ∧
      (spdmOf v t).sessions = (spdmOf s t).sessions ++ [{ id := (spdmOf s t).nextId, open_ := false, keyGen := 0 }] ∧
      (spdmOf v t).nextId = (spdmOf s t).nextId + 1 := by
  refine ⟨(signNow 2 [e] (heard t s)).2, ?_⟩
  dsimp only
  rw [ansKeyExchange_chosen h hex, if_neg (by rw [hsign]; decide), if_neg (by omega)]
  refine ⟨?_, ?_, ?_, ?_⟩
  · rw [respond_out, modSpdm_out]
    exact congrArg (· ++ _) (heard_out t s)
  · rw [respond_cntSign, modSpdm_cntSign]
    exact congrArg (fun k : Sec => satAdd k.cntSign 1) (heard_sec t s)
  · rw [spdmOf_respond, spdmOf_modSpdm]
    exact congrArg (fun p : Spdm => p.sessions ++ _) ((spdmOf_congr rfl rfl t).trans (spdmOf_heard t t s))
  · rw [spdmOf_respond, spdmOf_modSpdm]

/-! ## Sessions -/

@[simp] theorem session_heard (t w : Transport) (s : State) (id : Nat) : session (heard t s) w id = session s w id := by
  unfold session; rw [spdmOf_heard]

@[simp] theorem session_respond (t w : Transport) (r : SpdmResp) (s : State) (id : Nat) : session (respond t r s) w id = session s w id := by
  unfold session; rw [spdmOf_respond]

theorem isOpen_heard (t w : Transport) (s : State) (id : Nat) : isOpen (heard t s) w id = isOpen s w id := by
  unfold isOpen; rw [session_heard]

/-- An update of a session that keeps its identifier is what is found of it. -/
theorem session_modSession (t : Transport) (id : Nat) (f : Session → Session) (hf : ∀ x, (f x).id = x.id) (s : State) :
    session (modSession t id f s) t id = (session s t id).map f := by
  have hkeep : ((fun x : Session => x.id == id) ∘ fun x => if x.id == id then f x else x) = fun x : Session => x.id == id := by
    funext x
    by_cases hx : x.id = id <;> simp [hf, hx]
  unfold session modSession
  rw [spdmOf_modSpdm, List.find?_map, hkeep]
  cases hfind : (spdmOf s t).sessions.find? fun x => x.id == id with
  | none => rfl
  | some x => exact congrArg some (if_pos (List.find?_some hfind))

theorem session_dropSession (t : Transport) (id : Nat) (s : State) : session (dropSession t id s) t id = none := by
  unfold session dropSession
  rw [spdmOf_modSpdm, List.find?_eq_none]
  intro x hx
  obtain ⟨-, hne⟩ := List.mem_filter.mp hx
  simpa using hne

theorem session_dropSession_ne (t : Transport) {id j : Nat} (h : j ≠ id) (s : State) : session (dropSession t id s) t j = session s t j := by
  have hpick : (fun x : Session => decide ((x.id != id) = true ∧ (x.id == j) = true)) = fun x => x.id == j := by
    funext x
    by_cases hx : x.id = j <;> simp [hx, h]
  unfold session dropSession
  rw [spdmOf_modSpdm, List.find?_filter, hpick]
  exact congrArg (fun p : Spdm => p.sessions.find? _) (spdmOf_congr rfl rfl t)

theorem inSession_open {t : Transport} {id : Nat} {s : State} (h : isOpen s t id = true) (act : State → State) :
    inSession t id act (heard t s) = act (heard t s) := by
  unfold inSession
  rw [isOpen_heard, if_pos h]

theorem inSession_closed {t : Transport} {id : Nat} {s : State} (h : isOpen s t id = false) (act : State → State) :
    inSession t id act (heard t s) = responds t (.error .invalidRequest) (heard t s) := by
  unfold inSession
  rw [isOpen_heard, if_neg (by rw [h]; decide)]
  rfl

theorem answers_closed {t : Transport} {id : Nat} {s : State} (h : isOpen s t id = false) (op : Nat) :
    ∀ c ∈ [Instr.heartbeat t id, .keyUpdate t id op, .endSession t id],
      requestOn t c = true ∧ answer c (heard t s) = responds t (.error .invalidRequest) (heard t s) := by
  simp only [List.forall_mem_cons, requestOn, beq_self_eq_true, answer, ansHeartbeat, ansKeyUpdate, ansEndSession, inSession_closed h, true_and]
  exact List.forall_mem_nil _

/-- FINISH by the session that it names. -/
theorem ansFinish_found {t : Transport} {id : Nat} {s : State} {x : Session} (hx : session s t id = some x) (v : Bool) :
    ansFinish t id v (heard t s) = if x.open_ then responds t (.error .unexpectedRequest) (heard t s)
      else if v then respond t (.finish id) (modSession t id (fun x => { x with open_ := true }) (heard t s))
      else respond t (.error .invalidRequest) (dropSession t id (heard t s)) := by
  unfold ansFinish
  rw [session_heard, hx]
  rfl

theorem finish_opens {t : Transport} {id : Nat} {s : State} {x : Session} (hx : session s t id = some x) (hclosed : x.open_ = false) :
    isOpen (ansFinish t id true (heard t s)) t id = true ∧ (ansFinish t id true (heard t s)).out = s.out ++ [.spdm t (.finish id)] := by
  rw [ansFinish_found hx, hclosed, if_neg (by decide), if_pos rfl]
  refine ⟨?_, ?_⟩
  · unfold isOpen
    rw [session_respond, session_modSession t id (fun x => { x with open_ := true }) fun _ => rfl, session_heard, hx]
    rfl
  · rw [respond_out, modSession, modSpdm_out, heard_out]

theorem finish_drops {t : Transport} {id : Nat} {s : State} {x : Session} (hx : session s t id = some x) (hclosed : x.open_ = false) :
    session (ansFinish t id false (heard t s)) t id = none ∧
      (ansFinish t id false (heard t s)).out = s.out ++ [.spdm t (.error .invalidRequest)] := by
  rw [ansFinish_found hx, hclosed, if_neg (by decide), if_neg (by decide)]
  refine ⟨?_, ?_⟩
  · rw [session_respond, session_dropSession]
  · rw [respond_out, dropSession, modSpdm_out]
    exact congrArg (· ++ _) (heard_out t s)

theorem finish_twice {t : Transport} {id : Nat} {s : State} (h : isOpen s t id = true) (v : Bool) :
    ansFinish t id v (heard t s) = responds t (.error .unexpectedRequest) (heard t s) := by
  obtain ⟨x, hx, hopen⟩ := (Option.any_eq_true _ _).mp h
  rw [ansFinish_found hx, if_pos hopen]

theorem keyUpdate_updates {t : Transport} {id op : Nat} {s : State} (h : isOpen s t id = true) (hop : op = 1 ∨ op = 2) :
    (ansKeyUpdate t id op (heard t s)).out = s.out ++ [.spdm t (.keyUpdate id)] ∧
      session (ansKeyUpdate t id op (heard t s)) t id = (session s t id).map fun x => { x with keyGen := x.keyGen + 1 } := by
  unfold ansKeyUpdate
  rw [inSession_open h, if_pos (by simpa using hop)]
  refine ⟨?_, ?_⟩
  · rw [respond_out, modSession, modSpdm_out, heard_out]
  · rw [session_respond, session_modSession t id (fun x => { x with keyGen := x.keyGen + 1 }) fun _ => rfl, session_heard]

theorem keyUpdate_verifies {t : Transport} {id : Nat} {s : State} (h : isOpen s t id = true) :
    ansKeyUpdate t id 3 (heard t s) = responds t (.keyUpdate id) (heard t s) := by
  unfold ansKeyUpdate
  rw [inSession_open h]
  rfl

/-- END_SESSION forgets its session; the others and the IDE keys stay (16 R335). -/
theorem endSession_ends {t : Transport} {id : Nat} {s : State} (h : isOpen s t id = true) :
    let v := ansEndSession t id (heard t s)
    isOpen v t id = false ∧ v.sec.ideKeys = s.sec.ideKeys ∧ v.sec.ideSecure = s.sec.ideSecure ∧
      v.out = s.out ++ [.spdm t (.endSession id)] ∧ ∀ j, j ≠ id → session v t j = session s t j := by
  dsimp only
  unfold ansEndSession
  rw [inSession_open h]
  refine ⟨?_, ?_, ?_, ?_, fun j hj => ?_⟩
  · unfold isOpen
    rw [session_respond, session_dropSession]
    rfl
  · rw [respond_ideKeys, dropSession, modSpdm_ideKeys, heard_sec]
  · rw [respond_ideSecure, dropSession, modSpdm_ideSecure, heard_sec]
  · rw [respond_out, dropSession, modSpdm_out]
    exact congrArg (· ++ _) (heard_out t s)
  · rw [session_respond, session_dropSession_ne t hj, session_heard]

/-- IDE_KM inside a session over DOE replaces the key of its slot. -/
theorem ideKm_sets {id : Nat} {s : State} (h : isOpen s .doe id = true) (k : Nat) (key : BitVec 256) (go : Bool) :
    let v := ansIdeKm .doe (some id) k key go (heard .doe s)
    v.out = s.out ++ [.spdm .doe (.ideKm k)] ∧ (k, key) ∈ v.sec.ideKeys ∧ v.sec.ideSecure = (s.sec.ideSecure || go) ∧
      ∀ j y, j ≠ k → ((j, y) ∈ v.sec.ideKeys ↔ (j, y) ∈ s.sec.ideKeys) := by
  dsimp only
  unfold ansIdeKm
  dsimp only
  rw [inSession_open h, respond_out, respond_ideKeys, respond_ideSecure, heard_sec, heard_out]
  dsimp only
  refine ⟨rfl, List.mem_append.mpr (.inr List.mem_cons_self), rfl, fun j y hj => ?_⟩
  rw [List.mem_append, List.mem_filter, List.mem_singleton, Prod.mk.injEq]
  simp [hj]

/-! ## PLDM (16 R338) -/

theorem ansPldm_other {ty : Nat} (h0 : ty ≠ 0) (h2 : ty ≠ 2) (c : Nat) (s : State) : ansPldm ty c s = s := by
  unfold ansPldm
  rw [if_neg (by simpa using h0), if_neg (by simpa using h2)]

/-- Settles O54: a request passes one gate, and each answer goes by what it needs: the negotiation, the vault, the session. The ERROR of a
request out of order, UnsupportedRequest where the key exchange was not chosen and the certificate chain's answer rest on log entry 42. -/
theorem spdmAnswersRequests : Obligations.SpdmAnswersRequests := by
  unfold Obligations.SpdmAnswersRequests
  refine ⟨fun t i s hrun hi hfree hfw => exec_held hrun hi hfree hfw, fun t i j s hrun hi hheld => exec_busy hrun hi hheld,
    fun t s h => ?_, fun t s h => ⟨fun hver => ?_, fun hver => ?_⟩, fun t o s h hcaps => ⟨fun h0 h1 => ?_, fun hno => ?_⟩,
    fun t k o n x i g s h halgs => ?_, fun t s h halgs => ⟨?_, fun o n ho => ?_, fun k o n hko => ?_⟩,
    fun t x s h halgs hkey hkept => ⟨?_, fun e hno => ?_, fun e hex hroom => ?_, fun e hex hfull => ?_⟩,
    fun t k x e s h halgs hk => ?_, fun t x e i s h halgs hex hno hi => ?_,
    fun t x i s h halgs => ⟨fun hi => ?_, fun h1 h5 => ?_, fun hi => ?_, fun g h6 hi => ?_, fun h1 h5 hkey hkept => ?_⟩,
    fun t id x s h hx hclosed => ⟨?_, ?_⟩, fun t id s h hopen => ⟨?_, fun v => ?_, ?_, fun op hop => ?_, ?_⟩,
    fun t id op s h hclosed => ?_, fun id k key go s h hopen => ?_, fun x k key go s h => ?_,
    fun c s h => ⟨?_, ?_, fun ty h0 h2 => ?_⟩⟩
  · obtain ⟨hout, hver, hcaps, halgs, hsess, hide, hother⟩ := ansVersion_restarts t (heard t s)
    refine ⟨_, exec_answers h (beq_self_eq_true t) rfl, ?_, hver, hcaps, halgs, hsess, ?_, fun w hw => ?_⟩
    · exact hout.trans (congrArg (· ++ _) (heard_out t s))
    · exact hide.trans (congrArg Sec.ideKeys (heard_sec t s))
    · exact (hother w hw).trans (spdmOf_heard t w s)
  · exact exec_answers h (beq_self_eq_true t) ((ansCapabilities_eq t _).trans (if_pos (by rw [spdmOf_heard, hver])))
  · exact exec_answers h (beq_self_eq_true t) ((ansCapabilities_eq t _).trans (if_neg (by rw [spdmOf_heard, hver]; decide)))
  · exact exec_answers h (beq_self_eq_true t) ((ansAlgorithms_eq (by rw [spdmOf_heard, hcaps]) o).trans (if_pos ⟨h0, h1⟩))
  · exact exec_answers h (beq_self_eq_true t) ((ansAlgorithms_eq (by rw [spdmOf_heard, hcaps]) o).trans (if_neg (by tauto)))
  · intro c hc
    obtain ⟨hon, hans⟩ := answers_early halgs k o n x i g c hc
    exact exec_answers h hon hans
  · exact exec_answers h (beq_self_eq_true t) (negotiated_open halgs _)
  · exact exec_answers h (beq_self_eq_true t) ((ansCertificate_eq halgs 0 o n).trans (if_neg (by omega)))
  · exact exec_answers h (beq_self_eq_true t) ((ansCertificate_eq halgs k o n).trans (if_pos hko))
  · obtain ⟨g, hg⟩ := ansChallenge_signs halgs (signs_of_vault hkey hkept) x
    exact ⟨g, exec_answers h (beq_self_eq_true t) hg⟩
  · exact exec_answers h (beq_self_eq_true t) (ansKeyExchange_unchosen halgs hno e)
  · obtain ⟨g, hg⟩ := ansKeyExchange_opens halgs hex (signs_of_vault hkey hkept) hroom e
    exact ⟨g, _, exec_answers h (beq_self_eq_true t) rfl, hg⟩
  · exact exec_answers h (beq_self_eq_true t) ((ansKeyExchange_chosen halgs hex e).trans
      ((if_neg (by rw [signs_of_vault hkey hkept]; decide)).trans (if_pos hfull)))
  · simp only [List.forall_mem_cons]
    exact ⟨exec_answers h (beq_self_eq_true t) (ansChallenge_slot halgs hk x),
      exec_answers h (beq_self_eq_true t) (ansKeyExchange_slot halgs hk e), List.forall_mem_nil _⟩
  · have hrefuses := refuseSign_refuses t (heard t s)
    have hsigns := noSign_iff.mpr hno
    simp only [List.forall_mem_cons]
    exact ⟨⟨_, exec_answers h (beq_self_eq_true t) (ansChallenge_refused halgs hsigns x), hrefuses⟩,
      ⟨_, exec_answers h (beq_self_eq_true t) ((ansKeyExchange_chosen halgs hex e).trans (if_pos hsigns)), hrefuses⟩,
      ⟨_, exec_answers h (beq_self_eq_true t) (ansMeasurements_refused halgs hi hsigns x), hrefuses⟩, List.forall_mem_nil _⟩
  · subst hi
    exact exec_answers h (beq_self_eq_true t) (ansMeasurements_plain halgs (.inl (by decide)) x)
  · rw [← measured_one h1 h5]
    exact exec_answers h (beq_self_eq_true t) (ansMeasurements_plain halgs (.inl h5) x)
  · subst hi
    exact exec_answers h (beq_self_eq_true t) (ansMeasurements_plain halgs (.inr rfl) x)
  · exact exec_answers h (beq_self_eq_true t) (ansMeasurements_beyond halgs h6 hi g x)
  · rw [← measured_one h1 h5]
    obtain ⟨g, hg⟩ := ansMeasurements_signs halgs (.inl h5) (signs_of_vault hkey hkept) x
    exact ⟨g, exec_answers h (beq_self_eq_true t) hg⟩
  · exact ⟨_, exec_answers h (beq_self_eq_true t) rfl, finish_opens hx hclosed⟩
  · exact ⟨_, exec_answers h (beq_self_eq_true t) rfl, finish_drops hx hclosed⟩
  · exact exec_answers h (beq_self_eq_true t) (inSession_open hopen _)
  · exact exec_answers h (beq_self_eq_true t) (finish_twice hopen v)
  · exact exec_answers h (beq_self_eq_true t) (keyUpdate_verifies hopen)
  · exact ⟨_, exec_answers h (beq_self_eq_true t) rfl, keyUpdate_updates hopen hop⟩
  · exact ⟨_, exec_answers h (beq_self_eq_true t) rfl, endSession_ends hopen⟩
  · intro c hc
    obtain ⟨hon, hans⟩ := answers_closed hclosed op c hc
    exact exec_answers h hon hans
  · exact ⟨_, exec_answers h rfl rfl, ideKm_sets hopen k key go⟩
  · exact exec_answers h rfl (by cases x <;> rfl)
  · exact exec_answers h rfl rfl
  · exact exec_answers h rfl rfl
  · exact exec_answers h rfl (ansPldm_other h0 h2 c s)

end Sys2Proof.Machine
end

section
/-! The debug port (16 R339 to R345): the TAP's instructions, what a command of DBG_ACCESS reaches and answers, unlocking and relocking,
and the commands to a selected target. -/

namespace Sys2Proof.Machine

open Sys2Proof

/-! ## The TAP (16 Table 16-6) -/

theorem tapInstr_eq (code : BitVec 8) (x : Nat) (s : State) : tapInstr code x s = tapped code x s :=
  congrArg (fun o => { tapped code x s with out := o }) (List.append_assoc s.out [.tdo 0x01] [.tdo x])

/-- EXTEST, CLAMP and HIGHZ are BYPASS where PERST_N is high. -/
theorem extest_deasserted {s : State} (h : s.pins.perstN = true) (d : Nat) : exec (.extest d) s = .next (tapped 0x03 0 s) :=
  congrArg Host.Outcome.next ((if_pos h).trans (tapInstr_eq _ _ _))

theorem clamp_deasserted {s : State} (h : s.pins.perstN = true) : exec .clamp s = .next (tapped 0x04 0 s) :=
  congrArg Host.Outcome.next ((if_pos h).trans (tapInstr_eq _ _ _))

theorem highz_deasserted {s : State} (h : s.pins.perstN = true) : exec .highz s = .next (tapped 0x05 0 s) :=
  congrArg Host.Outcome.next ((if_pos h).trans (tapInstr_eq _ _ _))

/-- EXTEST drives what the boundary register held, then what is shifted in. -/
theorem extest_asserted {s : State} (h : s.pins.perstN = false) (d : Nat) :
    exec (.extest d) s = .next (let u := tapped 0x03 (Config.boundaryBits (pinLevels s.pins)) s
      { u with dbg := { u.dbg with boundary := d, pinDrive := .boundary }, out := u.out ++ [.pins (some s.dbg.boundary), .pins (some d)] }) := by
  refine congrArg Host.Outcome.next ((if_neg (by rw [h]; decide)).trans ?_)
  rw [tapInstr_eq]
  unfold drivePins emit modDbg
  dsimp only
  rw [if_pos (by rfl), List.append_assoc]
  rfl

theorem clamp_asserted {s : State} (h : s.pins.perstN = false) : exec .clamp s = .next (let u := tapped 0x04 0 s
    { u with dbg := { u.dbg with pinDrive := .boundary }, out := u.out ++ [.pins (some s.dbg.boundary)] }) := by
  refine congrArg Host.Outcome.next ((if_neg (by rw [h]; decide)).trans ?_)
  rw [tapInstr_eq]
  rfl

theorem highz_asserted {s : State} (h : s.pins.perstN = false) : exec .highz s = .next (let v := tapped 0x05 0 s
    { v with dbg := { v.dbg with pinDrive := .highz }, out := v.out ++ [.pins none] }) := by
  refine congrArg Host.Outcome.next ((if_neg (by rw [h]; decide)).trans ?_)
  rw [tapInstr_eq]
  rfl

/-- DBG_STATUS shifts out the level, the failures and whether unlocking is locked (16 Table 16-11). -/
theorem levelReg_toNat (s : State) : (levelReg s).toNat % 2 ^ 32 =
    s.dbg.level.toNat + 256 * s.dbg.failures.toNat + (if 16 ≤ s.dbg.failures.toNat then 8192 else 0) := by
  have hl : s.dbg.level.toNat < 2 ^ 8 := s.dbg.level.isLt.trans (by decide)
  have hf : s.dbg.failures.toNat < 32 := s.dbg.failures.isLt
  have hlow : s.dbg.level.toNat ||| s.dbg.failures.toNat <<< 8 = s.dbg.failures.toNat <<< 8 + s.dbg.level.toNat := by
    rw [Nat.or_comm, Nat.shiftLeft_add_eq_or_of_lt hl]
  have hb : b2n (16 ≤ s.dbg.failures.toNat) <<< 13 = if 16 ≤ s.dbg.failures.toNat then 8192 else 0 := by
    by_cases h : 16 ≤ s.dbg.failures.toNat <;> simp [b2n, h]
  have hall : s.dbg.level.toNat ||| s.dbg.failures.toNat <<< 8 ||| b2n (16 ≤ s.dbg.failures.toNat) <<< 13 =
      b2n (16 ≤ s.dbg.failures.toNat) <<< 13 + (s.dbg.failures.toNat <<< 8 + s.dbg.level.toNat) := by
    rw [hlow, Nat.or_comm]
    exact (Nat.shiftLeft_add_eq_or_of_lt (by rw [Nat.shiftLeft_eq]; omega) _).symm
  unfold levelReg pack
  simp only [List.foldl_cons, List.foldl_nil, Nat.zero_or, Nat.shiftLeft_zero, BitVec.toNat_ofNat]
  rw [hall, hb, Nat.shiftLeft_eq]
  split <;> omega

theorem dbgStatus_next (s : State) : exec .dbgStatus s = .next (tapped 0x21
    (s.dbg.level.toNat + 256 * s.dbg.failures.toNat + (if 16 ≤ s.dbg.failures.toNat then 8192 else 0)) s) := by
  rw [← levelReg_toNat]
  exact congrArg _ (tapInstr_eq _ _ s)

theorem scanSel_bypasses {s : State} (h : s.dbg.level ≠ 3 ∨ s.sec.vaultCleared = false) (x : Nat) :
    exec (.scanSel x) s = .next (tapped 0x30 0 s) := by
  refine congrArg Host.Outcome.next ((if_neg ?_).trans (tapInstr_eq _ _ _))
  rw [Bool.and_eq_true, beq_iff_eq]
  rintro ⟨hlevel, hcleared⟩
  rcases h with h | h
  · exact h hlevel
  · rw [hcleared] at h; exact Bool.noConfusion h

theorem scanSel_scans {s : State} (hlevel : s.dbg.level = 3) (hcleared : s.sec.vaultCleared = true) (x : Nat) :
    exec (.scanSel x) s = .next (tapped 0x30 (Config.scanOut s.nonce x) { s with nonce := s.nonce + 1 }) :=
  congrArg Host.Outcome.next ((if_pos (by rw [hlevel, hcleared]; rfl)).trans (tapInstr_eq _ _ _))

/-- Every code that Table 16-6 does not list is BYPASS. -/
theorem bypass_next {c : BitVec 8} (hc : c ∉ [0x01#8, 0x02#8, 0x03#8, 0x04#8, 0x05#8, 0x20#8, 0x21#8, 0x30#8]) (s : State) :
    exec (.bypass c) s = .next (tapped c 0 s) := by
  have hfree : (!([0x01, 0x02, 0x03, 0x04, 0x05, 0x20, 0x21, 0x30] : List Nat).contains c.toNat) = true := by
    simpa [← BitVec.toNat_inj] using hc
  exact (need_next rfl hfree _).trans (congrArg Host.Outcome.next (tapInstr_eq c 0 s))

/-! ## What a command of DBG_ACCESS reaches (16 R340) -/

theorem regionOf_regs {a : Nat} (hlo : regBase ≤ a) (hhi : a < regEnd) : regionOf a = .regs := by
  unfold regBase at hlo
  unfold regEnd at hhi
  unfold regionOf hbmEnd nextBase storeBase storeEnd scratchBase scratchEnd regBase regEnd
  rw [if_neg (by omega), if_neg (by omega), if_neg (by omega), if_neg (by omega), if_neg (by omega), if_neg (by omega), if_neg (by omega),
    if_pos hhi]

theorem served {s : State} (h : PortServed s) : (noLink s || s.pwr.state == 4) = false := by
  obtain ⟨hheld, hramp, hps⟩ := h
  have hawake : (s.pwr.state == 4) = false := by simpa using hps
  rw [hawake]
  simp [noLink, hheld, hramp]

theorem not_served {s : State} (h : ¬ PortServed s) : (noLink s || s.pwr.state == 4) = true := by
  unfold PortServed at h
  simp only [noLink, Bool.or_eq_true, beq_iff_eq]
  tauto

theorem reach_bad {s : State} {a : Nat} (h : a % 8 ≠ 0 ∨ regionOf a = .reserved) (w : Bool) : reach s a w = .bad :=
  if_pos (by simpa using h)

theorem reach_busy {s : State} {a : Nat} (h8 : a % 8 = 0) (hr : regionOf a ≠ .reserved) (h : ¬ PortServed s) (w : Bool) :
    reach s a w = .busy :=
  (if_neg (by simp [h8, hr])).trans (if_pos (not_served h))

theorem reach_beyond0 {s : State} {a : Nat} (h8 : a % 8 = 0) (hr : regionOf a ≠ .reserved) (hregs : regionOf a ≠ .regs) (h : PortServed s)
    (h0 : s.dbg.level = 0) (w : Bool) : reach s a w = .denied := by
  unfold reach
  dsimp only
  rw [if_neg (by simp [h8, hr]), if_neg (by rw [served h]; decide), if_neg (by simpa using hregs), if_pos (by rw [h0]; rfl)]

/-- What an access to register space reaches. -/
theorem reach_regs {s : State} {o : Nat} (h8 : o % 8 = 0) (hend : regBase + o < regEnd) (h : PortServed s) (w : Bool) :
    reach s (regBase + o) w = if s.dbg.level == 0 && !level0 o then .denied
      else if 0xB000 ≤ o && o < 0xC000 then
        if o == 0xB040 && w && s.dbg.tgtKind == 0 && s.dbg.level.toNat < 2 then .denied else .dbg (o - 0xB000)
      else if 0xE000 ≤ o && o < 0xF190 then
        if s.dbg.tgtKind == 0 && s.dbg.level.toNat < 2 then .denied
        else if !tgtOk s || !(tgtOf s).halted then .bad
        else .win ((o - 0xE000) / 8)
      else .reg o := by
  have halign : (regBase + o) % 8 = 0 := by unfold regBase; omega
  have hregs := regionOf_regs (Nat.le_add_right regBase o) hend
  unfold reach
  dsimp only
  rw [if_neg (by simp [halign, hregs]), if_neg (by rw [served h]; decide), hregs, if_pos (by rfl), Nat.add_sub_cancel_left]

theorem reach_denied {s : State} {o : Nat} (h8 : o % 8 = 0) (hend : regBase + o < regEnd) (h : PortServed s) (h0 : s.dbg.level = 0)
    (hfar : level0 o = false) (w : Bool) : reach s (regBase + o) w = .denied :=
  (reach_regs h8 hend h w).trans (if_pos (by rw [h0, hfar]; rfl))

/-- A register of the DBG block is reached, but for DBG.TCMD while the puppeteer core is selected below level 2. -/
theorem reach_dbg {s : State} {o : Nat} (h8 : o % 8 = 0) (hlo : 0xB000 ≤ o) (hhi : o < 0xC000) (h : PortServed s)
    (hlevel : s.dbg.level ≠ 0 ∨ level0 o = true) {w : Bool}
    (hcmd : ¬ (o = 0xB040 ∧ w = true ∧ s.dbg.tgtKind = 0 ∧ s.dbg.level.toNat < 2)) : reach s (regBase + o) w = .dbg (o - 0xB000) := by
  have hopen : ¬ (s.dbg.level == 0 && !level0 o) = true := by
    rw [Bool.and_eq_true, beq_iff_eq]
    rintro ⟨h0, hfar⟩
    rcases hlevel with hl | hl
    · exact hl h0
    · rw [hl] at hfar; exact Bool.noConfusion hfar
  rw [reach_regs h8 (by unfold regBase regEnd; omega) h, if_neg hopen, if_pos (by simp [hlo, hhi]),
    if_neg (by simpa [and_assoc] using hcmd)]

/-- Memory is reached where its domain is awake. -/
theorem reach_mem {s : State} {a : Nat} (h8 : a % 8 = 0) (hr : regionOf a = .hbm ∨ ∃ n, regionOf a = .store n) (h : PortServed s)
    (hlevel : s.dbg.level ≠ 0) (hawake : sleeping s a 8 = none) (w : Bool) : reach s a w = .mem := by
  have hopen : ¬ (s.dbg.level == 0) = true := by simpa using hlevel
  unfold reach
  dsimp only
  rcases hr with hr | ⟨n, hr⟩
  · rw [hr, if_neg (by simp [h8]), if_neg (by rw [served h]; decide), if_neg (by decide), if_neg hopen, hawake]
  · rw [hr, if_neg (by simp [h8]), if_neg (by rw [served h]; decide), if_neg (by simp), if_neg hopen, hawake]

/-! ## What a command answers -/

theorem dbgAccessRead_next (a : Nat) (s : State) : exec (.dbgAccessRead (16 * a + 1)) s = .next (dbgRead a (scanned s)) := by
  have hcmd : (16 * a + 1) % 16 = 1 := by omega
  have haddr : (16 * a + 1) / 16 = a := by omega
  refine congrArg Host.Outcome.next ?_
  rw [hcmd, haddr]
  rfl

theorem dbgAccessWrite_next (a : Nat) (v : Word) (s : State) : exec (.dbgAccessWrite a v) s = .next (dbgWrite a v (scanned s)) := rfl

/-- The status of an access that is not taken. -/
def Reach.refusal : Reach → Option (BitVec 4)
  | .busy => some 1
  | .denied => some 2
  | .bad => some 3
  | _ => none

theorem dbgRead_refused {s : State} {a : Nat} {k : BitVec 4} (h : (reach s a false).refusal = some k) : dbgRead a s = answered k 0 s := by
  unfold dbgRead
  cases hr : reach s a false <;> rw [hr] at h <;> cases h <;> rfl

theorem dbgWrite_refused {s : State} {a : Nat} {k : BitVec 4} (v : Word) (h : (reach s a true).refusal = some k) :
    dbgWrite a v s = answered k 0 s := by
  unfold dbgWrite
  cases hr : reach s a true <;> rw [hr] at h <;> cases h <;> rfl

/-- An access that is not taken answers its status and does nothing else. -/
theorem access_refused {s : State} {a : Nat} {k : BitVec 4} (h : ∀ w, (reach (scanned s) a w).refusal = some k) (v : Word) :
    ∀ c ∈ [Instr.dbgAccessRead (16 * a + 1), .dbgAccessWrite a v], exec c s = .next (answered k 0 (scanned s)) := by
  simp only [List.forall_mem_cons]
  exact ⟨(dbgAccessRead_next a s).trans (congrArg _ (dbgRead_refused (h false))),
    (dbgAccessWrite_next a v s).trans (congrArg _ (dbgWrite_refused v (h true))), List.forall_mem_nil _⟩

/-- A command that is neither a read, a write nor none is a bad one. -/
theorem dbgAccess_unknown {x : Nat} (h : 2 ≤ x % 16) (s : State) : exec (.dbgAccessRead x) s = .next (answered 3 0 (scanned s)) := by
  refine congrArg Host.Outcome.next ?_
  rw [if_neg (by simp; omega), if_neg (by simp; omega)]
  rfl

theorem dbgAccess_none {x : Nat} (h : x % 16 = 0) (s : State) : exec (.dbgAccessRead x) s = .next (scanned s) := by
  refine congrArg Host.Outcome.next ?_
  rw [h]
  rfl

/-- What is denied at level 0: memory, and register space beyond the DBG block's first registers, its buffer and DEV.CAP. -/
theorem denied_at0 {s : State} {a : Nat} (h8 : a % 8 = 0) (h : PortServed s) (h0 : s.dbg.level = 0)
    (hfar : (regionOf a ≠ .reserved ∧ regionOf a ≠ .regs) ∨ (regBase + 0x18 ≤ a ∧ a < regBase + 0xB000) ∨
      (regBase + 0xB030 ≤ a ∧ a < regBase + 0xB400) ∨ (regBase + 0xB800 ≤ a ∧ a < regEnd)) (w : Bool) : reach s a w = .denied := by
  by_cases hmem : regionOf a ≠ .reserved ∧ regionOf a ≠ .regs
  · exact reach_beyond0 h8 hmem.1 hmem.2 h h0 w
  · replace hfar := hfar.resolve_left hmem
    have hlo : regBase ≤ a := by omega
    have hhi : a < regEnd := by unfold regBase regEnd at *; omega
    obtain ⟨o, rfl⟩ := Nat.exists_eq_add_of_le hlo
    refine reach_denied (by unfold regBase at h8; omega) hhi h h0 ?_ w
    unfold regBase regEnd at hfar
    simp only [level0, Bool.or_eq_false_iff, Bool.and_eq_false_iff, decide_eq_false_iff_not]
    omega

/-- A read of memory gives its bytes, and changes nothing but idle timers. -/
theorem dbgRead_mem {s : State} {a : Nat} {bs : List Byte} (hreach : reach s a false = .mem) (h : ReadsAs s a 8 bs) :
    ∃ r, dbgRead a s = answered 0 (BitVec.ofNat 64 (natOf bs)) { s with prun := r } := by
  obtain ⟨r, ht⟩ := touchMem_form a 8 s
  have h' : ReadsAs { s with prun := r } a 8 bs := h
  refine ⟨r, ?_⟩
  unfold dbgRead
  rw [hreach]
  dsimp only
  rw [ht, readMem_as h']

/-- A write to plain memory stores its 8 bytes. -/
theorem dbgWrite_mem {s : State} {a : Nat} (v : Word) (hreach : reach s a true = .mem) (h : Plain s a 8) :
    ∃ r, dbgWrite a v s = answered 0 0 (settle (poke a (bytesOf 8 v.toNat) { s with prun := r })) := by
  obtain ⟨r, ht⟩ := touchMem_form a 8 s
  have h' : Plain { s with prun := r } a (bytesOf 8 v.toNat).length := by rw [bytesOf_length]; exact h
  refine ⟨r, ?_⟩
  unfold dbgWrite
  rw [hreach]
  dsimp only
  rw [ht, writeMem_plain h']

theorem poke_word_get {s : State} (h : s.mem.wf = true) (a : Nat) (v : Word) (x : Nat) : (poke a (bytesOf 8 v.toNat) s).mem.get x =
    if a ≤ x ∧ x < a + 8 then BitVec.ofNat 8 (v.toNat / 2 ^ (8 * (x - a))) else s.mem.get x := by
  refine (Sparse.get_sets h).trans ?_
  rw [bytesOf_length]
  refine if_ctx_congr Iff.rfl (fun hx => ?_) fun _ => rfl
  rw [bytesOf_getD (by omega), show (256 : Nat) = 2 ^ 8 from rfl, ← Nat.pow_mul]

theorem dbgWrite_dbg {s : State} {o : Nat} {r : Word × (Word → State → State)} {a : Nat} (hreach : reach s a true = .dbg o)
    (hreg : dbgReg s o = some r) (v : Word) : dbgWrite a v s = answered 0 0 (r.2 v s) := by
  unfold dbgWrite
  rw [hreach]
  dsimp only
  rw [hreg]

/-! ## Unlocking (16 R341 to R343) -/

/-- An unlock has been written to DBG.UNLOCK. -/
def unlockAsked (v : Word) (s : State) : State :=
  modDbg (fun d => { d with unlockLevel := BitVec.ofNat 2 (field v 1 0), unlockKey := bit v 2 }) (scanned s)

theorem unlockAsked_sec (v : Word) (s : State) : (unlockAsked v s).sec = s.sec := rfl

/-- DBG.UNLOCK is in reach at every level. -/
theorem reach_unlock {s : State} (h : PortServed s) : reach (scanned s) (regBase + 0xB008) true = .dbg 8 :=
  reach_dbg (by decide) (by decide) (by decide) h (.inr (by decide)) fun ⟨ho, _⟩ => absurd ho (by decide)

theorem dbgUnlock_next {v : Word} {s : State} (h : PortServed s) (hgo : bit v 3 = true) (hno : bit v 4 = false) (ok : Bool) :
    exec (.dbgUnlock v ok) s = .next (answered 0 0 (unlock v ok (unlockAsked v s))) := by
  have hreach : reach (scanned s) (regBase + 0xB008) true = .dbg 8 :=
    reach_unlock h
  have hready : (bit v 3 && !bit v 4) = true := by rw [hgo, hno]; rfl
  refine (need_next rfl hready _).trans (congrArg Host.Outcome.next ?_)
  show (match reach (scanned s) (regBase + 0xB008) true with
    | .dbg _ => answered 0 0 (unlock v ok (unlockAsked v s))
    | _ => answered 1 0 (scanned s)) = _
  rw [hreach]

theorem unlockBad_asked (v : Word) (s : State) (level : Nat) (vendor : Bool) :
    unlockBad (unlockAsked v s) level vendor = unlockBad s level vendor := rfl

/-- The lock is the first condition of Table 16-8, and alone gives its reason. -/
theorem unlockBad_locked {s : State} {level : Nat} {vendor : Bool} : unlockBad s level vendor = some 1 ↔ 16 ≤ s.dbg.failures.toNat := by
  unfold unlockBad
  dsimp only
  split
  next h => exact iff_of_true rfl h
  next h =>
    refine iff_of_false (fun hbad => ?_) h
    split_ifs at hbad <;> simp at hbad

/-- No unlock at level 2 or 3 is taken with a job loaded. -/
theorem unlockBad_none_job {s : State} {level : Nat} {vendor : Bool} (h : unlockBad s level vendor = none) (h2 : 2 ≤ level) :
    jobLoaded s = false := by
  unfold unlockBad at h
  simp only [ite_some_eq_none] at h
  obtain ⟨-, -, -, -, -, hjob, -⟩ := h
  rw [Bool.and_eq_true, Bool.or_eq_true, not_and, not_or] at hjob
  exact Bool.eq_false_iff.mpr (hjob (decide_eq_true h2)).1

theorem unlock_refused {v : Word} {r : Nat} {s : State} (h : unlockBad s (field v 1 0) (bit v 2) = some r) (ok : Bool) :
    unlock v ok s = unlockRefuse r s := by
  unfold unlock
  dsimp only
  rw [h]

/-- A refusal counts, withdraws the nonce and logs 0xE1. -/
theorem unlockRefuse_rec (r : Nat) (s : State) : ∃ L n, unlockRefuse r s = { s with
      log := L, pci := { s.pci with cntLogLost := n }
      dbg := { s.dbg with
        failures := BitVec.ofNat 5 (min 16 (s.dbg.failures.toNat + 1)), nonceReady := false, nonceTimer := some 1000000000 } } ∧
    (s.log.buf.length < 4096 → ∃ e, L.buf = s.log.buf ++ [e] ∧ e.cause = 0xE1 ∧ e.source = 11 ∧ e.cls = 0) :=
  dbgEv_rec _ _ _ _ _

/-- Where the level rises, 0xE0 is logged. -/
theorem levelUp_rec {level : Nat} {s : State} (h : s.dbg.level.toNat < level) : ∃ L n, levelUp level s = { s with
      log := L, pci := { s.pci with cntLogLost := n }, dbg := { s.dbg with level := BitVec.ofNat 2 level } } ∧
    (s.log.buf.length < 4096 → ∃ e, L.buf = s.log.buf ++ [e] ∧ e.cause = 0xE0 ∧ e.source = 11 ∧ e.cls = 0) := by
  unfold levelUp
  rw [if_pos h]
  exact dbgEv_rec _ _ _ _ _

theorem levelUp_above {level : Nat} {s : State} (h : ¬ s.dbg.level.toNat < level) : levelUp level s = s := if_neg h

theorem unlock_refuses {v : Word} {r : Nat} {s : State} (h : unlockBad s (field v 1 0) (bit v 2) = some r) (ok : Bool) :
    let t := answered 0 0 (unlock v ok (unlockAsked v s))
    t.dbg.level = s.dbg.level ∧ t.dbg.failures.toNat = min 16 (s.dbg.failures.toNat + 1) ∧ t.dbg.nonceReady = false ∧
      t.dbg.nonceTimer = some 1000000000 ∧ t.sec = s.sec ∧
      (s.log.buf.length < 4096 → ∃ e, t.log.buf = s.log.buf ++ [e] ∧ e.cause = 0xE1 ∧ e.source = 11 ∧ e.cls = 0) := by
  obtain ⟨L, n, hrefuse, hrec⟩ := unlockRefuse_rec r (unlockAsked v s)
  dsimp only
  rw [unlock_refused (unlockBad_asked v s _ _ ▸ h) ok, hrefuse]
  refine ⟨rfl, ?_, rfl, rfl, rfl, hrec⟩
  exact Nat.mod_eq_of_lt (by omega)

theorem unlock_low {v : Word} {s : State} (h : unlockBad s (field v 1 0) (bit v 2) = none) (h1 : field v 1 0 = 1) (ok : Bool) :
    unlock v ok s = newNonce (levelUp 1 s) := by
  unfold unlock
  dsimp only
  rw [h, h1]
  rfl

/-- Level 1 opens the port and clears nothing. -/
theorem unlock_raises1 {v : Word} {s : State} (h : unlockBad s (field v 1 0) (bit v 2) = none) (h1 : field v 1 0 = 1) (ok : Bool) :
    let t := answered 0 0 (unlock v ok (unlockAsked v s))
    t.dbg.level = (if s.dbg.level = 0 then 1 else s.dbg.level) ∧ t.dbg.nonceReady = true ∧ t.sec = s.sec ∧
      (s.dbg.level = 0 → s.log.buf.length < 4096 → ∃ e, t.log.buf = s.log.buf ++ [e] ∧ e.cause = 0xE0 ∧ e.source = 11) := by
  dsimp only
  rw [unlock_low (unlockBad_asked v s _ _ ▸ h) h1 ok]
  by_cases h0 : s.dbg.level = 0
  · obtain ⟨L, n, hup, hrec⟩ := levelUp_rec (level := 1) (s := unlockAsked v s) (by show s.dbg.level.toNat < 1; rw [h0]; decide)
    rw [hup, if_pos h0]
    refine ⟨rfl, rfl, unlockAsked_sec v s, fun _ hroom => ?_⟩
    obtain ⟨e, hbuf, hcause, hsource, -⟩ := hrec hroom
    exact ⟨e, hbuf, hcause, hsource⟩
  · have habove : ¬ (unlockAsked v s).dbg.level.toNat < 1 := by
      show ¬ s.dbg.level.toNat < 1
      rw [Nat.lt_one_iff]
      exact fun hz => h0 (BitVec.eq_of_toNat_eq hz)
    rw [levelUp_above habove, if_neg h0]
    exact ⟨rfl, rfl, unlockAsked_sec v s, fun hz => absurd hz h0⟩

/-- Every secret is cleared, and reads back as cleared. -/
def cleared (s : State) : State :=
  dbgEv 0xE2 0 0 0 { clearSecrets s with sec := { (clearSecrets s).sec with vaultCleared := true } }

theorem cleared_form (s : State) : ∃ L n, cleared s = { s with
    log := L, pci := { s.pci with cntLogLost := n }, sec := { (clearSecrets s).sec with vaultCleared := true } } := by
  obtain ⟨L, n, hev, -⟩ := dbgEv_rec 0xE2 0 0 0 { clearSecrets s with sec := { (clearSecrets s).sec with vaultCleared := true } }
  exact ⟨L, n, hev⟩

theorem jobUnload_cleared {s : State} (h : jobLoaded s = false) : jobUnload 0 (cleared s) = cleared s := by
  obtain ⟨L, n, hform⟩ := cleared_form s
  refine if_neg ?_
  rw [hform]
  exact Bool.eq_false_iff.mp h

theorem unlock_high {v : Word} {s : State} (h : unlockBad s (field v 1 0) (bit v 2) = none) (h2 : 2 ≤ field v 1 0)
    (hup : s.dbg.level.toNat < field v 1 0) (ok : Bool) :
    unlock v ok s = if ok = true then newNonce (levelUp (field v 1 0) (cleared s)) else unlockRefuse 6 (clearSecrets s) := by
  have hjob := jobUnload_cleared (unlockBad_none_job h h2)
  unfold unlock
  dsimp only
  rw [h]
  dsimp only
  rw [if_pos (by simp [h2, hup])]
  cases ok with
  | false => rfl
  | true =>
    rw [if_neg (by decide), if_pos rfl]
    refine congrArg (fun t => newNonce (levelUp (field v 1 0) t)) ?_
    split
    · exact hjob
    · rfl

/-- Levels 2 and 3 are reached with every secret cleared; where the read-back finds one, the unlock is refused after all. -/
theorem unlock_clears {v : Word} {s : State} (h : unlockBad s (field v 1 0) (bit v 2) = none) (h2 : 2 ≤ field v 1 0)
    (hup : s.dbg.level.toNat < field v 1 0) (ok : Bool) : SecretsGone (unlock v ok s) ∧
      (ok = true → (unlock v ok s).dbg.level.toNat = field v 1 0 ∧ (unlock v ok s).sec.vaultCleared = true) ∧
      (ok = false → (unlock v ok s).dbg.level = s.dbg.level ∧ (unlock v ok s).sec.vaultCleared = s.sec.vaultCleared) := by
  rw [unlock_high h h2 hup]
  cases ok with
  | false =>
    obtain ⟨L, n, hrefuse, -⟩ := unlockRefuse_rec 6 (clearSecrets s)
    rw [if_neg (by decide), hrefuse]
    exact ⟨⟨rfl, rfl, rfl, rfl, rfl, rfl, rfl⟩, fun hno => Bool.noConfusion hno, fun _ => ⟨rfl, rfl⟩⟩
  | true =>
    have hlt : field v 1 0 < 4 := Nat.mod_lt _ (by decide)
    obtain ⟨L, n, hform⟩ := cleared_form s
    obtain ⟨L', n', hraise, -⟩ := levelUp_rec (level := field v 1 0) (s := cleared s) (by rw [hform]; exact hup)
    rw [if_pos rfl, hraise, hform]
    exact ⟨⟨rfl, rfl, rfl, rfl, rfl, rfl, rfl⟩, fun _ => ⟨Nat.mod_eq_of_lt hlt, rfl⟩, fun hno => Bool.noConfusion hno⟩

/-! ## Relocking (16 R342) -/

/-- A relock has been written to DBG.UNLOCK. -/
def relockAsked (s : State) : State := modDbg (fun d => { d with unlockLevel := 0, unlockKey := false }) (scanned s)

theorem dbgRelock_next {s : State} (h : PortServed s) : exec .dbgRelock s = .next (answered 0 0 (relock (relockAsked s))) := by
  refine congrArg Host.Outcome.next ((dbgWrite_dbg (reach_unlock h) rfl 0x10).trans ?_)
  dsimp only
  rw [if_pos (show bit (0x10 : Word) 4 = true by decide)]
  rfl

theorem relock_stays {s : State} (h : s.dbg.level = 3) : relock s = s := if_pos (by rw [h]; rfl)

/-- A thallus whose streams and cores are resumed. -/
def Thallus.resumed (t : Thallus) : Thallus :=
  { t with strm := t.strm.map fun q => { q with dbg := q.dbg.resume }, core := t.core.map fun k => { k with dbg := k.dbg.resume } }

theorem resume_runs (d : DbgTgt) : d.resume.halted = false := by
  unfold DbgTgt.resume
  split
  · rfl
  · exact Bool.eq_false_iff.mpr ‹_›

theorem getD_map_same {α : Type} (f : α → α) {d : α} (h : f d = d) (l : List α) (i : Nat) : (l.map f).getD i d = f (l.getD i d) := by
  simp only [List.getD_eq_getElem?_getD, List.getElem?_map]
  cases l[i]? with
  | none => exact h.symm
  | some x => rfl

theorem Thallus.resumed_runs (t : Thallus) (i : Nat) :
    ((t.resumed.core.getD i {}).dbg.halted = false) ∧ ((t.resumed.strm.getD i {}).dbg.halted = false) := by
  unfold Thallus.resumed
  dsimp only
  rw [getD_map_same (fun k : Core => { k with dbg := k.dbg.resume }) rfl, getD_map_same (fun q : Stream => { q with dbg := q.dbg.resume }) rfl]
  exact ⟨resume_runs _, resume_runs _⟩

/-- A relock below level 3 clears breakpoints, resumes what is halted and logs 0xE4. -/
theorem relock_rec {s : State} (hlevel : s.dbg.level ≠ 3) (hfw : fwHalted s = false) : ∃ L n, relock s = { s with
      log := L, pci := { s.pci with cntLogLost := n }, thl := s.thl.map Thallus.resumed
      dbg := { s.dbg with bp := List.replicate 16 0, pbp := List.replicate 4 {}, pup := s.dbg.pup.resume, level := 0 } } ∧
    (s.log.buf.length < 4096 → ∃ e, L.buf = s.log.buf ++ [e] ∧ e.cause = 0xE4 ∧ e.source = 11 ∧ e.cls = 0) := by
  unfold relock
  rw [if_neg (by simpa using hlevel)]
  dsimp only
  rw [if_neg (by rw [hfw]; decide)]
  exact dbgEv_rec _ _ _ _ _

theorem relock_ends {s : State} (hlevel : s.dbg.level ≠ 3) (hfw : fwHalted s = false) :
    let t := answered 0 0 (relock (relockAsked s))
    t.dbg.level = 0 ∧ t.dbg.bp = List.replicate 16 0 ∧ t.dbg.pbp = List.replicate 4 {} ∧ t.sec = s.sec ∧
      (∀ n i, (coreOf t n i).dbg.halted = false ∧ (strmOf t n i).dbg.halted = false) ∧
      (s.log.buf.length < 4096 → ∃ e, t.log.buf = s.log.buf ++ [e] ∧ e.cause = 0xE4 ∧ e.source = 11 ∧ e.cls = 0) := by
  obtain ⟨L, k, hrelock, hrec⟩ := relock_rec (s := relockAsked s) hlevel hfw
  dsimp only
  rw [hrelock]
  refine ⟨rfl, rfl, rfl, rfl, fun n i => ?_, hrec⟩
  have hthl : (s.thl.map Thallus.resumed).getD n {} = (thlOf s n).resumed := getD_map_same _ rfl _ _
  show (((s.thl.map Thallus.resumed).getD n {}).core.getD i {}).dbg.halted = false ∧ (((s.thl.map Thallus.resumed).getD n {}).strm.getD i {}).dbg.halted = false
  rw [hthl]
  exact (thlOf s n).resumed_runs i

/-! ## The selected target (16 R344, R345) -/

theorem level_pos {s : State} (h : s.dbg.level ≠ 0) : 1 ≤ s.dbg.level.toNat :=
  Nat.one_le_iff_ne_zero.mpr fun hz => h (BitVec.eq_of_toNat_eq hz)

theorem tgtOk_of_unit {s : State} (hlevel : s.dbg.level ≠ 0) (h : SelectsUnit s) : tgtOk s = true := by
  have hpos := level_pos hlevel
  unfold tgtOk
  rcases h with ⟨hkind, hunit⟩ | ⟨hkind, hunit⟩
  · simp [hkind, hpos, hasThl_of_hasCore hunit]
  · simp [hkind, hpos, hunit]

theorem tgtOk_of_puppeteer {s : State} (hlevel : 2 ≤ s.dbg.level.toNat) (hkind : s.dbg.tgtKind = 0) : tgtOk s = true := by
  unfold tgtOk
  simp [hkind, hlevel]

/-- A command to a target in reach: halt, resume or step it. -/
theorem tcmd_next {s : State} (h : PortServed s) (hlevel : s.dbg.level ≠ 0) (hreach : ¬ (s.dbg.tgtKind = 0 ∧ s.dbg.level.toNat < 2))
    (hok : tgtOk s = true) :
    exec .dbgHalt s = .next (answered 0 0 (tgtHalt (scanned s))) ∧ exec .dbgResume s = .next (answered 0 0 (tgtResume (scanned s))) ∧
      exec .dbgStep s = .next (answered 0 0 (tgtStep (scanned s))) := by
  have hdbg : reach (scanned s) (regBase + 0xB040) true = .dbg 0x40 :=
    reach_dbg (by decide) (by decide) (by decide) h (.inl hlevel) fun ⟨_, _, hkind⟩ => hreach hkind
  have htake (v : Word) : dbgWrite (regBase + 0xB040) v (scanned s) = answered 0 0 (match field v 1 0 with
      | 1 => tgtHalt (scanned s)
      | 2 => tgtResume (scanned s)
      | 3 => tgtStep (scanned s)
      | _ => scanned s) :=
    (dbgWrite_dbg hdbg rfl v).trans (congrArg _ (if_neg (by rw [show tgtOk (scanned s) = tgtOk s from rfl, hok]; decide)))
  exact ⟨congrArg _ (htake 1), congrArg _ (htake 2), congrArg _ (htake 3)⟩

theorem modTgt_core {s : State} (hkind : s.dbg.tgtKind = 1) (f : DbgTgt → DbgTgt) :
    modTgt f s = modCore s.dbg.tgtThl.toNat s.dbg.tgtIdx.toNat (fun k => { k with dbg := f k.dbg }) s := by
  unfold modTgt
  rw [hkind]
  rfl

theorem modTgt_strm {s : State} (hkind : s.dbg.tgtKind = 2) (f : DbgTgt → DbgTgt) :
    modTgt f s = modStrm s.dbg.tgtThl.toNat s.dbg.tgtIdx.toNat (fun k => { k with dbg := f k.dbg }) s := by
  unfold modTgt
  rw [hkind]
  rfl

theorem tgt_of_core {s : State} (hkind : s.dbg.tgtKind = 1) :
    tgtOf s = (coreOf s s.dbg.tgtThl.toNat s.dbg.tgtIdx.toNat).dbg ∧ tgtPc s = (coreOf s s.dbg.tgtThl.toNat s.dbg.tgtIdx.toNat).pc := by
  unfold tgtOf tgtPc
  rw [hkind]
  exact ⟨rfl, rfl⟩

theorem tgt_of_strm {s : State} (hkind : s.dbg.tgtKind = 2) :
    tgtOf s = (strmOf s s.dbg.tgtThl.toNat s.dbg.tgtIdx.toNat).dbg ∧ tgtPc s = (strmOf s s.dbg.tgtThl.toNat s.dbg.tgtIdx.toNat).pc := by
  unfold tgtOf tgtPc
  rw [hkind]
  exact ⟨rfl, rfl⟩

/-- An update of the selected core or stream is read back as its state as a target, and leaves its pc. -/
theorem tgt_modTgt {s : State} (h : SelectsUnit s) (f : DbgTgt → DbgTgt) :
    tgtOf (modTgt f s) = f (tgtOf s) ∧ tgtPc (modTgt f s) = tgtPc s := by
  rcases h with ⟨hkind, hunit⟩ | ⟨hkind, hunit⟩
  · obtain ⟨hof, hpc⟩ := tgt_of_core hkind
    obtain ⟨hof', hpc'⟩ := tgt_of_core (s := modTgt f s) (by rw [modTgt_core hkind]; exact hkind)
    have hread := coreOf_modCore hunit fun k : Core => { k with dbg := f k.dbg }
    rw [hof', hpc', modTgt_core hkind, modCore_dbg, hread, hof, hpc]
    exact ⟨rfl, rfl⟩
  · obtain ⟨hof, hpc⟩ := tgt_of_strm hkind
    obtain ⟨hof', hpc'⟩ := tgt_of_strm (s := modTgt f s) (by rw [modTgt_strm hkind]; exact hkind)
    have hread := strmOf_modStrm hunit fun k : Stream => { k with dbg := f k.dbg }
    rw [hof', hpc', modTgt_strm hkind, modStrm_dbg, hread, hof, hpc]
    exact ⟨rfl, rfl⟩

/-- An update of the selected core or stream leaves memory and the log. -/
theorem modTgt_keeps {s : State} (h : SelectsUnit s) (f : DbgTgt → DbgTgt) : (modTgt f s).mem = s.mem ∧ (modTgt f s).log = s.log := by
  rcases h with ⟨hkind, -⟩ | ⟨hkind, -⟩
  · rw [modTgt_core hkind]; exact ⟨rfl, rfl⟩
  · rw [modTgt_strm hkind]; exact ⟨rfl, rfl⟩

theorem not_puppeteer {s : State} (h : SelectsUnit s) : (s.dbg.tgtKind == 0) = false := by
  rcases h with ⟨hkind, -⟩ | ⟨hkind, -⟩ <;> rw [hkind] <;> rfl

/-- The answer of a command leaves the selected target, memory and the log. -/
theorem tgt_answered (k : BitVec 4) (w : Word) (s : State) :
    tgtOf (answered k w s) = tgtOf s ∧ tgtPc (answered k w s) = tgtPc s ∧ (answered k w s).mem = s.mem ∧ (answered k w s).thl = s.thl ∧
      (answered k w s).log = s.log := ⟨rfl, rfl, rfl, rfl, rfl⟩

theorem tgt_haltEv (g pc : Nat) (s : State) :
    tgtOf (haltEv g pc s) = tgtOf s ∧ tgtPc (haltEv g pc s) = tgtPc s ∧ (haltEv g pc s).mem = s.mem ∧ (haltEv g pc s).thl = s.thl ∧
      (haltEv g pc s).dbg.pup = s.dbg.pup := by
  obtain ⟨L, n, b, hev⟩ := haltEv_form g pc s
  rw [hev]
  exact ⟨rfl, rfl, rfl, rfl, rfl⟩

/-- DBG_HALT halts a core or stream that runs, and leaves one that is halted. -/
theorem tgtHalt_unit {s : State} (h : SelectsUnit s) : (tgtOf (tgtHalt s)).halted = true ∧
    ((tgtOf s).halted = false → (tgtOf (tgtHalt s)).reason = 1) ∧ tgtPc (tgtHalt s) = tgtPc s ∧ (tgtHalt s).mem = s.mem := by
  unfold tgtHalt
  by_cases hhalted : (tgtOf s).halted = true
  · rw [if_pos hhalted]
    exact ⟨hhalted, fun hno => absurd hhalted (by rw [hno]; decide), rfl, rfl⟩
  · rw [if_neg hhalted, if_neg (by rw [not_puppeteer h]; decide)]
    obtain ⟨htgt, hpc, hmem, -⟩ := tgt_haltEv (tgtWord s.dbg.tgtKind.toNat s.dbg.tgtThl.toNat s.dbg.tgtIdx.toNat) (tgtPc s) (modTgt (DbgTgt.halt 1 0) s)
    obtain ⟨hread, hpc'⟩ := tgt_modTgt h (DbgTgt.halt 1 0)
    rw [htgt, hread, hpc, hpc', hmem, (modTgt_keeps h _).1]
    exact ⟨rfl, fun _ => rfl, rfl, rfl⟩

theorem tgtResume_unit {s : State} (h : SelectsUnit s) : (tgtOf (tgtResume s)).halted = false ∧ tgtPc (tgtResume s) = tgtPc s ∧
    (tgtResume s).mem = s.mem ∧ (tgtResume s).log = s.log := by
  unfold tgtResume
  cases hhalted : (tgtOf s).halted with
  | false => exact ⟨hhalted, rfl, rfl, rfl⟩
  | true =>
    obtain ⟨hread, hpc⟩ := tgt_modTgt h DbgTgt.resume
    dsimp only
    rw [if_neg (by decide), if_neg (by rw [not_puppeteer h]; decide), hread, hpc]
    exact ⟨resume_runs _, rfl, modTgt_keeps h _⟩

theorem tgtStep_unit {s : State} (h : SelectsUnit s) : ((tgtOf s).halted = true → (tgtOf (tgtStep s)).mode = 3) ∧
    ((tgtOf s).halted = false → (tgtStep s).thl = s.thl) ∧ tgtPc (tgtStep s) = tgtPc s ∧ (tgtStep s).mem = s.mem := by
  unfold tgtStep
  cases hhalted : (tgtOf s).halted with
  | false => exact ⟨fun hno => Bool.noConfusion hno, fun _ => rfl, rfl, rfl⟩
  | true =>
    obtain ⟨hread, hpc⟩ := tgt_modTgt h fun d => { d with mode := 3, skipBp := d.reason == 2 || d.reason == 3, stepEngine := none }
    rw [if_neg (by decide), if_neg (by rw [not_puppeteer h]; decide), hread, hpc]
    exact ⟨fun _ => rfl, fun hno => Bool.noConfusion hno, rfl, (modTgt_keeps h _).1⟩

/-- The puppeteer core halts; thalli and memory stay. -/
theorem tgtHalt_puppeteer {s : State} (hkind : s.dbg.tgtKind = 0) :
    (tgtHalt s).dbg.pup.halted = true ∧ (tgtHalt s).thl = s.thl ∧ (tgtHalt s).mem = s.mem := by
  have hof : tgtOf s = s.dbg.pup := by unfold tgtOf; rw [hkind]; rfl
  unfold tgtHalt
  by_cases hhalted : (tgtOf s).halted = true
  · rw [if_pos hhalted]
    exact ⟨hof ▸ hhalted, rfl, rfl⟩
  · rw [if_neg hhalted, if_pos (by rw [hkind]; rfl)]
    obtain ⟨-, -, hmem, hthl, hpup⟩ := tgt_haltEv (tgtWord 0 s.dbg.tgtThl.toNat s.dbg.tgtIdx.toNat) (tgtPc (pupHalt 1 0 s)) (pupHalt 1 0 s)
    dsimp only
    rw [hpup, hthl, hmem]
    exact ⟨rfl, rfl, rfl⟩

/-- Below level 2 the puppeteer core is out of reach. -/
theorem tcmd_denied {s : State} (h : PortServed s) (hlevel : s.dbg.level = 1) (hkind : s.dbg.tgtKind = 0) :
    ∀ c ∈ [Instr.dbgHalt, .dbgResume, .dbgStep], exec c s = .next (answered 2 0 (scanned s)) := by
  have hreach : reach (scanned s) (regBase + 0xB040) true = .denied := by
    rw [reach_regs (s := scanned s) (o := 0xB040) (by decide) (by decide) h]
    show (if s.dbg.level == 0 && !level0 0xB040 then Reach.denied
      else if s.dbg.tgtKind == 0 && s.dbg.level.toNat < 2 then Reach.denied else .dbg 0x40) = .denied
    rw [hlevel, hkind]
    rfl
  have hrefused (v : Word) := dbgWrite_refused (s := scanned s) (k := 2) v (by rw [hreach]; rfl)
  simp only [List.forall_mem_cons]
  exact ⟨congrArg _ (hrefused 1), congrArg _ (hrefused 2), congrArg _ (hrefused 3), List.forall_mem_nil _⟩

/-! ## The commands that reach their target -/

/-- A read of awake memory above level 0 holds its bytes for the next scan. -/
theorem dbgAccess_reads {a : Nat} {bs : List Byte} {s : State} (h8 : a % 8 = 0) (h : PortServed s) (hlevel : s.dbg.level ≠ 0)
    (hr : regionOf a = .hbm ∨ ∃ n, regionOf a = .store n) (hawake : sleeping s a 8 = none) (hreads : ReadsAs s a 8 bs) :
    ∃ t, exec (.dbgAccessRead (16 * a + 1)) s = .next t ∧ t.dbg.lastStatus = 0 ∧ t.dbg.lastRead = BitVec.ofNat 64 (natOf bs) ∧
      t.out = (scanned s).out ∧ t.mem = s.mem ∧ t.thl = s.thl ∧ t.log = s.log := by
  obtain ⟨r, hread⟩ := dbgRead_mem (s := scanned s) (reach_mem (s := scanned s) h8 hr h hlevel hawake false) hreads
  exact ⟨_, (dbgAccessRead_next a s).trans (congrArg _ hread), rfl, rfl, rfl, rfl, rfl, rfl⟩

/-- A write to awake, plain memory above level 0 stores its 8 bytes. -/
theorem dbgAccess_writes {a : Nat} {s : State} (v : Word) (h8 : a % 8 = 0) (h : PortServed s) (hlevel : s.dbg.level ≠ 0)
    (hr : regionOf a = .hbm ∨ ∃ n, regionOf a = .store n) (hawake : sleeping s a 8 = none) (hplain : Plain s a 8) (hwf : s.mem.wf = true) :
    ∃ u, exec (.dbgAccessWrite a v) s = .next (answered 0 0 (settle u)) ∧ u.out = (scanned s).out ∧ u.thl = s.thl ∧
      ∀ x, u.mem.get x = if a ≤ x ∧ x < a + 8 then BitVec.ofNat 8 (v.toNat / 2 ^ (8 * (x - a))) else s.mem.get x := by
  obtain ⟨r, hwrite⟩ := dbgWrite_mem v (reach_mem (s := scanned s) h8 hr h hlevel hawake true) hplain
  exact ⟨_, (dbgAccessWrite_next a v s).trans (congrArg _ hwrite), rfl, rfl, poke_word_get (s := { scanned s with prun := r }) hwf a v⟩

theorem dbgRelock_level3 {s : State} (h : PortServed s) (hlevel : s.dbg.level = 3) :
    exec .dbgRelock s = .next (answered 0 0 (relockAsked s)) := by
  rw [dbgRelock_next h, relock_stays (s := relockAsked s) hlevel]

theorem dbgNonceRefresh_next {s : State} (hdue : s.dbg.nonceTimer = some 0) : exec .dbgNonceRefresh s = .next (newNonce s) :=
  need_next rfl (by rw [hdue]; rfl) _

theorem tcmd_unit {s : State} (h : PortServed s) (hlevel : s.dbg.level ≠ 0) (hsel : SelectsUnit s) :
    exec .dbgHalt s = .next (answered 0 0 (tgtHalt (scanned s))) ∧ exec .dbgResume s = .next (answered 0 0 (tgtResume (scanned s))) ∧
      exec .dbgStep s = .next (answered 0 0 (tgtStep (scanned s))) := by
  refine tcmd_next h hlevel (fun ⟨hkind, _⟩ => ?_) (tgtOk_of_unit hlevel hsel)
  have hunit := not_puppeteer hsel
  rw [hkind] at hunit
  exact Bool.noConfusion hunit

theorem dbgHalt_unit {s : State} (h : PortServed s) (hlevel : s.dbg.level ≠ 0) (hsel : SelectsUnit s) :
    ∃ t, exec .dbgHalt s = .next t ∧ t.dbg.lastStatus = 0 ∧ (tgtOf t).halted = true ∧ ((tgtOf s).halted = false → (tgtOf t).reason = 1) ∧
      tgtPc t = tgtPc s ∧ t.mem = s.mem := by
  obtain ⟨hhalts, hreason, hpc, hmem⟩ := tgtHalt_unit (s := scanned s) hsel
  refine ⟨_, (tcmd_unit h hlevel hsel).1, rfl, ?_⟩
  obtain ⟨hof, hpc', hmem', -⟩ := tgt_answered 0 0 (tgtHalt (scanned s))
  rw [hof, hpc', hmem']
  exact ⟨hhalts, hreason, hpc, hmem⟩

theorem dbgResume_unit {s : State} (h : PortServed s) (hlevel : s.dbg.level ≠ 0) (hsel : SelectsUnit s) :
    ∃ t, exec .dbgResume s = .next t ∧ t.dbg.lastStatus = 0 ∧ (tgtOf t).halted = false ∧ tgtPc t = tgtPc s ∧ t.mem = s.mem ∧ t.log = s.log := by
  obtain ⟨hruns, hpc, hmem, hlog⟩ := tgtResume_unit (s := scanned s) hsel
  refine ⟨_, (tcmd_unit h hlevel hsel).2.1, rfl, ?_⟩
  obtain ⟨hof, hpc', hmem', -, hlog'⟩ := tgt_answered 0 0 (tgtResume (scanned s))
  rw [hof, hpc', hmem', hlog']
  exact ⟨hruns, hpc, hmem, hlog⟩

theorem dbgStep_unit {s : State} (h : PortServed s) (hlevel : s.dbg.level ≠ 0) (hsel : SelectsUnit s) :
    ∃ t, exec .dbgStep s = .next t ∧ t.dbg.lastStatus = 0 ∧ ((tgtOf s).halted = true → (tgtOf t).mode = 3) ∧
      ((tgtOf s).halted = false → t.thl = s.thl) ∧ tgtPc t = tgtPc s ∧ t.mem = s.mem := by
  obtain ⟨hsteps, hstays, hpc, hmem⟩ := tgtStep_unit (s := scanned s) hsel
  refine ⟨_, (tcmd_unit h hlevel hsel).2.2, rfl, ?_⟩
  obtain ⟨hof, hpc', hmem', hthl', -⟩ := tgt_answered 0 0 (tgtStep (scanned s))
  rw [hof, hpc', hmem', hthl']
  exact ⟨hsteps, hstays, hpc, hmem⟩

theorem dbgHalt_puppeteer {s : State} (h : PortServed s) (hlevel : 2 ≤ s.dbg.level.toNat) (hkind : s.dbg.tgtKind = 0) :
    ∃ t, exec .dbgHalt s = .next t ∧ t.dbg.pup.halted = true ∧ t.thl = s.thl ∧ t.mem = s.mem := by
  have hlevel0 : s.dbg.level ≠ 0 := fun hz => by rw [hz] at hlevel; exact absurd hlevel (by decide)
  obtain ⟨hhalt, -, -⟩ := tcmd_next h hlevel0 (fun ⟨_, hlow⟩ => absurd hlevel (Nat.not_le.mpr hlow)) (tgtOk_of_puppeteer hlevel hkind)
  obtain ⟨hhalts, hthl, hmem⟩ := tgtHalt_puppeteer (s := scanned s) hkind
  obtain ⟨-, -, hmem', hthl', -⟩ := tgt_answered 0 0 (tgtHalt (scanned s))
  refine ⟨_, hhalt, hhalts, ?_⟩
  rw [hmem', hthl']
  exact ⟨hthl, hmem⟩

/-- Settles O55: each TAP instruction is one update, a command of DBG_ACCESS goes by what it reaches, an unlock by the first condition that
fails. A TAP reset selecting IDCODE rests on log entry 14 (PRESUMED), the result that command 0 keeps on log entry 43, halts and steps on
log entry 44. -/
theorem debugPortAndTap : Obligations.DebugPortAndTap := by
  unfold Obligations.DebugPortAndTap
  refine ⟨fun s => congrArg _ (tapInstr_eq _ _ s), fun p s => congrArg (fun u => Host.Outcome.next (modDbg _ u)) (tapInstr_eq _ _ s),
    fun d s => ⟨fun h => extest_deasserted h d, fun h => extest_asserted h d⟩, fun s h => ⟨clamp_deasserted h, highz_deasserted h⟩,
    fun s h => ⟨clamp_asserted h, highz_asserted h⟩, fun s => dbgStatus_next s,
    fun x s => ⟨fun h => scanSel_bypasses h x, fun hlevel hcleared => ⟨_, scanSel_scans hlevel hcleared x⟩⟩, fun c s hc => bypass_next hc s,
    fun s => rfl, fun x s h => dbgAccess_unknown h s, fun x s h => dbgAccess_none h s,
    fun a v s h => access_refused (fun w => by rw [reach_bad h]; rfl) v,
    fun a v s h8 hr h => access_refused (fun w => by rw [reach_busy (s := scanned s) h8 hr h]; rfl) v,
    fun a v s h8 h h0 hfar => access_refused (fun w => by rw [denied_at0 (s := scanned s) h8 h h0 hfar]; rfl) v,
    fun a bs s h8 h hlevel hr hawake hreads => dbgAccess_reads h8 h hlevel hr hawake hreads,
    fun a v s h8 h hlevel hr hawake hplain hwf => dbgAccess_writes v h8 h hlevel hr hawake hplain hwf,
    fun v ok s h hgo hno => ⟨fun r hbad => ⟨_, dbgUnlock_next h hgo hno ok, unlock_refuses hbad ok⟩,
      fun hfine h1 => ⟨_, dbgUnlock_next h hgo hno ok, unlock_raises1 hfine h1 ok⟩,
      fun hfine h2 hup => ⟨_, dbgUnlock_next h hgo hno ok, unlock_clears (s := unlockAsked v s) hfine h2 hup ok⟩, unlockBad_locked⟩,
    fun s h hlevel => dbgRelock_level3 h hlevel, fun s h hlevel hfw => ⟨_, dbgRelock_next h, relock_ends hlevel hfw⟩,
    fun s hdue => dbgNonceRefresh_next hdue,
    fun s h hlevel hsel => ⟨dbgHalt_unit h hlevel hsel, dbgResume_unit h hlevel hsel, dbgStep_unit h hlevel hsel⟩,
    fun s h hlevel hkind => tcmd_denied h hlevel hkind, fun s h hlevel hkind => dbgHalt_puppeteer h hlevel hkind⟩

end Sys2Proof.Machine
end

section
/-! Commands that access one register (18 R366 to R370): their way to it from the host's port and from the debug port, where the registers
that they name lie, and what each write does. -/

namespace Sys2Proof.Machine

open Sys2Proof

/-! ## The way to a register (14 R284, 16 R340) -/

/-- An open port takes up a register write at once. -/
theorem hostArrive_regWrite {req : BitVec 16} {off size : Nat} {v : Word} {s : State} (h : PortOpen s) :
    hostArrive req off (.regWrite size v) s = bar0Put req off size v (countIn size s) := by
  have hreach := reachable_of_portOpen h
  obtain ⟨-, -, hrestr, hps, hheld⟩ := portOpen_countIn h size
  have hawake : ((countIn size s).pwr.state == 4) = false := by simpa using hps
  unfold hostArrive
  rw [if_pos (by rw [hreach]; rfl)]
  unfold submit behind
  rw [hrestr, hheld, hawake]
  rfl

theorem hostArrive_regRead {req : BitVec 16} {off size : Nat} {s : State} (h : PortOpen s) :
    hostArrive req off (.regRead size) s = bar0Get req off size (countIn 0 s) := by
  have hreach := reachable_of_portOpen h
  obtain ⟨-, -, hrestr, hps, hheld⟩ := portOpen_countIn h 0
  have hawake : ((countIn 0 s).pwr.state == 4) = false := by simpa using hps
  unfold hostArrive
  rw [if_pos (by rw [hreach]; rfl)]
  unfold submit behind
  rw [hrestr, hheld, hawake]
  rfl

/-- The offset of a register that a command names: aligned, and outside the DBG block. -/
abbrev RegOff (off : Nat) : Prop := off % 8 = 0 ∧ off < 0x02000000 ∧ inDbg off = false

theorem bar0Ok_of_reg {off : Nat} (h8 : off % 8 = 0) (hoff : off < 0x02000000) : bar0Ok off 8 = true := by
  simp [bar0Ok, h8]; omega

/-- A register outside the DBG block is reached above level 0. -/
theorem reach_reg {s : State} {off : Nat} (h8 : off % 8 = 0) (hoff : off < 0x02000000) (hout : inDbg off = false) (h : PortServed s)
    (hlevel : s.dbg.level ≠ 0) (w : Bool) : reach s (regBase + off) w = .reg off := by
  obtain ⟨hblock, hwin⟩ := Bool.or_eq_false_iff.mp hout
  have hopen : (s.dbg.level == 0) = false := by simpa using hlevel
  rw [reach_regs h8 (by unfold regBase regEnd; omega) h, if_neg (by rw [hopen, Bool.false_and]; decide), if_neg (by rw [hblock]; decide),
    if_neg (by rw [hwin]; decide)]

/-- A write of 8 bytes reaches register space, from the host or from the debug port. -/
theorem regWrite_arrives {who : Who} {off : Nat} {s : State} (h : Arrives who s) (ho : RegOff off) (v : Word) :
    regWrite who off 8 v s = accessed who (spaceWrite who off 8 v (arrived who 8 s)) := by
  obtain ⟨h8, hoff, hout⟩ := ho
  cases who with
  | host id => exact (hostArrive_regWrite h).trans (if_neg (by rw [bar0Ok_of_reg h8 hoff]; decide))
  | debug =>
    obtain ⟨hserved, hlevel⟩ := h
    show dbgWrite (regBase + off) v (scanned s) = _
    unfold dbgWrite
    rw [reach_reg (s := scanned s) h8 hoff hout hserved hlevel]
    rfl

/-- A whole write of a register that is there and not in use is its own put. -/
theorem regWrite_put {who : Who} {off : Nat} {s : State} {r : Reg} (h : Arrives who s) (ho : RegOff off) (hr : regAt (arrived who 8 s) off = some r) (hfree : r.inUse = false ∨ r.locks = []) (v : Word) :
    regWrite who off 8 v s = accessed who (r.put { who := who, off := off, data := v } (arrived who 8 s)) := by
  obtain ⟨h8, hoff, hout⟩ := ho
  rw [regWrite_arrives h ⟨h8, hoff, hout⟩, space_put hoff hout h8 hr hfree]

/-! ## The state in which a write arrives -/

@[simp] theorem arrived_caps (who : Who) (n : Nat) (s : State) : (arrived who n s).caps = s.caps := by cases who <;> rfl
@[simp] theorem arrived_thl (who : Who) (n : Nat) (s : State) : (arrived who n s).thl = s.thl := by cases who <;> rfl
@[simp] theorem arrived_pwr (who : Who) (n : Nat) (s : State) : (arrived who n s).pwr = s.pwr := by cases who <;> rfl
@[simp] theorem arrived_snap (who : Who) (n : Nat) (s : State) : (arrived who n s).snap = s.snap := by cases who <;> rfl
@[simp] theorem arrived_lnk (who : Who) (n : Nat) (s : State) : (arrived who n s).lnk = s.lnk := by cases who <;> rfl
@[simp] theorem arrived_time (who : Who) (n : Nat) (s : State) : (arrived who n s).time = s.time := by cases who <;> rfl
@[simp] theorem arrived_mem (who : Who) (n : Nat) (s : State) : (arrived who n s).mem = s.mem := by cases who <;> rfl
@[simp] theorem arrived_sec (who : Who) (n : Nat) (s : State) : (arrived who n s).sec = s.sec := by cases who <;> rfl
@[simp] theorem jobLoaded_arrived (who : Who) (n : Nat) (s : State) : jobLoaded (arrived who n s) = jobLoaded s := by cases who <;> rfl
theorem accessed_time (who : Who) (s : State) : (accessed who s).time = s.time := by cases who <;> rfl

theorem engOf_arrived (who : Who) (k n m : Nat) (s : State) : engOf (arrived who k s) n m = engOf s n m := by
  unfold engOf thlOf; rw [arrived_thl]

theorem strmOf_arrived (who : Who) (k n q : Nat) (s : State) : strmOf (arrived who k s) n q = strmOf s n q := by
  unfold strmOf thlOf; rw [arrived_thl]

theorem linkOf_arrived (who : Who) (k l : Nat) (s : State) : linkOf (arrived who k s) l = linkOf s l := by
  unfold linkOf; rw [arrived_lnk]

theorem hasThl_arrived (who : Who) (k n : Nat) (s : State) : hasThl (arrived who k s) n = hasThl s n := by
  unfold hasThl; rw [arrived_thl]

theorem hasLink_arrived (who : Who) (k l : Nat) (s : State) : hasLink (arrived who k s) l = hasLink s l := by
  unfold hasLink; rw [arrived_lnk, arrived_caps]

theorem fieldOf_arrived (who : Who) (k n : Nat) (s : State) : fieldOf (arrived who k s) n = fieldOf s n := by
  unfold fieldOf; rw [arrived_caps]

theorem fieldIsOn_arrived (who : Who) (k f : Nat) (s : State) : fieldIsOn (arrived who k s) f = fieldIsOn s f := by
  unfold fieldIsOn; rw [arrived_pwr]

/-! ## What a whole write writes -/

theorem bit_allOnes {i : Nat} (h : i < 64) : bit (BitVec.allOnes 64) i = true := by
  unfold bit; rw [BitVec.getLsbD_allOnes]; exact decide_eq_true h

theorem flag_full {i : Nat} (h : i < 64) (who : Who) (off : Nat) (v : Word) (old : Bool) :
    ({ who := who, off := off, data := v } : Wr).flag old i = bit v i := if_pos (bit_allOnes h)

theorem sets_full {i : Nat} (h : i < 64) (who : Who) (off : Nat) (v : Word) : ({ who := who, off := off, data := v } : Wr).sets i = bit v i := by
  unfold Wr.sets
  dsimp only
  rw [bit_allOnes h, Bool.true_and]

theorem touches_full (who : Who) (off : Nat) (v : Word) (hi lo : Nat) :
    ({ who := who, off := off, data := v } : Wr).touches hi lo = (field (BitVec.allOnes 64) hi lo != 0) := rfl

/-- A field takes the bits of the write that stand in its place. -/
theorem merge_field {w hi lo : Nat} (hw : hi + 1 = lo + w) (hhi : hi < 64) (who : Who) (off : Nat) (v : Word) (old : BitVec w) :
    ({ who := who, off := off, data := v } : Wr).merge old lo = BitVec.ofNat w (field v hi lo) := by
  rw [merge_full who off v old lo (by omega)]
  apply BitVec.eq_of_toNat_eq
  unfold field
  rw [BitVec.toNat_ofNat, BitVec.toNat_ofNat, show hi + 1 - lo = w by omega, Nat.mod_mod]

theorem rwk_free {x : Wr} {ranges : List (Nat × Nat)} {inUse : Bool} (h : inUse = false) (f : State → State) (s : State) :
    rwk x ranges inUse f s = f s := by
  unfold rwk; rw [h]; rfl

/-! ## Registers of a thallus -/

theorem regAt_thl {n o : Nat} (hn : n < 2048) (ho : o < 0x1000) (h8 : o % 8 = 0) (s : State) :
    regAt s (0x01800000 + 0x1000 * n + o) = thlReg s n o := by
  unfold regAt
  dsimp only
  rw [if_neg (by simp; omega), if_neg (by omega), if_neg (by simp; omega), if_neg (by simp; omega), if_neg (by simp; omega),
    if_neg (by simp; omega), if_neg (by simp; omega), if_neg (by simp; omega), if_neg (by simp; omega), if_neg (by simp; omega),
    if_neg (by simp; omega), if_neg (by simp; omega), if_pos (by simp; omega), show (0x01800000 + 0x1000 * n + o - 0x01800000) / 0x1000 = n by omega,
    show (0x01800000 + 0x1000 * n + o) % 0x1000 = o by omega]

theorem regAt_eng {n m o : Nat} {s : State} (hn : n < 2048) (hm : m < 4) (ho : o < 0x100) (h8 : o % 8 = 0) (h : hasThl s n = true) :
    regAt s (engOff n m + o) = engReg s n m o := by
  unfold engOff
  rw [Nat.add_assoc, regAt_thl hn (by omega) (by omega)]
  unfold thlReg
  dsimp only
  rw [h, if_neg (by decide), if_pos (by omega), show (0x100 * m + o) / 0x100 = m by omega, show (0x100 * m + o) % 0x100 = o by omega]

theorem regAt_strm {n q : Nat} {s : State} (hn : n < 2048) (hq : q < 3) (h : hasThl s n = true) :
    regAt s (strmOff n q) = strmReg s n q 0 := by
  rw [show strmOff n q = 0x01800000 + 0x1000 * n + (0x900 + q * 0x40) from Nat.add_assoc _ _ _, regAt_thl hn (by omega) (by omega)]
  unfold thlReg
  dsimp only
  rw [h, if_neg (by decide), if_neg (by omega), if_neg (by simp; omega), if_pos (by simp; omega),
    show (0x900 + q * 0x40 - 0x900) / 0x40 = q by omega, show (0x900 + q * 0x40 - 0x900) % 0x40 = 0 by omega]

theorem inDbg_thl (n o : Nat) : inDbg (0x01800000 + 0x1000 * n + o) = false := by
  simp only [inDbg, Bool.or_eq_false_iff, Bool.and_eq_false_iff, decide_eq_false_iff_not]
  omega

theorem regOff_eng {n m o : Nat} (hn : n < 2048) (hm : m < 4) (ho : o < 0x100) (h8 : o % 8 = 0) : RegOff (engOff n m + o) := by
  unfold engOff
  rw [Nat.add_assoc]
  exact ⟨by omega, by omega, inDbg_thl n _⟩

theorem regOff_strm {n q : Nat} (hn : n < 2048) (hq : q < 3) : RegOff (strmOff n q) := by
  rw [show strmOff n q = 0x01800000 + 0x1000 * n + (0x900 + q * 0x40) from Nat.add_assoc _ _ _]
  exact ⟨by omega, by omega, inDbg_thl n _⟩

theorem regOff_link {l : Nat} (hl : l < 32) : RegOff (lnkOff l) := by
  unfold lnkOff
  refine ⟨by omega, by omega, ?_⟩
  simp only [inDbg, Bool.or_eq_false_iff, Bool.and_eq_false_iff, decide_eq_false_iff_not]
  omega

/-! ## Engines and streams -/

/-- ENG_PREEMPT_SET and ENG_PREEMPT_CLEAR write CTRL.preempt (18 R368). -/
theorem engPreempt_next {n m : Nat} {s : State} (h : PortOpen s) (hn : n < 2048) (heng : hasEng s n m = true) (hm : m < 4) (v : Word) :
    regWrite (.host 0) (engOff n m) 8 v s = modEng n m (fun e => { e with preempt := bit v 0 }) (countIn 8 s) := by
  have hreg := regAt_eng (o := 0) (s := countIn 8 s) hn hm (by decide) (by decide) (hasThl_of_hasEng heng)
  have ho : RegOff (engOff n m) := regOff_eng (o := 0) hn hm (by decide) (by decide)
  refine (regWrite_put (who := .host 0) (s := s) h ho hreg (.inr rfl) v).trans ?_
  show modEng n m (fun e => { e with preempt := ({ who := .host 0, off := engOff n m, data := v } : Wr).flag e.preempt 0 }) (countIn 8 s) = _
  simp only [flag_full (by decide : 0 < 64)]

/-- A write of ACT_LOAD with start = 1, to an engine that is not in use. -/
theorem actLoadWrite_starts {n m off : Nat} {v : Word} {s : State} (who : Who) (hstart : bit v 48 = true) (hfree : actInUse (engOf s n m) = false) :
    actLoadWrite n m { who := who, off := off, data := v } s =
      if s.caps.compat = true ∧ fieldIsOn s (fieldOf s n) = false then
        holeEv who off (pwrEv 0xC7 0 0 (fieldOf s n) (regBase + off) s)
      else actLoadAsk n m (modEng n m (fun e => { e with
        actBase := BitVec.ofNat 38 (field v 43 6), actSlot := BitVec.ofNat 4 (field v 47 44), loadBusy := true }) s) := by
  unfold actLoadWrite
  rw [rwk_free hfree]
  dsimp only
  rw [sets_full (by decide), hstart, if_pos rfl, Bool.true_and]
  simp only [merge_field (w := 38) (hi := 43) (lo := 6) (by decide) (by decide), merge_field (w := 4) (hi := 47) (lo := 44) (by decide) (by decide),
    Bool.and_eq_true, Bool.not_eq_true']

theorem actLoadStart_next {n m : Nat} {data : Word} {who : Who} {s : State} (h : Arrives who s) (hn : n < 2048) (heng : hasEng s n m = true)
    (hm : m < 4) (hstart : bit data 48 = true) : exec (.actLoadStart n m data who) s =
      .next (accessed who (actLoadWrite n m { who := who, off := engOff n m + 0x10, data := data } (arrived who 8 s))) := by
  have hthl : hasThl (arrived who 8 s) n = true := (hasThl_arrived who 8 n s).trans (hasThl_of_hasEng heng)
  refine (need_next (decide_eq_true hm) hstart _).trans (congrArg Host.Outcome.next ?_)
  exact regWrite_put h (regOff_eng (o := 0x10) hn hm (by decide) (by decide)) (regAt_eng (o := 0x10) hn hm (by decide) (by decide) hthl) (.inr rfl) data

/-- ACT_LOAD_START: the load starts, or in compat mode finds its field off, an absent unit (15 T15-6). -/
theorem actLoadStart_effect {n m : Nat} {data : Word} {who : Who} {s : State} (h : Arrives who s) (hn : n < 2048) (heng : hasEng s n m = true)
    (hm : m < 4) (hstart : bit data 48 = true) (hfree : actInUse (engOf s n m) = false) :
    let u := arrived who 8 s
    (s.caps.compat = false ∨ fieldIsOn s (fieldOf s n) = true → exec (.actLoadStart n m data who) s = .next (accessed who (actLoadAsk n m
      (modEng n m (fun e => { e with
        actBase := BitVec.ofNat 38 (field data 43 6), actSlot := BitVec.ofNat 4 (field data 47 44), loadBusy := true }) u)))) ∧
    (s.caps.compat = true → fieldIsOn s (fieldOf s n) = false → exec (.actLoadStart n m data who) s = .next (accessed who
      (holeEv who (engOff n m + 0x10) (pwrEv 0xC7 0 0 (fieldOf s n) (regBase + engOff n m + 0x10) u)))) := by
  have hstarts := actLoadWrite_starts (n := n) (m := m) (off := engOff n m + 0x10) (s := arrived who 8 s) who hstart
    (by rw [engOf_arrived, hfree])
  rw [arrived_caps, fieldIsOn_arrived, fieldOf_arrived] at hstarts
  dsimp only
  rw [actLoadStart_next h hn heng hm hstart, hstarts, Nat.add_assoc regBase]
  refine ⟨fun hon => ?_, fun hcompat hoff => ?_⟩
  · rw [if_neg]
    rintro ⟨hcompat, hoff⟩
    rcases hon with hon | hon
    · rw [hcompat] at hon; exact Bool.noConfusion hon
    · rw [hoff] at hon; exact Bool.noConfusion hon
  · rw [if_pos ⟨hcompat, hoff⟩]

theorem hasStrm_of_halted {n q : Nat} {s : State} (h : hasThl s n = true) (hhalted : (strmOf s n q).state = .halted) : hasStrm s n q = true := by
  have hq : q < (thlOf s n).strm.length := by
    by_contra hge
    have hnone : strmOf s n q = {} := by
      unfold strmOf
      rw [List.getD_eq_getElem?_getD, List.getElem?_eq_none (not_lt.mp hge)]
      rfl
    rw [hnone] at hhalted
    exact StrmState.noConfusion hhalted
  simp only [hasStrm, h, hq, decide_true, Bool.and_self]

/-- A resume of a halted stream, with or without skip (06 R135). -/
theorem strmCtrlWrite_resumes {n q off : Nat} {v : Word} {s : State} (who : Who) (hq : hasStrm s n q = true)
    (hhalted : (strmOf s n q).state = .halted) (hresume : bit v 0 = true) :
    strmCtrlWrite n q { who := who, off := off, data := v } s = modStrm n q (fun k => { k with
      skip := bit v 1, state := .running, why := .none, haltDue := false
      pc := if bit v 1 then (k.pc + 8 * instrWords k.instr) % 2 ^ 44 else k.pc }) s := by
  have hread := strmOf_modStrm hq fun k : Stream => { k with skip := bit v 1 }
  have hwaits : (strmOf (modStrm n q (fun k => { k with skip := bit v 1 }) s) n q).state = .halted := by rw [hread]; exact hhalted
  unfold strmCtrlWrite
  rw [rwk_free (by rw [strmInUse, hhalted]; rfl)]
  simp only [flag_full (by decide : 1 < 64), sets_full (by decide : 0 < 64), sets_full (by decide : 1 < 64), hresume, hwaits]
  rw [if_pos (by rfl), modStrm_modStrm]
  rfl

theorem regWrite_strmCtrl {n q : Nat} {who : Who} {s : State} (h : Arrives who s) (hn : n < 2048) (hthl : hasThl s n = true) (hq : q < 3) (v : Word) :
    regWrite who (strmOff n q) 8 v s = accessed who (strmCtrlWrite n q { who := who, off := strmOff n q, data := v } (arrived who 8 s)) := by
  have hreg := regAt_strm hn hq ((hasThl_arrived who 8 n s).trans hthl)
  exact regWrite_put h (regOff_strm hn hq) hreg (.inr rfl) v

theorem streamResume_effect {n q : Nat} {who : Who} {s : State} (h : Arrives who s) (hn : n < 2048) (hthl : hasThl s n = true) (hq : q < 3)
    (hhalted : (strmOf s n q).state = .halted) :
    exec (.streamResume n q who) s = .next (accessed who (modStrm n q (fun k => { k with
      skip := false, state := .running, why := .none, haltDue := false }) (arrived who 8 s))) ∧
    exec (.streamResumeSkip n q who) s = .next (accessed who (modStrm n q (fun k => { k with
      skip := true, state := .running, why := .none, haltDue := false, pc := (k.pc + 8 * instrWords k.instr) % 2 ^ 44 }) (arrived who 8 s))) := by
  have hhalted' : (strmOf (arrived who 8 s) n q).state = .halted := by rw [strmOf_arrived, hhalted]
  have hstrm := hasStrm_of_halted ((hasThl_arrived who 8 n s).trans hthl) hhalted'
  refine ⟨(need_next (decide_eq_true hq) rfl _).trans (congrArg Host.Outcome.next ?_),
    (need_next (decide_eq_true hq) rfl _).trans (congrArg Host.Outcome.next ?_)⟩
  · rw [regWrite_strmCtrl h hn hthl hq, strmCtrlWrite_resumes who hstrm hhalted' (by decide)]
    rfl
  · rw [regWrite_strmCtrl h hn hthl hq, strmCtrlWrite_resumes who hstrm hhalted' (by decide)]
    rfl

/-! ## Snapshots (11 R240, R253) -/

theorem snapRequest_effect {s : State} (h : PortOpen s) :
    ∃ t, exec .snapRequest s = .next t ∧ t.snap.pend = true ∧ t.mem = s.mem ∧ t.out = s.out := by
  refine ⟨_, congrArg Host.Outcome.next (regWrite_put (who := .host 0) (off := 0x2100) (s := s) h (by decide) rfl (.inr rfl) 1), ?_, rfl, rfl⟩
  show (s.snap.pend || true) = true
  exact Bool.or_true _

theorem snapPush_effect {data : Word} {who : Who} {s : State} (h : Arrives who s) (hidle : s.snap.pushState ≠ 1) (hstart : bit data 15 = true) :
    exec (.snapPush data who) s = .next (accessed who (pushStart (data.truncate 14) (bit data 14) (arrived who 8 s))) := by
  have hfree : ((arrived who 8 s).snap.pushState == 1) = false := by rw [arrived_snap]; simpa using hidle
  refine congrArg Host.Outcome.next ((regWrite_put h (by decide) rfl (.inr rfl) data).trans (congrArg (accessed who) ?_))
  show pushWrite _ _ = _
  unfold pushWrite
  rw [rwk_free hfree]
  dsimp only
  rw [sets_full (by decide), hstart, if_pos rfl, flag_full (by decide), merge_full who 0x2160 data _ 0 (by decide)]
  rfl

/-! ## Links (13 R265, R266, R272) -/

theorem regAt_link {l : Nat} {s : State} (hl : l < 32) : regAt s (lnkOff l) = linkReg s l 0 := by
  unfold lnkOff regAt
  dsimp only
  rw [if_neg (by simp; omega), if_neg (by omega), if_neg (by simp; omega), if_neg (by simp; omega), if_pos (by simp; omega),
    show (0x6000 + l * 0x80 - 0x6000) / 0x80 = l by omega, show (0x6000 + l * 0x80 - 0x6000) % 0x80 = 0 by omega]

/-- A write of LNK[l].CTRL while no job is loaded. -/
theorem linkCtrlWrite_idle {l off : Nat} {v : Word} {s : State} (who : Who) (hlink : hasLink s l = true) (hjob : jobLoaded s = false) :
    linkCtrlWrite l { who := who, off := off, data := v } s =
      let t1 := linkEnable l (bit v 0) s
      if (bit v 1 && (linkOf t1 l).enable) = true then ask 1 (.link l) t1 else t1 := by
  unfold linkCtrlWrite
  rw [if_neg (by rw [hlink]; decide), rwk_free hjob]
  dsimp only
  rw [flag_full (by decide), sets_full (by decide)]

theorem linkEnable_same {l : Nat} {on : Bool} {s : State} (h : on = (linkOf s l).enable) : linkEnable l on s = s := by
  unfold linkEnable
  dsimp only
  rw [← h]
  cases on <;> rfl

theorem linkEnable_on {l : Nat} {s : State} (h : (linkOf s l).enable = false) :
    linkEnable l true s = train l (modLink l (fun k => { k with enable := true }) s) := by
  unfold linkEnable
  dsimp only
  rw [h]
  rfl

theorem regWrite_link {l : Nat} {who : Who} {s : State} (h : Arrives who s) (hl : l < 32) (hlink : hasLink s l = true) (hjob : jobLoaded s = false)
    (v : Word) : regWrite who (lnkOff l) 8 v s = accessed who
      (let t1 := linkEnable l (bit v 0) (arrived who 8 s)
       if (bit v 1 && (linkOf t1 l).enable) = true then ask 1 (.link l) t1 else t1) := by
  have hlink' : hasLink (arrived who 8 s) l = true := (hasLink_arrived who 8 l s).trans hlink
  have hreg : regAt (arrived who 8 s) (lnkOff l) = some { val := pack [(0, b2n (linkOf (arrived who 8 s) l).enable)], put := linkCtrlWrite l } := by
    rw [regAt_link hl]
    unfold linkReg
    dsimp only
    rw [hlink', if_neg (by decide)]
    rfl
  rw [regWrite_put h (regOff_link hl) hreg (.inr rfl)]
  exact congrArg (accessed who) (linkCtrlWrite_idle who hlink' ((jobLoaded_arrived who 8 s).trans hjob))

theorem linkWrites_effect {l : Nat} {data : Word} {who : Who} {s : State} (h : Arrives who s) (hl : l < 32) (hlink : hasLink s l = true)
    (hjob : jobLoaded s = false) :
    let u := arrived who 8 s
    (bit data 1 = false → bit data 0 = true → (linkOf s l).enable = false →
      exec (.linkEnableWrite l data who) s = .next (accessed who (train l (modLink l (fun k => { k with enable := true }) u)))) ∧
    (bit data 1 = false → bit data 0 = (linkOf s l).enable → exec (.linkEnableWrite l data who) s = .next (accessed who u)) ∧
    (bit data 1 = true → bit data 0 = true → (linkOf s l).enable = true →
      exec (.linkRetrain l data who) s = .next (accessed who (ask 1 (.link l) u))) := by
  have hwrite := regWrite_link h hl hlink hjob data
  have hsame (hon : bit data 0 = (linkOf s l).enable) : linkEnable l (bit data 0) (arrived who 8 s) = arrived who 8 s :=
    linkEnable_same (by rw [linkOf_arrived, hon])
  dsimp only at hwrite ⊢
  refine ⟨fun hno hon hoff => (need_next (decide_eq_true hl) rfl _).trans (congrArg Host.Outcome.next (hwrite.trans ?_)),
    fun hno hon => (need_next (decide_eq_true hl) rfl _).trans (congrArg Host.Outcome.next (hwrite.trans ?_)),
    fun hretrain hon hwas => (need_next (decide_eq_true hl) hretrain _).trans (congrArg Host.Outcome.next (hwrite.trans ?_))⟩
  · rw [hno, Bool.false_and, if_neg (by decide), hon, linkEnable_on (by rw [linkOf_arrived, hoff])]
  · rw [hno, Bool.false_and, if_neg (by decide), hsame hon]
  · rw [hsame (hon.trans hwas.symm), hretrain, linkOf_arrived, hwas, if_pos (by rfl)]

theorem routeTableLoad_effect {data : Word} {who : Who} {s : State} (h : Arrives who s) (hjob : jobLoaded s = false) (hload : bit data 44 = true) :
    let u := arrived who 8 s
    exec (.routeTableLoad data who) s = .next (accessed who { u with
      lnk := { u.lnk with rtBase := BitVec.ofNat 38 (field data 43 6), rtBusy := true } }) := by
  refine (need_next rfl hload _).trans (congrArg Host.Outcome.next ?_)
  refine (regWrite_put h (by decide) rfl (.inr rfl) data).trans (congrArg (accessed who) ?_)
  show rtWrite _ _ = _
  unfold rtWrite
  rw [rwk_free ((jobLoaded_arrived who 8 s).trans hjob), merge_field (w := 38) (hi := 43) (lo := 6) (by decide) (by decide), sets_full (by decide), hload,
    Bool.or_true]

/-! ## Time and token rates (13 R275, 18 R367) -/

theorem regWrite_timeSet {who : Who} {s : State} (h : Arrives who s) (v : Word) :
    exec (.timeSet v who) s = .next (accessed who (timeSet { who := who, off := 0x7818, data := v } (arrived who 8 s))) :=
  congrArg Host.Outcome.next (regWrite_put (off := 0x7818) h (by decide) rfl (.inr rfl) v)

theorem timeSet_loaded {x : Wr} {s : State} (hjob : jobLoaded s = true) (hx : x.touches 63 0 = true) : ignoredOnly x 1 s (timeSet x s) := by
  unfold timeSet rwk
  rw [if_pos (by simp [hjob, hx])]
  exact ignore_only x 1 s

theorem timeSet_follower {x : Wr} {s : State} (hjob : jobLoaded s = false) (hrole : s.time.role ≠ 1) : timeSet x s = s := by
  unfold timeSet
  rw [rwk_free hjob, if_neg (by simpa using hrole)]

theorem timeSet_root {who : Who} {off : Nat} {v : Word} {s : State} (hjob : jobLoaded s = false) (hrole : s.time.role = 1) :
    let t := timeSet { who := who, off := off, data := v } s
    t.time.now = v ∧ t.time.frac = 0 ∧ t.time.cntStep = satAdd s.time.cntStep 1 := by
  have hv : ({ who := who, off := off, data := v } : Wr).merge s.time.setReg 0 = v := by
    rw [merge_full _ _ _ _ _ (by decide), Nat.shiftRight_zero, BitVec.ofNat_toNat, BitVec.setWidth_eq]
  dsimp only
  unfold timeSet
  rw [rwk_free hjob, if_pos (by rw [hrole]; rfl), hv]
  obtain ⟨L, n, hev⟩ := lnkEv_form 0xA4 0 s.time.rootDev.toNat (v - s.time.now).toNat { s with time := { s.time with
    setReg := v, now := v, frac := 0, ppsDone := false, cntStep := satAdd s.time.cntStep 1 } }
  rw [hev]
  exact ⟨rfl, rfl, rfl⟩

/-- TIME_SET is ignored while a job is loaded, does nothing at a follower and sets the time at the root. -/
theorem timeSet_effect {v : Word} {who : Who} {s : State} (h : Arrives who s) : let u := arrived who 8 s
    (jobLoaded s = true → ∃ w, exec (.timeSet v who) s = .next (accessed who w) ∧
      ignoredOnly { who := who, off := 0x7818, data := v } 1 u w) ∧
    (jobLoaded s = false → s.time.role ≠ 1 → exec (.timeSet v who) s = .next (accessed who u)) ∧
    (jobLoaded s = false → s.time.role = 1 → ∃ t, exec (.timeSet v who) s = .next t ∧
      t.time.now = v ∧ t.time.frac = 0 ∧ t.time.cntStep = satAdd s.time.cntStep 1) := by
  dsimp only
  rw [regWrite_timeSet h]
  refine ⟨fun hjob => ⟨_, rfl, timeSet_loaded ((jobLoaded_arrived who 8 s).trans hjob) (show _ from rfl)⟩, fun hjob hrole => ?_, fun hjob hrole => ?_⟩
  · rw [timeSet_follower ((jobLoaded_arrived who 8 s).trans hjob) (by rw [arrived_time]; exact hrole)]
  · have hroot := timeSet_root (who := who) (off := 0x7818) (v := v) ((jobLoaded_arrived who 8 s).trans hjob)
      (by rw [arrived_time]; exact hrole)
    refine ⟨_, rfl, ?_⟩
    rw [accessed_time]
    rw [arrived_time] at hroot
    exact hroot

theorem timeNowRead_effect {s : State} (h : PortOpen s) : ∃ t, exec .timeNowRead s = .next t ∧
    t.out = s.out ++ [.compl .ok (bytesOf 8 s.time.now.toNat)] ∧ t.time = { s.time with fracLatch := s.time.frac } := by
  have hread := space_read (who := .host 0) (off := 0x7800) (size := 8) (s := countIn 0 s) (r := .ro s.time.now) (by decide) (by decide) rfl
  rw [if_pos (by rfl)] at hread
  refine ⟨_, congrArg Host.Outcome.next (hostArrive_regRead h), ?_⟩
  unfold bar0Get
  rw [if_neg (by decide), hread]
  exact ⟨rfl, rfl⟩

theorem regAt_trate {f : Nat} {s : State} (hf : f < 4) : regAt s (0x100 + 8 * f) = some (trateReg s f) := by
  interval_cases f <;> rfl

theorem trateClear_effect {f : Nat} {s : State} (h : PortOpen s) (hf : f < 4) : ∃ t, exec (.trateClear f) s = .next t ∧
    t.trate = s.trate.modify f fun x => { x with rateMin := 0xFFFF, rateMax := 0 } := by
  have hreg := regAt_trate (s := countIn 8 s) hf
  have ho : RegOff (0x100 + 8 * f) := by
    refine ⟨by omega, by omega, ?_⟩
    simp only [inDbg, Bool.or_eq_false_iff, Bool.and_eq_false_iff, decide_eq_false_iff_not]
    omega
  refine ⟨_, (need_next (decide_eq_true hf) rfl _).trans (congrArg Host.Outcome.next
    (regWrite_put (who := .host 0) (s := s) h ho hreg (.inr rfl) _)), ?_⟩
  show (if ({ who := .host 0, off := 0x100 + 8 * f, data := 1 <<< 48 } : Wr).sets 48 then trateClear f (countIn 8 s) else countIn 8 s).trate = _
  rw [if_pos (by rw [sets_full (by decide)]; decide)]
  rfl

/-! ## Commands to firmware (14 R289, R290; 16 R330, R331; 17 R358) -/

/-- A command to firmware is obeyed, or kept while its core is halted (log entry 34). -/
theorem fwActs_tell {c : FwCmd} {who : Who} {u : State} (hbusy : fwBusy u c = fwHalted u) :
    FwActs c who u (.next (accessed who (fwTell c u))) := by
  unfold FwActs fwTell
  rw [hbusy]
  exact ⟨fun hruns => by rw [if_neg (by rw [hruns]; decide)], fun hhalted => by rw [if_pos hhalted]⟩

theorem regWrite_job {req : BitVec 16} {s : State} (h : PortOpen s) (v : Word) :
    regWrite (.host req) 0x8008 8 v s = jobPut { who := .host req, off := 0x8008, data := v } (countIn 8 s) :=
  regWrite_put (who := .host req) (off := 0x8008) (s := s) h (by decide) rfl (.inr rfl) v

/-- A write of PCI.JOB sets the page, then gives the command (14 T14-6). -/
theorem jobPut_page {req : BitVec 16} {v : Word} {s : State} {page : Nat} (hpage : field v 43 12 = page) :
    let u := modPci (fun p => { p with jobPage := BitVec.ofNat 32 page }) s
    jobPut { who := .host req, off := 0x8008, data := v } s =
      if field v 49 48 = 1 then fwTell (.load req (4096 * u.pci.jobPage.toNat)) u
      else if field v 49 48 = 2 then fwTell (.unload req) u else u := by
  have hmask : (v &&& BitVec.allOnes 64) = v := BitVec.and_allOnes
  have htouch : ({ who := .host req, off := 0x8008, data := v } : Wr).touches 49 48 = true := (touches_full ..).trans (by decide)
  have hreq : whoReq (.host req) = req := by simp [whoReq, whoId]
  subst hpage
  unfold jobPut
  dsimp only
  rw [htouch, if_pos rfl, hmask, hreq]
  simp only [merge_field (w := 32) (hi := 43) (lo := 12) (by decide) (by decide), beq_iff_eq]

/-- JOB_LOAD writes the page and command 1. -/
theorem jobLoad_word {page : Nat} (h4k : page % 4096 = 0) (hlt : page < 2 ^ 44) :
    field (BitVec.ofNat 64 (page ||| 1 <<< 48)) 43 12 = page / 4096 ∧ field (BitVec.ofNat 64 (page ||| 1 <<< 48)) 49 48 = 1 := by
  have hor : page ||| 1 <<< 48 = 2 ^ 48 + page := by
    rw [Nat.or_comm, ← Nat.shiftLeft_add_eq_or_of_lt (hlt.trans (by decide))]
    rfl
  unfold field
  rw [BitVec.toNat_ofNat, hor, Nat.shiftRight_eq_div_pow, Nat.shiftRight_eq_div_pow]
  omega

theorem jobLoad_effect {req : BitVec 16} {page : Nat} {s : State} (h : PortOpen s) (h4k : page % 4096 = 0) (hlt : page < 2 ^ 44) :
    FwActs (.load req page) (.host req) (modPci (fun p => { p with jobPage := BitVec.ofNat 32 (page / 4096) }) (countIn 8 s))
      (exec (.jobLoad req page) s) := by
  obtain ⟨hpage, hcmd⟩ := jobLoad_word h4k hlt
  have hready : (page % 4096 == 0 && page < 2 ^ 44) = true := by rw [h4k, decide_eq_true hlt]; rfl
  have hback : 4096 * (BitVec.ofNat 32 (page / 4096)).toNat = page := by rw [BitVec.toNat_ofNat]; omega
  have hexec : exec (.jobLoad req page) s = .next (fwTell (.load req page)
      (modPci (fun p => { p with jobPage := BitVec.ofNat 32 (page / 4096) }) (countIn 8 s))) := by
    refine (need_next rfl hready _).trans (congrArg Host.Outcome.next ?_)
    rw [regWrite_job h, jobPut_page hpage, if_pos hcmd, modPci_pci, hback]
  rw [hexec]
  exact fwActs_tell rfl

theorem jobUnload_effect {req : BitVec 16} {s : State} (h : PortOpen s) :
    FwActs (.unload req) (.host req) (modPci (fun p => { p with jobPage := 0 }) (countIn 8 s)) (exec (.jobUnload req) s) := by
  have hexec : exec (.jobUnload req) s = .next (fwTell (.unload req) (modPci (fun p => { p with jobPage := 0 }) (countIn 8 s))) := by
    refine congrArg Host.Outcome.next ((regWrite_job h _).trans ?_)
    rw [jobPut_page (page := 0) (by decide), if_neg (by decide), if_pos (by decide)]
    rfl
  rw [hexec]
  exact fwActs_tell rfl

theorem logConsWrite_effect {v : Word} {s : State} (h : PortOpen s) : ∃ t, exec (.logConsWrite v) s = .next t ∧ t.pci.logCons = v.truncate 32 := by
  refine ⟨_, congrArg Host.Outcome.next (regWrite_put (who := .host 0) (off := 0x8030) (s := s) h (by decide) rfl (.inr rfl) v), ?_⟩
  exact merge_full (.host 0) 0x8030 v s.pci.logCons 0 (by decide)

/-- SEC.FW by its command, while no other command of SEC.FW runs (log entry 34). -/
theorem fwWrite_tells {who : Who} {off : Nat} {v : Word} (s : State) :
    let u := { s with sec := { s.sec with fwAddr := BitVec.ofNat 32 (field v 43 12) } }
    fwWrite { who := who, off := off, data := v } s = if field v 49 48 = 1 then fwTell .program u
      else if field v 49 48 = 2 then fwTell .advance u else u := by
  have htouch : ({ who := who, off := off, data := v } : Wr).touches 49 48 = true := (touches_full ..).trans (by decide)
  unfold fwWrite
  dsimp only
  rw [htouch, if_pos rfl]
  simp only [merge_field (w := 32) (hi := 43) (lo := 12) (by decide) (by decide), beq_iff_eq]

theorem regWrite_fw {who : Who} {s : State} (h : Arrives who s) (hjob : jobLoaded s = false) (v : Word) :
    regWrite who 0xA020 8 v s = accessed who (fwWrite { who := who, off := 0xA020, data := v } (arrived who 8 s)) :=
  regWrite_put (off := 0xA020) h (by decide) rfl (.inl ((jobLoaded_arrived who 8 s).trans hjob)) v

theorem fwCommands_effect {v : Word} {who : Who} {s : State} (h : Arrives who s) (hjob : jobLoaded s = false) (hidle : s.sec.fwState ≠ 1) :
    let a := arrived who 8 s
    let u := { a with sec := { a.sec with fwAddr := BitVec.ofNat 32 (field v 43 12) } }
    (field v 49 48 = 1 → FwActs .program who u (exec (.fwProgram v who) s)) ∧
    (field v 49 48 = 2 → FwActs .advance who u (exec (.fwAdvanceSvn v who) s)) := by
  have hstate : ((arrived who 8 s).sec.fwState == 1) = false := by rw [arrived_sec]; simpa using hidle
  have hwrite := (regWrite_fw h hjob v).trans (congrArg (accessed who) (fwWrite_tells (arrived who 8 s)))
  dsimp only at hwrite ⊢
  refine ⟨fun hcmd => ?_, fun hcmd => ?_⟩
  · rw [if_pos hcmd] at hwrite
    rw [show exec (.fwProgram v who) s = _ from (need_next rfl (by rw [hcmd]; rfl) _).trans (congrArg Host.Outcome.next hwrite)]
    exact fwActs_tell ((congrArg (fwHalted _ || ·) hstate).trans (Bool.or_false _))
  · rw [if_neg (by rw [hcmd]; decide), if_pos hcmd] at hwrite
    rw [show exec (.fwAdvanceSvn v who) s = _ from (need_next rfl (by rw [hcmd]; rfl) _).trans (congrArg Host.Outcome.next hwrite)]
    exact fwActs_tell ((congrArg (fwHalted _ || ·) hstate).trans (Bool.or_false _))

theorem hmapRetest_effect {who : Who} {s : State} (h : Arrives who s) (hjob : jobLoaded s = false) :
    FwActs .retest who (arrived who 8 s) (exec (.hmapRetest who) s) := by
  have hexec : exec (.hmapRetest who) s = .next (accessed who (fwTell .retest (arrived who 8 s))) := by
    refine congrArg Host.Outcome.next ((regWrite_put (off := 0xC018) h (by decide) rfl
      (.inl ((jobLoaded_arrived who 8 s).trans hjob)) _).trans (congrArg (accessed who) ?_))
    exact if_pos (by rw [sets_full (by decide)]; decide)
  rw [hexec]
  exact fwActs_tell rfl

/-! ## Power (15 R306) -/

/-- PWR.CTRL takes a target of 1, 3 or 4 and obeys it at once (log entry 37). -/
def ctrlSet (v : Word) (s : State) : State :=
  modPwr (fun p => { p with
    target := BitVec.ofNat 3 (field v 2 0), fieldOff := BitVec.ofNat 4 (field v 7 4), autoSleep := bit v 8, idleMs := BitVec.ofNat 16 (field v 31 16) }) s

theorem pwrCtrlPut_obeys {who : Who} {off : Nat} {v : Word} (s : State) (ht : field v 2 0 = 1 ∨ field v 2 0 = 3 ∨ field v 2 0 = 4) :
    pwrCtrlPut { who := who, off := off, data := v } s = obeyCtrl (ctrlSet v s) := by
  have hknown : ¬ (({ who := who, off := off, data := v } : Wr).touches 2 0 && BitVec.ofNat 3 (field v 2 0) != 1 &&
      BitVec.ofNat 3 (field v 2 0) != 3 && BitVec.ofNat 3 (field v 2 0) != 4) = true := by
    rcases ht with ht | ht | ht <;> rw [ht] <;> simp
  have htouch : ({ who := who, off := off, data := v } : Wr).touches 7 0 = true := (touches_full ..).trans (by decide)
  unfold pwrCtrlPut
  dsimp only
  rw [merge_field (w := 3) (hi := 2) (lo := 0) (by decide) (by decide), if_neg hknown, htouch, if_pos rfl]
  simp only [merge_field (w := 4) (hi := 7) (lo := 4) (by decide) (by decide), merge_field (w := 16) (hi := 31) (lo := 16) (by decide) (by decide),
    flag_full (by decide : 8 < 64)]
  rfl

theorem pwrCtrl_effect {v : Word} {who : Who} {s : State} (h : Arrives who s) (hjob : jobLoaded s = false)
    (ht : field v 2 0 = 1 ∨ field v 2 0 = 3 ∨ field v 2 0 = 4) :
    ∃ u : State, u.pwr.target = BitVec.ofNat 3 (field v 2 0) ∧ u.pwr.fieldOff = BitVec.ofNat 4 (field v 7 4) ∧ u.mem = s.mem ∧ u.thl = s.thl ∧
      exec (.pwrTargetWrite v who) s = .next (accessed who (obeyCtrl u)) ∧ exec (.fieldOffWrite v who) s = .next (accessed who (obeyCtrl u)) := by
  have hwrite : regWrite who 0x9000 8 v s = accessed who (obeyCtrl (ctrlSet v (arrived who 8 s))) :=
    (regWrite_put (off := 0x9000) h (by decide) rfl (.inl ((jobLoaded_arrived who 8 s).trans hjob)) v).trans
      (congrArg (accessed who) (pwrCtrlPut_obeys _ ht))
  exact ⟨ctrlSet v (arrived who 8 s), rfl, rfl, arrived_mem who 8 s, arrived_thl who 8 s, congrArg Host.Outcome.next hwrite, congrArg Host.Outcome.next hwrite⟩

/-- Settles O50: a command arrives at its register from the host's port or from the debug port, and each register's own write does the
rest. Debug rows as scans rest on log entry 43, a power target obeyed at once on log entry 37, a command to firmware that waits while its
core is halted on log entry 34. -/
theorem namedRegisterCommands : Obligations.NamedRegisterCommands := by
  unfold Obligations.NamedRegisterCommands
  refine ⟨fun n m s h hn heng hm => ⟨?_, ?_⟩,
    fun n m data who s h hn heng hm hstart hfree => actLoadStart_effect h hn heng hm hstart hfree,
    fun n q who s h hn hthl hq hhalted => streamResume_effect h hn hthl hq hhalted, fun s h => snapRequest_effect h,
    fun data who s h hidle hstart => snapPush_effect h hidle hstart, fun l data who s h hl hlink hjob => linkWrites_effect h hl hlink hjob,
    fun data who s h hjob hload => routeTableLoad_effect h hjob hload, fun v who s h => timeSet_effect h, fun s h => timeNowRead_effect h,
    fun f s h hf => trateClear_effect h hf, fun req page s h h4k hlt => jobLoad_effect h h4k hlt, fun req s h => jobUnload_effect h,
    fun v s h => logConsWrite_effect h, fun v who s h hjob ht => pwrCtrl_effect h hjob ht,
    fun v who s h hjob hidle => fwCommands_effect h hjob hidle, fun who s h hjob => hmapRetest_effect h hjob⟩
  · exact (need_next (decide_eq_true hm) rfl _).trans (congrArg Host.Outcome.next (engPreempt_next h hn heng hm 1))
  · exact (need_next (decide_eq_true hm) rfl _).trans (congrArg Host.Outcome.next (engPreempt_next h hn heng hm 0))

end Sys2Proof.Machine
end

section
/-! The register files of a core (08 R167), the queue, and what reset leaves (register tables of 01, 09 to 11, 13 to 15, 17). -/

namespace Sys2Proof.Machine

open Sys2Proof

/-! ## Register files (08 R167) -/

theorem gR_gW {j : Nat} (hj : j < 32) (k : Core) (i : Nat) (x : Word) : (k.gW i x).gR j = if j = 0 then 0 else if j = i then x else k.gR j := by
  unfold Core.gR Core.gW
  by_cases hj0 : j = 0
  · simp [hj0]
  · by_cases hi : i = 0
    · simp [hj0, hi]
    · simp only [beq_iff_eq, hj0, hi, if_false]
      exact setAt_getD hj i x 0 k.g

theorem pR_pW {j : Nat} (hj : j < 8) (k : Core) (i x : Nat) :
    (k.pW i x).pR j = if j = 0 then 2 ^ 128 - 1 else if j = i then x % 2 ^ 128 else k.pR j := by
  unfold Core.pR Core.pW
  by_cases hj0 : j = 0
  · simp [hj0]
  · by_cases hi : i = 0
    · simp [hj0, hi]
    · simp only [beq_iff_eq, hj0, hi, if_false]
      rw [setAt_getD hj]
      split
      · exact BitVec.toNat_ofNat ..
      · rfl

/-- Settles O1: each file is an array with one entry written; g0 and p0 are hard-wired. -/
theorem registerFileReadsBackWrites : Obligations.RegisterFileReadsBackWrites :=
  ⟨fun k i _ x hj => gR_gW hj k i x, fun k i _ x hj => vR_vW hj k i x, fun k i _ x hj => pR_pW hj k i x⟩

/-- Settles O57: every command keeps the queue. -/
theorem commandsLeaveTheQueue : Obligations.CommandsLeaveTheQueue := fun c s t h => ((kept_exec c s).keeps t h).pending

/-- Settles O58: no memory is listed, and each register of the reset state is read off it. No link is enabled before self-test has given the
part its links (00 R2). -/
theorem resetState : Obligations.ResetState := by
  refine ⟨⟨⟨rfl, Nat.zero_le _⟩, rfl, fun _ => rfl⟩, ?power, ?commit, ?snapshots, ?reduction, ?pci, ?time, ?rates, ?links⟩
  case rates => exact fun t ht => by rw [List.eq_of_mem_replicate ht]; exact ⟨rfl, rfl⟩
  case links => exact ⟨rfl, rfl, fun k hk => by rw [List.eq_of_mem_replicate hk]⟩
  all_goals decide

end Sys2Proof.Machine
end

section
/-! Marionette cores (08): the 64-bit integer instructions (T8-3, R174), and the branches and calls (opcodes 0x30 to 0x37). -/

namespace Sys2Proof.Machine

open Sys2Proof

/-! ## Natural numbers as words -/

theorem ofNat_wrapNat (w : Nat) (i : Int) : BitVec.ofNat w (wrapNat w i) = BitVec.ofInt w i := by
  refine BitVec.eq_of_toNat_eq ?_
  have hpos : (0 : Int) < ((2 ^ w : Nat) : Int) := by exact_mod_cast Nat.two_pow_pos w
  have hlt : wrapNat w i < 2 ^ w := by
    have hmod := Int.emod_lt_of_pos i hpos
    unfold wrapNat
    omega
  rw [BitVec.toNat_ofNat, Nat.mod_eq_of_lt hlt, BitVec.toNat_ofInt]
  rfl

theorem signed_toNat (a : Word) : signed 64 a.toNat = a.toInt := by
  have hlt := a.isLt
  have hdef : signed 64 a.toNat = if a.toNat < 2 ^ 63 then (a.toNat : Int) else (a.toNat : Int) - (2 ^ 64 : Nat) := by
    unfold signed
    rw [Nat.mod_eq_of_lt hlt]
  rw [hdef, BitVec.toInt_eq_toNat_cond]
  split <;> split <;> omega

theorem toNat_mod_eq_zero (b : Word) : (b.toNat % 2 ^ 64 = 0) ↔ b = 0 := by
  rw [Nat.mod_eq_of_lt b.isLt]
  exact ⟨fun h => BitVec.eq_of_toNat_eq h, fun h => congrArg BitVec.toNat h⟩

/-! ## Results (08 T8-3, R174) -/

theorem natOp_shl (a b : Word) : natOp (shiftBy 0 64) a b =
    if b.toNat < 64 then a <<< b.toNat else BitVec.ofNat 64 (Config.shiftOver 0 64 a.toNat b.toNat) := by
  unfold natOp shiftBy
  split
  · exact BitVec.eq_of_toNat_eq (by simp [Nat.shiftLeft_eq])
  · exact BitVec.eq_of_toNat_eq (by simp)

theorem natOp_shr (a b : Word) : natOp (shiftBy 1 64) a b =
    if b.toNat < 64 then a >>> b.toNat else BitVec.ofNat 64 (Config.shiftOver 1 64 a.toNat b.toNat) := by
  unfold natOp shiftBy
  split
  · show BitVec.ofNat 64 (a.toNat % 2 ^ 64 / 2 ^ b.toNat) = _
    refine BitVec.eq_of_toNat_eq ?_
    have hlt : a.toNat / 2 ^ b.toNat < 2 ^ 64 := (Nat.div_le_self ..).trans_lt a.isLt
    rw [BitVec.toNat_ofNat, Nat.mod_eq_of_lt a.isLt, Nat.mod_eq_of_lt hlt, BitVec.toNat_ushiftRight, Nat.shiftRight_eq_div_pow]
  · exact BitVec.eq_of_toNat_eq (by simp)

theorem natOp_sra (a b : Word) : natOp (shiftBy 2 64) a b =
    if b.toNat < 64 then a.sshiftRight b.toNat else BitVec.ofNat 64 (Config.shiftOver 2 64 a.toNat b.toNat) := by
  unfold natOp shiftBy
  split
  · show BitVec.ofNat 64 (wrapNat 64 (signed 64 a.toNat / (2 ^ b.toNat : Nat))) = _
    rw [ofNat_wrapNat, signed_toNat, BitVec.sshiftRight, Int.shiftRight_eq_div_pow]
  · exact BitVec.eq_of_toNat_eq (by simp)

theorem natOp_div (a b : Word) : natOp (sdivW 64) a b = if b = 0 then BitVec.allOnes 64 else a.sdiv b := by
  unfold natOp sdivW
  simp only [beq_iff_eq, toNat_mod_eq_zero]
  split
  · rfl
  · rw [ofNat_wrapNat, signed_toNat, signed_toNat]
    refine BitVec.eq_of_toInt_eq ?_
    rw [BitVec.toInt_sdiv, BitVec.toInt_ofInt]

theorem natOp_divu (a b : Word) : natOp (udivW 64) a b = if b = 0 then BitVec.allOnes 64 else a / b := by
  unfold natOp udivW
  simp only [beq_iff_eq, toNat_mod_eq_zero]
  split
  · rfl
  · rw [Nat.mod_eq_of_lt a.isLt, Nat.mod_eq_of_lt b.isLt]
    exact BitVec.udiv_def.symm

theorem natOp_rem (a b : Word) : natOp (sremW 64) a b = if b = 0 then a else a.srem b := by
  unfold natOp sremW
  simp only [beq_iff_eq, toNat_mod_eq_zero]
  split
  · rw [Nat.mod_eq_of_lt a.isLt, BitVec.ofNat_toNat, BitVec.setWidth_eq]
  · rw [ofNat_wrapNat, signed_toNat, signed_toNat, ← BitVec.toInt_srem, BitVec.ofInt_toInt]

theorem ofNat_b2n (p : Prop) [Decidable p] : BitVec.ofNat 64 (b2n (decide p)) = if p then 1 else 0 := by
  by_cases h : p <;> simp [b2n, h]

theorem lui_shift (i : Int) : BitVec.ofInt 64 (i * 2 ^ 32) = BitVec.ofInt 64 i <<< 32 := by
  rw [BitVec.ofInt_mul, BitVec.shiftLeft_eq_mul_twoPow]
  rfl

/-- A row that is an operation on two registers completes with its result in rd. -/
theorem binOp_of {mk : Nat → Nat → Word → Instr} {g : Word → Word → Word} (f : Word → Word → Word)
    (hexec : ∀ n c w s, exec (mk n c w) s = regOp n c w f s) (hf : ∀ a b, f a b = g a b) : BinOp mk g := by
  obtain rfl : f = g := funext fun a => funext (hf a)
  exact completes_regInstr mk _ (fun _ => true) _ hexec fun _ _ => rfl

theorem immOp_of {mk : Nat → Nat → Word → Instr} {f : Word → Word → Word}
    (hexec : ∀ n c w s, exec (mk n c w) s = immOp n c w f s) : ImmOp mk f :=
  completes_regInstr mk _ (fun _ => true) _ hexec fun _ _ => rfl

/-- Settles O2: each row is one operation on words, whose value as a natural number is that of the word operation. That LUI shifts its
sign-extended immediate by 32 is the model's choice (log entry 21). -/
theorem scalarIntegerResults : Obligations.ScalarIntegerResults := by
  refine ⟨⟨completes_regInstr .add _ (fun w => fOp w == 0x01) _ (fun _ _ _ _ => rfl) fun w h => by simpa using h,
      binOp_of (· - ·) (fun _ _ _ _ => rfl) fun _ _ => rfl, binOp_of (· * ·) (fun _ _ _ _ => rfl) fun _ _ => rfl,
      binOp_of mulHigh (fun _ _ _ _ => rfl) fun _ _ => rfl, binOp_of (· &&& ·) (fun _ _ _ _ => rfl) fun _ _ => rfl,
      binOp_of (· ||| ·) (fun _ _ _ _ => rfl) fun _ _ => rfl, binOp_of (· ^^^ ·) (fun _ _ _ _ => rfl) fun _ _ => rfl,
      binOp_of (fun a b => BitVec.ofNat 64 (b2n (a.toInt < b.toInt))) (fun _ _ _ _ => rfl) fun a b => ?_,
      binOp_of (fun a b => BitVec.ofNat 64 (b2n (a.toNat < b.toNat))) (fun _ _ _ _ => rfl) fun a b => ?_,
      binOp_of (natOp (shiftBy 0 64)) (fun _ _ _ _ => rfl) natOp_shl, binOp_of (natOp (shiftBy 1 64)) (fun _ _ _ _ => rfl) natOp_shr,
      binOp_of (natOp (shiftBy 2 64)) (fun _ _ _ _ => rfl) natOp_sra, immOp_of fun _ _ _ _ => rfl, immOp_of fun _ _ _ _ => rfl,
      immOp_of fun _ _ _ _ => rfl, completes_regInstr .lui _ (fun _ => true) _ (fun n c w s => ?_) fun _ _ => rfl⟩,
    binOp_of (natOp (sdivW 64)) (fun _ _ _ _ => rfl) natOp_div, binOp_of (natOp (udivW 64)) (fun _ _ _ _ => rfl) natOp_divu,
    binOp_of (natOp (sremW 64)) (fun _ _ _ _ => rfl) natOp_rem⟩
  · simp only [ofNat_b2n, BitVec.slt, decide_eq_true_eq]
  · simp only [ofNat_b2n, BitVec.ult, decide_eq_true_eq]
  · rw [← lui_shift]
    rfl

/-! ## Branches and calls -/

theorem branchTo_eq (base : Nat) (off : Int) : branchTo base off = wordsFrom base off := rfl

theorem gW_cntInstr (i : Nat) (x : Word) (k : Core) : (k.gW i x).cntInstr = k.cntInstr := by
  unfold Core.gW
  split <;> rfl

/-- An instruction that sets the pc itself: its effect and the jump are one update of the core. -/
theorem coreInstr_goes {n c : Nat} {s : State} (h : CoreRuns s n c) (w : Word) {f : Core → Core} {target : Core → Nat}
    (hcount : ∀ k, (f k).cntInstr = k.cntInstr) (htarget : ∀ k, target (k.taking w) = target k) :
    coreInstr n c w true (modCore n c fun k => (f k).jump (target k)) s = .next (modCore n c (fun k => k.goes w f (target k)) s) := by
  rw [coreInstr_legal h rfl, modCore_modCore]
  refine congrArg (fun g => Host.Outcome.next (modCore n c g s)) (funext fun k => ?_)
  unfold Core.goes Core.jump
  dsimp only [Function.comp]
  rw [htarget, hcount]
  rfl

theorem branchOp_of {mk : Nat → Nat → Word → Instr} {p : Word → Word → Prop} [∀ a b, Decidable (p a b)] (q : Word → Word → Bool)
    (hexec : ∀ n c w s, exec (mk n c w) s = branchOp n c w q s) (hq : ∀ a b, q a b = true ↔ p a b) : BranchOp mk p := by
  intro n c w s h
  rw [hexec]
  unfold branchOp
  simp only [hq, branchTo_eq]
  exact coreInstr_goes h w (f := id) (fun _ => rfl) fun _ => rfl

/-- Settles O5: each row sets the pc by one jump, a branch by its comparison. That offsets count words of 8 bytes and that JALR clears the low
three bits of its target is the model's choice (log entry 21). -/
theorem branchesAndCalls : Obligations.BranchesAndCalls := by
  refine ⟨branchOp_of (· == ·) (fun _ _ _ _ => rfl) fun a b => beq_iff_eq, branchOp_of (· != ·) (fun _ _ _ _ => rfl) fun a b => bne_iff_ne,
    branchOp_of (fun a b => a.toInt < b.toInt) (fun _ _ _ _ => rfl) fun a b => ?_,
    branchOp_of (fun a b => b.toInt ≤ a.toInt) (fun _ _ _ _ => rfl) fun a b => ?_,
    branchOp_of (fun a b => a.toNat < b.toNat) (fun _ _ _ _ => rfl) fun a b => ?_,
    branchOp_of (fun a b => b.toNat ≤ a.toNat) (fun _ _ _ _ => rfl) fun a b => ?_, fun n c w s h => ?_, fun n c w s h => ?_⟩
  · simp [BitVec.slt]
  · simp [BitVec.slt]
  · simp [BitVec.ult]
  · simp [BitVec.ult]
  · exact coreInstr_goes h w (fun k => gW_cntInstr ..) fun _ => rfl
  · exact coreInstr_goes h w (fun k => gW_cntInstr ..) fun _ => rfl

end Sys2Proof.Machine
end

section
/-! Marionette cores (08): vector arithmetic (T8-3), selects, moves, reductions, predicate logic, and the segmented scan (R184). -/

namespace Sys2Proof.Machine

open Sys2Proof

/-! ## Vector arithmetic (08 T8-3) -/

/-- An arithmetic row works in the kind that fb names: a float format, or integers where the row has an integer operation. -/
theorem vecOp_of {mk : Nat → Nat → Word → Instr} (f : Fmt → Nat → Nat → Nat) (fi : Option (Nat → Nat → Nat → Nat))
    (hexec : ∀ n c w s, exec (mk n c w) s = vecArith n c w f fi s) : VecOp mk f fi := by
  refine ⟨fun t n c w s h hkind => ?_, fun g hg n c w s h hkind => ?_⟩
  · rw [hexec]
    unfold vecArith
    rw [hkind]
    exact regInstr_runs h w _
  · rw [hexec, hg]
    unfold vecArith
    rw [hkind]
    exact regInstr_runs h w _

theorem laneOp_of {mk : Nat → Nat → Word → Instr} {g : Nat → Nat → Nat → Nat} (f : Nat → Nat → Nat → Nat)
    (hexec : ∀ n c w s, exec (mk n c w) s = vecLogic n c w f s) (hf : ∀ e a b, f e a b = g e a b) : LaneOp mk g := by
  obtain rfl : f = g := funext fun e => funext fun a => funext (hf e a)
  exact completes_regInstr mk _ (fun _ => true) _ hexec fun _ _ => rfl

theorem sdivW_eq : sdivW = fun e a b => if b % 2 ^ e = 0 then 2 ^ e - 1 else wrapNat e (Int.tdiv (signed e a) (signed e b)) := by
  unfold sdivW
  simp only [beq_iff_eq]

/-- Settles O6: each row is one element-wise operation in its kind. -/
theorem vectorArithmeticResults : Obligations.VectorArithmeticResults := by
  refine ⟨vecOp_of _ _ fun _ _ _ _ => rfl, vecOp_of _ _ fun _ _ _ _ => rfl, vecOp_of _ _ fun _ _ _ _ => rfl,
    sdivW_eq ▸ vecOp_of Fmt.divB (some sdivW) fun _ _ _ _ => rfl, vecOp_of _ _ fun _ _ _ _ => rfl,
    vecOp_of _ (some (intMinMax false)) fun _ _ _ _ => rfl, vecOp_of _ (some (intMinMax true)) fun _ _ _ _ => rfl,
    vecOp_of _ _ fun _ _ _ _ => rfl,
    laneOp_of (fun _ a b => a &&& b) (fun _ _ _ _ => rfl) fun _ _ _ => rfl, laneOp_of (fun _ a b => a ||| b) (fun _ _ _ _ => rfl) fun _ _ _ => rfl,
    laneOp_of (fun _ a b => a ^^^ b) (fun _ _ _ _ => rfl) fun _ _ _ => rfl,
    laneOp_of (shiftBy 0) (fun _ _ _ _ => rfl) fun _ _ _ => rfl, laneOp_of (shiftBy 1) (fun _ _ _ _ => rfl) fun _ _ _ => rfl⟩

/-! ## Selects, moves and reductions -/

theorem execVreduce_completes (t : VKind) : Completes .vreduce (fun w => vkindOf w = some t ∧ fFa w < 3 ∧ fPg w = 0) (fun w k =>
    let x := match elems t.width (1024 / t.width) (k.vR (fA w)) with
      | [] => 0
      | y :: ys => ys.foldl (foldOp t (fFa w)) y
    k.gW (fGd w) (if t.width = 64 then BitVec.ofNat 64 x else widen t.width x)) := by
  intro n c w s h hw
  obtain ⟨hkind, hop, hpg⟩ := hw
  show execVreduce n c w s = _
  unfold execVreduce
  have hlegal : ((vkindOf w).isSome && decide (fFa w < 3) && fPg w == 0) = true := by simp [hkind, hop, hpg]
  rw [hlegal, hkind]
  simp only [beq_iff_eq]
  exact regInstr_runs h w _

/-- Settles O8: each row is one write of its destination; a reduction goes by the kind that fb names. The lane that VMOVG and VMOVV name and
the bits above a narrow result are free values (log entry 20); that fa names the operation of VREDUCE is the model's choice (log entry 21). -/
theorem selectsMovesAndReductions : Obligations.SelectsMovesAndReductions := by
  refine ⟨completes_regInstr .vsel _ (fun _ => true) _ (fun _ _ _ _ => rfl) fun _ _ => rfl,
    completes_regInstr .vperm _ (fun _ => true) _ (fun _ _ _ _ => rfl) fun _ _ => rfl,
    completes_regInstr .vbcast _ (fun _ => true) _ (fun _ _ _ _ => rfl) fun _ _ => rfl,
    completes_regInstr .vmovg _ (fun w => fPg w == 0) _ (fun n c w s => ?_) fun w h => by simpa using h,
    completes_regInstr .vmovv _ (fun w => fPg w == 0) _ (fun n c w s => ?_) fun w h => by simpa using h,
    execVreduce_completes, fun e xs i _ => elemAt_packElems e xs i⟩
  · show execVmovg n c w s = _
    unfold execVmovg
    simp only [beq_iff_eq]
    rfl
  · show execVmovv n c w s = _
    unfold execVmovv
    simp only [beq_iff_eq]
    rfl

/-! ## Predicates -/

theorem testBit_elemAt_one (x i : Nat) : x.testBit i = decide (elemAt x 1 i = 1) := by
  rw [Nat.testBit_eq_decide_div_mod_eq, elemAt, Nat.one_mul, Nat.shiftRight_eq_div_pow, Nat.pow_one]

/-- Bit `i` of a predicate made of bits. -/
theorem testBit_bitsNat (bs : List Bool) (i : Nat) : (bitsNat bs).testBit i = bs.getD i false := by
  have hget : (bs.map b2n).getD i 0 = b2n (bs.getD i false) := List.getD_map (f := b2n) (d := false) ..
  rw [testBit_elemAt_one, bitsNat, elemAt_packElems, hget]
  cases bs.getD i false <;> rfl

theorem predOp_of {mk : Nat → Nat → Word → Instr} (f : Bool → Bool → Bool) (hexec : ∀ n c w s, exec (mk n c w) s = predOp n c w f s) :
    PredOp mk f :=
  completes_regInstr mk _ (fun _ => true) _ hexec fun _ _ => rfl

theorem execVcmp_completes (t : VKind) : Completes .vcmp (fun w => vkindOf w = some t) (fun w k =>
    k.pW (fPd w) (bitsNat ((List.range (1024 / t.width)).map fun i =>
      if (k.pR (fPg w)).testBit i then Config.vcmp w (elemAt (k.vR (fA w)) t.width i) (elemAt (k.vR (fB w)) t.width i)
      else if fPz w then false else (k.pR (fPd w)).testBit i))) := by
  intro n c w s h hkind
  show execVcmp n c w s = _
  unfold execVcmp cmpWidth
  rw [hkind]
  exact regInstr_runs h w _

/-- Settles O9: each row is one write of a predicate or, for PCNT, of gd. The source predicates and the relation of VCMP are free values (log
entry 20). -/
theorem predicateLogicAndCompare : Obligations.PredicateLogicAndCompare :=
  ⟨predOp_of _ fun _ _ _ _ => rfl, predOp_of _ fun _ _ _ _ => rfl, predOp_of _ fun _ _ _ _ => rfl,
    completes_regInstr .pcnt _ (fun _ => true) _ (fun _ _ _ _ => rfl) fun _ _ => rfl, execVcmp_completes, testBit_bitsNat⟩

/-! ## Segmented scan (08 R184) -/

theorem segScan_length (op : Nat → Nat → Nat) (acc : Nat) (xs : List (Nat × Bool)) : (segScan op acc xs).1.length = xs.length := by
  induction xs generalizing acc with
  | nil => rfl
  | cons x xs ih => exact congrArg Nat.succ (ih _)

/-- Each element is the fold of its segment so far. -/
theorem segScan_getD (op : Nat → Nat → Nat) (acc : Nat) (xs : List (Nat × Bool)) {i : Nat} (hi : i < xs.length) :
    (segScan op acc xs).1.getD i 0 = if (xs.getD i (0, false)).2 then (xs.getD i (0, false)).1
      else op (if i = 0 then acc else (segScan op acc xs).1.getD (i - 1) 0) (xs.getD i (0, false)).1 := by
  induction xs generalizing acc i with
  | nil => exact absurd hi (Nat.not_lt_zero i)
  | cons x xs ih =>
    cases i with
    | zero => rfl
    | succ i =>
      have hrest := ih (if x.2 then x.1 else op acc x.1) (Nat.lt_of_succ_lt_succ hi)
      cases i with
      | zero => exact hrest
      | succ i => exact hrest

/-- The open segment is the last element, or the running value where there is none. -/
theorem segScan_open (op : Nat → Nat → Nat) (acc : Nat) (xs : List (Nat × Bool)) :
    (segScan op acc xs).2 = if xs.length = 0 then acc else (segScan op acc xs).1.getD (xs.length - 1) 0 := by
  induction xs generalizing acc with
  | nil => rfl
  | cons x xs ih =>
    have hrest := ih (if x.2 then x.1 else op acc x.1)
    cases xs with
    | nil => exact hrest
    | cons y ys => exact hrest

theorem elems_zipIdx (e m x : Nat) (f : Nat → Bool) :
    ((elems e m x).zipIdx.map fun (x, i) => (x, f i)) = (List.range m).map fun i => (elemAt x e i, f i) := by
  refine List.ext_getElem (by simp [elems]) fun i h _ => ?_
  simp [elems]

/-- What VSEGRED does of a kind. -/
def segred (t : VKind) (w : Word) (k : Core) : Core :=
  let m := 1024 / t.width
  let st := fun i => (k.pR (fPg w)).testBit i
  let r := segScan (foldOp t (fFa w)) ((k.gR (fGx w)).toNat % 2 ^ t.width) ((List.range m).map fun i => (elemAt (k.vR (fA w)) t.width i, st i))
  let k1 := (k.vW (fD w) (packElems t.width r.1)).gW (fGx w) (if t.width = 64 then BitVec.ofNat 64 r.2 else widen 32 r.2)
  if fPd w = 0 then k1 else k1.pW (fPd w) (bitsNat ((List.range m).map fun i => i = m - 1 || st (i + 1)))

theorem execVsegred_completes (t : VKind) : Completes .vsegred (fun w => segKind w = some t ∧ fFa w < 3) (segred t) := by
  intro n c w s h hw
  obtain ⟨hkind, hop⟩ := hw
  have hlegal : ((segKind w).isSome && decide (fFa w < 3)) = true := by simp [hkind, hop]
  show execVsegred n c w s = _
  unfold execVsegred
  rw [hlegal, hkind]
  simp only [elems_zipIdx, beq_iff_eq]
  exact regInstr_runs h w (segred t w)

/-- Settles O15: the row is the scan of its kind, and the scan is told element by element. -/
theorem scanCarriesTheOpenSegment : Obligations.ScanCarriesTheOpenSegment :=
  ⟨execVsegred_completes, fun op acc xs => ⟨segScan_length op acc xs, fun _ hi => segScan_getD op acc xs hi⟩, segScan_open⟩

end Sys2Proof.Machine
end

section
/-! Marionette cores (08): gather (R178). -/

namespace Sys2Proof.Machine

open Sys2Proof

/-! ## The active elements (08 R178) -/

theorem ixCount_eq (w : Word) : ixCount w = if fEw w = 64 then 16 else 32 := by
  unfold ixCount
  simp only [beq_iff_eq]

/-- Where no check fails, the active elements are those of the predicate, each at its checked address. -/
theorem ixAddrs_active {n c : Nat} {w : Word} {k : Core} {as : List (Nat × Nat)} (h : ixAddrs n c w k = .inr as) :
    as.map (·.1) = ((List.range (ixCount w)).filter fun i => (k.pR (fPg w)).testBit i) ∧
    ∀ p ∈ as, checkAddr n c (fFa w % 2 == 1) ((k.gR (fGx w)).toNat + elemAt (k.vR (fA w)) 32 p.1 * (fEw w / 8)) (fEw w / 8) (fEw w / 8) = .inr p.2 := by
  unfold ixAddrs at h
  dsimp only at h
  split at h
  · nomatch h
  next hpass =>
    cases h
    rw [List.findSome?_eq_none_iff] at hpass
    constructor
    · rw [List.map_filterMap, List.filterMap_map]
      refine (List.filterMap_congr fun i hi => ?_).trans List.filterMap_some
      have hi' := hpass _ (List.mem_map_of_mem hi)
      dsimp only [Function.comp] at hi' ⊢
      split at hi'
      · nomatch hi'
      next a ha => rw [ha]; rfl
    · intro p hp
      obtain ⟨⟨i, r⟩, hmem, hr⟩ := List.mem_filterMap.1 hp
      obtain ⟨j, -, hj⟩ := List.mem_map.1 hmem
      cases hj
      dsimp only at hr
      split at hr
      next a ha => cases hr; exact ha
      · nomatch hr

theorem active_lt {n c : Nat} {w : Word} {k : Core} {as : List (Nat × Nat)} (h : ixAddrs n c w k = .inr as) {p : Nat × Nat} (hp : p ∈ as) :
    p.1 < ixCount w := by
  have hmem := List.mem_map_of_mem (f := Prod.fst) hp
  rw [(ixAddrs_active h).1] at hmem
  exact List.mem_range.1 (List.mem_filter.1 hmem).1

theorem active_nodup {n c : Nat} {w : Word} {k : Core} {as : List (Nat × Nat)} (h : ixAddrs n c w k = .inr as) : (as.map (·.1)).Nodup := by
  rw [(ixAddrs_active h).1]
  exact List.nodup_range.filter _

/-! ## What a gather loads -/

/-- Reading the active elements gives the number of the bytes of each, and changes nothing. -/
theorem gatherGo_as {s : State} {ag : Agent} {sz : Nat} {as : List (Nat × Nat)} {bs : Nat × Nat → List Byte}
    (h : ∀ p ∈ as, ReadsAs s p.2 sz (bs p)) : gatherGo ag sz as s = (s, some (as.map fun p => (p.1, natOf (bs p)))) := by
  induction as with
  | nil => rfl
  | cons p as ih =>
    rw [List.forall_mem_cons] at h
    unfold gatherGo
    rw [readMem_as h.1]
    dsimp only
    rw [ih h.2]
    rfl

theorem natOf_lt (bs : List Byte) : natOf bs < 256 ^ bs.length := by
  induction bs with
  | nil => exact Nat.one_pos
  | cons b bs ih =>
    have hb := b.isLt
    rw [List.length_cons, Nat.pow_succ]
    unfold natOf
    omega

theorem fEw_bytes (w : Word) : fEw w = 8 * (fEw w / 8) := by unfold fEw; omega

/-- The indexed elements fit a vector register. -/
theorem ixCount_le (w : Word) : ixCount w ≤ 1024 / fEw w := by
  have h : field w 33 32 < 4 := Nat.mod_lt _ (by decide)
  rw [ixCount_eq]
  unfold fEw
  interval_cases field w 33 32 <;> decide

/-- Element `i` of the result of a gather that has read `r`. -/
def gathered (w : Word) (r : List (Nat × Nat)) (old i : Nat) : Nat :=
  match r.find? (·.1 == i) with
  | some (_, x) => x
  | none => if ixCount w ≤ i then elemAt old (fEw w) i else if fPz w then 0 else elemAt old (fEw w) i

/-- A vector register with the elements that a gather has read. -/
def gatherVec (w : Word) (r : List (Nat × Nat)) (old : Nat) : Nat :=
  packElems (fEw w) ((List.range (1024 / fEw w)).map (gathered w r old))

theorem elemAt_gatherVec {w : Word} {i : Nat} (hi : i < 1024 / fEw w) (r : List (Nat × Nat)) (old : Nat) :
    elemAt (gatherVec w r old) (fEw w) i = gathered w r old i % 2 ^ fEw w := by
  rw [gatherVec, elemAt_packElems, getD_map_range hi]

theorem find_fst {α : Type} {l : List (Nat × α)} (h : (l.map (·.1)).Nodup) {p : Nat × α} (hp : p ∈ l) : l.find? (·.1 == p.1) = some p := by
  induction l with
  | nil => nomatch hp
  | cons q l ih =>
    rw [List.map_cons, List.nodup_cons] at h
    rw [List.find?_cons]
    rcases List.mem_cons.1 hp with rfl | hp
    · simp
    · have hne : (q.1 == p.1) = false := by
        rw [beq_eq_false_iff_ne]
        exact fun heq => h.1 (heq ▸ List.mem_map_of_mem (f := Prod.fst) hp)
      rw [hne]
      exact ih h.2 hp

theorem find_fst_none {α : Type} {l : List (Nat × α)} {i : Nat} (h : ∀ p ∈ l, p.1 ≠ i) : l.find? (·.1 == i) = none := by
  rw [List.find?_eq_none]
  exact fun p hp => by simpa using h p hp

/-- A gather whose active elements can be read writes vd with what it has read. -/
theorem execVgather_loads {n c : Nat} {w : Word} {s : State} {as : List (Nat × Nat)} {bs : Nat × Nat → List Byte} (h : CoreRuns s n c)
    (hlanes : Lanes n c w s as) (hreads : ∀ p ∈ as, ReadsAs s p.2 (fEw w / 8) (bs p)) :
    execVgather n c w s = .next (classed (modCore n c (Core.after w fun k =>
      k.vW (fD w) (gatherVec w (as.map fun p => (p.1, natOf (bs p))) (k.vR (fD w)))) s)) := by
  unfold execVgather
  rw [coreInstr_legal h rfl]
  dsimp only
  rw [ixAddrs_of_lanes h.1.1 hlanes]
  dsimp only
  rw [gatherGo_as fun p hp => readsAs_modCore (hreads p hp)]
  dsimp only
  exact congrArg (fun t => Host.Outcome.next (classed t)) (core_next n c w _ s)

/-- An update counts by what it does to the one core it is applied to. -/
theorem modCore_congr {n c : Nat} {f g : Core → Core} {s : State} (h : f (coreOf s n c) = g (coreOf s n c)) :
    modCore n c f s = modCore n c g s := by
  unfold modCore modThl
  refine congrArg (fun l => { s with thl := l }) (modify_congr_getD (d := {}) ?_)
  exact congrArg (fun l => { thlOf s n with core := l }) (modify_congr_getD (d := {}) h)

/-- Settles O17: the active elements by their checks, the loaded register by what the reads find of each element. -/
theorem gatherLoadsActiveLanes : Obligations.GatherLoadsActiveLanes := by
  refine ⟨fun n c w k as h => ?_, fun n c w s as bs h hlanes hreads => ?_⟩
  · rw [← ixCount_eq]
    exact ixAddrs_active h
  · refine ⟨gatherVec w (as.map fun p => (p.1, natOf (bs p))) ((coreOf s n c).vR (fD w)), ?_, fun p hp => ?_, fun i hi hout => ?_⟩
    · refine (execVgather_loads h hlanes hreads).trans ?_
      rw [modCore_congr]
      rfl
    · have hlt : natOf (bs p) < 2 ^ fEw w := by
        calc natOf (bs p) < 256 ^ (fEw w / 8) := (hreads p hp).1 ▸ natOf_lt (bs p)
          _ = 2 ^ fEw w := by rw [show 256 = 2 ^ 8 from rfl, ← Nat.pow_mul, ← fEw_bytes]
      have hfind := find_fst (l := as.map fun p => (p.1, natOf (bs p))) (by rw [List.map_map]; exact active_nodup hlanes)
        (List.mem_map_of_mem hp)
      rw [elemAt_gatherVec ((active_lt hlanes hp).trans_le (ixCount_le w)), gathered, hfind]
      exact Nat.mod_eq_of_lt hlt
    · have hfind := find_fst_none (l := as.map fun p => (p.1, natOf (bs p))) (i := i) fun q hq => by
        obtain ⟨p, hp, rfl⟩ := List.mem_map.1 hq
        exact hout p hp
      rw [elemAt_gatherVec hi, gathered, hfind, ← ixCount_eq]
      by_cases hix : ixCount w ≤ i
      · simp [hix, elemAt_mod]
      · by_cases hz : fPz w <;> simp [hix, hz, elemAt_mod]

end Sys2Proof.Machine
end

section
/-! Streams (06): DMA and MRUN (T6-2), and ISSUE with its checks (04 R74). -/

namespace Sys2Proof.Machine

open Sys2Proof

/-! ## What a stream's update leaves -/

/-- An update of a thallus that says nothing of its streams commutes with one of a stream. -/
theorem modThl_modStrm {n q : Nat} {f : Thallus → Thallus} {g : Stream → Stream} {s : State}
    (hf : ∀ t, f { t with strm := t.strm.modify q g } = { f t with strm := (f t).strm.modify q g } := by exact fun _ => rfl) :
    modThl n f (modStrm n q g s) = modStrm n q g (modThl n f s) := by
  unfold modStrm
  rw [modThl_modThl, modThl_modThl]
  exact congrArg (fun h => modThl n h s) (funext hf)

theorem dmaOf_modStrm (n q : Nat) (f : Stream → Stream) (s : State) (m ch : Nat) : dmaOf (modStrm n q f s) m ch = dmaOf s m ch :=
  thlOf_modThl_any n _ s m (fun t => t.dma.getD ch []) fun _ => rfl

theorem runs_modStrm (n q : Nat) (f : Stream → Stream) (s : State) (m : Nat) : (thlOf (modStrm n q f s) m).runs = (thlOf s m).runs :=
  thlOf_modThl_any n _ s m (·.runs) fun _ => rfl

theorem coreOf_modStrm (n q : Nat) (f : Stream → Stream) (s : State) (m c : Nat) : coreOf (modStrm n q f s) m c = coreOf s m c :=
  thlOf_modThl_any n _ s m (fun t => t.core.getD c {}) fun _ => rfl

theorem engOf_modStrm (n q : Nat) (f : Stream → Stream) (s : State) (m e : Nat) : engOf (modStrm n q f s) m e = engOf s m e :=
  thlOf_modThl_any n _ s m (fun t => t.eng.getD e {}) fun _ => rfl

theorem odtBase_modStrm (n q : Nat) (f : Stream → Stream) (s : State) (m : Nat) :
    (thlOf (modStrm n q f s) m).odtBase = (thlOf s m).odtBase :=
  thlOf_modThl_any n _ s m (·.odtBase) fun _ => rfl

/-! ## DMA (07 R156) -/

theorem execDma_queues {n q : Nat} {w0 w1 : Word} {s : State} (h : StrmRuns s n q 2) (hq : q < 3) (hroom : (dmaOf s n q).length < 16) :
    execDma n q w0 w1 s = .next (modStrm n q (Stream.after 2 w0) (modDma n q (fun x => x ++ [{ addr := field w1 43 0 }]) s)) := by
  refine strmInstr_body h (strm_lt_three hq) ?_ ((strmModes_modStrm n q _ _).trans (strmModes_modThl n _ s))
  rw [dmaOf_modStrm, if_neg (Nat.not_le.2 hroom), modDma, modThl_modStrm, strmNext_taking]
  rfl

/-- A full channel queue holds the stream. -/
theorem execDma_held {n q : Nat} {w0 : Word} {s : State} (h : StrmRuns s n q 2) (hq : q < 3) (hfull : 16 ≤ (dmaOf s n q).length) (w1 : Word) :
    execDma n q w0 w1 s = .next (modStrm n q (fun k => { k.taking w0 with state := .held, why := .bound }) s) := by
  refine strmInstr_body h (strm_lt_three hq) ?_ (strmModes_modStrm n q _ s)
  rw [dmaOf_modStrm, if_pos hfull]
  exact modStrm_modStrm n q _ _ s

/-! ## MRUN (08 R168) -/

/-- No core of the mask is in a run or at work. -/
theorem coresBusy_free {n mask : Nat} {s : State} (hruns : ∀ r ∈ (thlOf s n).runs, (r.mask &&& ~~~r.ended).toNat &&& mask = 0)
    (hidle : ∀ c < 8, Nat.testBit mask c = true → (coreOf s n c).state = .idle) : coresBusy s n mask = false := by
  have h1 : ((thlOf s n).runs.any fun r => (r.mask &&& ~~~r.ended).toNat &&& mask != 0) = false := by
    rw [List.any_eq_false]
    exact fun r hr => by rw [hruns r hr]; decide
  have h2 : ((List.range 8).any fun c => Nat.testBit mask c && (coreOf s n c).state != .idle) = false := by
    rw [List.any_eq_false]
    intro c hc
    cases hbit : Nat.testBit mask c with
    | false => simp
    | true => rw [hidle c (List.mem_range.1 hc) hbit]; decide
  unfold coresBusy
  rw [h1, h2]
  rfl

theorem coresBusy_modStrm (n q : Nat) (f : Stream → Stream) (s : State) (m mask : Nat) :
    coresBusy (modStrm n q f s) m mask = coresBusy s m mask := by
  unfold coresBusy
  simp only [runs_modStrm, coreOf_modStrm]

/-- A thallus whose cores of a mask start the run `r`. -/
def Thallus.runStarts (n mask arg entry step : Nat) (r : Run) (h : Thallus) : Thallus := { h with
  runs := h.runs ++ [r]
  core := h.core.zipIdx.map fun (k, c) => if Nat.testBit mask c then k.start n c mask arg entry step else k }

theorem execMrun_starts {n q : Nat} {w0 : Word} {s : State} (h : StrmRuns s n q 2) (hq : q < 3) (hmask : field w0 15 8 ≠ 0)
    (hruns : ∀ r ∈ (thlOf s n).runs, (r.mask &&& ~~~r.ended).toNat &&& field w0 15 8 = 0)
    (hidle : ∀ c < 8, Nat.testBit (field w0 15 8) c = true → (coreOf s n c).state = .idle) (w1 : Word) :
    execMrun n q w0 w1 s = .next (modStrm n q (Stream.after 2 w0) (modThl n (Thallus.runStarts n (field w0 15 8) (field w0 63 32)
      (field w1 43 3 * 8) s.cmt.step.toNat { mask := BitVec.ofNat 8 (field w0 15 8), peg := field w0 21 16, stream := q }) s)) := by
  refine strmInstr_body h (strm_lt_three hq) ?_ ((strmModes_modStrm n q _ _).trans (strmModes_modThl n _ s))
  dsimp only
  rw [if_neg (by simpa using hmask), coresBusy_modStrm, coresBusy_free hruns hidle, if_neg Bool.false_ne_true, modThl_modStrm, strmNext_taking]
  rfl

/-- A run of no core halts its stream. -/
theorem execMrun_halts {n q : Nat} {w0 : Word} {s : State} (h : StrmRuns s n q 2) (hq : q < 3) (hmask : field w0 15 8 = 0) (w1 : Word) :
    ∃ t, execMrun n q w0 w1 s = .next t ∧ StrmHalts n 0 q 0x30 w0 (Stream.taking w0) s t :=
  strmInstr_halts h (strm_lt_three hq) (if_pos (by rw [hmask]; rfl))

/-! ## ISSUE (04 R74, R76) -/

/-- An ISSUE past the pass breakpoints is its body. -/
theorem execIssue_body {n q : Nat} {w0 : Word} {p : PassWord} {s t : State} (h : StrmRuns s n q 5) (hq : q < 3) (hop : field w0 7 0 = 1)
    (hbp : (strmOf s n q).dbg.skipBp = true ∨ (strmOf s n q).state = .held ∨ pbpAt s n p = none)
    (hbody : issueBody n q w0 p (modStrm n q (Stream.taking w0) s) = t) (hmode : strmModes t = strmModes s) :
    execIssue n q w0 p s = .next t := by
  refine strmInstr_body h (strm_lt_three hq) ?_ hmode
  have hnone : (if ((strmOf s n q).dbg.skipBp || (strmOf s n q).state == .held) = true then none
      else pbpAt (modStrm n q (Stream.taking w0) s) n p) = none := by
    obtain hbp | hbp | hbp := hbp
    · simp [hbp]
    · simp [hbp]
    · rw [show pbpAt (modStrm n q (Stream.taking w0) s) n p = none from hbp]
      exact ite_self none
  rw [hop, hnone]
  exact hbody

/-- What ISSUE needs before its checks: room in the queue, a layer of the job, a descriptor that can be read. -/
structure IssueReady (n q : Nat) (w0 : Word) (p : PassWord) (bs : List Byte) (s : State) : Prop where
  room : ((engOf s n (field w0 9 8)).passes.filter fun x => x.stage == .queued).length < 16
  layer : usesLayer p = true → p.layer < nLayers s
  desc : ReadsAs s (storeBase + 0x1000000 * n + 0x4000 * (thlOf s n).odtBase.toNat + p.odesc * 64) 64 bs

/-- With what it needs, ISSUE goes by its checks. -/
theorem issueBody_checks {n q : Nat} {w0 : Word} {p : PassWord} {bs : List Byte} {s : State} (h : IssueReady n q w0 p bs s) :
    issueBody n q w0 p (modStrm n q (Stream.taking w0) s) = match issueCause s p (wordsOf bs) with
      | some c => haltAt n (field w0 9 8) q c p.w0 (modStrm n q (Stream.taking w0) s)
      | none => acceptPass n (field w0 9 8) q p (wordsOf bs) false (modStrm n q (Stream.taking w0) s) := by
  have hlayer : (usesLayer p && decide (nLayers (modStrm n q (Stream.taking w0) s) ≤ p.layer)) = false := by
    cases huses : usesLayer p with
    | false => rfl
    | true => exact decide_eq_false (Nat.not_le.2 (h.layer huses))
  unfold issueBody
  dsimp only
  rw [engOf_modStrm, if_neg (show ¬ 16 ≤ queued (engOf s n (field w0 9 8)) from Nat.not_le.2 h.room), hlayer, if_neg Bool.false_ne_true,
    odtBase_modStrm, readMem_as (readsAs_modStrm h.desc)]
  rfl

/-- The engine takes the pass word and the stream goes on, outside a debug step. -/
theorem acceptPass_taking {n q : Nat} {s : State} (h : hasStrm s n q = true) (hmode : (strmOf s n q).dbg.mode ≠ 3) (m : Nat) (w0 : Word)
    (p : PassWord) (d : List Word) : acceptPass n m q p d false (modStrm n q (Stream.taking w0) s) =
      modStrm n q (Stream.after 5 w0) (modEng n m (fun e => { e with
        passes := e.passes ++ [{ pw := p, desc := d, issueAddr := (strmOf s n q).pc, stream := q }] }) s) := by
  have hstep : ((strmOf (modStrm n q (Stream.taking w0) s) n q).dbg.mode == 3) = false := by
    rw [strmOf_modStrm h]
    exact beq_eq_false_iff_ne.2 hmode
  unfold acceptPass
  dsimp only
  rw [hstep]
  simp only [Bool.or_false, Bool.false_eq_true, if_false]
  rw [strmOf_modStrm h, modEng, modThl_modStrm, show (fun k : Stream => k) = id from rfl, modStrm_id, strmNext_taking]
  rfl

theorem execIssue_accepts {n q : Nat} {w0 : Word} {p : PassWord} {bs : List Byte} {s : State} (h : StrmRuns s n q 5) (hq : q < 3)
    (hop : field w0 7 0 = 1) (hbp : (strmOf s n q).dbg.skipBp = true ∨ (strmOf s n q).state = .held ∨ pbpAt s n p = none)
    (hready : IssueReady n q w0 p bs s) (hcause : issueCause s p (wordsOf bs) = none) :
    execIssue n q w0 p s = .next (modStrm n q (Stream.after 5 w0) (modEng n (field w0 9 8) (fun e => { e with
      passes := e.passes ++ [{ pw := p, desc := wordsOf bs, issueAddr := (strmOf s n q).pc, stream := q }] }) s)) := by
  refine execIssue_body h hq hop hbp ?_ ((strmModes_modStrm n q _ _).trans (strmModes_modThl n _ s))
  rw [issueBody_checks hready, hcause]
  exact acceptPass_taking h.1.1 h.1.2.2.1 _ w0 p _

/-- A check that fails halts the stream with its cause. -/
theorem execIssue_halts {n q c : Nat} {w0 : Word} {p : PassWord} {bs : List Byte} {s : State} (h : StrmRuns s n q 5) (hq : q < 3)
    (hop : field w0 7 0 = 1) (hbp : (strmOf s n q).dbg.skipBp = true ∨ (strmOf s n q).state = .held ∨ pbpAt s n p = none)
    (hready : IssueReady n q w0 p bs s) (hcause : issueCause s p (wordsOf bs) = some c) :
    ∃ t, execIssue n q w0 p s = .next t ∧ StrmHalts n (field w0 9 8) q c p.w0 (Stream.taking w0) s t := by
  refine ⟨_, execIssue_body h hq hop hbp ?_ ((haltAt_modes n (field w0 9 8) q c p.w0 _).trans (strmModes_modStrm n q (Stream.taking w0) s)),
    strmHalts_haltAt h.1.1 _ c p.w0 fun _ => rfl⟩
  rw [issueBody_checks hready, hcause]

/-- Settles O26: each row by its own lemma; ISSUE, with what it needs, by the outcome of its checks. -/
theorem streamsStartWork : Obligations.StreamsStartWork := by
  refine ⟨fun n q w0 w1 s h hq => ⟨execDma_queues h hq, fun hfull => execDma_held h hq hfull w1⟩,
    fun n q w0 w1 s h hq => ⟨fun hmask hruns hidle => execMrun_starts h hq hmask hruns hidle w1, fun hmask => execMrun_halts h hq hmask w1⟩,
    fun n m q w0 p s h hq hop hm hbp hroom hlayer bs hreads hcause => ?_,
    fun n m q w0 p c s h hq hop hm hbp hroom hlayer bs hreads hcause => ?_⟩
  · subst hm
    exact execIssue_accepts h hq hop hbp ⟨hroom, hlayer, hreads⟩ hcause
  · subst hm
    exact execIssue_halts h hq hop hbp ⟨hroom, hlayer, hreads⟩ hcause

end Sys2Proof.Machine
end

section
/-! Streams (06): LSET (R144), the optimiser update UPD and its end (R141 to R143). -/

namespace Sys2Proof.Machine

open Sys2Proof

/-! ## LSET (06 R144) -/

theorem bytesOf_natOf (bs : List Byte) : bytesOf bs.length (natOf bs) = bs := by
  induction bs with
  | nil => rfl
  | cons b bs ih =>
    have hb := b.isLt
    have hhead : BitVec.ofNat 8 (b.toNat + 256 * natOf bs) = b := BitVec.eq_of_toNat_eq (by rw [BitVec.toNat_ofNat]; omega)
    have hrest : (b.toNat + 256 * natOf bs) / 256 = natOf bs := by omega
    rw [List.length_cons, bytesOf, natOf, hhead, hrest, ih]

/-- A value read as four bytes is stored as those bytes. -/
theorem bytesOf_four {bs : List Byte} (h : bs.length = 4) : bytesOf 4 (BitVec.ofNat 32 (natOf bs)).toNat = bs := by
  have hlt : natOf bs < 2 ^ 32 := (natOf_lt bs).trans_eq (by rw [h]; rfl)
  rw [BitVec.toNat_ofNat, Nat.mod_eq_of_lt hlt, ← h, bytesOf_natOf]

theorem execLset_stores {n : Nat} {w0 w1 : Word} {s : State} {bs : List Byte} (h : StrmRuns s n 2 2) (hl : field w0 19 8 < nLayers s)
    (hreads : ReadsAs s (field w1 43 0) 4 bs) (hplain : Plain s (nextState s (field w0 19 8) (field w0 20 20) + 16) 4) :
    execLset n 2 w0 w1 s = .next (modStrm n 2 (Stream.after 2 w0)
      (withBytes (Sparse.sets s.mem.bytes (nextState s (field w0 19 8) (field w0 20 20) + 16) bs) s)) := by
  refine strmInstr_body h rfl ?_ (strmModes_modStrm n 2 _ _)
  have hlayer : ¬ nLayers (modStrm n 2 (Stream.taking w0) s) ≤ field w0 19 8 := Nat.not_le.2 hl
  have hread (ag : Agent) : read32 ag (field w1 43 0) (modStrm n 2 (Stream.taking w0) s) =
      (modStrm n 2 (Stream.taking w0) s, some (BitVec.ofNat 32 (natOf bs))) := by
    unfold read32
    rw [readMem_as (readsAs_modStrm hreads)]
  have hstore : writeMem .unit (nextState s (field w0 19 8) (field w0 20 20) + 16) bs (modStrm n 2 (Stream.taking w0) s) =
      modStrm n 2 (Stream.taking w0) (withBytes (Sparse.sets s.mem.bytes (nextState s (field w0 19 8) (field w0 20 20) + 16) bs) s) :=
    writeMem_plain (plain_modThl (hreads.1.symm ▸ hplain))
  dsimp only
  rw [if_neg hlayer, hread]
  dsimp only
  rw [bytesOf_four hreads.1]
  exact (congrArg (strmNext n 2 2) hstore).trans (strmNext_taking n 2 2 w0 _)

/-! ## What UPD leaves of the debug modes -/

theorem readList_thl (ag : Agent) (rs : List (Nat × Nat)) (s : State) : (readList ag rs s).1.thl = s.thl := by
  induction rs generalizing s with
  | nil => rfl
  | cons r rs ih =>
    have hread := thl_of_around (around_readMem ag r.1 r.2 s)
    unfold readList
    split
    next s1 h => rw [h] at hread; exact hread
    next s1 bs h =>
      rw [h] at hread
      have hrest := (ih s1).trans hread
      split
      next s2 bss h2 => rw [h2] at hrest; exact hrest
      next s2 e h2 => rw [h2] at hrest; exact hrest

theorem readBlocks_thl (ag : Agent) (d : List Word) (bs : List Nat) (s : State) : (readBlocks ag d bs s).1.thl = s.thl := by
  induction bs generalizing s with
  | nil => rfl
  | cons b bs ih =>
    have hread := readList_thl ag (blockReads d b) s
    unfold readBlocks
    split
    next s1 e h => rw [h] at hread; exact hread
    next s1 bss h =>
      rw [h] at hread
      have hrest := (ih s1).trans hread
      split
      next s2 xs h2 => rw [h2] at hrest; exact hrest
      next s2 e h2 => rw [h2] at hrest; exact hrest

theorem haltMem_modes (n q : Nat) (hbm : Bool) (s : State) : strmModes (haltMem n q hbm s) = strmModes s :=
  (settle_modes _).trans (strmModes_modStrm n q _ s)

theorem strmNext_modes (n q words : Nat) (s : State) : strmModes (strmNext n q words s) = strmModes s := strmModes_modStrm n q _ s

theorem strmModes_foldl {α : Type} {f : State → α → State} (hf : ∀ s x, strmModes (f s x) = strmModes s) (xs : List α) (s : State) :
    strmModes (xs.foldl f s) = strmModes s := by
  induction xs generalizing s with
  | nil => rfl
  | cons x xs ih => rw [List.foldl_cons, ih, hf]

theorem writeMem_modes (ag : Agent) (a : Nat) (bs : List Byte) (s : State) : strmModes (writeMem ag a bs s) = strmModes s :=
  strmModes_of_thl (thl_of_around (around_writeMem ag a bs s))

theorem writeBlock_modes (n q c : Nat) (w0 : Word) (x : List (Nat × List Byte) × CFlags) (s : State) :
    strmModes (writeBlock n q c w0 x s) = strmModes s := by
  have hstores := strmModes_foldl (f := fun t (a, bs) => writeMem (.core n c q 0 w0) (a + aliasSpan) bs t)
    (fun t y => writeMem_modes _ _ _ t) x.1 s
  exact (strmModes_modThl n _ _).trans hstores

theorem strmModes_nonce (k : Nat) (s : State) : strmModes { s with nonce := k } = strmModes s := rfl

theorem updWrites_modes (n q mask : Nat) (w0 : Word) (d u : List Word) (p : UpdPar) (xs : List UpdIn) (s : State) :
    strmModes (updWrites n q mask w0 d u p xs s) = strmModes s := by
  have hblocks := strmModes_foldl (f := fun t (x, b) => writeBlock n q (updCoreOf s mask b) w0 (updBlock d p b x) t)
    (fun t y => writeBlock_modes n q _ w0 _ t) xs.zipIdx s
  unfold updWrites
  dsimp only
  rw [strmModes_nonce, writeMem_modes]
  exact hblocks

theorem updBody_modes (n q mask : Nat) (w0 w1 : Word) (s : State) : strmModes (updBody n q mask w0 w1 s) = strmModes s := by
  have hlist {ag : Agent} {rs : List (Nat × Nat)} {s t : State} {x : Except Bool (List (List Byte))} (h : readList ag rs s = (t, x)) :
      strmModes t = strmModes s := by
    have := readList_thl ag rs s
    rw [h] at this
    exact strmModes_of_thl this
  have hblocks {ag : Agent} {d : List Word} {bs : List Nat} {s t : State} {x : Except Bool (List UpdIn)} (h : readBlocks ag d bs s = (t, x)) :
      strmModes t = strmModes s := by
    have := readBlocks_thl ag d bs s
    rw [h] at this
    exact strmModes_of_thl this
  unfold updBody
  dsimp only
  split
  next s1 e h1 => exact (haltMem_modes ..).trans (hlist h1)
  next s1 ds h1 =>
  refine Eq.trans ?_ (hlist h1)
  split
  · exact haltAt_modes ..
  split
  next s2 e h2 => exact (haltMem_modes ..).trans (hlist h2)
  next s2 us h2 =>
  refine Eq.trans ?_ (hlist h2)
  split
  · exact haltAt_modes ..
  split
  · exact (classed_modes _).trans ((postPeg_modes ..).trans (strmNext_modes ..))
  split
  next s3 e h3 => exact (haltMem_modes ..).trans (hlist h3)
  next s3 es h3 =>
  refine Eq.trans ?_ (hlist h3)
  split
  next s4 e h4 => exact (haltMem_modes ..).trans (hblocks h4)
  next s4 xs h4 =>
    exact (classed_modes _).trans ((strmNext_modes ..).trans ((updWrites_modes ..).trans ((strmModes_modThl n _ _).trans (hblocks h4))))

/-! ## UPD (06 R141, R142) -/

/-- Where no core of the mask is busy, UPD is its body. -/
theorem execUpd_body {n : Nat} {w0 : Word} {s : State} (h : StrmRuns s n 2 2) (hmask : field w0 15 8 ≠ 0)
    (hruns : ∀ r ∈ (thlOf s n).runs, (r.mask &&& ~~~r.ended).toNat &&& field w0 15 8 = 0)
    (hidle : ∀ c < 8, Nat.testBit (field w0 15 8) c = true → (coreOf s n c).state = .idle) (w1 : Word) :
    execUpd n 2 w0 w1 s = .next (updBody n 2 (field w0 15 8) w0 w1 (modStrm n 2 (Stream.taking w0) s)) := by
  refine strmInstr_body h rfl ?_ ((updBody_modes ..).trans (strmModes_modStrm n 2 _ s))
  dsimp only
  rw [if_neg (by simpa using hmask), coresBusy_modStrm, coresBusy_free hruns hidle, if_neg Bool.false_ne_true]

theorem readList_one {s : State} {a n : Nat} {bs : List Byte} (h : ReadsAs s a n bs) (ag : Agent) :
    readList ag [(a, n)] s = (s, .ok [bs]) := by
  unfold readList
  rw [readMem_as h]
  rfl

/-- A bad descriptor halts the stream. -/
theorem updBody_badDesc {s : State} {w1 : Word} {ds : List Byte} (hreads : ReadsAs s (field w1 43 0) 128 ds) (hbad : descOk (wordsOf ds) = false)
    (n q mask : Nat) (w0 : Word) : updBody n q mask w0 w1 s = haltAt n 0 q 0x37 w0 s := by
  unfold updBody
  dsimp only
  rw [readList_one hreads]
  dsimp only
  rw [show wordsOf (List.getD [ds] 0 []) = wordsOf ds from rfl, hbad]
  rfl

/-- A good descriptor and parameter block whose inputs can all be read: the results are written and the run starts. -/
theorem updBody_runs {n q : Nat} {s : State} {w1 : Word} {ds us es : List Byte} {xs : List UpdIn}
    (hds : ReadsAs s (field w1 43 0) 128 ds) (hdesc : descOk (wordsOf ds) = true) (hus : ReadsAs s (udAddr (wordsOf ds) 12) 64 us)
    (hpar : upbOk (wordsOf us) = true) (hblk : udNBlk (wordsOf ds) ≠ 0)
    (hes : ReadsAs s (field (wordAt (wordsOf us) 1) 43 0 +
      16 * min (field (wordAt (wordsOf us) 0) 31 0) (field (wordAt (wordsOf us) 0) 63 32 - 1)) 16 es)
    (hxs : readBlocks (strmAgent s n q) (wordsOf ds) (List.range (udNBlk (wordsOf ds))) s = (s, .ok xs)) (mask : Nat) (w0 : Word) :
    updBody n q mask w0 w1 s = classed (strmNext n q 2 (updWrites n q mask w0 (wordsOf ds) (wordsOf us) (updPar (wordsOf us) (wordsOf es)) xs
      (modThl n (Thallus.runStarts n mask Config.updArg (Config.updEntry / 8 * 8 % 2 ^ 44) s.cmt.step.toNat
        { mask := BitVec.ofNat 8 mask, peg := field w0 21 16, stream := q, isUpd := true }) s))) := by
  unfold updBody
  dsimp only
  rw [readList_one hds]
  dsimp only
  rw [show wordsOf (List.getD [ds] 0 []) = wordsOf ds from rfl, hdesc, readList_one hus]
  dsimp only
  rw [show wordsOf (List.getD [us] 0 []) = wordsOf us from rfl, hpar, if_neg (by simp), if_neg (by simp), if_neg (by simpa using hblk),
    readList_one hes]
  dsimp only
  rw [hxs]
  rfl

/-! ## UPD_COMPLETE (06 R143) -/

/-- The end of an update frees its cores and posts its peg. -/
theorem execUpdComplete_ends {n k : Nat} {s : State} (hthl : hasThl s n = true) (hk : k < (thlOf s n).runs.length)
    (hupd : ((thlOf s n).runs.getD k {}).isUpd = true)
    (hquiet : ∀ c < 8, ((thlOf s n).runs.getD k {}).mask.getLsbD c = true → (coreOf s n c).dbg.mode ≠ 2) :
    let r := (thlOf s n).runs.getD k {}
    execUpdComplete n k s = .next (settle (postPeg n r.peg 1 3 3 0 (modThl n (fun h => { h with
      runs := h.runs.eraseIdx k
      core := h.core.zipIdx.map fun (x, c) => if r.mask.getLsbD c then { x with state := .idle } else x }) s))) := by
  have hready : ((List.range 8).all fun c => !((thlOf s n).runs.getD k {}).mask.getLsbD c || !(coreOf s n c).dbg.halted) = true := by
    rw [List.all_eq_true]
    intro c hc
    cases hbit : ((thlOf s n).runs.getD k {}).mask.getLsbD c with
    | false => rfl
    | true => rw [halted_of_mode (hquiet c (List.mem_range.1 hc) hbit)]; rfl
  unfold execUpdComplete endRun
  dsimp only
  rw [hready, hupd, decide_eq_true hk, modThl_modThl, thlOf_modThl hthl, if_pos rfl]
  exact need_next hthl rfl _

/-- Settles O29: each row by its own lemma, an update by the outcome of its checks. That the cores' registers are those of a run start is the
model's choice (log entries 24 and 49). -/
theorem learnedScalesAndUpdates : Obligations.LearnedScalesAndUpdates := by
  refine ⟨fun n w0 w1 s bs h hl hreads hplain => execLset_stores h hl hreads hplain,
    fun n w0 w1 s h hmask hruns hidle => execUpd_body h hmask hruns hidle w1,
    fun n q mask w0 w1 s bs hreads hbad => updBody_badDesc hreads hbad n q mask w0,
    fun n q mask w0 w1 s d u xs ds us es hds hd hdesc hus hu hpar hblk => ?_,
    fun n k s => fun hthl hk hupd hquiet => execUpdComplete_ends hthl hk hupd hquiet⟩
  subst hd hu
  exact fun hes hxs => updBody_runs hds hdesc hus hpar hblk hes hxs mask w0

end Sys2Proof.Machine
end

section
/-! What a drain writes into accumulator memory (03 R53, R56, R59, R68; 04 R78). -/

namespace Sys2Proof.Machine

open Sys2Proof

/-! ## One lane (03 R53, R59, R68) -/

theorem laneElems_plain {c : Nat} (h : groupOf c ≠ some 0) (k lane : Nat) : laneElems c k lane = List.range (elemCount c k) := by
  unfold laneElems
  rw [if_neg (by simpa using h)]

/-- A dot product of a lane accumulates its products in order. -/
theorem floatLane_dot {p : PassWord} {a : Operand} (hop : p.srOp = 0) (hfmt : a.fmt ≠ 0x15) (hgrp : p.grouping ≠ 5) (b : Operand) (r c : Nat)
    (is : List Nat) : floatLane p a b r c is = is.foldl (fun t i => laneAdd none t ((a.val r i).mul (b.val c i))) (.fin true 0 0) := by
  unfold floatLane
  simp only [hop, beq_iff_eq, hfmt, hgrp, if_false]
  rfl

theorem drainFloat_dot {p : PassWord} (hop : p.srOp = 0) (hgrp : p.grouping ≠ 5) (x : Fp) (stored : Nat) :
    drainFloat p x stored = fp32.enc .rna (if p.accIn then x.add (fp32.decode stored) else x) := by
  unfold drainFloat
  simp only [hop, beq_iff_eq, hgrp, if_false]
  rfl

/-- A dot-product position outside FP64 and split mode. -/
theorem drainAt_dot {p : PassWord} {a : Operand} (hint : intResult p = false) (hop : p.srOp = 0) (hfmt : a.fmt ≠ 0x15) (h0 : p.grouping ≠ 0)
    (h5 : p.grouping ≠ 5) (hsplit : groupOf p.aFmt ≠ some 0) (b : Operand) (acc : Sparse 32) (r c : Nat) :
    let x := (List.range (elemCount p.aFmt p.k)).foldl (fun t i => laneAdd none t ((a.val r i).mul (b.val c i))) (.fin true 0 0)
    let at0 := accBase p + r * tileSide p.grouping + c
    drainAt p a b acc r c = ⟨[(at0, BitVec.ofNat 32 (fp32.enc .rna
      (if p.accIn then x.add (fp32.decode (Sparse.get acc at0).toNat) else x)))], 0, 0⟩ := by
  unfold drainAt
  dsimp only
  rw [hint, if_neg Bool.false_ne_true, if_neg (by simpa using h5), if_neg (by simpa using h0), drainFloat_dot hop h5, floatLane_dot hop hfmt h5,
    laneElems_plain hsplit]

theorem foldl_add_sum {α : Type} (f : α → Int) (xs : List α) (x : Int) : xs.foldl (fun t i => t + f i) x = x + (xs.map f).sum := by
  induction xs generalizing x with
  | nil => simp
  | cons i xs ih => rw [List.foldl_cons, ih, List.map_cons, List.sum_cons, Int.add_assoc]

/-- An integer dot product sums exactly. -/
theorem intLane_dot {p : PassWord} (hop : p.srOp = 0) (a b : Operand) (r c : Nat) (is : List Nat) : intLane p a b r c is =
    (is.map fun i => signed (codeWidth a.fmt) (a.bits r i) * signed (codeWidth a.fmt) (b.bits c i)).sum := by
  unfold intLane
  simp only [hop]
  exact (foldl_add_sum _ is _).trans (Int.zero_add _)

theorem intLane_min {p : PassWord} (hop : p.srOp = 1) (a b : Operand) (r c : Nat) (is : List Nat) : intLane p a b r c is =
    is.foldl (fun t i => min t (signed (codeWidth a.fmt) (a.bits r i) + signed (codeWidth a.fmt) (b.bits c i))) 2147483647 := by
  unfold intLane
  simp only [hop]
  rfl

theorem intLane_max {p : PassWord} (hop : p.srOp = 2) (a b : Operand) (r c : Nat) (is : List Nat) : intLane p a b r c is =
    is.foldl (fun t i => max t (signed (codeWidth a.fmt) (a.bits r i) + signed (codeWidth a.fmt) (b.bits c i))) (-2147483648) := by
  unfold intLane
  simp only [hop]
  rfl

/-- The running minimum is below its start and every term, and is one of them. -/
theorem foldl_min_extreme {α : Type} (f : α → Int) (xs : List α) (x : Int) :
    (∀ i ∈ xs, xs.foldl (fun t i => min t (f i)) x ≤ f i) ∧ xs.foldl (fun t i => min t (f i)) x ≤ x ∧
      (xs.foldl (fun t i => min t (f i)) x = x ∨ ∃ i ∈ xs, xs.foldl (fun t i => min t (f i)) x = f i) := by
  induction xs generalizing x with
  | nil => exact ⟨fun _ h => absurd h List.not_mem_nil, le_refl x, .inl rfl⟩
  | cons j xs ih =>
    rw [List.foldl_cons]
    obtain ⟨hterms, hstart, hone⟩ := ih (min x (f j))
    refine ⟨fun i hi => ?_, hstart.trans (min_le_left _ _), ?_⟩
    · obtain rfl | hi := List.mem_cons.1 hi
      · exact hstart.trans (min_le_right _ _)
      · exact hterms i hi
    · obtain hone | ⟨i, hi, hone⟩ := hone
      · obtain hmin | hmin := min_choice x (f j)
        · exact .inl (hone.trans hmin)
        · exact .inr ⟨j, List.mem_cons_self .., hone.trans hmin⟩
      · exact .inr ⟨i, List.mem_cons_of_mem _ hi, hone⟩

theorem foldl_max_extreme {α : Type} (f : α → Int) (xs : List α) (x : Int) :
    (∀ i ∈ xs, f i ≤ xs.foldl (fun t i => max t (f i)) x) ∧ x ≤ xs.foldl (fun t i => max t (f i)) x ∧
      (xs.foldl (fun t i => max t (f i)) x = x ∨ ∃ i ∈ xs, xs.foldl (fun t i => max t (f i)) x = f i) := by
  induction xs generalizing x with
  | nil => exact ⟨fun _ h => absurd h List.not_mem_nil, le_refl x, .inl rfl⟩
  | cons j xs ih =>
    rw [List.foldl_cons]
    obtain ⟨hterms, hstart, hone⟩ := ih (max x (f j))
    refine ⟨fun i hi => ?_, (le_max_left _ _).trans hstart, ?_⟩
    · obtain rfl | hi := List.mem_cons.1 hi
      · exact (le_max_right _ _).trans hstart
      · exact hterms i hi
    · obtain hone | ⟨i, hi, hone⟩ := hone
      · obtain hmax | hmax := max_choice x (f j)
        · exact .inl (hone.trans hmax)
        · exact .inr ⟨j, List.mem_cons_self .., hone.trans hmax⟩
      · exact .inr ⟨i, List.mem_cons_of_mem _ hi, hone⟩

/-! ## Positions (03 R59, R70; 04 R78) -/

/-- Saturation clamps to 32 bits, and says where it has. -/
theorem satInt32_clamps (x : Int) : BitVec.ofNat 32 (satInt32 x).1 = BitVec.ofInt 32 (max (-2147483648) (min x 2147483647)) ∧
    b2n (satInt32 x).2 = if -2147483648 ≤ x ∧ x ≤ 2147483647 then 0 else 1 := by
  unfold satInt32
  split
  next h => rw [min_eq_right (by omega), if_neg (by omega)]; exact ⟨rfl, rfl⟩
  split
  next h1 h2 => rw [min_eq_left (by omega), max_eq_left (by omega), if_neg (by omega)]; exact ⟨rfl, rfl⟩
  next h1 h2 => rw [min_eq_left (by omega), max_eq_right (by omega), if_pos (by omega)]; exact ⟨ofNat_wrapNat 32 x, rfl⟩

theorem drainInt_sum {p : PassWord} (hop : p.srOp = 0) (hacc : p.accIn = true) (x : Int) (stored : Nat) :
    drainInt p x stored = satInt32 (x + signed 32 stored) := by
  unfold drainInt
  rw [hacc, hop]
  rfl

/-- An integer dot-product position adds to the stored value and clamps. -/
theorem drainAt_intSum {p : PassWord} (hint : intResult p = true) (hop : p.srOp = 0) (hacc : p.accIn = true) (a b : Operand) (acc : Sparse 32)
    (r c : Nat) :
    let at0 := accBase p + r * tileSide p.grouping + c
    let x := intLane p a b r c (laneElems p.aFmt p.k 0) + signed 32 (Sparse.get acc at0).toNat
    drainAt p a b acc r c = ⟨[(at0, BitVec.ofInt 32 (max (-2147483648) (min x 2147483647)))], 0,
      if -2147483648 ≤ x ∧ x ≤ 2147483647 then 0 else 1⟩ := by
  have hnan : nanTerms p a b r c (laneElems p.aFmt p.k 0) = 0 := by unfold nanTerms; rw [hop]; rfl
  intro at0 x
  obtain ⟨hword, hsat⟩ := satInt32_clamps x
  rw [← hword, ← hsat]
  unfold drainAt
  dsimp only
  rw [hint, if_pos rfl, hnan, drainInt_sum hop hacc]

theorem foldl_words {α : Type} (f : α → Drain) (xs : List α) (d : Drain) :
    (xs.foldl (fun d x => (⟨d.words ++ (f x).words, d.nan + (f x).nan, d.sat + (f x).sat⟩ : Drain)) d).words =
      d.words ++ xs.flatMap fun x => (f x).words := by
  induction xs generalizing d with
  | nil => simp
  | cons x xs ih => rw [List.foldl_cons, ih, List.flatMap_cons, List.append_assoc]

/-- The words of a tile are those of its positions, row by row. -/
theorem drainTile_words (p : PassWord) (a b : Operand) (acc : Sparse 32) (rows : Nat) : (drainTile p a b acc rows).words =
    (List.range rows).flatMap fun r => (List.range (tileSide p.grouping)).flatMap fun c => (drainAt p a b acc r c).words := by
  have hfold := foldl_words (fun x : Nat × Nat => drainAt p a b acc x.1 x.2)
    ((List.range rows).flatMap fun r => (List.range (tileSide p.grouping)).map fun c => (r, c)) ⟨[], 0, 0⟩
  refine hfold.trans ?_
  rw [List.nil_append, List.flatMap_assoc]
  simp only [List.flatMap_map]

/-- Settles O30: each mode of a lane as a fold of its terms, then what the drain makes of it. A term beyond the FP32 range overflows in
`laneAdd` (log entry 46). -/
theorem accumulatorPositionsAfterADrain : Obligations.AccumulatorPositionsAfterADrain := by
  refine ⟨fun p a b acc r c hint hop hfmt h0 h5 => fun hsplit => drainAt_dot hint hop hfmt h0 h5 hsplit b acc r c,
    fun p a b r c is hop => intLane_dot hop a b r c is, fun p a b r c is hop => ?_, fun p a b r c is hop => ?_,
    fun p a b acc r c hint hop hacc => drainAt_intSum hint hop hacc a b acc r c, drainTile_words⟩
  · rw [intLane_min hop]
    exact foldl_min_extreme _ is _
  · rw [intLane_max hop]
    exact foldl_max_extreme _ is _

end Sys2Proof.Machine
end

section
/-! Shadow tiles and step statistics (05 R99, R115). -/

namespace Sys2Proof.Machine

open Sys2Proof

/-! ## SHADOW_COMPARE (05 R115) -/

theorem foldl_pair_sum {α : Type} (f g : α → Nat) (xs : List α) (u v : Nat) :
    xs.foldl (fun (x : Nat × Nat) i => (x.1 + f i, x.2 + g i)) (u, v) = (u + (xs.map f).sum, v + (xs.map g).sum) := by
  induction xs generalizing u v with
  | nil => rfl
  | cons i xs ih => simp only [List.foldl_cons, ih, List.map_cons, List.sum_cons, Nat.add_assoc]

/-- Pass `k` after the comparison of its shadow in format `f`, whose operands are `a` and `b`. -/
def shadowCompared (n m k : Nat) (w : PassWord) (f : Nat) (a b : Operand) (s : State) : State :=
  let side := tileSide ((groupOf f).getD 4)
  let g := anchorOf s w.layer w.dir - (match fp32.decode (field (peekWord s (curState s w.layer w.dir + 8)) 31 0) with
    | .fin _ m e => ilog m e
    | _ => 0)
  let ps := (lanePos w 0).filter fun x => decide (x.row - w.outRow < side) && decide (x.col - w.outCol < side)
  let y := fun x : Pos => shadowVal w f a b (x.row - w.outRow) (x.col - w.outCol)
  modPass n m k (fun p => { p with
      shadow := .done
      stats := some ((p.stats.getD { layer := w.layer, dir := w.dir }).addShadow (ps.map fun x => (sq g (y x)).1).sum
        (ps.map fun x => (sq g ((resultVal w (accPattern w (engOf s n m) x)).sub (y x))).1).sum) })
    { s with gov := { s.gov with cntShadow := satAdd s.gov.cntShadow 1 } }

/-- A comparison whose operands can be read adds the squares of its positions to the statistics of the pass. -/
theorem execShadowCompare_adds {n m k : Nat} {s s1 s2 : State} {a b : Operand} (heng : hasEng s n m = true)
    (hnext : shadowNext (engOf s n m) = some k) :
    let p := passAt s n m k
    let w := p.pw
    let u := confProbe w s
    let f := (shadowCand u w).getD 7
    let cf := wordAt (dirConf u w.layer w.dir) 4
    let ag := passAgent n m p
    readShadow ag n w.aFmt f (bit cf 18) w.aTrans w.k (shadowSteps w) (w.aAddr * 64) (w.aStride * 64) (field cf 17 0) u = (s1, some a) →
    readShadow ag n w.bFmt f (bit cf 50) (!w.bTrans) w.k (shadowSteps w) (w.bAddr * 64) (w.bStride * 64) (field cf 49 32) s1 = (s2, some b) →
    execShadowCompare n m s = .next (shadowCompared n m k w f a b s2) := by
  intro p w u f cf ag ha hb
  have hbody : compareShadow n m k s = shadowCompared n m k w f a b s2 := by
    unfold compareShadow shadowCompared
    dsimp only
    rw [ha]
    dsimp only
    rw [hb]
    dsimp only
    rw [foldl_pair_sum, Nat.zero_add, Nat.zero_add] <;> rfl
  unfold execShadowCompare
  rw [hnext]
  exact (need_next heng rfl _).trans (congrArg Host.Outcome.next hbody)

/-! ## STATS_RECORD_MERGE (05 R99) -/

theorem findIdx_stats {e : Engine} {k : Nat} (hk : k < e.passes.length) (hbefore : ∀ j < k, (e.passes.getD j {}).stats = none)
    (hhas : (e.passes.getD k {}).stats.isSome = true) : e.passes.findIdx (fun p => p.stats.isSome) = k := by
  rw [List.findIdx_eq hk]
  refine ⟨by simpa [List.getD_eq_getElem?_getD, hk] using hhas, fun j hj => ?_⟩
  have := hbefore j hj
  simp only [List.getD_eq_getElem?_getD, List.getElem?_eq_getElem (hj.trans hk), Option.getD_some] at this
  simp [this]

theorem readsAs_modEng {n m : Nat} {f : Engine → Engine} {s : State} {a k : Nat} {bs : List Byte} (h : ReadsAs s a k bs) :
    ReadsAs (modEng n m f s) a k bs :=
  ⟨h.1, fun i hi => by
    obtain ⟨p, hp, hread⟩ := h.2 i hi
    exact ⟨p, (resolve_modThl n _ s _).trans hp, hread⟩⟩

/-- The first record that waits is merged into its block. -/
theorem execStatsRecordMerge_merges {n m k : Nat} {t : TileRec} {s : State} {bs : List Byte} (heng : hasEng s n m = true)
    (hk : k < (engOf s n m).passes.length) (hbefore : ∀ j < k, (passAt s n m j).stats = none) (hstats : (passAt s n m k).stats = some t)
    (hlog : t.log = none) (hreads : ReadsAs s (statAddr s t.layer t.dir) 128 bs) :
    execStatsRecordMerge n m s = .next (settle (writeWords (statAddr s t.layer t.dir) (mergeBlock (wordsOf bs) t)
      (modPass n m k (fun p => { p with stats := none }) s))) := by
  have hfirst : (engOf s n m).passes.findIdx (fun p => p.stats.isSome) = k :=
    findIdx_stats hk hbefore (show (passAt s n m k).stats.isSome = true by rw [hstats]; rfl)
  have hmerge : mergeRecord t (modPass n m k (fun p => { p with stats := none }) s) =
      writeWords (statAddr s t.layer t.dir) (mergeBlock (wordsOf bs) t) (modPass n m k (fun p => { p with stats := none }) s) := by
    have hread : readMem .unit (statAddr (modPass n m k (fun p => { p with stats := none }) s) t.layer t.dir) 128
        (modPass n m k (fun p => { p with stats := none }) s) = (modPass n m k (fun p => { p with stats := none }) s, some bs) :=
      readMem_as (readsAs_modEng hreads)
    unfold mergeRecord modMem
    dsimp only
    rw [hread, hlog]
    rfl
  unfold execStatsRecordMerge
  dsimp only
  rw [hfirst, hstats]
  exact (need_next heng (decide_eq_true hk) _).trans (congrArg (fun u => Host.Outcome.next (settle u)) hmerge)

/-! ## Lanes of a statistics block (05 T5-6) -/

theorem field_lt {w : Nat} (x : BitVec w) (hi lo : Nat) : field x hi lo < 2 ^ (hi + 1 - lo) := Nat.mod_lt _ (Nat.two_pow_pos _)

/-- A word made of two halves. -/
theorem field_halves {x y : Nat} (hx : x < 2 ^ 32) (hy : y < 2 ^ 32) :
    field (BitVec.ofNat 64 (x + y * 2 ^ 32)) 31 0 = x ∧ field (BitVec.ofNat 64 (x + y * 2 ^ 32)) 63 32 = y := by
  have hword : (BitVec.ofNat 64 (x + y * 2 ^ 32)).toNat = x + y * 2 ^ 32 := by rw [BitVec.toNat_ofNat, Nat.mod_eq_of_lt (by omega)]
  unfold field
  rw [hword, Nat.shiftRight_eq_div_pow, Nat.shiftRight_eq_div_pow]
  omega

theorem addLane_low (w : Word) (v : Nat) : field (addLane w 0 v) 31 0 = min (field w 31 0 + v) (2 ^ 32 - 1) ∧
    field (addLane w 0 v) 63 32 = field w 63 32 := by
  have hhigh := field_lt w 63 32
  have hlane : addLane w 0 v = BitVec.ofNat 64 (min (field w 31 0 + v) (2 ^ 32 - 1) + field w 63 32 * 2 ^ 32) := by
    show BitVec.ofNat 64 (field w 63 32 * 2 ^ 32 + min (field w 31 0 + v) (2 ^ 32 - 1) * 2 ^ 0) = _
    rw [Nat.pow_zero, Nat.mul_one, Nat.add_comm]
  rw [hlane]
  exact field_halves (by omega) hhigh

theorem addLane_high (w : Word) (v : Nat) : field (addLane w 32 v) 31 0 = field w 31 0 ∧
    field (addLane w 32 v) 63 32 = min (field w 63 32 + v) (2 ^ 32 - 1) :=
  field_halves (field_lt w 31 0) (by omega)

/-- A pair of words holds the sum, saturated. -/
theorem addPair_sum (lo hi : Word) (v : Nat) : (wordAt (addPair lo hi v) 0).toNat + 2 ^ 64 * (wordAt (addPair lo hi v) 1).toNat =
    min (lo.toNat + 2 ^ 64 * hi.toNat + v) (2 ^ 128 - 1) := by
  show (BitVec.ofNat 64 (min (lo.toNat + hi.toNat * 2 ^ 64 + v) (2 ^ 128 - 1))).toNat +
    2 ^ 64 * (BitVec.ofNat 64 (min (lo.toNat + hi.toNat * 2 ^ 64 + v) (2 ^ 128 - 1) / 2 ^ 64)).toNat = _
  rw [BitVec.toNat_ofNat, BitVec.toNat_ofNat]
  omega

theorem mergeBlock_word6 (b : List Word) (t : TileRec) : field (wordAt (mergeBlock b t) 6) 31 0 = max (field (wordAt b 6) 31 0) t.amaxX.toNat ∧
    field (wordAt (mergeBlock b t) 6) 63 32 = min (field (wordAt b 6) 63 32 + t.nReconv) (2 ^ 32 - 1) := by
  obtain ⟨hlow, hhigh⟩ := addLane_high (wordAt b 6) t.nReconv
  have hamax := t.amaxX.isLt
  have hfield := field_lt (wordAt b 6) 31 0
  have hword : wordAt (mergeBlock b t) 6 = BitVec.ofNat 64 (max (field (wordAt b 6) 31 0) t.amaxX.toNat +
      min (field (wordAt b 6) 63 32 + t.nReconv) (2 ^ 32 - 1) * 2 ^ 32) := by
    rw [← hlow, ← hhigh]
    rfl
  rw [hword]
  exact field_halves (by omega) (by omega)

theorem mergeBlock_word7 (b : List Word) (t : TileRec) :
    field (wordAt (mergeBlock b t) 7) 31 0 = min (field (wordAt b 7) 31 0 + t.nClip) (2 ^ 32 - 1) ∧
    field (wordAt (mergeBlock b t) 7) 63 32 = min (field (wordAt b 7) 63 32 + t.nShadow) (2 ^ 32 - 1) := by
  obtain ⟨hlow, hhigh⟩ := addLane_low (wordAt b 7) t.nClip
  obtain ⟨hlow', hhigh'⟩ := addLane_high (addLane (wordAt b 7) 0 t.nClip) t.nShadow
  exact ⟨hlow'.trans hlow, hhigh'.trans (by rw [hhigh])⟩

/-- Settles O32: the comparison by its two reads, the merge by the first record that waits, and the block lane by lane. The stride of the
shadow samples and the anchor of the copy in force are the model's choice (log entry 47), as are the scale slots of a shadow copy (log entry 77). -/
theorem shadowsAndStatistics : Obligations.ShadowsAndStatistics := by
  refine ⟨fun n m k s s1 s2 a b heng hnext => execShadowCompare_adds heng hnext,
    fun n m k t s bs heng hk hbefore hstats hlog hreads => execStatsRecordMerge_merges heng hk hbefore hstats hlog hreads, fun b t => ?_⟩
  obtain ⟨hamax, hreconv⟩ := mergeBlock_word6 b t
  obtain ⟨hclip, hshadow⟩ := mergeBlock_word7 b t
  refine ⟨rfl, rfl, rfl, rfl, rfl, rfl, hamax, hreconv, hclip, hshadow, ?_⟩
  rintro i v (⟨rfl, rfl⟩ | ⟨rfl, rfl⟩ | ⟨rfl, rfl⟩ | ⟨rfl, rfl⟩) <;> exact addPair_sum _ _ _

end Sys2Proof.Machine
end

section
/-! Exact reduction (09): BOPEN, BCONTRIB, the tag-wait diagnostic, the seal and the collective timeout (R196 to R204, 10 R237). -/

namespace Sys2Proof.Machine

open Sys2Proof

/-! ## A unit's reads and the thalli: neither sees the other -/

theorem recordClass_modThl (cls cause n : Nat) (f : Thallus → Thallus) (s : State) :
    recordClass cls cause (modThl n f s) = modThl n f (recordClass cls cause s) := by
  unfold recordClass
  dsimp only
  split
  · next h => rw [if_pos (show (cls == 0 || s.cmt.state == .idle || s.cmt.state == .stopped) = true from h)]
  next h =>
  rw [if_neg (show ¬ (cls == 0 || s.cmt.state == .idle || s.cmt.state == .stopped) = true from h)]
  split
  · next h => rw [if_pos (show (afterFlip s && cls == 3 && !s.crun.doneSent) = true from h)]; rfl
  · next h => rw [if_neg (show ¬ (afterFlip s && cls == 3 && !s.crun.doneSent) = true from h)]; rfl

theorem fault_modThl (a b c d e n : Nat) (f : Thallus → Thallus) (s : State) :
    fault a b c d e (modThl n f s) = modThl n f (fault a b c d e s) := by
  unfold fault
  rw [logEv_modThl, recordClass_modThl]

theorem badRead_modThl (ag : Agent) (a p n : Nat) (f : Thallus → Thallus) (s : State) :
    badRead ag a p (modThl n f s) = modThl n f (badRead ag a p s) := by
  have hev (c : Nat) (s : State) : memFaultEv ag c a (modThl n f s) = modThl n f (memFaultEv ag c a s) := by
    cases ag <;> exact fault_modThl _ _ _ _ _ _ _ _
  unfold badRead
  split
  · exact hev 0x43 (noteUncorr p false s)
  · exact hev 0x42 s

theorem readPiece_modThl (ag : Agent) (a k n : Nat) (f : Thallus → Thallus) (s : State) :
    readPiece ag a k (modThl n f s) = (modThl n f (readPiece ag a k s).1, (readPiece ag a k s).2) := by
  unfold readPiece
  rw [resolve_modThl]
  cases resolve s a with
  | none => exact congrArg (·, _) (absentEv_modThl ag a n f s)
  | some p =>
    dsimp only [modThl_mem]
    cases (List.range k).find? fun i => s.mem.bad (p + i) with
    | none => rfl
    | some i => exact congrArg (·, _) (badRead_modThl ag _ _ n f s)

theorem readGo_modThl (ag : Agent) (n : Nat) (f : Thallus → Thallus) (fuel : Nat) :
    ∀ (a k : Nat) (s : State), readGo ag fuel a k (modThl n f s) = (modThl n f (readGo ag fuel a k s).1, (readGo ag fuel a k s).2) := by
  induction fuel with
  | zero => intro a k s; rfl
  | succ fuel ih =>
    intro a k s
    unfold readGo
    split
    · rfl
    dsimp only
    rw [readPiece_modThl]
    rcases readPiece ag a (min k (64 - a % 64)) s with ⟨s1, _ | bs⟩
    · rfl
    dsimp only
    rw [ih]
    rcases readGo ag fuel (a + min k (64 - a % 64)) (k - min k (64 - a % 64)) s1 with ⟨s2, _ | cs⟩ <;> rfl

theorem probe_modThl (a k n : Nat) (f : Thallus → Thallus) (s : State) : probe a k (modThl n f s) = modThl n f (probe a k s) :=
  congrArg Prod.fst (readGo_modThl .unit n f _ a k s)

theorem probes_modThl (rs : List (Nat × Nat)) (n : Nat) (f : Thallus → Thallus) (s : State) :
    probes rs (modThl n f s) = modThl n f (probes rs s) := by
  unfold probes
  induction rs generalizing s with
  | nil => rfl
  | cons r rs ih =>
    rw [List.foldl_cons, List.foldl_cons]
    dsimp only
    rw [probe_modThl, ih]

theorem peekByte_modThl (n : Nat) (f : Thallus → Thallus) (s : State) : peekByte (modThl n f s) = peekByte s := by
  funext a
  unfold peekByte
  rw [resolve_modThl]
  rfl

theorem peek_modThl (n : Nat) (f : Thallus → Thallus) (s : State) : peek (modThl n f s) = peek s := by
  unfold peek
  rw [peekByte_modThl]

theorem peekWord_modThl (n : Nat) (f : Thallus → Thallus) (s : State) : peekWord (modThl n f s) = peekWord s := by
  unfold peekWord
  rw [peek_modThl]

/-! ## The bucket tables and the streams -/

theorem bktWord_modStrm (n q : Nat) (f : Stream → Stream) (s : State) : bktWord (modStrm n q f s) = bktWord s := by
  funext b i
  exact congrFun (peekWord_modThl n _ s) _

theorem grpWord_modStrm (n q : Nat) (f : Stream → Stream) (s : State) : grpWord (modStrm n q f s) = grpWord s := by
  funext b i
  unfold grpWord
  rw [bktWord_modStrm]
  exact congrFun (peekWord_modThl n _ s) _

theorem bktElems_modStrm (n q : Nat) (f : Stream → Stream) (s : State) (b : Nat) : bktElems (modStrm n q f s) b = bktElems s b := by
  unfold bktElems
  rw [bktWord_modStrm]

theorem bktOurs_modStrm (n q : Nat) (f : Stream → Stream) (s : State) (b : Nat) : bktOurs (modStrm n q f s) b = bktOurs s b := by
  unfold bktOurs grpN
  rw [grpWord_modStrm]
  rfl

theorem bktAddr_modStrm (n q : Nat) (f : Stream → Stream) (s : State) (b : Nat) : bktAddr (modStrm n q f s) b = bktAddr s b := rfl

theorem bktReads_modStrm (n q : Nat) (f : Stream → Stream) (s : State) (b : Nat) : bktReads (modStrm n q f s) b = bktReads s b := by
  unfold bktReads grpN
  rw [grpWord_modStrm, bktWord_modStrm, bktAddr_modStrm, modStrm_rdx]

/-- The record that a bucket gets when the unit first handles it. -/
def addBkt (b : Nat) (s : State) : State := { s with rdx := { s.rdx with bkts := s.rdx.bkts ++ [{ id := b }] } }

theorem addBkt_modThl (b n : Nat) (f : Thallus → Thallus) (s : State) : addBkt b (modThl n f s) = modThl n f (addBkt b s) := rfl

theorem addBkt_thl (b : Nat) (s : State) : (addBkt b s).thl = s.thl := rfl

theorem openBkt_known {b : Nat} {s : State} (h : (s.rdx.bkts.any (·.id == b)) = true) : openBkt b s = s := if_pos h

theorem openBkt_new {b : Nat} {s : State} (h : ¬ (s.rdx.bkts.any (·.id == b)) = true) : openBkt b s = addBkt b (probes (bktReads s b) s) :=
  if_neg h

theorem openBkt_modStrm (n q : Nat) (f : Stream → Stream) (s : State) (b : Nat) :
    openBkt b (modStrm n q f s) = modStrm n q f (openBkt b s) := by
  by_cases h : (s.rdx.bkts.any (·.id == b)) = true
  · have hrec : ((modStrm n q f s).rdx.bkts.any (·.id == b)) = true := by rw [modStrm_rdx]; exact h
    have hopen := openBkt_known hrec
    have hown := openBkt_known h
    rw [hopen, hown]
  · have hrec : ¬ ((modStrm n q f s).rdx.bkts.any (·.id == b)) = true := by rw [modStrm_rdx]; exact h
    have hprobes : probes (bktReads s b) (modStrm n q f s) = modStrm n q f (probes (bktReads s b) s) := probes_modThl _ n _ s
    have hopen := openBkt_new hrec
    rw [bktReads_modStrm, hprobes] at hopen
    have hown := openBkt_new h
    rw [hopen, hown]
    exact addBkt_modThl b n _ _

theorem openBkt_thl (b : Nat) (s : State) : (openBkt b s).thl = s.thl := by
  by_cases h : (s.rdx.bkts.any (·.id == b)) = true
  · rw [openBkt_known h]
  · rw [openBkt_new h, addBkt_thl, probes_thl]

theorem bktOf_modStrm (n q : Nat) (f : Stream → Stream) (s : State) (b : Nat) : bktOf (modStrm n q f s) b = bktOf s b := rfl

theorem clistAddr_modStrm (n q : Nat) (f : Stream → Stream) (s : State) (i : Nat) : clistAddr (modStrm n q f s) i = clistAddr s i := rfl

theorem pickTag_modStrm (n q : Nat) (f : Stream → Stream) (s : State) (p : Nat) : pickTag (modStrm n q f s) p = pickTag s p := rfl

/-! ## BOPEN (06 R130, 09 R196 to R198) -/

theorem strm_of_open {q : Nat} (hq : q = 1 ∨ q = 2) : [1, 2].contains q = true := by
  rcases hq with rfl | rfl <;> rfl

/-- Bucket `b` holds tag `i`, opened by `o` = (thallus, peg). -/
def giveTag (b i : Nat) (o : Nat × Nat) (s : State) : State :=
  let t := modBkt b (fun k => { k with tag := some i, openers := if k.openers.contains o then k.openers else k.openers ++ [o] }) s
  { t with rdx := { t.rdx with tags := t.rdx.tags.set i (some b) } }

theorem giveTag_modStrm (b i : Nat) (o : Nat × Nat) (n q : Nat) (f : Stream → Stream) (s : State) :
    giveTag b i o (modStrm n q f s) = modStrm n q f (giveTag b i o s) := rfl

theorem giveTag_thl (b i : Nat) (o : Nat × Nat) (s : State) : (giveTag b i o s).thl = s.thl := rfl

/-- A stream's tag register `r` names tag `i`. -/
def Stream.tagged (r i : Nat) (k : Stream) : Stream :=
  { k with treg := k.treg.set r (BitVec.ofNat 8 i), tval := k.tval ||| BitVec.ofNat 8 (1 <<< r), tagTimer := none, tagDiag := false }

/-- The state after a BOPEN that gives bucket `b` the tag `i`. -/
def opened (n q b i : Nat) (w : Word) (s : State) : State :=
  classed (modStrm n q (fun k => (Stream.after 1 w k).tagged (field w 22 20) i) (giveTag b i (n, field w 28 23) (openBkt b s)))

theorem takeTag_eq (n q b i : Nat) (w : Word) (s : State) : takeTag n q b w.toNat i s =
    classed (strmNext n q 1 (modStrm n q (Stream.tagged (field w 22 20) i) (giveTag b i (n, field w 28 23) (openBkt b s)))) := rfl

theorem takeTag_taking (n q b i : Nat) (w : Word) (s : State) :
    takeTag n q b w.toNat i (modStrm n q (Stream.taking w) s) = opened n q b i w s := by
  unfold opened
  rw [takeTag_eq, openBkt_modStrm, giveTag_modStrm]
  refine congrArg classed ?_
  unfold strmNext
  rw [modStrm_modStrm, modStrm_modStrm]
  rfl

theorem opened_modes (n q b i : Nat) (w : Word) (s : State) : strmModes (opened n q b i w s) = strmModes s :=
  (classed_modes _).trans ((strmModes_modStrm n q _ _).trans (strmModes_of_thl ((giveTag_thl ..).trans (openBkt_thl b s))))

theorem execBopen_takes {n q i : Nat} {w : Word} {s : State} (h : StrmRuns s n q 1) (hq : q = 1 ∨ q = 2)
    (hours : bktOurs s (field w 19 8) = true) (hopen : (bktOf s (field w 19 8)).completed = false)
    (htag : (bktOf s (field w 19 8)).tag = some i ∨ ((bktOf s (field w 19 8)).tag = none ∧ pickTag s q = some i)) :
    execBopen n q w s = .next (opened n q (field w 19 8) i w s) := by
  refine strmInstr_body h (strm_of_open hq) ?_ (opened_modes ..)
  dsimp only
  rw [bktOurs_modStrm, hours, bktOf_modStrm, hopen, pickTag_modStrm]
  rcases htag with htag | ⟨hnone, hpick⟩
  · rw [htag]
    exact takeTag_taking ..
  · rw [hnone, hpick]
    exact takeTag_taking ..

theorem execBopen_foreign {n q : Nat} {w : Word} {s : State} (h : StrmRuns s n q 1) (hq : q = 1 ∨ q = 2)
    (hours : bktOurs s (field w 19 8) = false) :
    ∃ t, execBopen n q w s = .next t ∧ StrmHalts n 0 q 0x30 w (Stream.taking w) s t := by
  refine strmInstr_halts h (strm_of_open hq) ?_
  dsimp only
  rw [bktOurs_modStrm, hours]
  rfl

theorem execBopen_completed {n q : Nat} {w : Word} {s : State} (h : StrmRuns s n q 1) (hq : q = 1 ∨ q = 2)
    (hours : bktOurs s (field w 19 8) = true) (hdone : (bktOf s (field w 19 8)).completed = true) :
    ∃ t, execBopen n q w s = .next t ∧ StrmHalts n 0 q 0x62 w (Stream.taking w) s t := by
  refine strmInstr_halts h (strm_of_open hq) ?_
  dsimp only
  rw [bktOurs_modStrm, hours, bktOf_modStrm, hdone]
  rfl

/-! ## The lowest free tag (09 R196) -/

theorem find?_offset_some {p : Nat → Bool} {lo n i : Nat} (h : ((List.range n).map (lo + ·)).find? p = some i) :
    p i = true ∧ lo ≤ i ∧ i < lo + n ∧ ∀ j, lo ≤ j → j < i → p j = false := by
  rw [List.find?_map, Option.map_eq_some_iff] at h
  obtain ⟨k, hk, rfl⟩ := h
  obtain ⟨hp, hlt, hbefore⟩ := List.find?_range_eq_some.1 hk
  refine ⟨hp, by omega, by have := List.mem_range.1 hlt; omega, fun j hlo hj => ?_⟩
  have := hbefore (j - lo) (by omega)
  rw [Function.comp_apply, Nat.add_sub_cancel' hlo] at this
  simpa using this

theorem find?_offset_none {p : Nat → Bool} {lo n : Nat} (h : ((List.range n).map (lo + ·)).find? p = none) :
    ∀ j, lo ≤ j → j < lo + n → p j = false := by
  intro j hlo hj
  have := List.find?_eq_none.1 h j (List.mem_map.2 ⟨j - lo, List.mem_range.2 (by omega), by omega⟩)
  simpa using this

theorem pickTag_lowest {s : State} {q i : Nat} (h : pickTag s q = some i) : s.rdx.tags.getD i none = none ∧
    (let lo := if q = 1 then 0 else 0x40
     (lo ≤ i ∧ i < lo + 0x40 ∧ ∀ j, lo ≤ j → j < i → s.rdx.tags.getD j none ≠ none) ∨
     (0x80 ≤ i ∧ i < 0x100 ∧ (∀ j, lo ≤ j → j < lo + 0x40 → s.rdx.tags.getD j none ≠ none) ∧
        ∀ j, 0x80 ≤ j → j < i → s.rdx.tags.getD j none ≠ none)) := by
  have hfree {j : Nat} : (s.rdx.tags.getD j none == none) = true ↔ s.rdx.tags.getD j none = none := beq_iff_eq
  have htaken {j : Nat} (hj : (s.rdx.tags.getD j none == none) = false) : s.rdx.tags.getD j none ≠ none := fun hfree' => by
    rw [hfree.2 hfree'] at hj
    exact absurd hj (by decide)
  unfold pickTag at h
  simp only [beq_iff_eq] at h
  split at h
  next k hk =>
    obtain rfl : k = i := Option.some.inj h
    obtain ⟨hp, hlo, hhi, hbefore⟩ := find?_offset_some hk
    exact ⟨hfree.1 hp, .inl ⟨hlo, hhi, fun j hj hlt => htaken (hbefore j hj hlt)⟩⟩
  next hown =>
    obtain ⟨hp, hlo, hhi, hbefore⟩ := find?_offset_some h
    exact ⟨hfree.1 hp, .inr ⟨hlo, hhi, fun j hj hlt => htaken (find?_offset_none hown j hj hlt), fun j hj hlt => htaken (hbefore j hj hlt)⟩⟩

/-! ## BCONTRIB (06 R131, 09 R199, R200) -/

/-- The tag register that a BCONTRIB names holds the tag of bucket `b`. -/
def Contributes (n q : Nat) (w0 : Word) (s : State) (b : Nat) : Prop :=
  bit (strmOf s n q).tval (field w0 10 8) = true ∧
    s.rdx.tags.getD ((strmOf s n q).treg.getD (field w0 10 8) 0).toNat none = some b

theorem contributes_taking {n q b : Nat} {w0 : Word} {s : State} (h : hasStrm s n q = true) (hb : Contributes n q w0 s b) :
    (let t := modStrm n q (Stream.taking w0) s
     if bit (strmOf t n q).tval (field w0 10 8) then t.rdx.tags.getD ((strmOf t n q).treg.getD (field w0 10 8) 0).toNat none else none) =
      some b := by
  obtain ⟨hval, htag⟩ := hb
  dsimp only
  rw [strmOf_modStrm h, modStrm_rdx]
  exact (if_pos hval).trans htag

theorem execBcontrib_beyond {n q b : Nat} {w0 w1 w2 : Word} {s : State} (h : StrmRuns s n q 3) (hq : q = 1 ∨ q = 2)
    (hb : Contributes n q w0 s b) (hlen : bktElems s b < field w2 31 0 + field w2 63 32) :
    ∃ t, execBcontrib n q w0 w1 w2 s = .next t ∧ StrmHalts n 0 q 0x30 w0 (Stream.taking w0) s t := by
  refine strmInstr_halts h (strm_of_open hq) ?_
  dsimp only
  rw [contributes_taking h.1.1 hb]
  dsimp only
  rw [bktElems_modStrm, if_pos hlen]

theorem execBcontrib_closed {n q b : Nat} {w0 w1 w2 : Word} {s : State} (h : StrmRuns s n q 3) (hq : q = 1 ∨ q = 2)
    (hb : Contributes n q w0 s b) (hlen : field w2 31 0 + field w2 63 32 ≤ bktElems s b) (hclosed : (bktOf s b).closed = true) :
    ∃ t, execBcontrib n q w0 w1 w2 s = .next t ∧ StrmHalts n 0 q 0x63 w0 (Stream.taking w0) s t := by
  refine strmInstr_halts h (strm_of_open hq) ?_
  dsimp only
  rw [contributes_taking h.1.1 hb]
  dsimp only
  rw [bktElems_modStrm, if_neg (Nat.not_lt.2 hlen), bktOf_modStrm, if_pos hclosed]

theorem execBcontrib_full {n q b : Nat} {w0 w1 w2 : Word} {s : State} (h : StrmRuns s n q 3) (hq : q = 1 ∨ q = 2)
    (hb : Contributes n q w0 s b) (hlen : field w2 31 0 + field w2 63 32 ≤ bktElems s b) (hopen : (bktOf s b).closed = false)
    (hfull : 4096 ≤ (bktOf s b).nContrib) :
    ∃ t, execBcontrib n q w0 w1 w2 s = .next t ∧ StrmHalts n 0 q 0x61 w0 (Stream.taking w0) s t := by
  refine strmInstr_halts h (strm_of_open hq) ?_
  dsimp only
  rw [contributes_taking h.1.1 hb]
  dsimp only
  rw [bktElems_modStrm, if_neg (Nat.not_lt.2 hlen), bktOf_modStrm, if_neg (by rw [hopen]; decide), if_pos hfull]

/-- The record of a contribution that is not the last of its micro-batch (09 R199). -/
def contribRec (w0 w1 w2 : Word) (b : Nat) : List Word :=
  [BitVec.ofNat 64 (field w1 43 0), w2, BitVec.ofNat 64 (field w0 63 32), BitVec.ofNat 64 b]

theorem length_contribRec (w0 w1 w2 : Word) (b : Nat) : (bytesOfWords (contribRec w0 w1 w2 b)).length = 32 := by
  simp [bytesOfWords, contribRec]

/-- The contribution is counted for its bucket. -/
def countContrib (b : Nat) (s : State) : State :=
  modBkt b (fun k => { k with nContrib := k.nContrib + 1 }) { s with rdx := { s.rdx with clistCount := s.rdx.clistCount + 1 } }

theorem countContrib_modThl (b n : Nat) (f : Thallus → Thallus) (s : State) :
    countContrib b (modThl n f s) = modThl n f (countContrib b s) := rfl

theorem countContrib_thl (b : Nat) (s : State) : (countContrib b s).thl = s.thl := rfl

/-- What a unit stores in plain memory is stored beside what a stream's instruction did to the stream. -/
theorem writeMem_strm {n q a : Nat} {f : Stream → Stream} {bs : List Byte} {s : State} (h : Plain s a bs.length) (ag : Agent) :
    writeMem ag a bs (modStrm n q f s) = modStrm n q f (withBytes (Sparse.sets s.mem.bytes a bs) s) :=
  writeMem_plain (plain_modThl h)

theorem execBcontrib_appends {n q b : Nat} {w0 w1 w2 : Word} {s : State} (h : StrmRuns s n q 3) (hq : q = 1 ∨ q = 2)
    (hb : Contributes n q w0 s b) (hlen : field w2 31 0 + field w2 63 32 ≤ bktElems s b) (hopen : (bktOf s b).closed = false)
    (hroom : (bktOf s b).nContrib < 4096) (hlist : s.rdx.clistCount < 524288) (hplain : Plain s (clistAddr s s.rdx.clistCount) 32)
    (hlast : bit w0 11 = false) :
    execBcontrib n q w0 w1 w2 s = .next (modStrm n q (Stream.after 3 w0) (countContrib b
      (withBytes (Sparse.sets s.mem.bytes (clistAddr s s.rdx.clistCount) (bytesOfWords (contribRec w0 w1 w2 b))) s))) := by
  have hstore : writeWords (clistAddr s s.rdx.clistCount) (contribRec w0 w1 w2 b) (modStrm n q (Stream.taking w0) s) =
      modStrm n q (Stream.taking w0)
        (withBytes (Sparse.sets s.mem.bytes (clistAddr s s.rdx.clistCount) (bytesOfWords (contribRec w0 w1 w2 b))) s) :=
    writeMem_strm (by rw [length_contribRec]; exact hplain) .unit
  refine strmInstr_body h (strm_of_open hq) ?_
    ((strmModes_modStrm n q _ _).trans (strmModes_of_thl ((countContrib_thl b _).trans (withBytes_thl _ s))))
  dsimp only
  rw [contributes_taking h.1.1 hb]
  dsimp only
  rw [bktElems_modStrm, if_neg (Nat.not_lt.2 hlen), bktOf_modStrm, if_neg (by rw [hopen]; decide), if_neg (Nat.not_le.2 hroom),
    modStrm_rdx, if_neg (Nat.not_le.2 hlist), hlast, clistAddr_modStrm]
  rw [Bool.false_and, if_neg Bool.false_ne_true, show field w0 63 32 ||| b2n false <<< 32 = field w0 63 32 from Nat.or_zero _]
  change strmNext n q 3 (countContrib b (writeWords _ (contribRec w0 w1 w2 b) _)) = _
  rw [hstore, ← strmNext_taking]
  exact congrArg (strmNext n q 3) (countContrib_modThl b n _ _)

/-! ## The tag-wait diagnostic (09 R198) -/

theorem tagWaitDiag_counts {n q : Nat} {s : State} (hstrm : hasStrm s n q = true) (hheld : (strmOf s n q).state = .held)
    (hwhy : (strmOf s n q).why = .tag) (htimer : (strmOf s n q).tagTimer = some 0) (hdiag : (strmOf s n q).tagDiag = false) :
    ∃ t, execTagWaitDiag n q s = .next t ∧ t.thl = (modStrm n q (fun k => { k with tagTimer := none, tagDiag := true }) s).thl ∧
      t.rdx = { s.rdx with cntTagwait := satAdd s.rdx.cntTagwait 1 } ∧ t.mem = s.mem ∧ t.cmt = s.cmt := by
  refine ⟨_, need_next hstrm (by rw [hheld, hwhy, htimer, hdiag]; rfl) _, ?_⟩
  unfold rdxEv
  obtain ⟨L, c, hlog⟩ := logEv_form 2 0 0x60 (field (strmOf s n q).instr 19 8 <<< 8 ||| self s <<< 20) s.cmt.step.toNat 0
    (modStrm n q (fun k => { k with tagTimer := none, tagDiag := true }) { s with rdx := { s.rdx with cntTagwait := satAdd s.rdx.cntTagwait 1 } })
  refine hlog ▸ ⟨rfl, rfl, rfl, rfl⟩

/-! ## The seal (09 R195, R203) -/

theorem sealOf_length (s : State) (b : Nat) : (sealOf s b).bits.length = grpN s b := by
  unfold sealOf
  rw [List.length_map, List.length_range]

/-- Outside a replay step a seal holds a bit for each member that announced present. -/
theorem sealOf_bit {s : State} {b i : Nat} (hlive : replaying s = false) (hi : i < grpN s b) :
    (sealOf s b).bits.getD i false = true ↔ ∃ c, (i, AnnKind.present, c) ∈ (bktOf s b).anns := by
  unfold sealOf
  dsimp only
  rw [List.getD_eq_getElem _ _ (by rwa [List.length_map, List.length_range]), List.getElem_map, List.getElem_range, hlive, Bool.not_false, Bool.true_or, Bool.true_and, List.any_eq_true]
  constructor
  · rintro ⟨⟨j, kind, c⟩, hmem, hx⟩
    simp only [Bool.and_eq_true, beq_iff_eq] at hx
    obtain ⟨rfl, rfl⟩ := hx
    exact ⟨c, hmem⟩
  · rintro ⟨c, hmem⟩
    exact ⟨_, hmem, by simp⟩

theorem sealOf_failed (s : State) (b : Nat) : (sealOf s b).att = .failed ↔ (bktOf s b).mismatch ≠ none := by
  unfold sealOf
  dsimp only
  cases (bktOf s b).mismatch with
  | some m => simp
  | none => cases bktRing s b <;> simp

/-- Outside a replay step the seal's total is the sum of the counts announced present. -/
theorem sealOf_total {s : State} (b : Nat) (hlive : replaying s = false) : (sealOf s b).total =
    (((bktOf s b).anns.filter fun (_, kind, _) => kind == .present).map fun (_, _, c) => c).sum := by
  unfold sealOf
  dsimp only
  rw [hlive]
  refine congrArg (fun l => (List.map (fun (x : Nat × AnnKind × Nat) => x.2.2) l).sum) (List.filter_congr fun x hx => ?_)
  obtain ⟨j, kind, c⟩ := x
  cases hkind : kind == .present with
  | false => rfl
  | true =>
    have hany : (bktOf s b).anns.any (fun y => y.1 == j && y.2.1 == .present) = true :=
      List.any_eq_true.2 ⟨_, hx, by simpa using hkind⟩
    simpa using hany

/-- Settles O37. A tag is the lowest free one of the stream's own range, then of the shared one; each row is its body on the stream that
took it. -/
theorem sealsTagsAndContributions : Obligations.SealsTagsAndContributions := by
  unfold Obligations.SealsTagsAndContributions
  refine ⟨fun n q w i s h hq hours hopen htag => execBopen_takes h hq hours hopen htag,
    fun n q w s h hq => ⟨execBopen_foreign h hq, execBopen_completed h hq⟩, fun s q i => pickTag_lowest,
    fun n q w0 w1 w2 s b h hq hval htag => ?_, fun n q s => tagWaitDiag_counts, fun s b htimer hroot => ?_,
    fun s b hlive => ⟨sealOf_length s b, fun i => sealOf_bit hlive, sealOf_failed s b, sealOf_total b hlive⟩,
    fun s b htimer hopen hrun => ?_, fun s htimer hrun => ⟨missingRecord s, need_next rfl (by rw [htimer, hrun]; rfl) _⟩⟩
  · have hb : Contributes n q w0 s b := ⟨hval, htag⟩
    exact ⟨execBcontrib_beyond h hq hb, execBcontrib_closed h hq hb, execBcontrib_full h hq hb, execBcontrib_appends h hq hb⟩
  · exact need_next rfl (by rw [htimer, hroot]; rfl) _
  · exact need_next rfl (by rw [htimer, hopen, hrun]; rfl) _

end Sys2Proof.Machine
end

section
/-! The register map (18): accesses to register space by the host and the debug port, holes, RW-K fields in use, and halves (R365 to R370). -/

namespace Sys2Proof.Machine

open Sys2Proof

/-! ## The host's accesses (14 R284) -/

theorem host_write {req : BitVec 16} {off size : Nat} {s : State} (h : PortOpen s) (hok : bar0Ok off size = true) (v : Word) :
    regWrite (.host req) off size v s = spaceWrite (.host req) off size v (countIn size s) :=
  (hostArrive_regWrite h).trans (if_neg (by rw [hok]; decide))

theorem host_read {req : BitVec 16} {off size : Nat} {s : State} (h : PortOpen s) (hok : bar0Ok off size = true) :
    regRead (.host req) off size s = emit (.compl .ok (bytesOf size (spaceRead (.host req) off size (countIn 0 s)).2.toNat))
      (spaceRead (.host req) off size (countIn 0 s)).1 :=
  (hostArrive_regRead h).trans (if_neg (by rw [hok]; decide))

theorem host_write_unsupported {req : BitVec 16} {off size : Nat} {s : State} (h : PortOpen s) (hbad : bar0Ok off size = false) (v : Word) :
    regWrite (.host req) off size v s = hostEv 0xB8 req off 0 (countIn size s) :=
  (hostArrive_regWrite h).trans (if_pos (by rw [hbad]; rfl))

theorem host_read_unsupported {req : BitVec 16} {off size : Nat} {s : State} (h : PortOpen s) (hbad : bar0Ok off size = false) :
    regRead (.host req) off size s = emit (.compl .unsupported []) (hostEv 0xB8 req off 0 (countIn 0 s)) :=
  (hostArrive_regRead h).trans (if_pos (by rw [hbad]; rfl))

/-! ## The debug port's accesses (16 R340, R341) -/

/-- Above level 0 the debug port reaches every offset of register space outside the DBG block and its window. -/
theorem reach_space {s : State} {off : Nat} (h8 : off % 8 = 0) (hend : regBase + off < regEnd) (hout : inDbg off = false) (h : PortServed s)
    (hlevel : s.dbg.level ≠ 0) (w : Bool) : reach s (regBase + off) w = .reg off := by
  obtain ⟨hblock, hwin⟩ := Bool.or_eq_false_iff.mp hout
  have hopen : (s.dbg.level == 0) = false := by simpa using hlevel
  rw [reach_regs h8 hend h, if_neg (by rw [hopen, Bool.false_and]; decide), if_neg (by rw [hblock]; decide), if_neg (by rw [hwin]; decide)]

theorem debug_write {s : State} {off : Nat} (h8 : off % 8 = 0) (hend : regBase + off < regEnd) (hout : inDbg off = false) (h : PortServed s)
    (hlevel : s.dbg.level ≠ 0) (v : Word) : regWrite .debug off 8 v s = answered 0 0 (spaceWrite .debug off 8 v (scanned s)) := by
  show dbgWrite (regBase + off) v (scanned s) = _
  unfold dbgWrite
  rw [reach_space (s := scanned s) h8 hend hout h hlevel]

theorem debug_read {s : State} {off : Nat} (h8 : off % 8 = 0) (hend : regBase + off < regEnd) (hout : inDbg off = false) (h : PortServed s)
    (hlevel : s.dbg.level ≠ 0) : regRead .debug off 8 s =
      answered 0 (spaceRead .debug off 8 (scanned s)).2 (spaceRead .debug off 8 (scanned s)).1 := by
  show dbgRead (regBase + off) (scanned s) = _
  unfold dbgRead
  rw [reach_space (s := scanned s) h8 hend hout h hlevel]

/-- An access of 8 bytes that the port does not take answers its status and does nothing else. -/
theorem debug_refused {s : State} {off : Nat} {k : BitVec 4} (h : ∀ w, (reach (scanned s) (regBase + off) w).refusal = some k) (v : Word) :
    ∀ c ∈ [Instr.registerWrite .debug off 8 v, .registerRead .debug off 8], exec c s = .next (answered k 0 (scanned s)) := by
  simp only [List.forall_mem_cons]
  exact ⟨congrArg Host.Outcome.next (dbgWrite_refused v (h true)), congrArg Host.Outcome.next (dbgRead_refused (h false)), List.forall_mem_nil _⟩

theorem debug_busy {s : State} {off : Nat} (h8 : off % 8 = 0) (hend : regBase + off < regEnd) (h : ¬ PortServed s) (w : Bool) :
    reach (scanned s) (regBase + off) w = .busy := by
  refine reach_busy (s := scanned s) ?_ ?_ h w
  · unfold regBase; omega
  · rw [regionOf_regs (Nat.le_add_right regBase off) hend]; decide

/-- An access of another size than 8 bytes answers status 3, whatever it names (log entry 43). -/
theorem debug_size {size : Nat} (hsize : size ≠ 8) (off : Nat) (v : Word) (s : State) :
    ∀ c ∈ [Instr.registerWrite .debug off size v, .registerRead .debug off size], exec c s = .next (answered 3 0 (scanned s)) := by
  have hother : ¬ (size == 8) = true := by simpa using hsize
  have hwrite : regWrite .debug off size v s = answered 3 0 (scanned s) := by
    unfold regWrite
    dsimp only
    rw [if_neg hother]
    rfl
  have hread : regRead .debug off size s = answered 3 0 (scanned s) := by
    unfold regRead
    dsimp only
    rw [if_neg hother]
    rfl
  simp only [List.forall_mem_cons]
  exact ⟨congrArg Host.Outcome.next hwrite, congrArg Host.Outcome.next hread, List.forall_mem_nil _⟩

/-! ## Registers and holes (18 R365, R366, R370) -/

section
variable {who : Who} {off size : Nat} {v : Word} {s : State} {r : Reg}

theorem write_inUse (hoff : off < 0x02000000) (hout : inDbg off = false) (hr : regAt s (off / 8 * 8) = some r) (huse : r.inUse = true)
    (htouch : ∃ p ∈ r.locks, ({ who := who, off := off / 8 * 8, mask := accMask off size, data := accData off size v } : Wr).touches p.1 p.2 = true) :
    ignoredOnly { who := who, off := off / 8 * 8, mask := accMask off size, data := accData off size v } 1 s (spaceWrite who off size v s) := by
  rw [space_write hoff hout, put_some hr]
  unfold rwk
  rw [huse, Bool.true_and, if_pos (List.any_eq_true.mpr htouch)]
  exact ignore_only _ 1 s

theorem write_free (hoff : off < 0x02000000) (hout : inDbg off = false) (hr : regAt s (off / 8 * 8) = some r)
    (hfree : r.inUse = false ∨ ∀ p ∈ r.locks, ({ who := who, off := off / 8 * 8, mask := accMask off size, data := accData off size v } : Wr).touches
      p.1 p.2 = false) :
    spaceWrite who off size v s = r.put { who := who, off := off / 8 * 8, mask := accMask off size, data := accData off size v } s := by
  rw [space_write hoff hout, put_some hr]
  unfold rwk
  refine if_neg ?_
  rw [Bool.and_eq_true, List.any_eq_true]
  rintro ⟨huse, p, hp, htouch⟩
  rcases hfree with hfree | hfree
  · rw [huse] at hfree; exact Bool.noConfusion hfree
  · exact absurd ((hfree p hp).symm.trans htouch) (by decide)

theorem write_hole (hoff : off < 0x02000000) (hout : inDbg off = false) (hnone : regAt s (off / 8 * 8) = none) :
    spaceWrite who off size v s = holeEv who off s := by
  rw [space_write hoff hout]
  unfold putReg
  dsimp only
  rw [hnone]

theorem read_hole (hoff : off < 0x02000000) (hout : inDbg off = false) (hnone : regAt s (off / 8 * 8) = none) :
    spaceRead who off size s = (holeEv who off s, 0) := by
  have hlow : ¬ 0x02000000 ≤ off := by omega
  unfold spaceRead
  dsimp only
  rw [(not_msix hoff).1, (not_msix hoff).2, if_neg (by decide), if_neg (by decide), if_neg hlow, hout, if_neg (by simp; omega), hnone]

theorem read_value (hoff : off < 0x02000000) (hout : inDbg off = false) (hr : regAt s (off / 8 * 8) = some r) :
    (spaceRead who off size s).2 = accPart off size r.val ∧ (off / 8 * 8 ≠ 0x7800 → (spaceRead who off size s).1 = s) ∧
      (off / 8 * 8 = 0x7800 → (spaceRead who off size s).1 = { s with time := { s.time with fracLatch := s.time.frac } }) := by
  rw [space_read hoff hout hr]
  by_cases hnow : off / 8 * 8 = 0x7800
  · rw [if_pos (by simpa using hnow)]
    exact ⟨rfl, fun hno => absurd hnow hno, fun _ => rfl⟩
  · rw [if_neg (by simpa using hnow)]
    exact ⟨rfl, fun _ => rfl, fun hno => absurd hno hnow⟩

end

/-! ## Halves (18 R366) -/

theorem low_half : ∀ i < 64, (0x00000000FFFFFFFF : Word).getLsbD i = decide (i < 32) := by decide

theorem high_half : ∀ i < 64, (0xFFFFFFFF00000000 : Word).getLsbD i = decide (32 ≤ i) := by decide

/-- A 4-byte access covers the half of its register that its offset names (log entry 36). -/
theorem accMask_four (off i : Nat) :
    (accMask off 4).getLsbD i = (decide (i < 64) && (if off % 8 = 0 then decide (i < 32) else decide (32 ≤ i))) := by
  by_cases hi : i < 64
  · rw [decide_eq_true hi, Bool.true_and]
    by_cases h8 : off % 8 = 0
    · have hmask : accMask off 4 = 0x00000000FFFFFFFF := (if_neg (by decide)).trans (if_pos (by simpa using h8))
      rw [if_pos h8, hmask, low_half i hi]
    · have hmask : accMask off 4 = 0xFFFFFFFF00000000 := (if_neg (by decide)).trans (if_neg (by simpa using h8))
      rw [if_neg h8, hmask, high_half i hi]
  · rw [decide_eq_false hi, Bool.false_and, BitVec.getLsbD_of_ge _ _ (by omega)]

/-! ## A register that reads back what was written (05 T5-9) -/

/-- DEV.GOV's base of the layer counters. -/
def lcntReg (s : State) : Reg :=
  .k s (pack [(7, s.gov.lcntBase.toNat)]) [(43, 7)] fun x t => { t with gov := { t.gov with lcntBase := x.merge t.gov.lcntBase 7 } }

theorem regAt_lcnt (s : State) : regAt s 0x1010 = some (lcntReg s) := rfl

theorem lcntBase_field (v : Word) : pack [(7, (BitVec.ofNat 37 (v.toNat >>> 7)).toNat)] = v &&& 0x00000FFFFFFFFF80 := by
  have hmask : ∀ i < 64, (0x00000FFFFFFFFF80 : Word).getLsbD i = (decide (7 ≤ i) && decide (i < 44)) := by decide
  apply BitVec.eq_of_getLsbD_eq
  intro i hi
  unfold pack
  rw [BitVec.getLsbD_and, hmask i hi, List.foldl_cons, List.foldl_nil]
  dsimp only
  rw [Nat.zero_or, BitVec.getLsbD_ofNat, decide_eq_true hi, Bool.true_and,
    Nat.testBit_shiftLeft, BitVec.toNat_ofNat, Nat.testBit_mod_two_pow, Nat.testBit_shiftRight]
  by_cases hlo : 7 ≤ i
  · rw [Nat.add_sub_cancel' hlo, show decide (i - 7 < 37) = decide (i < 44) from decide_eq_decide.mpr (by omega)]
    simp only [hlo, decide_true, Bool.true_and]
    exact Bool.and_comm _ _
  · simp [hlo]

theorem lcnt_reads_back {s : State} (h : jobLoaded s = false) (who : Who) (v : Word) :
    (spaceRead who 0x1010 8 (spaceWrite who 0x1010 8 v s)).2 = v &&& 0x00000FFFFFFFFF80 := by
  rw [space_put (by decide) (by decide) (by decide) (regAt_lcnt s) (.inl h),
    (read_value (by decide) (by decide) (regAt_lcnt _)).1]
  refine Eq.trans ?_ (lcntBase_field v)
  show pack [(7, (({ who := who, off := 0x1010, data := v } : Wr).merge s.gov.lcntBase 7).toNat)] = _
  rw [merge_full who 0x1010 v s.gov.lcntBase 7 (by decide)]

/-- Settles O49: an access is a put or the value of the register at its offset, where there is one. The half that a 4-byte write changes rests
on log entry 36; the debug port's rows as scans, its status 3 for another size and the order of its statuses on log entry 43. -/
theorem registerAccesses : Obligations.RegisterAccesses := by
  unfold Obligations.RegisterAccesses
  refine ⟨fun req off size v s h hok => ⟨congrArg Host.Outcome.next (host_write h hok v), congrArg Host.Outcome.next (host_read h hok)⟩,
    fun req off size v s h hbad => ⟨congrArg Host.Outcome.next (host_write_unsupported h hbad v),
      congrArg Host.Outcome.next (host_read_unsupported h hbad)⟩,
    fun off v s h hlevel h8 hend hout => ⟨congrArg Host.Outcome.next (debug_write h8 hend hout h hlevel v),
      congrArg Host.Outcome.next (debug_read h8 hend hout h hlevel)⟩,
    fun off v s h8 hend c hc => ⟨fun h => debug_refused (fun w => by rw [debug_busy h8 hend h]; rfl) v c hc,
      fun h h0 hfar => debug_refused (fun w => by rw [reach_denied (s := scanned s) h8 hend h h0 hfar]; rfl) v c hc⟩,
    fun off size v s hsize => debug_size hsize off v s,
    fun who off size v s r hoff hout hr => ⟨write_inUse hoff hout hr, write_free hoff hout hr⟩,
    fun who off size v s hoff hout hnone => ⟨?_, congrArg Prod.snd (read_hole hoff hout hnone)⟩,
    fun who off size s r => read_value, fun w x old lo i hi _ => merge_bit x old lo i hi, accMask_four,
    fun who v s h => lcnt_reads_back h who v⟩
  rw [write_hole hoff hout hnone]
  exact hole_form who off s

end Sys2Proof.Machine
end

section
/-! Snapshots (11): requests and arming, the fill, the header, the partner mirror and the host drain (R240 to R251, 14 R297). -/

namespace Sys2Proof.Machine

open Sys2Proof

/-! ## What a unit's read of memory leaves -/

/-- `t` is `s` but for what an event, a class and an uncorrectable line record. -/
def Noted (s t : State) : Prop := ∃ (l : Log) (n : Word) (h : List HbmStack) (c : Cmt) (r : CmtRun),
  t = { s with log := l, pci := { s.pci with cntLogLost := n }, hbm := h, cmt := c, crun := r }

theorem Noted.refl (s : State) : Noted s s := ⟨s.log, s.pci.cntLogLost, s.hbm, s.cmt, s.crun, rfl⟩

theorem Noted.trans {s t u : State} (h : Noted s t) (h' : Noted t u) : Noted s u := by
  obtain ⟨_, _, _, _, _, rfl⟩ := h
  obtain ⟨l, n, k, c, r, rfl⟩ := h'
  exact ⟨l, n, k, c, r, rfl⟩

theorem Noted.kept {s t : State} (h : Noted s t) : t.snap = s.snap ∧ t.srun = s.srun ∧ t.out = s.out ∧ t.pci.cntOutBytes = s.pci.cntOutBytes := by
  obtain ⟨_, _, _, _, _, rfl⟩ := h
  exact ⟨rfl, rfl, rfl, rfl⟩

theorem logEv_noted (a b c d e g : Nat) (s : State) : Noted s (logEv a b c d e g s) := by
  obtain ⟨l, n, h⟩ := logEv_form a b c d e g s
  exact ⟨l, n, s.hbm, s.cmt, s.crun, h⟩

theorem absentEv_noted (ag : Agent) (a : Nat) (s : State) : Noted s (absentEv ag a s) := by
  obtain ⟨l, n, h⟩ := absent_form ag a s
  exact ⟨l, n, s.hbm, s.cmt, s.crun, h⟩

theorem recordClass_noted (cls cause : Nat) (s : State) : Noted s (recordClass cls cause s) := by
  unfold recordClass
  dsimp only
  split
  · exact Noted.refl s
  split <;> exact ⟨s.log, s.pci.cntLogLost, s.hbm, _, _, rfl⟩

theorem fault_noted (a b c d e : Nat) (s : State) : Noted s (fault a b c d e s) :=
  (logEv_noted _ _ _ _ _ _ s).trans (recordClass_noted _ _ _)

theorem badRead_noted (ag : Agent) (a p : Nat) (s : State) : Noted s (badRead ag a p s) := by
  have hev (c : Nat) (u : State) : Noted u (memFaultEv ag c a u) := by
    cases ag <;> exact fault_noted _ _ _ _ _ u
  have hline : Noted s (noteUncorr p false s) := ⟨s.log, s.pci.cntLogLost, _, s.cmt, s.crun, rfl⟩
  unfold badRead
  split
  · exact hline.trans (hev _ _)
  · exact hev _ _

theorem readPiece_noted (ag : Agent) (a n : Nat) (s : State) : Noted s (readPiece ag a n s).1 := by
  unfold readPiece
  split
  · exact absentEv_noted _ _ _
  · split
    · exact badRead_noted _ _ _ _
    · exact Noted.refl s

theorem readGo_noted (ag : Agent) (fuel : Nat) : ∀ (a n : Nat) (s : State), Noted s (readGo ag fuel a n s).1 := by
  induction fuel with
  | zero => exact fun _ _ s => Noted.refl s
  | succ fuel ih =>
    intro a n s
    have hpiece := readPiece_noted ag a (min n (64 - a % 64)) s
    unfold readGo
    dsimp only
    split
    · exact Noted.refl s
    · split
      next s1 e => rwa [e] at hpiece
      next s1 bs e =>
        rw [e] at hpiece
        have hrest := hpiece.trans (ih (a + min n (64 - a % 64)) (n - min n (64 - a % 64)) s1)
        split <;> (rename_i e2; rwa [e2] at hrest)

theorem probe_noted (a n : Nat) (s : State) : Noted s (probe a n s) := readGo_noted .unit _ a n s

theorem snapEv_noted (cause slot dev w3 : Nat) (s : State) : Noted s (snapEv cause slot dev w3 s) := logEv_noted _ _ _ _ _ _ s

/-! ## Requests and arming (11 R240, R241, R248) -/

theorem armSnap_arms {s : State} (hpend : s.snap.pend = true) (hidle : s.snap.phase = 0) (harmed : s.snap.disarmed = false) :
    (armSnap s).snap.phase = 1 ∧ (armSnap s).snap.pend = false ∧ (armSnap s).snap.targetSlot = (s.snap.latestValid && !s.snap.latestSlot) := by
  unfold armSnap snapBusy
  dsimp only
  rw [if_neg (by rw [hpend]; decide), if_neg (by rw [hidle, harmed]; decide), (snapEv_noted _ _ _ _ _).kept.1]
  exact ⟨rfl, rfl, rfl⟩

theorem abandonSnap_ends {s : State} (h : s.snap.phase = 1) (again : Bool) : (abandonSnap again s).snap.phase = 0 ∧
    (abandonSnap again s).snap.pend = (s.snap.pend || again) ∧ (abandonSnap again s).srun.cntAbandon = satAdd s.srun.cntAbandon 1 := by
  unfold abandonSnap
  dsimp only
  rw [if_pos (by rw [h]; rfl), (snapEv_noted _ _ _ _ _).kept.1, (snapEv_noted _ _ _ _ _).kept.2.1]
  exact ⟨rfl, rfl, rfl⟩

/-! ## The fill (11 R243, R245) -/

theorem badIn_none {s : State} {p n : Nat} (h : ∀ l ∈ s.mem.badLines, ¬ (p < l * 64 + 64 ∧ l * 64 < p + n)) : badIn s p n = none :=
  List.find?_eq_none.2 fun l hl => by simpa using h l hl

theorem around_fillWin (s0 : State) (k : Nat) (w : Win) (s : State) : around (fillWin s0 k w s) = around s := by
  unfold fillWin
  refine (around_foldl _ (fun t x => ?_) _ _).trans rfl
  obtain ⟨a, b⟩ := x
  dsimp only
  split
  · exact around_poke _ _ t
  · rfl

theorem around_writePhysLong (p : Nat) (bs : List Byte) (s : State) : around (fillState.writePhysLong p bs s) = around s :=
  around_foldl _ (fun t _ => around_writePhys _ _ t) _ _

theorem around_fillState (s : State) : around (fillState s) = around s := by
  unfold fillState
  refine around_foldl _ (fun t x => ?_) _ _
  obtain ⟨a, n, o⟩ := x
  exact (around_writePhysLong _ _ _).trans (around_probe a n t)

theorem snap_of_around {s t : State} (h : around t = around s) : t.snap = s.snap := by
  have := congrArg State.snap h; exact this

/-- A fact about the run of a snapshot that does not speak of the bytes that the tap has counted. -/
theorem srun_of_around {α : Type} {s t : State} (h : around t = around s) (g : SnapRun → α) (hg : ∀ r : SnapRun, g { r with cntTapBytes := 0 } = g r) :
    g t.srun = g s.srun := by
  have hrun : g { t.srun with cntTapBytes := 0 } = g { s.srun with cntTapBytes := 0 } := congrArg (fun x : State => g x.srun) h
  rwa [hg, hg] at hrun

/-- The state that fills of the windows leave, with the fill counted. -/
def fillCounted (n : Nat) (s : State) : State :=
  { s with srun := { s.srun with fillDone := true, linesFilled := s.srun.linesFilled + n, cntFillLines := satAdd s.srun.cntFillLines n } }

theorem snapFill_readable {s : State} (h : WindowsReadable s) : snapFill s =
    fillState (fillCounted (winBytes s / 64 - linesOnce s) ((enWins s).foldl (fun t (k, w) => fillWin s k w t) s)) := by
  have hnone : (((enWins s).map fun (x : Nat × Win) => (x.2.copyBase s.cmt.epoch, x.2.bytes)) ++ [(4096 * s.snap.map.toNat, mapBytes s)]).findSome?
      (fun p => badIn s p.1 p.2) = none := by
    rw [List.findSome?_eq_none_iff]
    intro x hx
    rcases List.mem_append.1 hx with hx | hx
    · obtain ⟨p, hp, rfl⟩ := List.mem_map.1 hx
      exact badIn_none (h.2 p hp)
    · rw [List.mem_singleton.1 hx]
      exact badIn_none h.1
  unfold snapFill
  rw [show (((enWins s).map fun (x : Nat × Win) => (x.2.copyBase s.cmt.epoch, x.2.bytes)) ++ [(4096 * s.snap.map.toNat, mapBytes s)]).findSome?
      (fun (p, n) => badIn s p n) = none from hnone]
  rfl

theorem snapFill_counts {s : State} (hphase : s.snap.phase = 2) (h : WindowsReadable s) : (snapFill s).srun.fillDone = true ∧
    (snapFill s).snap.phase = 2 ∧ (snapFill s).srun.cntFillLines = satAdd s.srun.cntFillLines (winBytes s / 64 - linesOnce s) := by
  have hfold : around ((enWins s).foldl (fun t (k, w) => fillWin s k w t) s) = around s :=
    around_foldl _ (fun t _ => around_fillWin s _ _ t) _ _
  rw [snapFill_readable h]
  generalize (enWins s).foldl (fun t (k, w) => fillWin s k w t) s = u at hfold ⊢
  generalize winBytes s / 64 - linesOnce s = n
  have hstate := around_fillState (fillCounted n u)
  have hdone : (fillState (fillCounted n u)).srun.fillDone = true := srun_of_around hstate SnapRun.fillDone fun _ => rfl
  have hcount : (fillState (fillCounted n u)).srun.cntFillLines = satAdd u.srun.cntFillLines n :=
    srun_of_around hstate SnapRun.cntFillLines fun _ => rfl
  have hbefore : u.srun.cntFillLines = s.srun.cntFillLines := srun_of_around hfold SnapRun.cntFillLines fun _ => rfl
  have hsnap : (fillState (fillCounted n u)).snap = u.snap := (snap_of_around hstate :)
  rw [hcount, hbefore, hsnap, snap_of_around hfold]
  exact ⟨hdone, hphase, rfl⟩

/-! ## What the fill of a window leaves in its image (11 R245) -/

theorem poke_one_get {s : State} (h : s.mem.wf = true) (p : Nat) (b : Byte) (x : Nat) :
    (poke p [b] s).mem.get x = if x = p then b else s.mem.get x := Sparse.get_set h

theorem poke_one_wf {s : State} (h : s.mem.wf = true) (p : Nat) (b : Byte) : (poke p [b] s).mem.wf = true := Sparse.sets_wf h

/-- Store each listed byte whose address is of `p` at its place from `dst` as it lies from `src`. -/
def copyBytes (src dst : Nat) (p : Nat → Bool) (m : Sparse 8) (s : State) : State :=
  m.foldl (fun t (a, b) => if p a then poke (dst + (a - src)) [b] t else t) s

theorem copyBytes_get {src dst : Nat} {p : Nat → Bool} (hp : ∀ a, p a = true → src ≤ a) (i : Nat) {m : Sparse 8} :
    ∀ {lo : Option Nat} {s : State}, Sparse.okFrom lo m = true → s.mem.wf = true → (copyBytes src dst p m s).mem.get (dst + i) =
      if p (src + i) = true ∧ Sparse.get m (src + i) ≠ 0 then Sparse.get m (src + i) else s.mem.get (dst + i) := by
  induction m with
  | nil => intro lo s _ _; simp [copyBytes, Sparse.get]
  | cons x m ih =>
    intro lo s hm hs
    obtain ⟨a, b⟩ := x
    obtain ⟨-, hb, hrest⟩ := okFrom_cons.1 hm
    have hstep : copyBytes src dst p ((a, b) :: m) s = copyBytes src dst p m (if p a then poke (dst + (a - src)) [b] s else s) := rfl
    rw [hstep]
    by_cases ha : a = src + i
    · subst ha
      have hlow : Sparse.get m (src + i) = 0 := Sparse.get_low hrest le_rfl
      have hget : Sparse.get ((src + i, b) :: m) (src + i) = b := if_pos (beq_self_eq_true _)
      rw [hget]
      cases hpa : p (src + i) with
      | false =>
        rw [if_neg (by decide), ih hrest hs, hpa, if_neg (by simp), if_neg (by simp)]
      | true =>
        rw [if_pos rfl, ih hrest (poke_one_wf hs _ _), hlow, if_neg (by simp), if_pos ⟨rfl, hb⟩, poke_one_get hs, if_pos (by omega)]
    · have hget : Sparse.get ((a, b) :: m) (src + i) = Sparse.get m (src + i) := if_neg (by simpa using ha)
      rw [hget]
      cases hpa : p a with
      | false => rw [if_neg (by decide), ih hrest hs]
      | true =>
        have hsrc := hp a hpa
        have hother : ¬ dst + i = dst + (a - src) := by omega
        rw [if_pos rfl, ih hrest (poke_one_wf hs _ _), poke_one_get hs, if_neg hother]

/-- The line of byte `i` of window `k`'s image is filled: its coverage entry is not 1 (11 R245). -/
def fillsAt (s : State) (k i : Nat) : Bool := coverOf s ((imageOff s k - 4096) / 64 + i / 64) != 1

/-- The image of a window with the bytes that the fill is to write cleared. -/
def fillCleared (s0 : State) (k : Nat) (w : Win) (s : State) : State :=
  let dst := slotBase s0 s0.snap.targetSlot + imageOff s0 k
  healBy (fun l => dst ≤ l * 64 && l * 64 < dst + w.bytes && fillsAt s0 k (l * 64 - dst)) (fun _ => false) { s with mem := { s.mem with
    bytes := s.mem.bytes.filter fun x => !(dst ≤ x.1 && x.1 < dst + w.bytes && fillsAt s0 k (x.1 - dst)) } }

theorem fillWin_eq (s0 : State) (k : Nat) (w : Win) (s : State) : fillWin s0 k w s =
    copyBytes (w.copyBase s0.cmt.epoch) (slotBase s0 s0.snap.targetSlot + imageOff s0 k)
      (fun a => w.copyBase s0.cmt.epoch ≤ a && a < w.copyBase s0.cmt.epoch + w.bytes && fillsAt s0 k (a - w.copyBase s0.cmt.epoch))
      s0.mem.bytes (fillCleared s0 k w s) := rfl

theorem fillCleared_wf {s : State} (h : s.mem.wf = true) (s0 : State) (k : Nat) (w : Win) : (fillCleared s0 k w s).mem.wf = true :=
  Sparse.filter_wf h

theorem fillCleared_get (s0 : State) (k : Nat) (w : Win) (s : State) {i : Nat} (hi : i < w.bytes) :
    (fillCleared s0 k w s).mem.get (slotBase s0 s0.snap.targetSlot + imageOff s0 k + i) =
      if fillsAt s0 k i then 0 else s.mem.get (slotBase s0 s0.snap.targetSlot + imageOff s0 k + i) := by
  generalize hdst : slotBase s0 s0.snap.targetSlot + imageOff s0 k = dst
  have hget : (fillCleared s0 k w s).mem.get (dst + i) =
      if !(dst ≤ dst + i && dst + i < dst + w.bytes && fillsAt s0 k (dst + i - dst)) then s.mem.get (dst + i) else 0 := by
    subst hdst
    exact Sparse.get_filter (fun a => !(_ ≤ a && a < _ && fillsAt s0 k (a - _))) s.mem.bytes _
  rw [hget, decide_eq_true (Nat.le_add_right dst i), decide_eq_true (Nat.add_lt_add_left hi dst), Nat.add_sub_cancel_left]
  cases fillsAt s0 k i <;> rfl

theorem fillWin_get {s : State} (hwf : s.mem.wf = true) (k : Nat) {w : Win} {i : Nat} (hi : i < w.bytes) :
    (fillWin s k w s).mem.get (slotBase s s.snap.targetSlot + imageOff s k + i) =
      if coverOf s ((imageOff s k - 4096) / 64 + i / 64) = 1 then s.mem.get (slotBase s s.snap.targetSlot + imageOff s k + i)
      else s.mem.get (w.copyBase s.cmt.epoch + i) := by
  rw [fillWin_eq, copyBytes_get (fun a ha => by simp only [Bool.and_eq_true, decide_eq_true_eq] at ha; exact ha.1.1) i hwf
    (fillCleared_wf hwf s k w), fillCleared_get s k w s hi]
  rw [decide_eq_true (Nat.le_add_right _ i), decide_eq_true (Nat.add_lt_add_left hi _), Nat.add_sub_cancel_left, Bool.true_and, Bool.true_and]
  have hget : Sparse.get s.mem.bytes (w.copyBase s.cmt.epoch + i) = s.mem.get (w.copyBase s.cmt.epoch + i) := rfl
  by_cases hcover : coverOf s ((imageOff s k - 4096) / 64 + i / 64) = 1
  · have hkeeps : fillsAt s k i = false := by unfold fillsAt; rw [hcover]; rfl
    rw [if_pos hcover, hkeeps, if_neg (fun h => Bool.noConfusion h.1), if_neg (by decide)]
  · have hfills : fillsAt s k i = true := by unfold fillsAt; simpa using hcover
    rw [if_neg hcover, hfills, if_pos rfl, hget]
    by_cases hzero : s.mem.get (w.copyBase s.cmt.epoch + i) = 0
    · rw [if_neg (fun h => h.2 hzero), hzero]
    · rw [if_pos ⟨rfl, hzero⟩]

/-! ## The header (11 T11-2) -/

theorem natOf_bytesOf (k x : Nat) : natOf (bytesOf k x) = x % 256 ^ k := by
  induction k generalizing x with
  | zero => exact (Nat.mod_one x).symm
  | succ k ih =>
    have hbyte : (BitVec.ofNat 8 x).toNat = x % 256 := BitVec.toNat_ofNat x 8
    rw [bytesOf, natOf, ih, hbyte, Nat.pow_succ', Nat.mod_mul]

/-- Fuel beyond the number of bytes cuts them no further. -/
theorem chunks_fuel {k : Nat} (hk : 0 < k) (f : Nat) :
    ∀ (g : Nat) (bs : List Byte), bs.length < f → bs.length < g → chunks k f bs = chunks k g bs := by
  induction f with
  | zero => intro g bs hf; exact absurd hf (Nat.not_lt_zero _)
  | succ f ih =>
    intro g bs hf hg
    cases g with
    | zero => exact absurd hg (Nat.not_lt_zero _)
    | succ g =>
      cases bs with
      | nil => rfl
      | cons b bs =>
        have hlen : ((b :: bs).drop k).length < (b :: bs).length := by rw [List.length_drop]; exact Nat.sub_lt (Nat.succ_pos _) hk
        exact congrArg ((b :: bs).take k :: ·) (ih g _ (by omega) (by omega))

theorem wordsOf_append {x : List Byte} (hx : x.length = 8) (bs : List Byte) :
    wordsOf (x ++ bs) = BitVec.ofNat 64 (natOf x) :: wordsOf bs := by
  have hsome : ¬ (x ++ bs).isEmpty = true := by
    rw [List.isEmpty_iff, List.append_eq_nil_iff]
    rintro ⟨rfl, -⟩
    exact absurd hx (by decide)
  unfold wordsOf
  rw [chunks, if_neg hsome, List.take_left' hx, List.drop_left' hx, List.map_cons, List.length_append, hx,
    chunks_fuel (by decide) (8 + bs.length) (bs.length + 1) bs (by omega) (by omega)]

theorem wordsOf_bytesOfWords (ws : List Word) (bs : List Byte) : wordsOf (bytesOfWords ws ++ bs) = ws ++ wordsOf bs := by
  induction ws with
  | nil => rfl
  | cons w ws ih =>
    have hw : BitVec.ofNat 64 (natOf (bytesOf 8 w.toNat)) = w := BitVec.eq_of_toNat_eq (by
      have hlt := w.isLt
      rw [natOf_bytesOf, BitVec.toNat_ofNat]
      omega)
    unfold bytesOfWords at ih ⊢
    rw [List.flatMap_cons, List.append_assoc, wordsOf_append (bytesOf_length 8 _), ih, hw, List.cons_append]

theorem length_bytesOfWords (ws : List Word) : (bytesOfWords ws).length = 8 * ws.length := by
  induction ws with
  | nil => rfl
  | cons w ws ih =>
    unfold bytesOfWords at ih ⊢
    rw [List.flatMap_cons, List.length_append, bytesOf_length, ih, List.length_cons]
    omega

theorem crcBit_lt (k : Nat) : ∀ {c : Nat}, c < 2 ^ 32 → crcBit c k < 2 ^ 32 := by
  induction k with
  | zero => exact fun h => h
  | succ k ih =>
    intro c h
    rw [crcBit]
    refine ih ?_
    split
    · exact Nat.xor_lt_two_pow (by omega) (by decide)
    · omega

theorem crc32c_lt (bs : List Byte) : crc32c bs < 2 ^ 32 := by
  have hfold (c : Nat) (hc : c < 2 ^ 32) : bs.foldl (fun c b => crcBit (c ^^^ b.toNat) 8) c < 2 ^ 32 := by
    induction bs generalizing c with
    | nil => exact hc
    | cons b bs ih =>
      have hb : b.toNat < 2 ^ 32 := b.isLt.trans (by decide)
      exact ih _ (crcBit_lt 8 (Nat.xor_lt_two_pow hc hb))
  exact Nat.xor_lt_two_pow (hfold _ (by decide)) (by decide)

theorem length_headerWords (s : State) (slot v : Bool) : (headerWords s slot v).length = 10 := rfl

/-- The header is its words 0 to 9, their CRC and zeros. -/
theorem headerBytes_eq (s : State) (slot v : Bool) : headerBytes s slot v = bytesOfWords (headerWords s slot v) ++
    (bytesOf 8 (crc32c (bytesOfWords (headerWords s slot v))) ++ List.replicate 4008 0) := by
  unfold headerBytes
  dsimp only
  rw [List.length_append, length_bytesOfWords, length_headerWords, bytesOf_length, List.append_assoc]

theorem headerBytes_length (s : State) (slot v : Bool) : (headerBytes s slot v).length = 4096 := by
  rw [headerBytes_eq, List.length_append, List.length_append, length_bytesOfWords, length_headerWords, bytesOf_length, List.length_replicate]

theorem headerWord0 (s : State) (slot v : Bool) : wordAt (headerWords s slot v) 0 =
    BitVec.ofNat 64 (0x53504F52 ||| 1 <<< 32 ||| 1 <<< 40 ||| b2n v <<< 41) := rfl

/-- Magic, version and valid of a header's word 0. -/
theorem headerWord0_valid (v : Bool) : let w0 : Word := BitVec.ofNat 64 (0x53504F52 ||| 1 <<< 32 ||| 1 <<< 40 ||| b2n v <<< 41)
    field w0 31 0 = 0x53504F52 ∧ field w0 39 32 = 1 ∧ bit w0 40 = true := by
  cases v <;> decide

theorem headerBytes_valid (s : State) (slot v : Bool) : headerValid (headerBytes s slot v) = true := by
  obtain ⟨hmagic, hversion, hvalid⟩ := headerWord0_valid v
  have hlen : (bytesOfWords (headerWords s slot v)).length = 80 := by rw [length_bytesOfWords, length_headerWords]
  have hcrc := crc32c_lt (bytesOfWords (headerWords s slot v))
  have hbody : (headerBytes s slot v).take 80 = bytesOfWords (headerWords s slot v) := by
    rw [headerBytes_eq, List.take_left' hlen]
  have hwords : wordsOf ((headerBytes s slot v).take 88) =
      headerWords s slot v ++ [BitVec.ofNat 64 (natOf (bytesOf 8 (crc32c (bytesOfWords (headerWords s slot v)))))] := by
    rw [headerBytes_eq, ← List.append_assoc, List.take_left' (by rw [List.length_append, hlen, bytesOf_length]), wordsOf_bytesOfWords,
      ← List.append_nil (bytesOf 8 _), wordsOf_append (bytesOf_length 8 _), List.append_nil]
    rfl
  have hword0 : wordAt (wordsOf ((headerBytes s slot v).take 88)) 0 = wordAt (headerWords s slot v) 0 := by rw [hwords]; rfl
  have hword10 : wordAt (wordsOf ((headerBytes s slot v).take 88)) 10 =
      BitVec.ofNat 64 (natOf (bytesOf 8 (crc32c (bytesOfWords (headerWords s slot v))))) := by rw [hwords]; rfl
  have hfield : field (BitVec.ofNat 64 (natOf (bytesOf 8 (crc32c (bytesOfWords (headerWords s slot v)))))) 31 0 =
      crc32c (bytesOfWords (headerWords s slot v)) := by
    unfold field
    rw [natOf_bytesOf, BitVec.toNat_ofNat, Nat.shiftRight_zero]
    omega
  unfold headerValid
  dsimp only
  rw [hword0, hword10, hfield, hbody, headerWord0, hmagic, hversion, hvalid]
  simp only [beq_self_eq_true, Bool.and_self]

/-! ## The latest image while mirror and drain start (11 R247, R249 to R251) -/

/-- What the header write says of the latest image. -/
structure Latest where
  valid : Bool
  slot : Bool
  step : W32
  count : Word
  seq : W32

/-- The latest image of a device. -/
def latest (s : State) : Latest := ⟨s.snap.latestValid, s.snap.latestSlot, s.snap.latestStep, s.srun.cntSnap, s.srun.seq⟩

theorem latest_congr {s t : State} (hsnap : t.snap = s.snap) (hcount : t.srun.cntSnap = s.srun.cntSnap) (hseq : t.srun.seq = s.srun.seq) :
    latest t = latest s := by
  unfold latest
  rw [hsnap, hcount, hseq]

theorem latest_of_around {s t : State} (h : around t = around s) : latest t = latest s :=
  latest_congr (snap_of_around h) (srun_of_around h SnapRun.cntSnap fun _ => rfl) (srun_of_around h SnapRun.seq fun _ => rfl)

theorem latest_of_noted {s t : State} (h : Noted s t) : latest t = latest s := by
  obtain ⟨hsnap, hsrun, -, -⟩ := h.kept
  exact latest_congr hsnap (by rw [hsrun]) (by rw [hsrun])

theorem latest_txFailed (x : OutTxn) (s : State) : latest (txFailed x s) = latest s := by
  unfold txFailed
  split <;> rfl

theorem latest_place (x : OutTxn) (s : State) : latest (place x s).1 = latest s := by
  unfold place
  split
  · exact (latest_txFailed _ _).trans (latest_of_around (around_lostEv 0x94 x.txn s))
  · split <;> rfl

theorem latest_sendTxn (dst : Nat) (body : TxnBody) (o : TxOwner) (s : State) : latest (sendTxn dst body o s).1 = latest s := by
  unfold sendTxn
  split
  · split <;> rfl
  · exact latest_place _ _

theorem latest_sendWrites (dst : Nat) (o : TxOwner) (fuel : Nat) :
    ∀ (a : Nat) (bs : List Byte) (s : State), latest (sendWrites dst o fuel a bs s) = latest s := by
  induction fuel with
  | zero => exact fun _ _ _ => rfl
  | succ fuel ih =>
    intro a bs s
    unfold sendWrites
    split
    · rfl
    · exact (ih _ _ _).trans (latest_sendTxn dst _ o s)

theorem latest_sendImage (dst : Nat) (o : TxOwner) (a : Nat) (bs : List Byte) (s : State) : latest (sendImage dst o a bs s) = latest s :=
  (latest_sendWrites dst o _ a bs _).trans rfl

theorem latest_mirrorStart (slot : Bool) (s : State) : latest (mirrorStart slot s) = latest s := by
  unfold mirrorStart
  split
  · rfl
  · exact (latest_sendImage _ _ _ _ _).trans ((latest_of_noted (probe_noted _ _ _)).trans ((latest_sendImage _ _ _ _ _).trans rfl))

theorem latest_snapPhase (s : State) : latest (snapPhase s) = latest s := by
  obtain ⟨p, h⟩ := snapPhase_form s
  rw [h]
  rfl

theorem latest_drainAbandon (s : State) : latest (drainAbandon s) = latest s := by
  unfold drainAbandon
  split
  · exact (latest_snapPhase _).trans ((latest_of_noted (snapEv_noted _ _ _ _ _)).trans rfl)
  · rfl

theorem latest_probes (rs : List (Nat × Nat)) (s : State) : latest (probes rs s) = latest s := by
  unfold probes
  exact foldl_keeps latest (fun _ _ => latest_of_noted (probe_noted _ _ _)) _ _

/-- The bytes of a drain are counted, and it waits for the answer of its flushing read. -/
def drainCounted (n : Nat) (s : State) : State :=
  { s with
    srun := { s.srun with drainStage := 1, cntDrainBytes := satAdd s.srun.cntDrainBytes n }
    pci := { s.pci with cntOutBytes := satAdd s.pci.cntOutBytes n } }

theorem latest_drainCounted (n : Nat) (s : State) : latest (drainCounted n s) = latest s := rfl

theorem latest_emit (o : Out) (s : State) : latest (emit o s) = latest s := rfl

theorem latest_drainStart (slot : Bool) (s : State) : latest (drainStart slot s) = latest s := by
  unfold drainStart
  split
  · rfl
  dsimp only
  split
  · exact (latest_drainAbandon _).trans rfl
  · exact (latest_drainCounted _ _).trans ((latest_emit _ _).trans ((latest_emit _ _).trans ((latest_emit _ _).trans
      ((latest_probes _ _).trans rfl))))

/-- The image in `slot` is the latest one. -/
def asLatest (slot : Bool) (s : State) : State :=
  { s with
    snap := { s.snap with phase := 0, latestValid := true, latestSlot := slot, latestStep := s.srun.commitStep }
    srun := { s.srun with cntSnap := satAdd s.srun.cntSnap 1, seq := s.srun.seq + 1 } }

theorem asLatest_latest (slot : Bool) (s : State) :
    latest (asLatest slot s) = ⟨true, slot, s.srun.commitStep, satAdd s.srun.cntSnap 1, s.srun.seq + 1⟩ := rfl

theorem asLatest_snap (slot : Bool) (s : State) : (asLatest slot s).snap =
    { s.snap with phase := 0, latestValid := true, latestSlot := slot, latestStep := s.srun.commitStep } := rfl

theorem clearMap_keeps (s : State) : (clearMap s).snap = s.snap ∧ (clearMap s).srun = s.srun := ⟨rfl, rfl⟩

/-- The header of the image stands in its slot, and the coverage map is cleared. -/
def headed (s : State) : State :=
  clearMap (pokeLong (slotBase s s.snap.targetSlot) (headerBytes s s.snap.targetSlot s.srun.barrier) s)

theorem headed_snap (s : State) : (headed s).snap = s.snap :=
  (clearMap_keeps _).1.trans (snap_of_around (around_writePhysLong _ _ s))

theorem headed_srun {α : Type} (s : State) (g : SnapRun → α) (hg : ∀ r : SnapRun, g { r with cntTapBytes := 0 } = g r) :
    g (headed s).srun = g s.srun :=
  (congrArg g (clearMap_keeps _).2).trans (srun_of_around (around_writePhysLong _ _ s) g hg)

/-- The image in its slot is the latest one; mirror and drain are still to start. -/
def imageSealed (s : State) : State := snapEv 0x81 (b2n s.snap.targetSlot) 0 s.srun.linesFilled (asLatest s.snap.targetSlot (headed s))

theorem snapHeader_readable {s : State} (h : ImageReadable s) :
    snapHeader s = drainStart s.snap.targetSlot (mirrorStart s.snap.targetSlot (imageSealed s)) := by
  unfold snapHeader
  dsimp only
  rw [badIn_none h]
  rfl

theorem latest_imageSealed (s : State) : latest (imageSealed s) =
    ⟨true, s.snap.targetSlot, s.srun.commitStep, satAdd s.srun.cntSnap 1, s.srun.seq + 1⟩ := by
  unfold imageSealed
  rw [latest_of_noted (snapEv_noted _ _ _ _ _), asLatest_latest, headed_srun s SnapRun.commitStep fun _ => rfl,
    headed_srun s SnapRun.cntSnap fun _ => rfl, headed_srun s SnapRun.seq fun _ => rfl]

theorem imageSealed_snap (s : State) : (imageSealed s).snap =
    { s.snap with phase := 0, latestValid := true, latestSlot := s.snap.targetSlot, latestStep := s.srun.commitStep } := by
  unfold imageSealed
  rw [(snapEv_noted _ _ _ _ _).kept.1, asLatest_snap, headed_snap, headed_srun s SnapRun.commitStep fun _ => rfl]

/-- Where neither mirror nor drain is enabled the header write ends the snapshot (11 R249). -/
theorem snapHeader_idle {s : State} (h : ImageReadable s) (hmirror : s.snap.mirrorEn = false) (hdrain : s.snap.drainEn = false) :
    (snapHeader s).snap.phase = 0 := by
  have hsnap := imageSealed_snap s
  have hstart : mirrorStart s.snap.targetSlot (imageSealed s) = imageSealed s := if_pos (by rw [hsnap, hmirror]; rfl)
  have hend : drainStart s.snap.targetSlot (imageSealed s) = imageSealed s := if_pos (by rw [hsnap, hdrain]; rfl)
  rw [snapHeader_readable h, hstart, hend, hsnap]

theorem snapHeader_seals {s : State} (h : ImageReadable s) : (snapHeader s).snap.latestValid = true ∧
    (snapHeader s).snap.latestSlot = s.snap.targetSlot ∧ (snapHeader s).snap.latestStep = s.srun.commitStep ∧
    (snapHeader s).srun.cntSnap = satAdd s.srun.cntSnap 1 ∧ (snapHeader s).srun.seq = s.srun.seq + 1 := by
  have hlatest : latest (snapHeader s) = ⟨true, s.snap.targetSlot, s.srun.commitStep, satAdd s.srun.cntSnap 1, s.srun.seq + 1⟩ := by
    rw [snapHeader_readable h, latest_drainStart, latest_mirrorStart, latest_imageSealed]
  exact ⟨congrArg Latest.valid hlatest, congrArg Latest.slot hlatest, congrArg Latest.step hlatest, congrArg Latest.count hlatest,
    congrArg Latest.seq hlatest⟩

/-! ## The ends of mirror and drain (11 R249, R250, 14 R297) -/

theorem snapPhase_ends {s : State} (hphase : s.snap.phase = 3) (hmirror : s.snap.mirror ≠ 1) (hdrain : s.snap.drain ≠ 1) :
    (snapPhase s).snap.phase = 0 := by
  have hends : (s.snap.phase == 3 && s.snap.mirror != 1 && s.snap.drain != 1) = true := by
    simp only [Bool.and_eq_true, beq_iff_eq, bne_iff_ne]
    exact ⟨⟨hphase, hmirror⟩, hdrain⟩
  unfold snapPhase
  rw [if_pos hends]

/-- The mirror is abandoned: nobody waits for its writes. -/
def mirrorDropped (s : State) : State :=
  snapEv 0x84 (b2n s.snap.targetSlot) s.snap.partner.toNat 0 (dropOwner .mirror { s with
    snap := { s.snap with mirror := 3 }, srun := { s.srun with mirStage := 0, mirLost := none } })

theorem mirrorDropped_form (s : State) : ∃ L n, mirrorDropped s = { dropOwner .mirror s with
    snap := { s.snap with mirror := 3 }, srun := { s.srun with mirStage := 0, mirLost := none }
    log := L, pci := { s.pci with cntLogLost := n } } := logEv_form _ _ _ _ _ _ _

theorem dropOwner_drops (o : TxOwner) (ho : o ≠ .dropped) (s : State) : ∀ x ∈ (dropOwner o s).lnk.txns, x.owner ≠ o := by
  intro x hx
  obtain ⟨y, -, rfl⟩ := List.mem_map.1 hx
  split
  · exact Ne.symm ho
  next hy => simpa using hy

theorem mirrorAbandon_ends {s : State} (h : s.snap.mirror = 1) : (mirrorAbandon s).snap.mirror = 3 ∧
    (mirrorAbandon s).snap.drain = s.snap.drain ∧ (∀ x ∈ (mirrorAbandon s).lnk.txns, x.owner ≠ .mirror) ∧
    (s.snap.phase = 3 → s.snap.drain ≠ 1 → (mirrorAbandon s).snap.phase = 0) := by
  have habandon : mirrorAbandon s = snapPhase (mirrorDropped s) := if_pos (by rw [h]; rfl)
  obtain ⟨L, n, hdropped⟩ := mirrorDropped_form s
  have hends : s.snap.phase = 3 → s.snap.drain ≠ 1 → (snapPhase (mirrorDropped s)).snap.phase = 0 := fun hphase hdrain => by
    have hsnap : (mirrorDropped s).snap = { s.snap with mirror := 3 } := by rw [hdropped]
    exact snapPhase_ends (by rw [hsnap]; exact hphase) (by rw [hsnap]; exact (by decide : (3 : BitVec 2) ≠ 1)) (by rw [hsnap]; exact hdrain)
  obtain ⟨p, hp⟩ := snapPhase_form (mirrorDropped s)
  rw [habandon]
  refine ⟨?_, ?_, ?_, hends⟩
  · rw [hp, hdropped]
  · rw [hp, hdropped]
  · rw [hp, hdropped]
    exact dropOwner_drops .mirror (by decide) s

/-- The drain is done: the completion record goes to the host (14 R297). -/
def drainDone (a : Nat) (bs : List Byte) (s : State) : State :=
  emit (.hostWrite a bs false) { s with
    snap := { s.snap with drain := 2 }, srun := { s.srun with drainStage := 0 }
    pci := { s.pci with cntOutBytes := satAdd s.pci.cntOutBytes 64 } }

theorem drainDone_out (a : Nat) (bs : List Byte) (s : State) : (drainDone a bs s).out = s.out ++ [.hostWrite a bs false] := rfl

theorem drainDone_snap (a : Nat) (bs : List Byte) (s : State) : (drainDone a bs s).snap = { s.snap with drain := 2 } := rfl

theorem drainDone_bytes (a : Nat) (bs : List Byte) (s : State) : (drainDone a bs s).pci.cntOutBytes = satAdd s.pci.cntOutBytes 64 := rfl

/-- The completion record of a drain whose slot's header has the words `hdr`. -/
def drainRecord (hdr : List Word) : List Word :=
  [BitVec.ofNat 64 (field (wordAt hdr 2) 63 32 ||| field (wordAt hdr 2) 31 0 <<< 32),
    BitVec.ofNat 64 (field (wordAt hdr 10) 31 0), 0, 0, 0, 0, 0, 0]

theorem drainFlush_next {s : State} (hdrain : s.snap.drain = 1) (hfw : fwHalted s = false) (hstage : s.srun.drainStage = 1) :
    execDrainFlushComplete s = .next (snapPhase (snapEv 0x85 (b2n s.snap.targetSlot) 0 0
      (drainDone (4096 * s.snap.drainAddr.toNat + slotBytes s)
        (bytesOfWords (drainRecord (wordsOf (peek s (slotBase s s.snap.targetSlot) 88)))) (probe (slotBase s s.snap.targetSlot) 88 s)))) :=
  need_next rfl (by rw [hdrain, hfw, hstage]; rfl) _

theorem drainFlush_ends {s : State} (hdrain : s.snap.drain = 1) (hfw : fwHalted s = false) (hstage : s.srun.drainStage = 1) :
    ∃ t bs, execDrainFlushComplete s = .next t ∧ bs.length = 64 ∧
      t.out = s.out ++ [.hostWrite (4096 * s.snap.drainAddr.toNat + slotBytes s) bs false] ∧
      t.snap.drain = 2 ∧ t.pci.cntOutBytes = satAdd s.pci.cntOutBytes 64 ∧
      (s.snap.phase = 3 → s.snap.mirror ≠ 1 → t.snap.phase = 0) := by
  refine ⟨_, bytesOfWords (drainRecord (wordsOf (peek s (slotBase s s.snap.targetSlot) 88))), drainFlush_next hdrain hfw hstage,
    (length_bytesOfWords _).trans rfl, ?_⟩
  obtain ⟨hsnap0, -, hout0, hbytes0⟩ := (probe_noted (slotBase s s.snap.targetSlot) 88 s).kept
  generalize probe (slotBase s s.snap.targetSlot) 88 s = u at hsnap0 hout0 hbytes0 ⊢
  generalize 4096 * s.snap.drainAddr.toNat + slotBytes s = a
  generalize bytesOfWords (drainRecord (wordsOf (peek s (slotBase s s.snap.targetSlot) 88))) = bs
  obtain ⟨hsnap, -, hout, hbytes⟩ := (snapEv_noted 0x85 (b2n s.snap.targetSlot) 0 0 (drainDone a bs u)).kept
  rw [drainDone_out, hout0] at hout
  rw [drainDone_snap, hsnap0] at hsnap
  rw [drainDone_bytes, hbytes0] at hbytes
  generalize snapEv 0x85 (b2n s.snap.targetSlot) 0 0 (drainDone a bs u) = v at hsnap hout hbytes ⊢
  have hends : s.snap.phase = 3 → s.snap.mirror ≠ 1 → (snapPhase v).snap.phase = 0 := fun hphase hmirror =>
    snapPhase_ends (by rw [hsnap]; exact hphase) (by rw [hsnap]; exact hmirror) (by rw [hsnap]; exact (by decide : (2 : BitVec 2) ≠ 1))
  obtain ⟨p, hp⟩ := snapPhase_form v
  refine ⟨?_, ?_, ?_, hends⟩
  · rw [hp]; exact hout
  · rw [hp]; exact congrArg SnapReg.drain hsnap
  · rw [hp]; exact hbytes

/-- Settles O45. Each row is one update; the fill of a window is a copy, byte by byte, of the lines whose coverage entry is not 1, and
the words of a header read back as they were written. -/
theorem snapshotsSealAndDrain : Obligations.SnapshotsSealAndDrain := by
  unfold Obligations.SnapshotsSealAndDrain
  refine ⟨fun s htimer hjob => need_next rfl (by rw [htimer, hjob]; rfl) _, fun s => armSnap_arms, fun again s h => abandonSnap_ends h again,
    fun s hphase hfw hfill hread => ⟨snapFill s, need_next rfl (by rw [hphase, hfw, hfill]; rfl) _, snapFill_counts hphase hread⟩,
    fun s k w i hwf hi => fillWin_get hwf k hi, fun s hphase hfill hready hfw hread => ⟨snapHeader s, ?_, ?_⟩,
    fun s slot v => ⟨headerBytes_valid s slot v, headerBytes_length s slot v⟩,
    fun s hmirror hfw hlate => ⟨mirrorAbandon s, need_next rfl (by rw [hmirror, hfw, hlate]; rfl) _, mirrorAbandon_ends hmirror⟩,
    fun s => drainFlush_ends⟩
  · have hbarrier : (s.srun.barrier || s.srun.noWait) = true := Bool.or_eq_true_iff.2 hready
    exact need_next rfl (by rw [hphase, hfw, hfill, hbarrier]; rfl) _
  · obtain ⟨hvalid, hslot, hstep, hcount, hseq⟩ := snapHeader_seals hread
    exact ⟨hvalid, hslot, hstep, hcount, hseq, snapHeader_idle hread⟩

end Sys2Proof.Machine
end
